-- ==== Sys2Proof/Word.lean ====
section
/-! DEFINITION. The words of the Olizar Z9: bytes, 32-bit words (every record, slot and section of the manual is laid
out in 32-bit little-endian words) and 64-bit words (device time). -/

namespace Sys2Proof

/-- One byte of any memory of the Z9. -/
abbrev Byte := BitVec 8

/-- One 32-bit little-endian word of a slot, record or section (R23, R32). -/
abbrev Word := BitVec 32

/-- A 64-bit value: device time and beat counts (R41, R65). -/
abbrev Dword := BitVec 64

end Sys2Proof
end

