-- ==== Sys2Proof/Syntax.lean ====
section
/-! DEFINITION. The commands of the block: one constructor of Instr for each row of spec/opcode_table.json, with the
operands the row's rules give it. An operand holds what comes from OUTSIDE the Z9 when the step happens: a slot's words
as fetched, a frame as received, a pin or analogue reading, a regulator's answer. -/

namespace Sys2Proof

/-- The rails that AON monitors (R384), coded as SUBJECT codes them (R423). -/
inductive Rail where
  | array | ctrl | aon | vio
  deriving DecidableEq, Repr, Inhabited

/-- The two PCIe functions (R10, R29). -/
inductive Fn where
  | f0 | f1
  deriving DecidableEq, Repr, Inhabited

/-- A ring port (R331). -/
inductive Side where
  | east | west
  deriving DecidableEq, Repr, Inhabited

/-- The wake sources of R165 and R374. -/
inductive WakeSource where
  | rtc | bell | wakeN | rwakeIn | vwake
  deriving DecidableEq, Repr, Inhabited

/-- The two reasons a wake fails (R379). -/
inductive WakeFailure where
  | avsFail | refFail
  deriving DecidableEq, Repr, Inhabited

/-- Why a core fault is raised by an output-block check (R413). -/
inductive BlockCheck where
  | datapath | residue
  deriving DecidableEq, Repr, Inhabited

/-- The memories of R328, coded as SUBJECT codes them (R423). -/
inductive Memory where
  | coreStore | dram | retention | ctrl | bell | window
  deriving DecidableEq, Repr, Inhabited

/-- The voltages in mV of conversions A, B and C of one strap pin (R15). -/
structure StrapSample where
  a : Nat := 0
  b : Nat := 0
  c : Nat := 0
  deriving DecidableEq, Repr, Inhabited

/-- One response subframe of AVSBus (R362, R363): whether it passes its CRC, its SlaveAck, and the voltage in mV that it
carries. An absent target answers with all ones. -/
structure AvsResponse where
  crcOk : Bool := true
  ack   : BitVec 2 := 0
  data  : Nat := 0
  deriving DecidableEq, Repr, Inhabited

/-- What stops a swap: a read-back that fails twice (R397), or the supplies, as the log is erased or its header written, as
a step runs, or after so many bytes of its entry (R398, R407). -/
inductive SwapCause where
  | readBack
  | cutHeader
  | cutStep
  | cutEntry (bytes : Nat)
  deriving DecidableEq, Repr, Inhabited

/-- A swap that stops after so many steps of this boot have been verified. -/
structure SwapStop where
  steps : Nat := 0
  why   : SwapCause := .readBack
  deriving DecidableEq, Repr, Inhabited

/-- What a boot meets outside the Z9: the seven strap pins in the order NODE_ID_HI, NODE_ID_LO, RING_ROLE, HOST_CFG,
BOOT_SEL, PWR_CLASS, SENSE_CFG (R13), the responses to the status reads of rail selects 0 and 1, round by round (R363),
whether each flash write that the boot makes verifies (R394), and where its swap stops, if it does. -/
structure BootEnv where
  straps  : List StrapSample := []
  avs     : List (AvsResponse × AvsResponse) := [({}, {})]
  flashOk : Bool := true
  swap    : Option SwapStop := none
  deriving DecidableEq, Repr, Inhabited

/-- What a wake meets: an uncorrectable error in the retention SRAM (R377), the boot environment of a fresh boot, and
which held frame records, counted from the oldest as 0, fail their CRC at the barrier (R45, R76); corrections in the
retention SRAM as a wake from SLEEP reads it, and in Bell's stores as a beat is inferred (R328, R428). -/
structure WakeEnv where
  retentionBad : Bool := false
  flashOk      : Bool := true
  heldBad      : List Nat := []
  retentionFixed : Nat := 0
  bellFixed    : Nat := 0
  deriving DecidableEq, Repr, Inhabited

/-- The 32 words of a submission slot as the Z9's fetch returns them (R28, R32), and whether the fetch met an
uncorrectable error (R328) and corrected ones (R307). Where the ring is in device DRAM, the words are those of DRAM instead. -/
structure Slot where
  words : List Word := []
  bad   : Bool := false
  fixed : Nat := 0
  deriving DecidableEq, Repr, Inhabited

/-- One frame as it arrives at a port (R336), its CRC already right; and how many single-bit errors the DRAM reads that it
causes here meet (R307). -/
structure Frame where
  type    : Nat := 0
  dst     : Nat := 0
  src     : Nat := 0
  hops    : Nat := 0
  vc      : Nat := 0
  /-- DIR: false EAST, true WEST. -/
  west    : Bool := false
  crossed : Bool := false
  lseq    : Nat := 0
  tag     : Nat := 0
  addrHi  : Nat := 0
  param   : Word := 0
  payload : List Byte := []
  fixed   : Nat := 0
  /-- CRC-32 over header and payload as sent (R336). -/
  crc     : Word := 0
  deriving DecidableEq, Repr, Inhabited

/-- What step 3 of a training finds: the lanes that pass in both directions, and those whose polarity is inverted, bit n for
lane n (R332, R333). -/
structure LaneTest where
  pass     : Nat := 0xFF
  inverted : Nat := 0
  deriving DecidableEq, Repr, Inhabited

/-- The configuration space of functions 0 and 1 as the host's configuration requests have left it, where it differs from
that after a fundamental reset, and the link's width and equalisation (R365, R366); the manual gives no layout. -/
structure PcieCfg where
  fn0   : List Byte := []
  fn1   : List Byte := []
  width : Nat := 0
  eq    : List Byte := []
  deriving DecidableEq, Repr, Inhabited

/-- What one channel's input does over a stream beat, in volts referred to the channel input and in ticks. -/
structure ChannelSample where
  /-- The integral of |y| of each of the 16 taps over the beat, in V × ticks (R60). -/
  areas : List Rat := []
  /-- Codes by which each tap's conversion departs from the ideal E, within the limits of R462. -/
  errs : List Int := []
  /-- The largest |x|, and the codes by which its conversion departs from the ideal (R63, R462). -/
  peak : Rat := 0
  peakErr : Int := 0
  /-- The largest |input| ahead of the gain stage (R50). -/
  input : Rat := 0
  /-- The turning points of x in order (R64), and H over its nominal value (R462). -/
  turns : List Rat := []
  hyst : Rat := 1
  /-- The bias source was at its limit (R49). -/
  bias : Bool := false
  deriving DecidableEq, Repr, Inhabited

/-- What a unit in measure mode gives at a measurement beat (R128): the values of both integrators of each tap, the
peak, the signed integral of x (in codes of R60), the flags that reject a window (R129), and, for the spare's gain
pass, the live band values of channel c (R133). -/
structure MeasSample where
  taps   : List Nat := []
  pairs  : List Nat := []
  peak   : Nat := 0
  signed : Int := 0
  clip   : Bool := false
  bias   : Bool := false
  live   : List Nat := []
  deriving DecidableEq, Repr, Inhabited

/-- Where a power failure cuts a store of the calibration record short (R146): after so many bytes of the erase or of the
programming, or before the comparison ends. -/
inductive StoreCut where
  | erase (bytes : Nat)
  | program (bytes : Nat)
  | compare
  deriving DecidableEq, Repr, Inhabited

/-- Names a piece: the graph by the slot that posted it (0 to 1023; cascade graphs from 1024 upward), the task's
index and the piece's number. -/
structure PieceRef where
  graph : Nat := 0
  task  : Nat := 0
  piece : Nat := 0
  deriving DecidableEq, Repr, Inhabited

/-- What a completing piece met outside the logic: the bytes a host window returned to a MOVE, the device addresses at
which a read found an uncorrectable error (R328), corrections per memory and on the DRAM links (R175, R307, R428), an uncorrectable error in what the piece
read of its core's store, and those in CTRL: of stream entries, and in other scheduler state (R328); and the bytes, by
device address, that timing errors which the shadow latches do not detect leave in the task's outputs (R238). -/
structure PieceEnv where
  hostData : List Byte := []
  bad      : List Nat := []
  csFixed  : Nat := 0
  dramFixed : Nat := 0
  ctrlFixed : Nat := 0
  linkFixed : Nat := 0
  csBad    : Bool := false
  streamBad : List Nat := []
  schedBad : Bool := false
  slips    : List (Nat × Byte) := []
  deriving DecidableEq, Repr, Inhabited

/-- What update traffic meets outside this node's own rules: whether a flash write that the step makes verifies (R394);
RESTART of the activation whose ACTIVATE passes, which the frame does not carry (R401, R402); that no member of TARGET is
any more in PENDING, SWAPPING, TRIAL, REVERT_PENDING or REVERTING (R403), and that targeted members hold differing
ACTIVE_HASH (R404), which no frame carries either. -/
structure RollEnv where
  flashOk : Bool := true
  restart : Bool := false
  settled : Bool := false
  mixed   : Bool := false
  deriving DecidableEq, Repr, Inhabited

/-- How the AVSBus target answers a rail change (R244, R245, R363): the responses to the voltage write and its repeats, and,
where none of them acknowledges, to the voltage read and to the write of the M0 voltage. -/
structure AvsReply where
  write : List AvsResponse := [{}]
  read  : List AvsResponse := []
  m0    : List AvsResponse := [{}]
  deriving DecidableEq, Repr, Inhabited

/-- The array cycles that one class of one graph ran at M1 to M3 in the window that ends (CYC of R239). -/
structure ClassCycles where
  graph : Nat := 0
  cls   : Nat := 0
  cyc   : Nat := 0
  deriving DecidableEq, Repr, Inhabited

/-- The commands: one constructor for each row of spec/opcode_table.json, in the table's order. -/
inductive Instr where
  | aonPowerOn
  | vddAonLoss
  | resetNRise (env : BootEnv)
  | resetHoldEnd (env : BootEnv)
  | resetNFall
  | supplyReset (rail : Rail) (mv : Nat)
  | supplyResetReboot (env : BootEnv)
  | supplyDip (rail : Rail) (mv : Nat)
  | dipEnd
  | perstNAssert
  | perstNRise
  | motionChange (level : Bool)
  | updLockChange (level : Bool)
  | vwakeAccept (env : WakeEnv)
  | vbatSenseConversion (code : BitVec 10)
  | vsenseHvLoss
  | vsenseHvLow (mv : Nat)
  | vsenseHvRestored (mv : Nat)
  | doorbellWrite (fn : Fn) (value : Word)
  | bar0IgnoredWrite (fn : Fn) (offset : BitVec 12) (value : Word)
  | slotUnknownKind (slot : Slot)
  | graph (slot : Slot)
  | graphCheck (fixed : Nat)
  | budget (slot : Slot)
  | powerSetPlevel (slot : Slot)
  | powerSleep (slot : Slot) (wakeNLow : Bool)
  | powerDeep (slot : Slot) (wakeNLow : Bool)
  | powerOff (slot : Slot) (wakeNLow : Bool)
  | powerSenseOff (slot : Slot)
  | powerSenseOn (slot : Slot)
  | domainDrainEnd
  | entryComplete (env : WakeEnv)
  | updateChunkData (slot : Slot) (hostData : List Byte) (env : RollEnv)
  | updateChunkRoll (slot : Slot)
  | updateChunkDiscard (slot : Slot) (env : RollEnv)
  | updateActivate (slot : Slot) (env : RollEnv)
  | updateConfirm (slot : Slot) (env : RollEnv)
  | eventPost (slot : Slot)
  | calibrate (slot : Slot)
  | streamOpen (slot : Slot)
  | streamClose (slot : Slot)
  | streamReset (slot : Slot)
  | streamSwapOut (slot : Slot)
  | streamSwapIn (slot : Slot)
  | streamQuery (slot : Slot)
  | healthReadPage (slot : Slot)
  | healthReadLog (slot : Slot)
  | healthReadAck (slot : Slot)
  | syncSync (slot : Slot)
  | syncStart (slot : Slot)
  | syncStop (slot : Slot)
  | syncSelect (slot : Slot)
  | timeRead (slot : Slot)
  | timeSet (slot : Slot)
  | timeStep (slot : Slot)
  | timeAlarmSet (slot : Slot)
  | timeAlarmClear (slot : Slot)
  | timeBeatTimeout
  | beatBoundary (samples : List ChannelSample) (barrierOk : Bool)
  | timeCopyCheck (diff : Int)
  | channelSettled (channel : Nat)
  | halfbandSample (chain : Nat) (bits : Word)
  | spikeQuietReturn (chain : Nat)
  | rawFilterSample (chain : Nat)
  | fadeEnd (chain : Nat)
  | muffleEnd (chain : Nat)
  | thresholdRise (chain : Nat)
  | thresholdFall (chain : Nat)
  | rawBlockClose (chain : Nat) (barrierOk : Bool)
  | chainReset (chain : Nat)
  | beatEdge
  | measurementBeat (sample : MeasSample)
  | channelStuck
  | calPhaseSettled
  | calTakeover
  | calHandback
  | calTimeout
  | calRevertEnd
  | calStore (verify1 : Bool) (verify2 : Bool) (cut : Option StoreCut)
  | bellScores (eccBad : Bool) (env : WakeEnv)
  | verdictTimeout
  | rwakeInAccept (env : WakeEnv)
  | rwakeOutPulseEnd
  | rwakeQuietEnd
  | wakeNAccept (env : WakeEnv)
  | rtcAlarm (env : WakeEnv)
  | wakeFail (source : WakeSource) (why : WakeFailure)
  | idleEntry
  | islandGate (core : Nat)
  | railChangeComplete (reply : AvsReply)
  | accountSlot (temps : List Int)
  | thermalClockEnd
  | thermalTripEnd
  | escalationWindow (cycles : List ClassCycles)
  | pieceComplete (ref : PieceRef) (env : PieceEnv)
  | bellCommitStored (ref : PieceRef) (verified : Bool) (fixed : Nat)
  | waitComplete (ref : PieceRef)
  | waitTimeout (ref : PieceRef)
  | genWaitTimeout (ref : PieceRef)
  | streamCopyComplete (stream : Nat) (bad : Bool) (fixed : Nat)
  | shadowReplay (core : Nat) (repeated : Bool)
  | replayAbandon (core : Nat)
  | sequencerStall (core : Nat)
  | coreFault (core : Nat) (check : BlockCheck)
  | coreFaultCopyDone (core : Nat) (badTiles : List Nat) (fixed : Nat)
  | probeOverdue (core : Nat)
  | probeSliceComplete (core : Nat) (matched : Bool) (fixed : Nat)
  | dramScrub (fixed : Nat) (badLines : List Nat)
  | healthLogWrite
  | linkUp (side : Side) (width : Nat) (test : LaneTest)
  | linkTrainTimeout (side : Side)
  | linkRetry (side : Side)
  | retrain (side : Side) (width : Option Nat) (test : LaneTest)
  | frameCrcFail (side : Side) (inverted : Bool) (copy : Option Frame)
  | linkAckTimer (side : Side)
  | linkAck (side : Side) (frame : Frame)
  | linkNak (side : Side) (frame : Frame)
  | ident (side : Side) (node : Nat) (theirSide : Side) (width : Nat) (role : Nat)
  | unknownFrame (side : Side) (frame : Frame)
  | rollCall (side : Side) (frame : Frame)
  | formationEnd (rttNs : Nat) (env : RollEnv)
  | agreementTimer (env : RollEnv)
  | winUnit (side : Side) (frame : Frame)
  | winUnitTimeout
  | winCopyReq (side : Side) (frame : Frame)
  | winCopyData (side : Side) (frame : Frame)
  | putData (side : Side) (frame : Frame) (last : Bool)
  | putAck (side : Side) (frame : Frame)
  | getReq (side : Side) (frame : Frame)
  | getData (side : Side) (frame : Frame)
  | doorbellFrame (side : Side) (frame : Frame)
  | exchNak (side : Side) (frame : Frame)
  | exchTimeout (ref : PieceRef)
  | bootReq (side : Side) (frame : Frame)
  | bootData (side : Side) (frame : Frame)
  | ringBootTimeout
  | rollData (side : Side) (frame : Frame) (env : RollEnv)
  | rollOffer (side : Side) (frame : Frame)
  | rollHave (side : Side) (frame : Frame)
  | rollNeed (side : Side) (frame : Frame)
  | rollRefuse (side : Side) (frame : Frame) (env : RollEnv)
  | rollStaged (side : Side) (frame : Frame)
  | rollActivate (side : Side) (frame : Frame) (env : RollEnv)
  | rollAgree (side : Side) (frame : Frame) (env : RollEnv)
  | rollVerdict (side : Side) (frame : Frame) (env : RollEnv)
  | rollConfirm (side : Side) (frame : Frame) (env : RollEnv)
  | rollClose (side : Side) (frame : Frame) (env : RollEnv)
  | rollTimeout
  | activationRestart (env : BootEnv)
  | rvyIdent
  | rvyStatus
  | rvyRead (addr : Word) (count : Nat)
  | rvyWren
  | rvyErase4k (addr : Word)
  | rvyErase64k (addr : Word)
  | rvyProgram (addr : Word) (data : List Byte)
  | rvyUnknownOpcode (opcode : Byte)
  | linkLoss (side : Side)
  | pcieLinkUp (cfg : PcieCfg)
  | pcieLinkDown
  | probeDue (core : Nat)
  | islandReady (group : Nat)
  | clockSwitch
  | saveBegins
  | loaderFlashWorkDone (ok : Bool)
  | recoveryPortOpen
  deriving DecidableEq, Repr

end Sys2Proof
end

