-- ==== Sys2Proof/Decode.lean ====
section
/-! DEFINITION. The table words of the block: no row of spec/opcode_table.json gives bits, so no word spells a command.
A submission slot's words are read by Machine/Operands.lean. -/

namespace Sys2Proof

/-- The command that a word of nbits bits spells by the table's bits. Every row of spec/opcode_table.json has an empty
list of fields and no fixed bits, so no word spells one. -/
def decodeTableWord (_nbits _w : Nat) : Option Instr := none

end Sys2Proof
end

