-- ==== Sys2Proof/Machine/State.lean ====
section
/-! DEFINITION. The state of the Z9 as plain data: every register, buffer, queue, counter, latch and memory the manual
gives it, in the chapters' order. Each field ends with the rule that names it, its width and its value at reset, in
square brackets. State.reset is the machine right after the power-on of VDD_AON (R368, R440): AON's latches, the device
time and the retention SRAM are empty as R368 says; a field of a domain that is still unpowered holds zero or empty
(DESIGN CHOICE, log 2) until a boot writes it. -/

namespace Sys2Proof.Machine

/-! ## Memories -/

/-- A memory: address and byte pairs, addresses strictly rising, no entry equal to what an unlisted address reads as. -/
abbrev Mem := List Host.Cell

/-- The memories that a write can reach. -/
inductive Space where
  | dram | coreStore | window | flash | host
  deriving DecidableEq, Repr, Inhabited

/-- One write of a command: bytes from an address upward. -/
structure Write where
  space : Space
  addr  : Nat
  bytes : List Byte
  deriving DecidableEq, Repr, Inhabited

/-- What the memories lose when a boot marks granules fresh and the cores' stores lose power (R308, R357): DRAM outside
the kept ranges, every core store, and the window replica unless it is kept. -/
structure Wipe where
  keep : List (Nat × Nat) := []
  window : Bool := false
  deriving DecidableEq, Repr, Inhabited

/-- The memories. -/
structure Mems where
  /-- General DRAM and the system reserved range. An unlisted byte reads 0, as a fresh granule does.
  [R304, R308; 62 GiB of bytes; empty (every granule fresh), R308] -/
  dram : Mem := []
  /-- Core stores, as far as they hold stream slot pairs. An unlisted byte reads 0.
  [R304, R306; 128 MiB of bytes; DESIGN CHOICE empty, log 2] -/
  coreStore : Mem := []
  /-- The node's replica of the coherent window. [R324, R327; 16 MiB of bytes; empty (zero at every boot), R327] -/
  window : Mem := []
  /-- The NOR flash. An unlisted byte reads 0xFF, erased. [R393; 64 MiB of bytes; DESIGN CHOICE empty (erased), log 6] -/
  flash : Mem := []
  /-- What the Z9 has written over PCIe, at function × 2^64 + bus address; an unlisted byte was never written by the Z9.
  [R28, R304, R323; bytes; DESIGN CHOICE empty, log 7] -/
  host : Mem := []
  deriving DecidableEq, Repr, Inhabited

/-! ## Why a step could stop -/

/-- The machine's faults. No meaning raises one: every condition the manual describes has an outcome there. -/
inductive Fault where
  /-- R457: the device is operated outside the conditions of R458 and has no specified behaviour. No command carries
  such a condition, so no meaning raises this; safe. -/
  | outsideOperatingConditions
  deriving DecidableEq, Repr

/-- The machine's refusals. -/
inductive Refusal where
  /-- The command has no meaning yet. Raised only by an arm of exec; safe. -/
  | notModelled (mnemonic : String)
  deriving DecidableEq, Repr

/-! ## Names -/

/-- The DETAIL names of the manual (R35). R424 gives codes to those of EVENT_HEALTH; the others have names only. -/
inductive Detail where
  | none
  | coreFault | coreConfirmed | coreRetired | noCores
  | eccStorm | eccUncorrected | eccScrub | retentionEcc | bellEcc
  | supplyWarn | avsMargin | avsMarginFail | thermalClock
  | ringReform | ringWiring | linkDown | linkWidth | ringTwoHeads | ringOverBudget | ringShort | ringDupId
  | timeDrift | frameAccess | rawAccess | bellCommitRefused | bellStoreFail | sensorLost
  | doorbellReject | logLost
  | rawOff | chainDisabled | syncLate | responseNotAllowed
  | calTimeout | stuck | spareStuck | calLimit | calStoreFail | calRecordStale | senseOff | calBusy
  | bellWake | rwakeWake | bellFire | verdictStale | verdictTimeout | graphFailed
  | scaleIndex | scaleCheck | scaleValue | sat | gradNonfinite
  | streamOpen | streamFree | notOwner | streamBusy | homeAccess
  | staleGeneration | genWait | notOpen | stateLost | length | shape
  | waitTimeout | tableRead | header | cls | graphLimit | longTasks | tensor | task | outsideArena
  | tensorAccess | pieceEnergy | adapter | arenaSize | arenaOverlap | move | moveAccess | exchange
  | quotasInvalid | quotaMax | accessRuntime
  | peerAbsent | noRoute | ringForming | remoteAccess | doorbellRemote | remoteEcc | exchTimeout
  | avsFail | refFail | powerBusy | busy | wakeNLow | sqNotKeep | sqNotKept
  | entryAbort | cascadeCheck | cascadeNotKept | hostWake | rtcAlarm | vehicleWake | beatTimeout
  | thermalTrip | clockHeld | notHead | motion | updLock | vbatLow | chunkOrder | chunkAccess
  | notStaged | rollTimeout | rollBroken | activationOpen | ringBooted | notAgreed
  | manifest | signature | partHash | image
  | settingsUnreadable | swapDeferred | unconfirmed | reverted | agreePass | agreeFail | activeCorrupt
  | recoveryRejected | ringMixed | bootRecordFail | logAccess | pcieDown
  deriving DecidableEq, Repr, Inhabited

/-- The status codes of R36. -/
inductive Status where
  | done | doneLate | doneDegraded | doneSupplyWarn
  | refusedAccess | refusedFormat | refusedTooLarge | refusedState | refusedBudget
  | failEcc | failScaleSkew | failCore | failDomainOff | failStream | failLink | failTimeout
  | eventSat | eventThermal | eventWake | eventThreshold | eventCal | eventHealth | eventUpdate
  deriving DecidableEq, Repr, Inhabited

/-- The device states of R9 and R357. -/
inductive DevState where
  | off | recovery | active | idle | sleep | deep
  deriving DecidableEq, Repr, Inhabited

/-- The causes of RECOVERY of R409, in the order of their codes. -/
inductive Cause where
  | bootSel | strapInvalid | strapUnstable | strapConflict | imageInvalid | avsFail | ringBootFail | wakeFail | swapFail
  deriving DecidableEq, Repr, Inhabited

/-! ## The image in force -/

/-- The SYSTEM section (R25). -/
structure SystemSec where
  sqInDram : Bool := false
  sris     : Bool := false
  sqBase   : Nat := 0
  vbatMin  : Nat := 0
  permLo   : Word := 0
  permHi   : Word := 0
  deriving DecidableEq, Repr, Inhabited

/-- One region of the access tables (R314). -/
structure Region where
  base : Nat
  size : Nat
  perm : Word
  deriving DecidableEq, Repr, Inhabited

/-- The ACCESS section (R314), or the fall-back of R315. -/
structure AccessSec where
  deepKeep  : Nat := 0
  poolBase  : Nat := 0
  poolBytes : Nat := 0
  regions   : List Region := []
  deriving DecidableEq, Repr, Inhabited

/-- One channel's entry of the CHANNELS section (R78). -/
structure ChannelCfg where
  mode : Nat := 0
  gain : Nat := 0
  bias : Nat := 0
  vibration : Bool := false
  stream : Nat := 0
  xingDiv : Nat := 0
  xingHyst : Nat := 0
  dc : Bool := false
  sensorType : Nat := 0
  tapEn : Nat := 0
  deriving DecidableEq, Repr, Inhabited

/-- The CHANNELS section (R78). -/
structure ChannelsSec where
  beat : Nat := 0
  z5 : Bool := false
  streamDiv : List Nat := []
  frameBase : Nat := 0
  depthLog2 : Nat := 4
  channels : List ChannelCfg := []
  deriving DecidableEq, Repr, Inhabited

/-- The QUOTAS section (R285), powers in mW. -/
structure QuotasSec where
  init : List Nat := [0, 0, 0, 0]
  max  : List Nat := [0, 0, 0, 0]
  c0Floor : Nat := 0
  base : Nat := 0
  tThr : Nat := 60
  tStop : Nat := 61
  longOk : Bool := false
  classPerm : Nat := 0
  deriving DecidableEq, Repr, Inhabited

/-- One class of the BELL section (R166). -/
structure BellClass where
  thr : Nat := 0
  k : Nat := 0
  n : Nat := 0
  action : Nat := 0
  deriving DecidableEq, Repr, Inhabited

/-- The BELL section's header (R166) and the image's model blob (R167). -/
structure BellSec where
  enable : Bool := false
  stream : Nat := 0
  allowAdapt : Bool := false
  t1En : Bool := false
  t2En : Bool := false
  failVerdict : Nat := 0
  minValid : Nat := 0
  chMask : Nat := 0
  tapMask : Nat := 0
  usePeak : Bool := false
  useXing : Bool := false
  hist : Nat := 0
  t1Timeout : Nat := 0
  t2Timeout : Nat := 0
  t1Graph : Nat := 0
  t2Graph : Nat := 0
  cascadeBase : Nat := 0
  classes : List BellClass := []
  blob : List Byte := []
  deriving DecidableEq, Repr, Inhabited

/-- The RING section (R349). -/
structure RingSec where
  rttBudget : Nat := 0
  minWidth : Nat := 0
  errRetrain : Nat := 0
  exchTimeout : Nat := 0
  expectN : Nat := 0
  deriving DecidableEq, Repr, Inhabited

/-- The MARGINS section (R233). -/
structure MarginsSec where
  permit : List Nat := []
  c0M0 : Bool := false
  deriving DecidableEq, Repr, Inhabited

/-- One chain's entry of the RAWPATH section (R119). -/
structure RawCfg where
  enable : Bool := false
  autostart : Bool := false
  channel : Nat := 0
  response : Nat := 0
  spikeEn : Bool := false
  num : Nat := 1
  den : Nat := 1
  respAllow : Nat := 0
  base : Nat := 0
  depthLog2 : Nat := 4
  thrLevel : Nat := 0
  thrHyst : Nat := 0
  thrEn : Bool := false
  envShift : Nat := 0
  thrMin : Nat := 0
  spikeRatio : Nat := 0
  spikeFloor : Nat := 0
  spikeHold : Nat := 0
  deriving DecidableEq, Repr, Inhabited

/-- The RAWPATH section (R119). -/
structure RawSec where
  beatPinEn : Bool := false
  chains : List RawCfg := []
  deriving DecidableEq, Repr, Inhabited

/-- The accepted image, its sections as read and as the content checks left them (R22, R27). -/
structure Image where
  /-- SERIAL. [R23; 64 bits; DESIGN CHOICE 0, log 2] -/
  serial : Nat := 0
  /-- SYSTEM. [R25; 192 bits; DESIGN CHOICE zero, log 2] -/
  system : SystemSec := {}
  /-- ACCESS. [R314; 256 regions; DESIGN CHOICE none, log 2] -/
  access : AccessSec := {}
  /-- CHANNELS; none where absent or invalid (R79). [R78; 288 bytes; DESIGN CHOICE none, log 2] -/
  channels : Option ChannelsSec := none
  /-- QUOTAS; none where invalid (R286). [R285; 64 bytes; DESIGN CHOICE none, log 2] -/
  quotas : Option QuotasSec := none
  /-- BELL; none where absent or invalid (R168). [R166; up to 64 KiB; DESIGN CHOICE none, log 2] -/
  bell : Option BellSec := none
  /-- RING; none where invalid (R349). [R349; 32 bytes; DESIGN CHOICE none, log 2] -/
  ring : Option RingSec := none
  /-- MARGINS; M0 only where absent or invalid (R24, R234). [R233; 64 bytes; DESIGN CHOICE M0 only, log 2] -/
  margins : MarginsSec := {}
  /-- RAWPATH; none where absent or invalid (R120). [R119; 288 bytes; DESIGN CHOICE none, log 2] -/
  raw : Option RawSec := none
  /-- CONFIG_FAULTS, the sections found invalid at boot. [R426; 16 bits; DESIGN CHOICE 0, log 2] -/
  configFaults : Nat := 0
  deriving DecidableEq, Repr, Inhabited

/-! ## Board, straps and vehicle inputs -/

/-- The seven strap levels (R13, R15). -/
structure Straps where
  nodeHi : Nat := 15
  nodeLo : Nat := 15
  ringRole : Nat := 15
  hostCfg : Nat := 15
  bootSel : Nat := 15
  pwrClass : Nat := 15
  senseCfg : Nat := 15
  deriving DecidableEq, Repr, Inhabited

/-- Pins, straps, supplies and the vehicle-input block. -/
structure Board where
  /-- VDD_AON is above its reset level. [R386; 1 bit; true, R368 (reset is its power-on)] -/
  aonOn : Bool := true
  /-- Enabled cores, fused at test. [R2, R4; 32, 28 or 24; DESIGN CHOICE 32 (Z9-32A), log 3] -/
  enabled : Nat := 32
  /-- The fused key hash. [R22; 48 bytes; DESIGN CHOICE empty (no key passes), log 3] -/
  keyHash : List Byte := []
  /-- ROM_REV. [R409; 8 bits; DESIGN CHOICE 0, log 3] -/
  romRev : Nat := 0
  /-- The flash's JEDEC identity. [R409; 24 bits; DESIGN CHOICE 0, log 3] -/
  flashId : Nat := 0
  /-- RESET_N is high. [R15; 1 bit; false, R440 (held low through power-up)] -/
  resetN : Bool := false
  /-- PERST_N is high. [R365; 1 bit; DESIGN CHOICE true, log 3] -/
  perstN : Bool := true
  /-- The latched strap levels. [R15, R19; 7 × 4 bits; DESIGN CHOICE 15 (no resistor), log 3] -/
  straps : Straps := {}
  /-- Pins, in the order of R13, whose three conversions all differed when the straps were latched. [R18, R19; 7 bits;
  DESIGN CHOICE 0, log 2] -/
  unstable : Nat := 0
  /-- Straps have been latched since the power-on of VDD_AON. [R441; 1 bit; false, R441] -/
  strapsLatched : Bool := false
  /-- A RESET_N rise is held until the rails are good. [R441; 1 bit; false, R441] -/
  resetHeld : Bool := false
  /-- The rail whose fall below its reset level reset the device, until the boot that follows. [R386; 2 bits; none, R368] -/
  railLow : Option Rail := none
  /-- MOTION as accepted. [R20, R21; 1 bit; true, R21 (VSENSE_HV absent)] -/
  motion : Bool := true
  /-- UPD_LOCK as accepted. [R20, R21; 1 bit; true, R21] -/
  updLock : Bool := true
  /-- VWAKE as accepted. [R20, R21; 1 bit; false, R21] -/
  vwake : Bool := false
  /-- The last 8 conversions of VBAT_SENSE, newest first, in codes of 2 mV. [R20, R21; 8 × 10 bits; empty (0 mV), R21] -/
  vbat : List Nat := []
  /-- VSENSE_HV is present at the vehicle-input block. [R20, R21; 1 bit; DESIGN CHOICE false, log 3] -/
  hvPresent : Bool := false
  /-- VSENSE_HV is below its undervoltage threshold. [R69, R459; 1 bit; DESIGN CHOICE true, log 3] -/
  hvLow : Bool := true
  /-- RWAKE_OUT is high: driven, or joined to RWAKE_IN by the package bypass while VDD_AON is absent. [R163; 1 bit; false, R436] -/
  rwakeOut : Bool := false
  /-- RWAKE_IN is ignored for 100 ms after originating or forwarding. [R163; 1 bit; false, R368] -/
  rwakeQuiet : Bool := false
  deriving DecidableEq, Repr, Inhabited

/-! ## Submission ring and events -/

/-- A slot that the Z9 owns, named by its free-running 16-bit index (R30, R31). -/
structure Owned where
  pos : Nat
  master : Nat
  /-- The slot has been fetched and started. -/
  started : Bool := false
  kind : Nat := 0
  tag : Word := 0
  deriving DecidableEq, Repr, Inhabited

/-- An event (R36, R38): its code as STATUS, its detail, its RESULT words from word 5. -/
structure Event where
  status : Status
  detail : Detail := .none
  result : List Word := []
  deriving DecidableEq, Repr, Inhabited

/-- An entry for the health log, less what the log itself adds (R429, R430). -/
structure LogReq where
  code : Nat
  cls : Nat := 0
  subject : Nat := 0
  p0 : Nat := 0
  p1 : Nat := 0
  deriving DecidableEq, Repr, Inhabited

/-- What a command raises: an event, a log entry, or an event with its entry (R423, R430). -/
structure Raised where
  event : Option Event := none
  entry : Option LogReq := none
  deriving DecidableEq, Repr, Inhabited

/-- A completion record before its TIME is stamped (R35). -/
structure Record where
  pos : Nat
  kind : Nat := 0
  status : Status := .done
  tag : Word := 0
  detail : Detail := .none
  lost : Nat := 0
  result : List Word := []
  deriving DecidableEq, Repr, Inhabited

/-- A held EVENT_POST (R38). -/
structure Post where
  pos : Nat
  mask : Nat
  tag : Word := 0
  deriving DecidableEq, Repr, Inhabited

/-- The submission ring. -/
structure Ring1024 where
  /-- P, the last accepted producer index. [R30; 16 bits; 0, R368 (retention empty)] -/
  producer : Nat := 0
  /-- The fetch position. [R34, R366; 16 bits; 0, R368] -/
  fetch : Nat := 0
  /-- The slots the Z9 owns with their masters, oldest first. [R30, R31, R366; 1024 entries; empty, R368] -/
  owned : List Owned := []
  /-- Held EVENT_POSTs, oldest first. [R38, R366; 1024 entries; empty, R368] -/
  posts : List Post := []
  /-- The event queue, oldest first. [R38; 64 events; empty, R368] -/
  queue : List Event := []
  /-- Events dropped since the last event record. [R38, LOST of R35; 16 bits; 0, R368] -/
  lost : Nat := 0
  /-- Completion records of a host-memory ring held while the link is down, in slot order. [R465; 1024; empty, R368] -/
  heldRecords : List Record := []
  /-- The PCIe link is in L0. [R465; 1 bit; false, R440] -/
  linkUp : Bool := false
  /-- Configuration space of functions 0 and 1, link width and equalisation. [R365, R366; 8 KiB; as after a fundamental
  reset, R365] -/
  cfg : PcieCfg := {}
  /-- The same in the retention SRAM. [R366, R367; 8 KiB; none, R368] -/
  cfgKept : Option PcieCfg := none
  /-- The doorbell is not served: entry step 1 stops fetching. [R371; 1 bit; DESIGN CHOICE false, log 2] -/
  fetchStopped : Bool := false
  deriving DecidableEq, Repr, Inhabited

/-! ## Drumhead -/

/-- The states of a channel (R69). -/
inductive ChState where
  | off | settling | live | hvLow | stuck
  deriving DecidableEq, Repr, Inhabited

/-- One channel's state, and the features and flags of its last closed stream beat (R67). -/
structure Channel where
  state : ChState := .off
  /-- Elapsed tick at which settling began (R69, R382). -/
  since : Nat := 0
  bands : List Nat := []
  peak : Nat := 0
  xing : Nat := 0
  clip : Bool := false
  bias : Bool := false
  /-- The crossing detector: x last passed below −H (R64). -/
  armed : Bool := false
  deriving DecidableEq, Repr, Inhabited

/-- A frame record of 640 bytes and the base beat it closes (R71). -/
structure FrameRec where
  beat : Nat
  bytes : List Byte
  deriving DecidableEq, Repr, Inhabited

/-- The trims of one unit (R125). -/
structure Trims where
  offset : Int := 0
  gain : Int := 0
  freq : List Nat := []
  gcode : List Nat := []
  deriving DecidableEq, Repr, Inhabited

/-- Drumhead's features path. -/
structure Drum where
  /-- SENSE is powered. [R357; 1 bit; false, R357 (OFF)] -/
  senseOn : Bool := false
  /-- The 32 channels. [R69; 32 × state and features; DESIGN CHOICE off, log 2] -/
  channels : List Channel := []
  /-- Drumhead's device-time copy less AON's device time. [R42; signed ticks; DESIGN CHOICE 0, log 2] -/
  copyDiff : Int := 0
  /-- Elapsed tick of the copy's last load or check. [R42; DESIGN CHOICE 0, log 2] -/
  copyCheck : Nat := 0
  /-- Device time was written or reloaded in this base beat. [R42, R68, R72; 1 bit; DESIGN CHOICE false, log 2] -/
  timeStep : Bool := false
  /-- Every VALID bit of this beat's frame is clear after a time write. [R68; 1 bit; DESIGN CHOICE false, log 2] -/
  validOff : Bool := false
  /-- VSENSE_HV was low at some time in this base beat. [R72; 1 bit; DESIGN CHOICE false, log 2] -/
  hvLowSeen : Bool := false
  /-- Channels whose new trims took effect at the boundary that opened this beat. [R72; 32 bits; DESIGN CHOICE 0, log 2] -/
  trimmed : Nat := 0
  /-- The channel the spare stands in for. [R53, R135; 5 bits and valid; DESIGN CHOICE none, log 2] -/
  spareFor : Option Nat := none
  /-- The spare stood in for this channel at some time in this base beat. [R72; 6 bits; DESIGN CHOICE none, log 2] -/
  spareSeen : Option Nat := none
  /-- The holding buffer, oldest first. [R76; 32 records; DESIGN CHOICE empty, log 2] -/
  holding : List FrameRec := []
  /-- Records lost since the last stored record. [R72, R76; 16 bits; DESIGN CHOICE 0, log 2] -/
  dropped : Nat := 0
  /-- Latest beat count published since the boot. [R81; 64 bits and valid; none, R81] -/
  latest : Option Nat := none
  /-- The beat count of the next boundary. [R65; 64 bits; DESIGN CHOICE 0, log 2] -/
  nextBeat : Nat := 0
  /-- Elapsed tick at which the integrators were last reset, at power-up or at a time write. [R68, R69; DESIGN CHOICE 0, log 2] -/
  resetEl : Nat := 0
  /-- FRAME_ACCESS has been raised in this boot. [R77; 1 bit; DESIGN CHOICE false, log 2] -/
  accessRaised : Bool := false
  deriving DecidableEq, Repr, Inhabited

/-! ## Raw path -/

/-- A pair of path and response (R102). -/
structure Pair where
  rank : Bool := false
  resp : Nat := 0
  deriving DecidableEq, Repr, Inhabited

/-- A filter sample with its flags (R98, R103, R106). -/
structure FSample where
  x : Int := 0
  fade : Bool := false
  rank : Bool := false
  sat : Bool := false
  deriving DecidableEq, Repr, Inhabited

/-- An output sample of the open block (R114): its acquisition time in 1/256 tick, and its flags. -/
structure OSample where
  y : Int := 0
  stamp : Int := 0
  first : Bool := false
  fade : Bool := false
  rank : Bool := false
  sat : Bool := false
  evtOn : Bool := false
  deriving DecidableEq, Repr, Inhabited

/-- A stage sample: value and saturation flag (R88). -/
structure SSample where
  x : Int := 0
  sat : Bool := false
  deriving DecidableEq, Repr, Inhabited

/-- A closed block on its way to the raw ring (R115). -/
structure RawBlock where
  seq : Nat
  samples : List OSample
  partly : Bool
  timeStep : Bool
  valid : Bool
  spare : Bool
  response : Nat
  deriving DecidableEq, Repr, Inhabited

/-- One chain of the raw path. -/
structure Chain where
  running : Bool := false
  /-- A START waits for its reset instant: the device time of application (R108, R110), and its slot, if any. -/
  resetAt : Option Nat := none
  resetSlot : Option Nat := none
  /-- Elapsed tick at which the modulator powers up and from which the START may apply, and the AT it asks for (R110). -/
  resetPower : Nat := 0
  resetReady : Nat := 0
  resetFrom : Nat := 0
  /-- STOPs wait for the next filter sample (R110), and their slots. -/
  stopping : Bool := false
  stopSlots : List Nat := []
  /-- Device time of the last reset instant. -/
  resetTick : Nat := 0
  inForce : Pair := {}
  pending : Option Pair := none
  /-- The running fade: its target and the number of fade samples made (R103). -/
  fade : Option (Pair × Nat) := none
  /-- The response chosen for the next start (R123). -/
  selected : Nat := 0
  /-- Modulator bits since the reset, newest first, as far as the CIC needs them. -/
  mods : List Bool := []
  cic : List SSample := []
  half : List SSample := []
  filt : List FSample := []
  /-- Halfband samples and filter samples since the reset. -/
  nHalf : Nat := 0
  nFilt : Nat := 0
  /-- The resampler's accumulator (R98). -/
  acc : Nat := 0
  /-- Outputs suppressed since the reset; muffling has ended; an output has been emitted. -/
  muffled : Bool := true
  emitted : Bool := false
  /-- The spike detector (R95): level, quiet count, target path. -/
  lvl : Int := 0
  quiet : Nat := 0
  spikeRank : Bool := false
  /-- Changes of the target path that wait for the next filter sample, in order of arrival (R102). -/
  spikeReqs : List Bool := []
  /-- The threshold block (R117): envelope, run, state, stamp of the run's first sample, peak since the rise. -/
  env : Nat := 0
  run : Nat := 0
  on : Bool := false
  runStamp : Int := 0
  runPeak : Nat := 0
  /-- The open block, newest sample last, and whether its channel stayed VALID and the spare stood in. -/
  block : List OSample := []
  /-- The response in force at the open block's last sample (R113). -/
  blockResp : Nat := 0
  blockValid : Bool := true
  blockSpare : Bool := false
  /-- A closed block not yet published. -/
  closed : List RawBlock := []
  /-- BLOCK_SEQ of the next block, and samples lost since the last published block (R113). -/
  seq : Nat := 0
  lost : Nat := 0
  deriving DecidableEq, Repr, Inhabited

/-- A SYNC or START slot that waits for its reset instant (R108, R122): whether its AT had passed as it reached Drumhead,
the elapsed tick at which it does, and AT. -/
structure RawWait where
  pos : Nat
  instant : Nat
  sync : Bool
  late : Bool
  arrive : Nat := 0
  at_ : Nat := 0
  deriving DecidableEq, Repr, Inhabited

/-- The raw path. -/
structure Raw where
  /-- The eight chains. [R85 to R117; 8 chains; DESIGN CHOICE stopped and empty, log 2] -/
  chains : List Chain := []
  /-- RAW_ACCESS has been raised in this boot. [R116; 1 bit; DESIGN CHOICE false, log 2] -/
  accessRaised : Bool := false
  /-- SYNC and START slots waiting for their reset instant. [R108, R110, R121; DESIGN CHOICE empty, log 2] -/
  waits : List RawWait := []
  deriving DecidableEq, Repr, Inhabited

/-! ## Calibration -/

/-- The states of a run's turn (R134). -/
inductive CalPhase where
  | shadow | takeoverWait | standin | handbackWait | revert | stuckWait | store
  deriving DecidableEq, Repr, Inhabited

/-- The pass in progress (R131): the offset window with the input short closed (DC coupling), the centre pass, the gain
pass, or none left. -/
inductive CalPass where
  | offset | centre | gain | finished
  deriving DecidableEq, Repr, Inhabited

/-- One measurement beat of the open window in units of 1/64 dB (R129). -/
structure MeasBeat where
  raw : List Nat
  l : List Int
  pair : List Int
  peakRaw : Nat
  lpeak : Int
  signed : Int
  flagged : Bool
  live : List Int
  deriving DecidableEq, Repr, Inhabited

/-- A calibration run (R134, R138). -/
structure CalRun where
  slot : Nat
  tag : Word := 0
  skipOffset : Bool := false
  skipCentre : Bool := false
  skipGain : Bool := false
  skipEqual : Bool := false
  noStore : Bool := false
  damp : Bool := false
  /-- Channels still to visit after the current one. -/
  rest : List Nat := []
  channel : Nat := 0
  phase : CalPhase := .shadow
  pass : CalPass := .centre
  /-- Elapsed ticks at which the unit's 30 s timer began, or the store was asked of LOADER, and from which the unit is
  settled. -/
  timer : Nat := 0
  settled : Nat := 0
  /-- Device time of the next measurement-beat boundary, and whether time was written in the open measurement beat. -/
  nextMeas : Nat := 0
  step : Bool := false
  /-- The beats of the open window, newest first. -/
  beats : List MeasBeat := []
  accepted : Nat := 0
  /-- Sums over the accepted windows' beats: l and pair level by tap, signed integral, live level, beats. -/
  sumL : List Int := []
  sumPair : List Int := []
  sumSigned : Int := 0
  sumLive : List Int := []
  nBeats : Nat := 0
  /-- The unit's codes at work; the channel's codes before its turn. -/
  codes : Trims := {}
  old : Trims := {}
  /-- raw(c) of the gain pass in 1/64 dB, kept at hand-back (R132). -/
  quiet : Option Int := none
  doneMask : Nat := 0
  timeoutMask : Nat := 0
  stuckMask : Nat := 0
  skippedMask : Nat := 0
  limitMask : Nat := 0
  aborted : Bool := false
  spareLost : Bool := false
  deriving DecidableEq, Repr, Inhabited

/-- Calibration and the trims. -/
structure Cal where
  /-- The run in progress. [R134; one run; DESIGN CHOICE none, log 2] -/
  run : Option CalRun := none
  /-- The ruling trims of the 32 channels in the retention SRAM, spare last. [R125, R144; 33 units; empty, R368] -/
  trims : List Trims := []
  /-- The codes loaded into the 33 units' circuits. [R125, R134; 33 units; DESIGN CHOICE empty, log 2] -/
  loaded : List Trims := []
  /-- The default trim table in force, spare last, and its DEFAULT_TAG. [R142, R143, R393; 33 units and 32 bits; DESIGN CHOICE empty and 0, log 2] -/
  defaults : List Trims := []
  defaultTag : Nat := 0
  /-- CAL_DONE of the trims in force. [R142; 32 bits; 0, R368] -/
  calDone : Nat := 0
  /-- QUIET_VALID and QUIET_LEVEL in 1/64 dB. [R132, R142; 32 bits and 32 × 16 bits; 0, R368] -/
  quietValid : Nat := 0
  quiet : List Int := []
  /-- CAL_DONE, QUIET_VALID and QUIET_LEVEL that go with the trims of the retention SRAM (R138, R144). [R142, R144; as above;
  0, R368] -/
  keptDone : Nat := 0
  keptQuietValid : Nat := 0
  keptQuiet : List Int := []
  /-- Zero-range windows in a row of the 33 units. [R130; 33 counts; DESIGN CHOICE empty (0), log 2] -/
  zeroRuns : List Nat := []
  /-- STUCK marks of the 32 channels and, bit 32, of the spare. [R130; 33 bits; 0, R130] -/
  stuck : Nat := 0
  deriving DecidableEq, Repr, Inhabited

/-! ## Bell and the cascade -/

/-- A Bell beat waiting for its scores: the frame's beat count and whether Bell infers (R148, R149). -/
structure BellBeat where
  beat : Nat
  infer : Bool
  deriving DecidableEq, Repr, Inhabited

/-- The Bell engine. -/
structure Bell where
  /-- The model blob in force (64 KiB of weights and biases). [R147, R167; 64 KiB; DESIGN CHOICE empty, log 2] -/
  blob : List Byte := []
  /-- An adapted model, stored and verified, that takes over at the next Bell beat. [R169; DESIGN CHOICE none, log 2] -/
  next : Option (List Byte) := none
  /-- The input history, newest row first. [R148, R150; 16 rows; DESIGN CHOICE empty, log 2] -/
  rows : List (List Int) := []
  /-- The over-threshold bits of each class, newest first. [R154; 16 × 16 bits; DESIGN CHOICE empty, log 2] -/
  overBits : List (List Bool) := []
  /-- The Bell beat whose scores are due. [R152; DESIGN CHOICE none, log 2] -/
  due : Option BellBeat := none
  /-- An uncorrectable error stopped inference until the next load. [R328; 1 bit; DESIGN CHOICE false, log 2] -/
  dead : Bool := false
  /-- BELL_ECC has been raised since the last load. [R328; 1 bit; DESIGN CHOICE false, log 2] -/
  eccRaised : Bool := false
  /-- EVENT_ONLY classes that fired since the last report. [R155, R158; 16 bits; DESIGN CHOICE 0, log 2] -/
  latched : Nat := 0
  deriving DecidableEq, Repr, Inhabited

/-- What fires of the Bell bring to an excursion (R154, R158): the classes, the tier they want, and of the first of them
the beat, the time and the scores. -/
structure Fire where
  fired : Nat := 0
  /-- The class that fired first. -/
  cls : Nat := 0
  beat : Nat := 0
  time : Nat := 0
  scores : List Nat := []
  want : Nat := 1
  deriving DecidableEq, Repr, Inhabited

/-- An excursion of the cascade (R156 to R164). -/
structure Excursion where
  /-- 1 or 2. -/
  tier : Nat := 1
  prior : DevState := .sleep
  source : WakeSource := .bell
  fired : Nat := 0
  beat : Nat := 0
  fireTime : Nat := 0
  scores : List Nat := []
  /-- The cascade graph last opened, and SEQ of its wake record. -/
  key : Nat := 1024
  seq : Nat := 0
  /-- A WAKE_T1 fire is latched for a re-run (R161). -/
  rerun : Bool := false
  /-- A pulse has been originated in this excursion (R160). -/
  pulsed : Bool := false
  substituted : Bool := false
  subDetail : Detail := .none
  verdict : Nat := 0
  /-- The highest tier reached (R164). -/
  top : Nat := 1
  /-- A cascade graph of this excursion has been fetched and has not yet given its verdict, and when (R159). -/
  graphOpen : Bool := false
  fetchEl : Nat := 0
  /-- The event that started it arrived after a save had begun and was replayed (LATE_WAKE of R373). -/
  late : Bool := false
  deriving DecidableEq, Repr, Inhabited

/-- The wake cascade. -/
structure Cascade where
  /-- The excursion in progress. [R155, R156; DESIGN CHOICE none, log 2] -/
  exc : Option Excursion := none
  /-- The tier and PRIOR at which a STAY verdict left the device. [R160; DESIGN CHOICE none, log 2] -/
  stay : Option (Nat × DevState) := none
  /-- Excursions that WAKE_N ended while their graphs run: each is reported when its graph ends. [R162; DESIGN CHOICE empty,
  log 2] -/
  owed : List Excursion := []
  /-- Wake records written since the boot. [R158; 32 bits; 0, R158 (counts from 1 at each boot)] -/
  seq : Nat := 0
  /-- The cascade check record: the CRC-32 of each graph that passed the pre-check. [R371, R366; 2 × 33 bits; none, R368] -/
  t1Check : Option Nat := none
  t2Check : Option Nat := none
  deriving DecidableEq, Repr, Inhabited

/-! ## Scheduler -/

/-- What has become of a piece. -/
inductive PieceSt where
  | todo
  /-- Running, on a core or (none) without one; the effective level it was issued for. -/
  | running (core : Option Nat)
  /-- Abandoned on a core, waiting for the copy of R298; `again`: it was the re-run. -/
  | abandoned (core : Nat)
  /-- Its re-run is ready, on any core but the one named (R299). -/
  | rerun (notOn : Nat)
  | rerunning (core : Nat) (notOn : Nat)
  /-- Completed on a core, as the n-th piece of its task to complete. -/
  | done (core : Option Nat) (order : Nat)
  deriving DecidableEq, Repr, Inhabited

/-- What has become of a task. -/
inductive TaskSt where
  | waiting
  /-- Every predecessor has completed (since when, in elapsed ticks), but the kind's own condition may not hold yet. -/
  | pred (since : Nat)
  | ready (since : Nat)
  | issued
  | done
  | failed
  deriving DecidableEq, Repr, Inhabited

/-- The rounding generator with which a piece ran: the core, the device time that seeded it, and how many values it had
given before the piece (R199). -/
structure GenMark where
  piece : Nat
  core : Nat
  seed : Nat
  drawn : Nat
  deriving DecidableEq, Repr, Inhabited

/-- A task of a graph under check or resident. -/
structure Task where
  /-- The 16 words of its descriptor (R272). -/
  desc : List Word := []
  st : TaskSt := .waiting
  pieces : List PieceSt := []
  /-- Latest beat published when the task started (R81). -/
  startL : Option Nat := none
  /-- Elapsed tick of issue (R354). -/
  issuedEl : Nat := 0
  /-- The first eight elements of TH as the task started (R211). -/
  hyper : List Word := []
  /-- The rounding generators of the pieces that have completed (R199). -/
  gens : List GenMark := []
  /-- Bytes of the outputs that undetected timing errors have changed, by piece and device address (R216, R238). -/
  slips : List (Nat × Nat × Byte) := []
  deriving DecidableEq, Repr, Inhabited

/-- The flags of R302, word 5. -/
structure GFlags where
  footprint : Bool := false
  spilled : Bool := false
  rerun : Bool := false
  coreRetired : Bool := false
  supplyWarn : Bool := false
  marginClamped : Bool := false
  marginRaised : Bool := false
  thermalHeld : Bool := false
  waitTimedOut : Bool := false
  checkCached : Bool := false
  deriving DecidableEq, Repr, Inhabited

/-- A graph: waiting for its check, or resident. -/
structure Graph where
  /-- Slot index 0 to 1023; of a cascade graph 1024 upward, even for T1, odd for T2. -/
  key : Nat
  /-- The slot's free-running position. -/
  pos : Nat := 0
  owner : Nat := 0
  tag : Word := 0
  hdrAddr : Nat := 0
  /-- Device time and elapsed ticks at the slot's start. -/
  start : Nat := 0
  startEl : Nat := 0
  /-- The class it ranks under: CLASS of its header, or C3 (R283). -/
  rankCls : Nat := 3
  arrival : Nat := 0
  resident : Bool := false
  admitAt : Nat := 0
  admitEl : Nat := 0
  admitSeq : Nat := 0
  hdr : List Word := []
  tasks : List Task := []
  tensors : List (List Word) := []
  flags : GFlags := {}
  /-- Layer classes that escalated, and each class's cap (R240). -/
  escalated : Nat := 0
  caps : List Nat := []
  /-- REP of the window per class, and the highest rail level at which the class ran in it (R239, R240). -/
  rep : List Nat := []
  hiRail : List Nat := []
  /-- Sum of charges in nJ. -/
  energy : Rat := 0
  spillBytes : Nat := 0
  reruns : Nat := 0
  /-- The first failure: status, detail, task (R300). -/
  failure : Option (Status × Detail × Nat) := none
  /-- Latest beat published at admission (R277). -/
  frameL : Option Nat := none
  /-- A verdict timeout or a rise has closed issue (R159, R473). -/
  closed : Bool := false
  deriving DecidableEq, Repr, Inhabited

/-- A tile in a core store (R297). -/
structure Tile where
  base : Nat
  dirty : Bool
  graph : Nat
  used : Nat
  deriving DecidableEq, Repr, Inhabited

/-- What runs on a core. -/
inductive Running where
  | piece (ref : PieceRef) (level : Nat)
  | probe (slice : Nat)
  deriving DecidableEq, Repr, Inhabited

/-- A core and its island. -/
structure Core where
  powered : Bool := false
  clockOff : Bool := false
  run : Option Running := none
  tiles : List Tile := []
  /-- Working set reserved, in KiB. -/
  ws : Nat := 0
  /-- A fault copy of this core's store is in progress (R298). -/
  copying : Bool := false
  suspect : Nat := 0
  confirmed : Nat := 0
  retired : Bool := false
  /-- Retirement decided, in effect when the running piece ends (R418). -/
  retiring : Bool := false
  /-- The next probe slice, the device time at which the last began, and whether the core is due for 1 s (R415). -/
  slice : Nat := 0
  lastProbe : Nat := 0
  due : Bool := false
  overdue : Bool := false
  /-- Consecutive replays of the cycle (R237). -/
  replays : Nat := 0
  /-- Replays that this core has made (R236). -/
  replayed : Nat := 0
  /-- The rounding generator (R199): the device time at which the island was powered, and the values given since, less than
  2^64 − 1. -/
  seed : Nat := 0
  drawn : Nat := 0
  /-- Elapsed ticks at which its last piece ended (R358). -/
  ended : Nat := 0
  deriving DecidableEq, Repr, Inhabited

/-- One slot of the energy account (R290): the charges made to each class, in nJ, and whether BASE counts for it. -/
structure AcctSlot where
  c0 : Rat := 0
  c1 : Rat := 0
  c2 : Rat := 0
  c3 : Rat := 0
  base : Bool := true
  deriving DecidableEq, Repr, Inhabited

/-- A rail change in progress (R244). -/
structure RailChange where
  level : Nat
  mv : Nat
  plevel : Nat
  /-- Elapsed tick of step 1. -/
  since : Nat := 0
  deriving DecidableEq, Repr, Inhabited

/-- The scheduler. -/
structure Sched where
  /-- Graphs waiting for their check and resident graphs, in order of arrival. [R282, R283; 64 and 2; DESIGN CHOICE empty, log 2] -/
  graphs : List Graph := []
  /-- Counts that order arrivals and admissions. [R283, R294; DESIGN CHOICE 0, log 2] -/
  arrivals : Nat := 0
  admissions : Nat := 0
  /-- The graph whose check is in progress. [R283; DESIGN CHOICE none, log 2] -/
  checking : Option Nat := none
  /-- The group of four islands that is powering up. [R358; DESIGN CHOICE none, log 2] -/
  powering : Option Nat := none
  /-- The groups that power up after it, in order. [R358; DESIGN CHOICE empty, log 2] -/
  powerNext : List Nat := []
  /-- A time write has ended the escalation window, which is still to be judged. [R239, R382; DESIGN CHOICE false, log 2] -/
  windowCut : Bool := false
  /-- MODEL'S OWN: tasks that other units have ended, with a failure if any, until the scheduler takes note; empty between
  commands. [log 8; DESIGN CHOICE empty] -/
  notices : List (Nat × Nat × Option (Status × Detail)) := []
  /-- MODEL'S OWN: cascade graphs that have ended, each with whether it completed, until the cascade takes note; empty
  between commands. [R157, R159; log 8; DESIGN CHOICE empty] -/
  ended : List (Nat × Bool) := []
  /-- The check cache, most recently used first: header address and CRC-32. [R283; 16 entries; DESIGN CHOICE empty, log 2] -/
  cache : List (Nat × Nat) := []
  /-- The cores. [R171, R358; 32; DESIGN CHOICE off, log 2] -/
  cores : List Core := []
  /-- Class quotas in force, mW. [R288; 4 × 16 bits; DESIGN CHOICE 0, log 2] -/
  quotas : List Nat := [0, 0, 0, 0]
  /-- The account's window, newest slot first. [R290; 32 slots; DESIGN CHOICE empty, log 2] -/
  account : List AcctSlot := []
  /-- The 16 sensor readings in 1/16 °C. [R292; 16 × 16 bits; DESIGN CHOICE empty, log 2] -/
  temps : List Int := []
  /-- Elapsed ticks since which Tmax has stayed below 125 °C and below 110 °C. [R389; DESIGN CHOICE none, log 2] -/
  below125 : Option Nat := none
  below110 : Option Nat := none
  /-- Tmax has crossed above T_THR, above T_STOP. [R293, R366; 2 bits; false, R368] -/
  aboveThr : Bool := false
  aboveStop : Bool := false
  /-- Readings at or above 130 °C in a row. [R389; DESIGN CHOICE 0, log 2] -/
  hotSlots : Nat := 0
  deriving DecidableEq, Repr, Inhabited

/-! ## Streams -/

/-- STATUS of a stream-table entry (R246). -/
inductive StreamSt where
  | free | idle | queued | running | swappedOut | swapOutBusy | swapInBusy | broken
  deriving DecidableEq, Repr, Inhabited

/-- What waits at a stream, in order of arrival (R248): a ready chunk, a swap request of a SWAP task, of a STREAM_CTL
slot, a CLOSE with FLUSH, or the swap-out of R267 and R268. -/
inductive StreamReq where
  | chunk (graph task : Nat)
  | swapTask (graph task : Nat) (swapIn : Bool)
  | swapSlot (pos : Nat) (tag : Word) (swapIn : Bool)
  | close (pos : Nat) (tag : Word)
  | evict
  deriving DecidableEq, Repr, Inhabited

/-- One stream-table entry (R246) and its waiting requests. -/
structure Stream where
  st : StreamSt := .free
  resetFlag : Bool := false
  owner : Nat := 0
  preferCs : Bool := false
  bf16 : Bool := false
  inCs : Bool := false
  core : Nat := 0
  gen : Nat := 0
  state : Nat := 0
  home : Nat := 0
  slotBytes : Nat := 0
  chunkLen : Nat := 0
  reqs : List StreamReq := []
  /-- The request whose copy runs. -/
  copyFor : Option StreamReq := none
  /-- RESET_FLAG as sampled by the running chunk (R262). -/
  sampled : Bool := false
  /-- The stream was BROKEN when the running chunk issued (R248, R259). -/
  wasBroken : Bool := false
  /-- Core and address that the scheduler chose for the swap-in that runs (R263). -/
  dest : Option (Nat × Nat) := none
  deriving DecidableEq, Repr, Inhabited

/-! ## Ring -/

/-- A recorded roll call (R344). -/
structure RollRec where
  origin : Nat
  nonce : Nat
  strapHead : Bool
  hasHost : Bool
  hops : Nat
  side : Side
  deriving DecidableEq, Repr, Inhabited

/-- A port's phase (R333). -/
inductive PortSt where
  | down | training | up
  deriving DecidableEq, Repr, Inhabited

/-- The lanes that a link uses, their polarities, and its width (R332, R366). -/
structure LaneSet where
  lanes    : Nat := 0
  inverted : Nat := 0
  width    : Nat := 0
  deriving DecidableEq, Repr, Inhabited

/-- What a partner's IDENT carries (R333). -/
structure Ident where
  node  : Nat
  width : Nat
  role  : Nat
  deriving DecidableEq, Repr, Inhabited

/-- A ring port. -/
structure Port where
  st : PortSt := .down
  attempts : Nat := 0
  width : Nat := 0
  /-- Lanes in use and those whose polarity is inverted, bit n for lane n (R332). -/
  lanes : Nat := 0
  inverted : Nat := 0
  /-- The first training after a SLEEP runs at these lanes (R333). -/
  saved : Option LaneSet := none
  /-- A port that is DOWN tries again (R333). -/
  fromDown : Bool := false
  /-- The width a successful retrain may not exceed until the port trains from DOWN (R335). -/
  narrowed : Option Nat := none
  retraining : Bool := false
  /-- LINK_DOWN has been raised for this run of failures. -/
  downRaised : Bool := false
  /-- The partner's side does not fit (R331). -/
  wiringBad : Bool := false
  partner : Option Ident := none
  /-- The next LSEQ to send and the last received good (R336, R340). -/
  txSeq : Nat := 0
  rxSeq : Nat := 4095
  /-- Frames received since the last LINK_ACK. -/
  unacked : Nat := 0
  /-- The retry buffer, oldest first (R340). -/
  retry : List Frame := []
  /-- Frames held for credit, oldest first, with whether each came through the other port (R339). -/
  held : List (Bool × Frame) := []
  /-- Credit in 16-byte units for VC0 to VC3, CROSSED clear then set (R338). -/
  credit : List Nat := []
  /-- Credit owed to the partner for VC0 to VC3, in 16-byte units (R337). -/
  owed : List Nat := []
  /-- CRC failures in the 1 s window, that window's number, and replays of the oldest frame (R335, R340). -/
  crcWindow : Nat := 0
  crcWin : Nat := 0
  replays : Nat := 0
  deriving DecidableEq, Repr, Inhabited

/-- The ring states of R346. -/
inductive RingSt where
  | down | training | forming | formed | chain | alone
  deriving DecidableEq, Repr, Inhabited

/-- An EXCHANGE in flight (R351, R354). -/
structure Exch where
  ref : PieceRef
  tag : Nat
  peer : Nat
  west : Bool
  op : Nat
  /-- GET: bytes received so far. -/
  got : Nat := 0
  deriving DecidableEq, Repr, Inhabited

/-- A window unit of this node that has not returned (R325). -/
structure WinUnit where
  tag : Nat
  ref : PieceRef
  addr : Nat
  bytes : List Byte
  /-- Elapsed tick at which it was sent (R327). -/
  since : Nat := 0
  deriving DecidableEq, Repr, Inhabited

/-- The ring interface. -/
structure RingIf where
  /-- EAST and WEST ports. [R331 to R340; 2 ports; DESIGN CHOICE down, log 2] -/
  east : Port := {}
  west : Port := {}
  /-- Lanes, polarities and widths of the ports in the retention SRAM over SLEEP. [R366; 2 × 20 bits; none, R368] -/
  keptEast : Option LaneSet := none
  keptWest : Option LaneSet := none
  /-- The ring state. [R346; DESIGN CHOICE down, log 2] -/
  st : RingSt := .down
  /-- Formation epoch. [R344; 32 bits; 0, R368] -/
  epoch : Nat := 0
  /-- The nonce of this boot. [R344; 32 bits; DESIGN CHOICE 0, log 2] -/
  nonce : Nat := 0
  /-- Roll calls of the epoch. [R344; DESIGN CHOICE empty, log 2] -/
  rolls : List RollRec := []
  /-- Own EAST roll call has returned on the WEST port. [R346; 1 bit; DESIGN CHOICE false, log 2] -/
  returned : Bool := false
  /-- Members and acting head of the last formation. [R345; DESIGN CHOICE none, log 2] -/
  members : List Nat := []
  head : Option Nat := none
  /-- The node has declared itself failed. [R342; 1 bit; DESIGN CHOICE false, log 2] -/
  failed : Bool := false
  /-- EXCHANGE transfers in flight and the next transaction tag. [R336, R354; DESIGN CHOICE empty, log 2] -/
  exch : List Exch := []
  nextTag : Nat := 0
  /-- The coherent window is open. [R327; 1 bit; DESIGN CHOICE false, log 2] -/
  winOpen : Bool := false
  /-- Sequence number of the last unit applied. [R325, R326; 32 bits; DESIGN CHOICE 0, log 2] -/
  winSeq : Nat := 0
  /-- Units of this node outstanding, and units waiting to be sent. [R324, R327; 64 outstanding; DESIGN CHOICE empty, log 2] -/
  units : List WinUnit := []
  unitsWait : List WinUnit := []
  /-- Bytes of the head's replica still to come. [R327; DESIGN CHOICE none, log 2] -/
  copying : Option Nat := none
  /-- The ring boot's package bytes received so far. [R355; DESIGN CHOICE none, log 2] -/
  bootBytes : Option (List Byte) := none
  /-- The boot package that this node booted from over the ring, which it hands on. [R355; DESIGN CHOICE empty, log 2] -/
  bootPkg : List Byte := []
  /-- Round trip measured at the last formation, in ns. [R347; 32 bits; DESIGN CHOICE 0, log 2] -/
  rtt : Nat := 0
  deriving DecidableEq, Repr, Inhabited

/-! ## Power -/

/-- An entry into SLEEP, DEEP or OFF (R371). -/
structure Entry where
  target : DevState
  keepSense : Bool := true
  /-- The save has begun. -/
  saving : Bool := false
  /-- The drain has ended (step 5). -/
  drained : Bool := false
  /-- Wake sources latched after the save began, with the device time each was accepted (R372). -/
  latched : List (WakeSource × Nat) := []
  /-- The Bell fires that AON has latched (R155, R372). -/
  fire : Option Fire := none
  /-- The entry falls back from an excursion at T1 (R371, R372). -/
  tier1 : Bool := false
  deriving DecidableEq, Repr, Inhabited

/-- The POWER slot that waits for the end of its stay (R373). -/
structure PowerSlot where
  pos : Nat
  tag : Word := 0
  op : Nat := 0
  target : DevState := .sleep
  keepSense : Bool := true
  t1Ok : Bool := false
  t2Ok : Bool := false
  detail : Detail := .none
  excursions : Nat := 0
  saveTime : Nat := 0
  deriving DecidableEq, Repr, Inhabited

/-- An AVSBus frame that the Z9 sends (R362): to rail select 0 or 1, a voltage write-and-commit in mV, a voltage read or a
status read. -/
inductive AvsFrame where
  | write (rail mv : Nat)
  | read (rail : Nat)
  | status (rail : Nat)
  deriving DecidableEq, Repr, Inhabited

/-- A performance-level change in progress (R360). -/
structure LevelChange where
  target : Nat
  /-- The level from which the change was taken. -/
  old : Nat := 0
  pos : Nat
  tag : Word := 0
  /-- The clock has switched. -/
  switched : Bool := false
  /-- The rail write of this change has begun. -/
  written : Bool := false
  deriving DecidableEq, Repr, Inhabited

/-- A TIME slot that waits for a BEAT edge (R381): SET or STEP, its value, since when and for how many ms. -/
structure TimeWait where
  pos : Nat
  tag : Word := 0
  step : Bool := false
  value : Nat := 0
  since : Nat := 0
  waitMs : Nat := 1000
  deriving DecidableEq, Repr, Inhabited

/-- What a pending wake event does once the device is awake: it is the wake, it acts in the state reached, or it only
raises its EVENT_WAKE (R372). -/
inductive WakeMode where
  | wakes | acts | reports
  deriving DecidableEq, Repr, Inhabited

/-- A wake event (R372 to R378): its source, when it was accepted, whether it was replayed, the Bell fires that it brings,
and the state that it wakes from. -/
structure WakeCtx where
  source : WakeSource
  time : Nat
  late : Bool := false
  fire : Fire := {}
  prior : DevState := .sleep
  mode : WakeMode := .wakes
  /-- The held frame records that will fail their CRC at the barrier (R45, R76). -/
  heldBad : List Nat := []
  deriving DecidableEq, Repr, Inhabited

/-- Domains, states, rails and time. -/
structure Power where
  /-- The device state. [R357, R364; OFF, R364] -/
  dev : DevState := .off
  /-- The entry in progress. [R371; none, R368] -/
  entry : Option Entry := none
  /-- The POWER slot in progress. [R370, R373; none, R368] -/
  slot : Option PowerSlot := none
  /-- CTRL is powered. [R357; 1 bit; false, R357] -/
  ctrlOn : Bool := false
  /-- MEM is up. [R357; 1 bit; false, R357] -/
  memOn : Bool := false
  /-- SENSE_OFF is in force. [R369; 1 bit; false, R368] -/
  senseOff : Bool := false
  /-- SENSE was on when the stay began and comes back at the wake. [R369; 1 bit; false, R368] -/
  senseBack : Bool := false
  /-- The performance level that a slot last put in force; dips and holds run at P5 in its place. [R359; 3 bits; 0 (P0), R359] -/
  plevel : Nat := 0
  /-- The level change in progress. [R360; DESIGN CHOICE none, log 2] -/
  change : Option LevelChange := none
  /-- The rail level, the commanded VDD_ARRAY in mV and when it was reached. [R242, R243; DESIGN CHOICE M0 and 0, log 2] -/
  rail : Nat := 0
  railMv : Nat := 0
  railSince : Nat := 0
  /-- The commanded VDD_CTRL in mV. [R362; 10 bits; DESIGN CHOICE 0, log 2] -/
  ctrlMv : Nat := 0
  /-- The frames of the last exchange on AVSBus, in order. [R362, R363; DESIGN CHOICE empty, log 2] -/
  avs : List AvsFrame := []
  /-- DRAM PHY training results, while the device or the retention SRAM holds them. [R366; 4 KiB, held as one number; none,
  R368] -/
  phy : Option Nat := none
  /-- The rail change in progress, and the change that waits for it. [R243, R244; DESIGN CHOICE none, log 2] -/
  railChange : Option RailChange := none
  railNext : Option RailChange := none
  /-- M1 to M3 are disabled. [R245; 1 bit; false, R368] -/
  marginsOff : Bool := false
  /-- The array clock is held at 300 MHz. [R245; 1 bit; false, R368] -/
  clockHeld : Bool := false
  /-- A dip is in progress, of which rail, since which elapsed tick. [R385; DESIGN CHOICE none, log 2] -/
  dip : Option (Rail × Nat) := none
  /-- The thermal clock hold and the thermal trip. [R389; 2 bits; DESIGN CHOICE false, log 2] -/
  hotClock : Bool := false
  tripped : Bool := false
  /-- Device time. [R41, R368; 64 bits; 0, R368] -/
  time : Nat := 0
  /-- Ticks since power-on, which timers run on and no time write moves. [R136, R382; DESIGN CHOICE 0, log 1] -/
  elapsed : Nat := 0
  /-- The RTC alarm in 1/1024 s. [R383; 64 bits and armed; none, R368] -/
  alarm : Option Nat := none
  /-- The TIME slots that wait for a BEAT edge, oldest first. [R381; DESIGN CHOICE none, log 2] -/
  timeWaits : List TimeWait := []
  /-- The WAKE_FAIL latch: its detail and the wake events counted in it. [R379; 2 and 16 bits; none, R368] -/
  wakeFail : Option (WakeFailure × Nat) := none
  /-- The wake events that wait for a fresh boot whose package comes over the ring. [R355, R378; DESIGN CHOICE empty, log 2] -/
  wakes : List WakeCtx := []
  /-- RECOVERY's cause. [R18, R409; 8 bits; none, R368] -/
  cause : Option Cause := none
  /-- The SENSE drain of a SENSE_OFF slot: slot and tag. [R387; DESIGN CHOICE none, log 2] -/
  senseDrain : Option (Nat × Word) := none
  /-- A drain of the ARRAY domain at a thermal trip. [R387, R389; DESIGN CHOICE false, log 2] -/
  arrayDrain : Bool := false
  deriving DecidableEq, Repr, Inhabited

/-! ## Update and recovery -/

/-- A download in progress (R400). -/
structure Download where
  accepted : Nat := 0
  lastOff : Nat := 0
  lastBytes : Nat := 0
  deriving DecidableEq, Repr, Inhabited

/-- What this node does in a roll (R401). -/
inductive RollRole where
  | none
  /-- Offered to the EAST neighbour and waiting for its answer, or streaming. -/
  | sending
  /-- Receiving ROLL_DATA: bytes programmed so far. -/
  | receiving (got : Nat)
  deriving DecidableEq, Repr, Inhabited

/-- An item of LOADER's flash work (R395). -/
inductive Job where
  /-- Program the bytes at STAGING and complete the UPDATE_CHUNK slot; the elapsed tick of its arrival. -/
  | chunk (came pos : Nat) (tag : Word) (off : Nat) (data : List Byte)
  /-- A receiver's staged package is checked and marked (roll step 4); the elapsed tick of its arrival. -/
  | rollStage (came : Nat) (hash : List Word)
  deriving DecidableEq, Repr, Inhabited

/-- Firmware update. -/
structure Update where
  /-- The download in progress. [R400; DESIGN CHOICE none, log 2] -/
  download : Download := {}
  /-- LOADER's queue of flash work. [R395; DESIGN CHOICE empty, log 2] -/
  jobs : List Job := []
  /-- The part this node plays in a roll, the hash rolled, and the head's ROLL slot. [R401; DESIGN CHOICE none, log 2] -/
  role : RollRole := .none
  rollHash : List Word := []
  rollSlot : Option (Nat × Word) := none
  /-- STAGED_MASK of the last roll. [R400, R402; 256 bits; DESIGN CHOICE 0, log 2] -/
  staged : Nat := 0
  /-- The head's UPDATE_ACTIVATE or UPDATE_CONFIRM slot whose frame is going round: slot, tag, RESTART. [R402, R404; DESIGN CHOICE none, log 2] -/
  actSlot : Option (Nat × Word × Bool) := none
  confSlot : Option (Nat × Word) := none
  /-- A restart 100 ms after an activation is due. [R402; 1 bit; DESIGN CHOICE false, log 2] -/
  restart : Bool := false
  /-- Elapsed tick from which AGREE_WAIT counts, and whether an AGREE or its verdict timer is open. [R403; DESIGN CHOICE none, log 2] -/
  agreeFrom : Option Nat := none
  verdictOpen : Bool := false
  /-- The head's confirmation that targeted nodes still lack: the activation's hash, and the nodes known confirmed. [R404; DESIGN CHOICE none, log 2] -/
  confHash : List Word := []
  confMask : Nat := 0
  /-- This node booted from the ring. [R355, R401; 1 bit; DESIGN CHOICE false, log 2] -/
  ringBooted : Bool := false
  deriving DecidableEq, Repr, Inhabited

/-- The recovery port. -/
structure Rvy where
  /-- The port is open. [R408; 1 bit; false, R408] -/
  isOpen : Bool := false
  /-- XSPI_RESET_N has been pulsed and the 1 ms wait runs. [R408; 1 bit; false, R408] -/
  opening : Bool := false
  /-- WEL of the flash. [R408; 1 bit; false, R408] -/
  wel : Bool := false
  /-- The flash's write-in-progress, as BUSY shows it. [R408; 1 bit; false, R408] -/
  busy : Bool := false
  /-- WINDOW_ERR. [R408; 1 bit; false, R408] -/
  windowErr : Bool := false
  /-- The bytes RVY_MISO gave in the last transaction. [R408, R409; DESIGN CHOICE empty, log 2] -/
  out : List Byte := []
  deriving DecidableEq, Repr, Inhabited

/-! ## Health -/

/-- A health-log entry (R429) with the elapsed tick of its first occurrence. -/
structure LogEntry where
  seq : Nat
  code : Nat
  cls : Nat := 0
  subject : Nat := 0
  time : Nat := 0
  p0 : Nat := 0
  p1 : Nat := 0
  repeats : Nat := 0
  bootNo : Nat := 0
  since : Nat := 0
  deriving DecidableEq, Repr, Inhabited

/-- The health counters of R427 and R428. Each counts from the last full boot and stops at all ones. -/
structure Counters where
  probeSlices : Nat := 0
  probeFails : Nat := 0
  datapathFails : Nat := 0
  residueFails : Nat := 0
  replayAbandons : Nat := 0
  stalls : Nat := 0
  reruns : Nat := 0
  failCores : Nat := 0
  replaysM0 : Nat := 0
  replaysMargin : Nat := 0
  escalations : Nat := 0
  tmaxPeak : Int := -32768
  thermalClocks : Nat := 0
  thermalTrips : Nat := 0
  csCe : Nat := 0
  csUe : Nat := 0
  dramCe : Nat := 0
  dramUe : Nat := 0
  linkCe : Nat := 0
  scrubUe : Nat := 0
  otherCe : Nat := 0
  otherUe : Nat := 0
  refusedAddr : Nat := 0
  refusedMaster : Nat := 0
  refusedValid : Bool := false
  refusals : List Nat := []
  crcE : Nat := 0
  crcW : Nat := 0
  retrainE : Nat := 0
  retrainW : Nat := 0
  downE : Nat := 0
  downW : Nat := 0
  stomped : Nat := 0
  badType : Nat := 0
  barrierCrc : Nat := 0
  timeDrifts : Nat := 0
  dips : Nat := 0
  doorbellRejects : Nat := 0
  eventsLost : Nat := 0
  biasBeats : Nat := 0
  hvLowBeats : Nat := 0
  deriving DecidableEq, Repr, Inhabited

/-- The health record. -/
structure Health where
  /-- FAULT_N's cause bits 0 to 12. [R422; 13 bits; 0, R368] -/
  causes : Nat := 0
  /-- LAST_BOOT. [R426; 4 bits; 0 (power-on), R426] -/
  lastBoot : Nat := 0
  /-- LAST_RECOVERY. [R426; 8 bits; 0, R426] -/
  lastRecovery : Nat := 0
  /-- BOOT_TIME. [R426; 64 bits; DESIGN CHOICE 0, log 2] -/
  bootTime : Nat := 0
  /-- The rail of the last supply reset. [R386, R441; 2 bits; none, R368] -/
  resetRail : Option Rail := none
  /-- The counters of pages 1 and 2. [R427, R428; as laid out there; 0, R368] -/
  cnt : Counters := {}
  /-- Corrected errors per memory of R328 in the current 1 s window. [R422; 6 counters; DESIGN CHOICE empty, log 2] -/
  storm : List Nat := []
  /-- That window's number, in seconds of device time. [R422; 64 bits; 0, R368] -/
  stormWin : Nat := 0
  /-- Entries buffered and not yet programmed, oldest first. [R430; 256 entries; empty, R368] -/
  buffer : List LogEntry := []
  /-- LOG_NEXT, LOG_OLDEST, LOG_LOST. [R426, R430; 3 × 32 bits; 0, R368] -/
  logNext : Nat := 0
  logOldest : Nat := 0
  logLost : Nat := 0
  /-- A LOG_LOST entry is owed once the buffer has room. [R430; 1 bit; false, R368] -/
  lostOwed : Bool := false
  /-- BOOT entries written. [R429; DESIGN CHOICE 0, log 2] -/
  boots : Nat := 0
  /-- The next position of the log in the flash, in entries. [R430; DESIGN CHOICE 0, log 2] -/
  logPos : Nat := 0
  /-- Units of memory known to hold an uncorrectable error: device addresses of 64-byte lines (DRAM) and 64-bit words
  (core store). [R328; DESIGN CHOICE empty, log 2] -/
  badUnits : List Nat := []
  /-- The 64 KiB granules of general DRAM that are not fresh, rising. [R308; 1 mark for each; none, R308] -/
  written : List Nat := []
  deriving DecidableEq, Repr, Inhabited

/-! ## The whole machine -/

/-- The hardware, less the memories and the queue. -/
structure Hw where
  board : Board := {}
  image : Image := {}
  sq : Ring1024 := {}
  drum : Drum := {}
  raw : Raw := {}
  cal : Cal := {}
  bell : Bell := {}
  cascade : Cascade := {}
  sched : Sched := {}
  /-- The stream table, by index. [R246; 256 entries; DESIGN CHOICE empty (every entry FREE), log 2] -/
  streams : List Stream := []
  ring : RingIf := {}
  power : Power := {}
  update : Update := {}
  rvy : Rvy := {}
  health : Health := {}
  /-- MODEL'S OWN: writes of the command in progress; empty between commands. [log 8; DESIGN CHOICE empty] -/
  writes : List Write := []
  /-- MODEL'S OWN: what the command in progress makes the memories lose before its writes; none between commands.
  [log 8; DESIGN CHOICE none] -/
  wipe : Option Wipe := none
  /-- MODEL'S OWN: events raised by the command in progress; empty between commands. [log 8; DESIGN CHOICE empty] -/
  raised : List Raised := []
  /-- MODEL'S OWN: records of the command in progress; empty between commands. [log 8; DESIGN CHOICE empty] -/
  records : List Record := []
  /-- The frames the last command sent, by port, in order. [R336; log 9; DESIGN CHOICE empty] -/
  sent : List (Side × Frame) := []
  /-- MODEL'S OWN: how many free values have been drawn. [log 10; DESIGN CHOICE 0] -/
  draws : Nat := 0
  deriving DecidableEq, Repr, Inhabited

/-- The whole state: the queue of waiting commands, first in, first out; the memories; the hardware. -/
structure State where
  /-- Commands waiting, the next at the front. [the block's command queue; empty] -/
  pending : List Instr := []
  mem : Mems := {}
  hw : Hw := {}
  deriving DecidableEq, Repr

/-- The machine right after the power-on of VDD_AON: device time 0, every latch and the retention SRAM empty (R368),
RESET_N held low (R440), the device OFF (R364), nothing in memory, no command waiting. -/
def State.reset : State := {}

end Sys2Proof.Machine
end

