-- ==== Sys2Proof/Config.lean ====
section
/-! DEFINITION. What the manual leaves open and what one chip fixes: constants without a body, so that a claim holds
whatever they are. -/

namespace Sys2Proof

open Sys2Proof.Machine

/-- A free value that the manual does not state, for the n-th draw (log 10). -/
opaque Config.freeNat : Nat → Nat

/-- The code of a DETAIL that the manual names but does not number; R35 says only that zero means none, so 1 is added
(log 11). -/
opaque Config.detailCode : Detail → Nat

/-- The FIR coefficients that R92 leaves unspecified, by response and distance from tap 191 (log 15). -/
opaque Config.firCoef : Nat → Nat → Rat

/-- The resampler kernel g at t = a / 64 for 0 < a < 256 with a not a multiple of 64 (R98, log 15). -/
opaque Config.kernel : Nat → Rat

/-- The chip's own FP32 result of a special function, by the function's code and the input's bits; used only within the
bounds of R209 (log 24). -/
opaque Config.special : Nat → Nat → Nat

/-- The value that a core's rounding generator gives, by the device time at which its island was powered, the core's
number, and how many values it gave before, less than 2^64 − 1 (R199, log 10). -/
opaque Config.rounding : Nat → Nat → Nat → Nat

/-- The sign of a NaN written in an 8-bit format, by everything the task reads and the element's number (R204, R217,
log 26). -/
opaque Config.nanSign : List Nat → Nat → Bool

/-- Into how many ranges of K the scheduler cuts a LAYER with KSPLIT, by descriptor and tensor records (R280, log 27). -/
opaque Config.kCut : List Nat → Nat

/-- The chip's own FP32 results of a RECUR chunk, by everything the chunk reads and the output's number; used only within
the rounding of R256 (log 31). -/
opaque Config.recur : List Nat → Nat → Nat

/-- Where in the system reserved range a node holds its window replica, in lines (R324, log 158). -/
opaque Config.replicaLine : Nat

/-- Whether the raw path rounds a fraction up (R92, log 15). -/
opaque Config.rawRoundsUp : Rat → Bool

end Sys2Proof
end

