-- ==== Sys2Proof/Machine/Codes.lean ====
section
/-! DEFINITION. The codes that the manual gives to names, and the ticks of the device clock. -/

namespace Sys2Proof

open Sys2Proof.Machine

/-- The DETAIL codes of R424; every other name has a code of the chip's own (R35, log 11). -/
def Machine.Detail.code : Detail → Nat
  | .none => 0
  | .coreFault => 0x0001
  | .coreConfirmed => 0x0002
  | .coreRetired => 0x0003
  | .noCores => 0x0004
  | .eccStorm => 0x0010
  | .eccUncorrected => 0x0011
  | .eccScrub => 0x0012
  | .retentionEcc => 0x0013
  | .bellEcc => 0x0014
  | .supplyWarn => 0x0020
  | .avsMargin => 0x0021
  | .avsMarginFail => 0x0022
  | .thermalClock => 0x0023
  | .ringReform => 0x0030
  | .ringWiring => 0x0031
  | .linkDown => 0x0032
  | .linkWidth => 0x0033
  | .ringTwoHeads => 0x0034
  | .ringOverBudget => 0x0035
  | .ringShort => 0x0036
  | .ringDupId => 0x0037
  | .timeDrift => 0x0040
  | .frameAccess => 0x0041
  | .rawAccess => 0x0042
  | .bellCommitRefused => 0x0043
  | .bellStoreFail => 0x0044
  | .sensorLost => 0x0045
  | .doorbellReject => 0x0050
  | .logLost => 0x0051
  | d => 1 + Config.detailCode d % 65535

/-- The codes of R36. -/
def Machine.Status.code : Status → Nat
  | .done => 0x00
  | .doneLate => 0x01
  | .doneDegraded => 0x02
  | .doneSupplyWarn => 0x03
  | .refusedAccess => 0x10
  | .refusedFormat => 0x11
  | .refusedTooLarge => 0x12
  | .refusedState => 0x13
  | .refusedBudget => 0x14
  | .failEcc => 0x20
  | .failScaleSkew => 0x21
  | .failCore => 0x22
  | .failDomainOff => 0x23
  | .failStream => 0x24
  | .failLink => 0x25
  | .failTimeout => 0x26
  | .eventSat => 0x30
  | .eventThermal => 0x31
  | .eventWake => 0x32
  | .eventThreshold => 0x33
  | .eventCal => 0x34
  | .eventHealth => 0x35
  | .eventUpdate => 0x36

/-- The codes of R409. -/
def Machine.Cause.code : Cause → Nat
  | .bootSel => 1
  | .strapInvalid => 2
  | .strapUnstable => 3
  | .strapConflict => 4
  | .imageInvalid => 5
  | .avsFail => 6
  | .ringBootFail => 7
  | .wakeFail => 8
  | .swapFail => 9

/-- The rail's SUBJECT code (R423). -/
def Rail.code : Rail → Nat
  | .array => 0
  | .ctrl => 1
  | .aon => 2
  | .vio => 3

/-- The port's SUBJECT code (R423). -/
def Side.code : Side → Nat
  | .east => 0
  | .west => 1

/-- The memory's SUBJECT code (R423). -/
def Memory.code : Memory → Nat
  | .coreStore => 0
  | .dram => 1
  | .retention => 2
  | .ctrl => 3
  | .bell => 4
  | .window => 5

/-- The SOURCE codes of R165. -/
def WakeSource.code : WakeSource → Nat
  | .rtc => 0
  | .bell => 1
  | .wakeN => 2
  | .rwakeIn => 3
  | .vwake => 4

/-- The clock of device time, ticks in one second (R41). -/
def ticksPerSecond : Nat := 24576000

/-- The ticks of n microseconds, rounded up. -/
def usTicks (n : Nat) : Nat := (n * 24576 + 999) / 1000

/-- The ticks of n milliseconds. -/
def msTicks (n : Nat) : Nat := n * 24576

end Sys2Proof
end

