-- ==== Sys2Proof/Machine/Ops.lean ====
section
/-! DEFINITION. The operations that the meanings share: bit fields and byte order, memory, the CRCs, time, events and
the health log, completion records, and the two runners of a command's effect. An effect is a function of the memories
and the hardware to the hardware; its writes wait in the hardware's outbox and reach the memories when the command
ends, so that one place keeps the memories canonical (log 8). -/

namespace Sys2Proof.Machine

/-! ## Bits and bytes -/

/-- Bits lo to lo + len − 1 of a number. -/
def bitsOf (n lo len : Nat) : Nat := n / 2 ^ lo % 2 ^ len

/-- Bits lo to lo + len − 1 of a word. -/
def fld (w : Word) (lo len : Nat) : Nat := bitsOf w.toNat lo len

/-- One bit of a number. -/
def bitOf (n k : Nat) : Bool := n / 2 ^ k % 2 == 1

/-- One bit of a word. -/
def bit (w : Word) (k : Nat) : Bool := bitOf w.toNat k

/-- A mask with one bit set or clear. -/
def setBit (n k : Nat) (b : Bool) : Nat :=
  if b then (if bitOf n k then n else n + 2 ^ k) else (if bitOf n k then n - 2 ^ k else n)

/-- How many of the lowest w bits are set. -/
def popCount (w n : Nat) : Nat := ((List.range w).filter (bitOf n)).length

/-- The two's complement value of the lowest w bits. -/
def signedOf (w n : Nat) : Int :=
  let m := n % 2 ^ w
  if m < 2 ^ (w - 1) then (m : Int) else (m : Int) - 2 ^ w

/-- The w-bit two's complement pattern of an integer. -/
def patternOf (w : Nat) (i : Int) : Nat := (i % (2 ^ w : Int)).toNat

/-- A Bool as a bit. -/
def b2n (b : Bool) : Nat := if b then 1 else 0

/-- Word i of a list of words; absent words read as zero. -/
def wordAt (ws : List Word) (i : Nat) : Word := ws.getD i 0

/-- The 64-bit value of words i and i + 1, the lower first. -/
def dwordAt (ws : List Word) (i : Nat) : Nat := (wordAt ws i).toNat + 2 ^ 32 * (wordAt ws (i + 1)).toNat

/-- The 48-bit address in words i and i + 1. -/
def addrAt (ws : List Word) (i : Nat) : Nat := (wordAt ws i).toNat + 2 ^ 32 * fld (wordAt ws (i + 1)) 0 16

/-- A 32-bit word of a number. -/
def w32 (n : Nat) : Word := BitVec.ofNat 32 n

/-- The two words of a 64-bit value, the lower first. -/
def w64 (n : Nat) : List Word := [w32 n, w32 (n / 2 ^ 32)]

/-- The n little-endian bytes of a number. -/
def leBytes : Nat → Nat → List Byte
  | 0, _ => []
  | n + 1, v => BitVec.ofNat 8 v :: leBytes n (v / 256)

/-- The number that little-endian bytes hold. -/
def leNat : List Byte → Nat
  | [] => 0
  | b :: bs => b.toNat + 256 * leNat bs

/-- The number that big-endian bytes hold. -/
def beNat (bs : List Byte) : Nat := bs.foldl (fun n b => 256 * n + b.toNat) 0

/-- The bytes of words, each word little-endian (R23). -/
def wordsBytes : List Word → List Byte
  | [] => []
  | w :: ws => leBytes 4 w.toNat ++ wordsBytes ws

/-- The words that bytes hold, little-endian; trailing bytes short of a word are dropped. -/
def bytesWords : List Byte → List Word
  | a :: b :: c :: d :: bs => w32 (leNat [a, b, c, d]) :: bytesWords bs
  | _ => []

/-- A list cut or extended with a value to a length. -/
def fitTo {α : Type} (n : Nat) (d : α) (xs : List α) : List α := xs.take n ++ List.replicate (n - xs.length) d

/-- A list with element i replaced by f of it; beyond its end nothing changes. -/
def modifyAt {α : Type} (i : Nat) (f : α → α) : List α → List α
  | [] => []
  | x :: xs => match i with
    | 0 => f x :: xs
    | j + 1 => x :: modifyAt j f xs

/-- Element i of a list of any inhabited type. -/
def at! {α : Type} [Inhabited α] (xs : List α) (i : Nat) : α := xs.getD i default

/-- A count raised by n that stops at all ones of its width (R426). -/
def satAdd (width c n : Nat) : Nat := min (c + n) (2 ^ width - 1)

/-! ## Memory -/

/-- The cells of bytes from an address upward, less those equal to what an unlisted address reads as. -/
def cellsFrom (fill : Option Byte) : Nat → List Byte → Mem
  | _, [] => []
  | a, b :: bs => if some b = fill then cellsFrom fill (a + 1) bs else (a, b) :: cellsFrom fill (a + 1) bs

/-- Write bytes from an address upward, keeping the canonical form. -/
def memWrite (fill : Option Byte) (m : Mem) (a : Nat) (bs : List Byte) : Mem :=
  m.filter (fun c => decide (c.1 < a)) ++ cellsFrom fill a bs ++
    m.filter (fun c => decide (a + bs.length ≤ c.1))

/-- Read one byte; none where an unlisted address reads as nothing. -/
def memRead (fill : Option Byte) (m : Mem) (a : Nat) : Option Byte :=
  match m.find? (fun c => c.1 == a) with
  | some c => some c.2
  | none => fill

/-- The bytes from an address upward of cells that all lie at or above it. -/
def readCells (fill : Byte) : Nat → Nat → Mem → List Byte
  | 0, _, _ => []
  | n + 1, a, [] => fill :: readCells fill n (a + 1) []
  | n + 1, a, c :: m =>
    if c.1 = a then c.2 :: readCells fill n (a + 1) m else fill :: readCells fill n (a + 1) (c :: m)

/-- Read n bytes from an address upward. -/
def memReadN (fill : Byte) (m : Mem) (a n : Nat) : List Byte :=
  readCells fill n a (m.dropWhile (fun c => decide (c.1 < a)))

/-- What an unlisted address reads as: DRAM, core store and window zero (a fresh granule, R308; a new replica, R327;
core store DESIGN CHOICE, log 2); the flash 0xFF, erased (log 6); host memory nothing, the Z9 has not written it
(log 7). -/
def Space.fill : Space → Option Byte
  | .dram | .coreStore | .window => some 0
  | .flash => some 0xFF
  | .host => none

/-- The memory of a space. -/
def Mems.of (m : Mems) : Space → Mem
  | .dram => m.dram
  | .coreStore => m.coreStore
  | .window => m.window
  | .flash => m.flash
  | .host => m.host

/-- A memory in canonical form: addresses strictly rising, no entry equal to what an unlisted address reads as. -/
abbrev Memory.wf (fill : Option Byte) (m : Mem) : Prop :=
  m.Pairwise (fun c d => c.1 < d.1) ∧ ∀ c ∈ m, some c.2 ≠ fill

/-- Every memory is in canonical form. -/
abbrev Mems.wf (m : Mems) : Prop :=
  Memory.wf (Space.fill .dram) m.dram ∧ Memory.wf (Space.fill .coreStore) m.coreStore ∧
  Memory.wf (Space.fill .window) m.window ∧ Memory.wf (Space.fill .flash) m.flash ∧
  Memory.wf (Space.fill .host) m.host

/-- One write carried out. -/
def applyWrite (m : Mems) (w : Write) : Mems :=
  match w.space with
  | .dram => { m with dram := memWrite (Space.fill .dram) m.dram w.addr w.bytes }
  | .coreStore => { m with coreStore := memWrite (Space.fill .coreStore) m.coreStore w.addr w.bytes }
  | .window => { m with window := memWrite (Space.fill .window) m.window w.addr w.bytes }
  | .flash => { m with flash := memWrite (Space.fill .flash) m.flash w.addr w.bytes }
  | .host => { m with host := memWrite (Space.fill .host) m.host w.addr w.bytes }

/-- Writes carried out in order. -/
def applyWrites (m : Mems) (ws : List Write) : Mems := ws.foldl applyWrite m

/-- The memories after a loss: DRAM cells outside the kept ranges, every core store, and the window unless kept, read as
a fresh granule does (R308, R327, R357). -/
def wipeMems (w : Option Wipe) (m : Mems) : Mems :=
  match w with
  | none => m
  | some w =>
    { m with
      dram := m.dram.filter fun c => w.keep.any fun r => decide (r.1 ≤ c.1) && decide (c.1 < r.1 + r.2)
      coreStore := []
      window := if w.window then m.window else [] }

/-- Bytes read at an address, patched by one waiting write. -/
def patchBy (sp : Space) (a : Nat) (bs : List Byte) (w : Write) : List Byte :=
  if w.space = sp ∧ w.addr < a + bs.length ∧ a < w.addr + w.bytes.length then
    if w.addr ≤ a then
      let part := (w.bytes.drop (a - w.addr)).take bs.length
      part ++ bs.drop part.length
    else
      let part := w.bytes.take (a + bs.length - w.addr)
      bs.take (w.addr - a) ++ part ++ bs.drop (w.addr - a + part.length)
  else bs

/-- Read n bytes of a space as the command sees them: the memory, then the writes the command has made. -/
def readN (m : Mems) (h : Hw) (sp : Space) (a n : Nat) : List Byte :=
  h.writes.foldl (patchBy sp a) (memReadN (sp.fill.getD 0) (m.of sp) a n)

/-- Read n little-endian words of a space. -/
def readWords (m : Mems) (h : Hw) (sp : Space) (a n : Nat) : List Word := bytesWords (readN m h sp a (4 * n))

/-- The size of the protected unit at a device address (R328): a 64-bit word in core store, a 64-byte line elsewhere. -/
def unitSize (a : Nat) : Nat := if 0x100000000000 ≤ a ∧ a < 0x200000000000 then 8 else 64

/-- The device address of a byte of a space: DRAM from 0, core store from 0x1000_0000_0000, the window from
0x2000_0000_0000 (R304). -/
def Space.devBase : Space → Nat
  | .coreStore => 0x100000000000
  | .window => 0x200000000000
  | _ => 0

/-- A write covers a whole protected unit: its bytes are good again (R328). -/
def coversUnit (sp : Space) (a n u : Nat) : Bool :=
  match sp with
  | .dram | .coreStore | .window =>
    decide (sp.devBase + a ≤ u) && decide (u + unitSize u ≤ sp.devBase + a + n)
  | _ => false

/-- General DRAM in granules of 64 KiB (R304, R308). -/
def dramGranules : Nat := 0xF7C00

/-- A number put into a rising list. -/
def insertRising (n : Nat) : List Nat → List Nat
  | [] => [n]
  | x :: xs => if n < x then n :: x :: xs else if n = x then x :: xs else x :: insertRising n xs

/-- A write to general DRAM clears the fresh marks of the granules that it touches (R308). -/
def touchGranules (sp : Space) (a n : Nat) (gs : List Nat) : List Nat :=
  if sp = .dram ∧ n ≠ 0 then
    ((List.range ((a + n - 1) / 65536 + 1 - a / 65536)).map (a / 65536 + ·)).foldl
      (fun gs g => if g < dramGranules then insertRising g gs else gs) gs
  else gs

/-- A granule of general DRAM is fresh: it reads zero and raises no ECC event (R308). -/
def isFresh (h : Hw) (a : Nat) : Bool := decide (a / 65536 < dramGranules) && !h.health.written.contains (a / 65536)

/-- Put a write into the outbox. Space-relative addresses: core store and window count from their base. -/
def put (sp : Space) (a : Nat) (bs : List Byte) (h : Hw) : Hw :=
  { h with
    writes := h.writes ++ [⟨sp, a, bs⟩]
    health := { h.health with
      badUnits := h.health.badUnits.filter (fun u => !coversUnit sp a bs.length u)
      written := touchGranules sp a bs.length h.health.written } }

/-- Put words into the outbox. -/
def putWords (sp : Space) (a : Nat) (ws : List Word) (h : Hw) : Hw := put sp a (wordsBytes ws) h

/-- A byte range of a space meets a unit that holds an uncorrectable error (R328). -/
def hitsBad (h : Hw) (sp : Space) (a n : Nat) : Bool :=
  h.health.badUnits.any fun u =>
    decide (sp.devBase + a < u + unitSize u) && decide (u < sp.devBase + a + n) && decide (0 < n)

/-- A write that covers part of a bad unit fails as a read of that unit would (R328). -/
def hitsBadPartly (h : Hw) (sp : Space) (a n : Nat) : Bool :=
  h.health.badUnits.any fun u =>
    decide (sp.devBase + a < u + unitSize u) && decide (u < sp.devBase + a + n) && !coversUnit sp a n u

/-- The address at which a unit is known: a line of the replica, which lies in the system reserved range, by its window
address (R324). -/
def unitAt (a : Nat) : Nat :=
  let base := 65536 * dramGranules + 64 * (Config.replicaLine % 0xC0001)
  if 65536 * dramGranules ≤ a ∧ a < 0xF80000000 ∧ base ≤ a ∧ a < base + 0x1000000 then 0x200000000000 + (a - base)
  else a / unitSize a * unitSize a

/-- Mark the units of the given device addresses as bad (R328), where no fresh granule holds them (R308). -/
def markBad (addrs : List Nat) (h : Hw) : Hw :=
  { h with health := { h.health with
      badUnits := (h.health.badUnits ++ (addrs.filter fun a => !isFresh h a).map unitAt).eraseDups } }

/-! ## CRCs -/

/-- One step of the reflected CRC-32. -/
def crc32Bit (c : Nat) : Nat := if c % 2 = 1 then Nat.xor (c / 2) 0xEDB88320 else c / 2

/-- One byte of the reflected CRC-32. -/
def crc32Byte (c : Nat) (b : Byte) : Nat :=
  crc32Bit (crc32Bit (crc32Bit (crc32Bit (crc32Bit (crc32Bit (crc32Bit (crc32Bit (Nat.xor c b.toNat))))))))

/-- CRC-32 of IEEE 802.3 (R142). -/
def crc32 (bs : List Byte) : Nat := Nat.xor (bs.foldl crc32Byte 0xFFFFFFFF) 0xFFFFFFFF

/-- One step of the CRC-16. -/
def crc16Bit (c : Nat) : Nat := if 0x8000 ≤ c then Nat.xor (c * 2 % 0x10000) 0x1021 else c * 2

/-- One byte of the CRC-16. -/
def crc16Byte (c : Nat) (b : Byte) : Nat :=
  crc16Bit (crc16Bit (crc16Bit (crc16Bit (crc16Bit (crc16Bit (crc16Bit (crc16Bit (Nat.xor c (b.toNat * 256)))))))))

/-- CRC-16 with polynomial 0x1021, initial value 0xFFFF, not reflected (R72). -/
def crc16 (bs : List Byte) : Nat := bs.foldl crc16Byte 0xFFFF

/-! ## Free values -/

/-- Draw a free value (log 10). -/
def drawNat (h : Hw) : Nat × Hw := (Config.freeNat h.draws, { h with draws := h.draws + 1 })

/-! ## Time -/

/-- Ticks pass, while AON is powered: device time and elapsed time move together (R41, R382). -/
def pass (n : Nat) (h : Hw) : Hw :=
  if h.board.aonOn then
    { h with power := { h.power with time := (h.power.time + n) % 2 ^ 64, elapsed := h.power.elapsed + n } }
  else h

/-- Time passes until an instant of elapsed time, if it is not past already (log 1). -/
def passUntil (el : Nat) (h : Hw) : Hw := pass (el - h.power.elapsed) h

/-- Time passes until device time reaches a value, if it is not past already (log 1). -/
def passToTime (t : Nat) (h : Hw) : Hw := pass (t - h.power.time) h

/-- One tick of an idle block (log 1). -/
def tick (s : State) : State := { s with hw := pass 1 s.hw }

/-! ## The device -/

/-- CTRL serves: it is powered and the node is in ACTIVE or IDLE (R357). -/
def Hw.up (h : Hw) : Bool := h.power.ctrlOn && (h.power.dev == .active || h.power.dev == .idle)

/-- The save of an entry has begun: completion records and events are queued, not written (R371, R388). -/
def Hw.saving (h : Hw) : Bool := match h.power.entry with
  | some e => e.saving
  | none => false

/-- The submission ring can be reached: in device DRAM, or in host memory with the link in L0 (R28, R465). -/
def Hw.ringReach (h : Hw) : Bool := h.image.system.sqInDram || h.sq.linkUp

/-! ## The health log -/

/-- Add an entry to the log's buffer (R430): merged into an unwritten entry of the same CODE and SUBJECT of the last
second, or appended, or dropped and counted where 256 entries are buffered. The SEQ of the entry, where there is one. -/
def logAdd (r : LogReq) (h : Hw) : Hw × Option Nat :=
  let l := h.health
  let same (e : LogEntry) : Bool :=
    e.code == r.code && e.subject == r.subject && decide (h.power.elapsed ≤ e.since + ticksPerSecond)
  match l.buffer.find? same with
  | some e =>
    ({ h with health := { l with buffer := l.buffer.map fun x =>
        if x.seq = e.seq then { x with repeats := satAdd 16 x.repeats 1 } else x } }, some e.seq)
  | none =>
    if l.buffer.length < 256 then
      let e : LogEntry :=
        { seq := l.logNext, code := r.code, cls := r.cls, subject := r.subject, time := h.power.time, p0 := r.p0,
          p1 := r.p1, bootNo := l.boots % 65536, since := h.power.elapsed }
      ({ h with health := { l with
          buffer := l.buffer ++ [e]
          -- 0xFFFF_FFFF is not an entry (R429)
          logNext := if l.logNext + 1 = 0xFFFFFFFF then 0 else l.logNext + 1
          boots := if r.code = 0x0300 then l.boots + 1 else l.boots } }, some e.seq)
    else
      ({ h with health := { l with logLost := satAdd 32 l.logLost 1, lostOwed := true } }, none)

/-! ## Raising events -/

/-- Raise an event without a log entry. -/
def raiseEvent (st : Status) (d : Detail) (result : List Word) (h : Hw) : Hw :=
  { h with raised := h.raised ++ [{ event := some { status := st, detail := d, result := result } }] }

/-- Raise EVENT_HEALTH with its log entry (R423, R430). -/
def raiseHealth (d : Detail) (subject cls p0 p1 : Nat) (h : Hw) : Hw :=
  { h with raised := h.raised ++
      [{ event := some { status := .eventHealth, detail := d
                         result := [w32 (subject % 256 + 256 * (cls % 16)), w32 p0, w32 p1] }
         entry := some { code := d.code, cls := cls, subject := subject, p0 := p0, p1 := p1 } }] }

/-- Make a log entry that is no event (R430: CONFIG_FAULTS bits, RECOVERY entries, boots). -/
def raiseLog (code cls subject p0 : Nat) (h : Hw) : Hw :=
  { h with raised := h.raised ++ [{ entry := some { code := code, cls := cls, subject := subject, p0 := p0 } }] }

/-- Set a cause bit of FAULT_N (R422). -/
def setCause (n : Nat) (h : Hw) : Hw :=
  { h with health := { h.health with causes := setBit h.health.causes n true } }

/-- Clear a cause bit of FAULT_N (R422). -/
def clearCause (n : Nat) (h : Hw) : Hw :=
  { h with health := { h.health with causes := setBit h.health.causes n false } }

/-! ## Completion records -/

/-- The 32 words of a completion record (R35). -/
def Record.words (r : Record) (time : Nat) : List Word :=
  fitTo 32 0 ([w32 (r.kind % 256 + 256 * r.status.code), r.tag, w32 time, w32 (time / 2 ^ 32),
    w32 (r.lost % 65536 + 65536 * r.detail.code)] ++ r.result)

/-- The slot at a free-running index is no longer the Z9's. -/
def disown (pos : Nat) (h : Hw) : Hw :=
  { h with sq := { h.sq with owned := h.sq.owned.filter (fun o => o.pos != pos) } }

/-- The array clock runs at 300 MHz whatever the slot asked: a dip, a thermal hold or R245 (R245, R385, R389). -/
def clockForced (h : Hw) : Bool := h.power.dip.isSome || h.power.hotClock || h.power.clockHeld

/-- The performance level in force (R359, R385). -/
def levelInForce (h : Hw) : Nat := if clockForced h then 5 else h.power.plevel

/-- PLEVEL of a POWER slot's record is the level in force when the record is written (R373). -/
def stampLevel (h : Hw) (r : Record) : Record :=
  if r.kind = 0x03 ∧ r.status = .done then
    let w := (wordAt r.result 0).toNat
    { r with result := w32 (w - w / 2048 % 8 * 2048 + levelInForce h * 2048) :: r.result.drop 1 }
  else r

/-- Write a record into its slot: the slot is the host's again (R28, R35). -/
def writeRecord (r : Record) (h : Hw) : Hw :=
  let sys := h.image.system
  let sp := if sys.sqInDram then Space.dram else Space.host
  disown r.pos (putWords sp (sys.sqBase + 128 * (r.pos % 1024)) ((stampLevel h r).words h.power.time) h)

/-- Records can be written: CTRL is on, no save runs, and the ring can be reached (R388, R465). -/
def Hw.writesRecords (h : Hw) : Bool := h.ringReach && h.power.ctrlOn && !h.saving

/-- Write a record, or hold it while it cannot be written (R388, R465). -/
def completeNow (r : Record) (h : Hw) : Hw :=
  if h.writesRecords then writeRecord r h
  else { h with sq := { h.sq with heldRecords := h.sq.heldRecords ++ [r] } }

/-- Complete a slot: its record is written when the command ends. -/
def complete (r : Record) (h : Hw) : Hw := { h with records := h.records ++ [r] }

/-- An EVENT_POST's mask accepts an event (R37). -/
def accepts (mask : Nat) (st : Status) : Bool := mask == 0 || bitOf mask (st.code - 0x30)

/-- Queue an event, or drop it and count it where 64 wait (R38). -/
def enqueue (e : Event) (h : Hw) : Hw :=
  if h.sq.queue.length < 64 then { h with sq := { h.sq with queue := h.sq.queue ++ [e] } }
  else
    { h with
      sq := { h.sq with lost := satAdd 16 h.sq.lost 1 }
      health := { h.health with cnt := { h.health.cnt with eventsLost := satAdd 16 h.health.cnt.eventsLost 1 } } }

/-- Deliver an event to the oldest held EVENT_POST that accepts it, as that slot's record; it waits where there is none,
or while the device saves or CTRL is off (R38, R388). -/
def deliverEvent (e : Event) (h : Hw) : Hw :=
  if h.power.ctrlOn && !h.saving then
    match h.sq.posts.find? (fun p => accepts p.mask e.status) with
    | some p =>
      completeNow
        { pos := p.pos, kind := 0x07, status := e.status, tag := p.tag, detail := e.detail, lost := h.sq.lost,
          result := e.result }
        { h with sq := { h.sq with posts := h.sq.posts.filter (fun q => q.pos != p.pos), lost := 0 } }
    | none => enqueue e h
  else enqueue e h

/-- LOG_SEQ of an EVENT_HEALTH: word 8 of its record, but for RING_REFORM, whose layout is R347's (R423). Where the
entry was dropped the manual gives no value: a free one (log 12). -/
def stampSeq (e : Event) (seq : Option Nat) (h : Hw) : Event × Hw :=
  match e.status, e.detail, seq with
  | .eventHealth, .ringReform, _ => (e, h)
  | .eventHealth, _, some n => ({ e with result := fitTo 3 0 e.result ++ [w32 n] }, h)
  | .eventHealth, _, none =>
    let (n, h) := drawNat h
    ({ e with result := fitTo 3 0 e.result ++ [w32 n] }, h)
  | _, _, _ => (e, h)

/-- Deliver what a command raised: its log entry first, then its event. -/
def deliver (h : Hw) (r : Raised) : Hw :=
  let (h, seq) := match r.entry with
    | some q => logAdd q h
    | none => (h, none)
  match r.event with
  | some e =>
    match r.entry with
    | some _ => let (e, h) := stampSeq e seq h; deliverEvent e h
    | none => deliverEvent e h
  | none => h

/-- Slots that are free by the rule of R30. -/
def freeSlots (h : Hw) : Nat :=
  let o := match h.sq.owned with
    | [] => h.sq.producer
    | x :: _ => x.pos
  1024 - (h.sq.producer + 65536 - o) % 65536

/-- R39: while 128 or fewer slots are free and the oldest owned slot is a held EVENT_POST, it completes with DONE and no
event. -/
def releasePosts : Nat → Hw → Hw
  | 0, h => h
  | n + 1, h =>
    match h.sq.owned with
    | o :: _ =>
      match h.sq.posts.find? (fun p => p.pos == o.pos) with
      | some p =>
        if freeSlots h ≤ 128 && h.power.ctrlOn && !h.saving then
          releasePosts n (completeNow { pos := p.pos, kind := 0x07, tag := p.tag }
            { h with sq := { h.sq with posts := h.sq.posts.filter (fun q => q.pos != p.pos) } })
        else h
      | none => h
    | [] => h

/-- The place of a slot in the order of the ring, from the oldest owned one. -/
def slotOrder (h : Hw) (pos : Nat) : Nat :=
  match h.sq.owned with
  | [] => 0
  | o :: _ => (pos + 65536 - o.pos) % 65536

/-- A record set in among others in slot order. -/
def insertRecord (ord : Nat → Nat) (r : Record) : List Record → List Record
  | [] => [r]
  | x :: xs => if ord r.pos < ord x.pos then r :: x :: xs else x :: insertRecord ord r xs

/-- Records that were held are written in slot order once they can be (R388, R465). -/
def flushHeld (h : Hw) : Hw :=
  if h.writesRecords then
    (h.sq.heldRecords.foldl (fun l r => insertRecord (slotOrder h) r l) []).foldl (fun h r => writeRecord r h)
      { h with sq := { h.sq with heldRecords := [] } }
  else h

/-! ## Running a command -/

/-- The end of a command: held records, the command's records, the waiting events and those the command raised in order
of occurrence, and the release of R39. -/
def finish (h : Hw) : Hw :=
  let h := flushHeld h
  let h := h.records.foldl (fun h r => completeNow r h) { h with records := [] }
  let waiting : List Raised := h.sq.queue.map fun e => { event := some e }
  let new := h.raised
  let h := (waiting ++ new).foldl deliver { h with raised := [], sq := { h.sq with queue := [] } }
  releasePosts h.sq.posts.length h

/-- The writes of a command reach the memories, and its outbox is empty again. -/
def commit (s : State) (h : Hw) : State :=
  { s with
    mem := applyWrites (wipeMems h.wipe s.mem) h.writes
    hw := { h with writes := [], wipe := none, raised := [], records := [] } }

/-- Run an effect: no frame is sent yet, the effect, its end, its writes. -/
def run (f : Mems → Hw → Hw) (s : State) : Host.Outcome State Fault Refusal :=
  .next (commit s (finish (f s.mem { s.hw with sent := [] })))

/-- Run an effect that raises nothing, completes nothing and writes nothing. -/
def quiet (f : Hw → Hw) (s : State) : Host.Outcome State Fault Refusal :=
  .next { s with hw := f { s.hw with sent := [] } }

end Sys2Proof.Machine
end

