-- ==== Sys2Proof/Machine/Crypto.lean ====
section
/-! DEFINITION. SHA-384 and the verification of an ECDSA P-384 signature, which the image check and the package check
use (R22, R392). The manual names the algorithms; what they compute is FIPS 180-4 and FIPS 186-4 (PRESUMED, log 19). -/

namespace Sys2Proof.Machine

/-! ## SHA-384 -/

/-- Round constants of SHA-384, part 0. -/
def shaK0 : List Nat :=
  [0x428a2f98d728ae22, 0x7137449123ef65cd, 0xb5c0fbcfec4d3b2f, 0xe9b5dba58189dbbc,
   0x3956c25bf348b538, 0x59f111f1b605d019, 0x923f82a4af194f9b, 0xab1c5ed5da6d8118,
   0xd807aa98a3030242, 0x12835b0145706fbe, 0x243185be4ee4b28c, 0x550c7dc3d5ffb4e2,
   0x72be5d74f27b896f, 0x80deb1fe3b1696b1, 0x9bdc06a725c71235, 0xc19bf174cf692694]

/-- Round constants of SHA-384, part 1. -/
def shaK1 : List Nat :=
  [0xe49b69c19ef14ad2, 0xefbe4786384f25e3, 0x0fc19dc68b8cd5b5, 0x240ca1cc77ac9c65,
   0x2de92c6f592b0275, 0x4a7484aa6ea6e483, 0x5cb0a9dcbd41fbd4, 0x76f988da831153b5,
   0x983e5152ee66dfab, 0xa831c66d2db43210, 0xb00327c898fb213f, 0xbf597fc7beef0ee4,
   0xc6e00bf33da88fc2, 0xd5a79147930aa725, 0x06ca6351e003826f, 0x142929670a0e6e70]

/-- Round constants of SHA-384, part 2. -/
def shaK2 : List Nat :=
  [0x27b70a8546d22ffc, 0x2e1b21385c26c926, 0x4d2c6dfc5ac42aed, 0x53380d139d95b3df,
   0x650a73548baf63de, 0x766a0abb3c77b2a8, 0x81c2c92e47edaee6, 0x92722c851482353b,
   0xa2bfe8a14cf10364, 0xa81a664bbc423001, 0xc24b8b70d0f89791, 0xc76c51a30654be30,
   0xd192e819d6ef5218, 0xd69906245565a910, 0xf40e35855771202a, 0x106aa07032bbd1b8]

/-- Round constants of SHA-384, part 3. -/
def shaK3 : List Nat :=
  [0x19a4c116b8d2d0c8, 0x1e376c085141ab53, 0x2748774cdf8eeb99, 0x34b0bcb5e19b48a8,
   0x391c0cb3c5c95a63, 0x4ed8aa4ae3418acb, 0x5b9cca4f7763e373, 0x682e6ff3d6b2b8a3,
   0x748f82ee5defb2fc, 0x78a5636f43172f60, 0x84c87814a1f0ab72, 0x8cc702081a6439ec,
   0x90befffa23631e28, 0xa4506cebde82bde9, 0xbef9a3f7b2c67915, 0xc67178f2e372532b]

/-- Round constants of SHA-384, part 4. -/
def shaK4 : List Nat :=
  [0xca273eceea26619c, 0xd186b8c721c0c207, 0xeada7dd6cde0eb1e, 0xf57d4f7fee6ed178,
   0x06f067aa72176fba, 0x0a637dc5a2c898a6, 0x113f9804bef90dae, 0x1b710b35131c471b,
   0x28db77f523047d84, 0x32caab7b40c72493, 0x3c9ebe0a15c9bebc, 0x431d67c49c100d4c,
   0x4cc5d4becb3e42b6, 0x597f299cfc657e2a, 0x5fcb6fab3ad6faec, 0x6c44198c4a475817]

/-- The 80 round constants. -/
def shaK : List Nat := shaK0 ++ shaK1 ++ shaK2 ++ shaK3 ++ shaK4

/-- The initial hash value of SHA-384. -/
def shaInit : List Nat :=
  [0xcbbb9d5dc1059ed8, 0x629a292a367cd507, 0x9159015a3070dd17, 0x152fecd8f70e5939,
   0x67332667ffc00b31, 0x8eb44a8768581511, 0xdb0c2e0d64f98fa7, 0x47b5481dbefa4fa4]

/-- A 64-bit rotation to the right. -/
def rotr64 (x n : Nat) : Nat := x / 2 ^ n + x % 2 ^ n * 2 ^ (64 - n)

/-- 64-bit complement. -/
def not64 (x : Nat) : Nat := 0xFFFFFFFFFFFFFFFF - x

/-- Modulo 2^64. -/
def mod64 (x : Nat) : Nat := x % 0x10000000000000000

def shaBig0 (x : Nat) : Nat := Nat.xor (Nat.xor (rotr64 x 28) (rotr64 x 34)) (rotr64 x 39)
def shaBig1 (x : Nat) : Nat := Nat.xor (Nat.xor (rotr64 x 14) (rotr64 x 18)) (rotr64 x 41)
def shaSmall0 (x : Nat) : Nat := Nat.xor (Nat.xor (rotr64 x 1) (rotr64 x 8)) (x / 2 ^ 7)
def shaSmall1 (x : Nat) : Nat := Nat.xor (Nat.xor (rotr64 x 19) (rotr64 x 61)) (x / 2 ^ 6)

/-- The next word of the message schedule, newest first. -/
def shaExtend (w : List Nat) : List Nat :=
  mod64 (shaSmall1 (w.getD 1 0) + w.getD 6 0 + shaSmall0 (w.getD 14 0) + w.getD 15 0) :: w

/-- The 80 words of the message schedule from 16, in order. -/
def shaSchedule (block : List Nat) : List Nat :=
  ((List.range 64).foldl (fun w _ => shaExtend w) block.reverse).reverse

/-- The eight working variables. -/
structure ShaVars where
  a : Nat
  b : Nat
  c : Nat
  d : Nat
  e : Nat
  f : Nat
  g : Nat
  h : Nat

/-- One round. -/
def shaRound (v : ShaVars) (kw : Nat × Nat) : ShaVars :=
  let ch := Nat.xor (Nat.land v.e v.f) (Nat.land (not64 v.e) v.g)
  let maj := Nat.xor (Nat.xor (Nat.land v.a v.b) (Nat.land v.a v.c)) (Nat.land v.b v.c)
  let t1 := v.h + shaBig1 v.e + ch + kw.1 + kw.2
  let t2 := shaBig0 v.a + maj
  { a := mod64 (t1 + t2), b := v.a, c := v.b, d := v.c, e := mod64 (v.d + t1), f := v.e, g := v.f, h := v.g }

/-- One block of 16 words. -/
def shaBlock (hs block : List Nat) : List Nat :=
  let x (i : Nat) : Nat := hs.getD i 0
  let v := (shaK.zip (shaSchedule block)).foldl shaRound
    { a := x 0, b := x 1, c := x 2, d := x 3, e := x 4, f := x 5, g := x 6, h := x 7 }
  [mod64 (x 0 + v.a), mod64 (x 1 + v.b), mod64 (x 2 + v.c), mod64 (x 3 + v.d), mod64 (x 4 + v.e), mod64 (x 5 + v.f),
   mod64 (x 6 + v.g), mod64 (x 7 + v.h)]

/-- The n big-endian bytes of a number. -/
def beBytes (n v : Nat) : List Byte := (leBytes n v).reverse

/-- Big-endian 64-bit words of bytes, as many as asked for. -/
def beWords64 : Nat → List Byte → List Nat
  | 0, _ => []
  | n + 1, bs => beNat (bs.take 8) :: beWords64 n (bs.drop 8)

/-- Blocks of 128 bytes hashed in turn. -/
def shaBlocks : Nat → List Nat → List Byte → List Nat
  | 0, hs, _ => hs
  | n + 1, hs, bs => shaBlocks n (shaBlock hs (beWords64 16 (bs.take 128))) (bs.drop 128)

/-- The padding of a message of n bytes. -/
def shaPad (n : Nat) : List Byte :=
  [0x80] ++ List.replicate ((239 - n % 128) % 128) 0 ++ beBytes 16 (8 * n)

/-- SHA-384 of bytes: 48 bytes. -/
def sha384 (bs : List Byte) : List Byte :=
  let m := bs ++ shaPad bs.length
  ((shaBlocks (m.length / 128) shaInit m).take 6).flatMap (beBytes 8)

/-! ## ECDSA P-384 -/

/-- The field prime. -/
def p384 : Nat := 2 ^ 384 - 2 ^ 128 - 2 ^ 96 + 2 ^ 32 - 1

/-- The order of the base point. -/
def n384 : Nat :=
  0xffffffffffffffffffffffffffffffffffffffffffffffffc7634d81f4372ddf581a0db248b0a77aecec196accc52973

/-- The coefficient b of the curve. -/
def b384 : Nat :=
  0xb3312fa7e23ee7e4988e056be3f82d19181d9c6efe8141120314088f5013875ac656398d8a2ed19d2a85c8edd3ec2aef

/-- The base point. -/
def gx384 : Nat :=
  0xaa87ca22be8b05378eb1c71ef320ad746e1d3b628ba79b9859f741e082542a385502f25dbf55296c3a545e3872760ab7

def gy384 : Nat :=
  0x3617de4a96262c6f5d9e98bf9292dc29f8f41dbd289a147ce9da3113b5f0b8c00a60b1ce1d7e819d7a431d7c90ea0e5f

/-- A point in Jacobian coordinates; z = 0 is the point at infinity. -/
structure JPoint where
  x : Nat
  y : Nat
  z : Nat
  deriving DecidableEq, Repr

/-- Subtraction modulo p. -/
def subP (a b : Nat) : Nat := (a + p384 - b % p384) % p384

/-- A point doubled (a = −3). -/
def jDouble (q : JPoint) : JPoint :=
  if q.z = 0 then q else
    let delta := q.z * q.z % p384
    let gamma := q.y * q.y % p384
    let beta := q.x * gamma % p384
    let alpha := 3 * (subP q.x delta) * ((q.x + delta) % p384) % p384
    let x := subP (alpha * alpha % p384) (8 * beta)
    let z := subP (subP ((q.y + q.z) * (q.y + q.z) % p384) gamma) delta
    { x := x, y := subP (alpha * subP (4 * beta % p384) x % p384) (8 * (gamma * gamma % p384)), z := z }

/-- Two points added. -/
def jAdd (q r : JPoint) : JPoint :=
  if q.z = 0 then r else if r.z = 0 then q else
    let z1z1 := q.z * q.z % p384
    let z2z2 := r.z * r.z % p384
    let u1 := q.x * z2z2 % p384
    let u2 := r.x * z1z1 % p384
    let s1 := q.y * r.z % p384 * z2z2 % p384
    let s2 := r.y * q.z % p384 * z1z1 % p384
    if u1 = u2 then
      if s1 = s2 then jDouble q else { x := 1, y := 1, z := 0 }
    else
      let h := subP u2 u1
      let rr := subP s2 s1
      let hh := h * h % p384
      let hhh := h * hh % p384
      let v := u1 * hh % p384
      let x := subP (subP (rr * rr % p384) hhh) (2 * v)
      { x := x, y := subP (rr * subP v x % p384) (s1 * hhh % p384), z := q.z * r.z % p384 * h % p384 }

/-- The lowest n bits of a number, the highest first. -/
def bitsDown (n v : Nat) : List Bool := (List.range n).foldl (fun bs i => bitOf v i :: bs) []

/-- A point multiplied by a number of up to 384 bits. -/
def jMul (k : Nat) (q : JPoint) : JPoint :=
  (bitsDown 384 k).foldl (fun acc b => let d := jDouble acc; if b then jAdd d q else d) { x := 1, y := 1, z := 0 }

/-- A power modulo m, the exponent of up to 384 bits. -/
def powMod (m b e : Nat) : Nat :=
  (bitsDown 384 e).foldl (fun acc k => let s := acc * acc % m; if k then s * b % m else s) (1 % m)

/-- The point lies on the curve, in range and not at infinity. -/
def onCurve (x y : Nat) : Bool :=
  decide (x < p384) && decide (y < p384) && (x != 0 || y != 0) &&
  y * y % p384 == (x * x % p384 * x + 3 * (p384 - x) + b384) % p384

/-- ECDSA P-384: a signature r‖s over a SHA-384 digest, under the public key X‖Y, all big-endian (R22, R23). -/
def ecdsaOk (key sig digest : List Byte) : Bool :=
  let x := beNat (key.take 48)
  let y := beNat ((key.drop 48).take 48)
  let r := beNat (sig.take 48)
  let s := beNat ((sig.drop 48).take 48)
  let e := beNat digest
  if key.length == 96 && sig.length == 96 && onCurve x y && decide (1 ≤ r) && decide (r < n384) && decide (1 ≤ s) &&
      decide (s < n384) then
    let w := powMod n384 s (n384 - 2)
    let q := jAdd (jMul (e * w % n384) { x := gx384, y := gy384, z := 1 })
      (jMul (r * w % n384) { x := x, y := y, z := 1 })
    if q.z = 0 then false else
      let zi := powMod p384 q.z (p384 - 2)
      (q.x * (zi * zi % p384) % p384) % n384 == r
  else false

end Sys2Proof.Machine
end

