-- ==== Sys2Proof/Machine/Flags.lean ====
section
/-! DEFINITION. The flags of the block: FAULT_N and its cause bits, and what detecting an error does to causes,
counters and events (R422 to R424). -/

namespace Sys2Proof.Machine

/-! ## Cause bits (R422) -/

/-- SCHED_STATE. -/
def causeSched : Nat := 0
/-- RING_DUP_ID. -/
def causeDupId : Nat := 1
/-- WAKE_FAIL. -/
def causeWakeFail : Nat := 2
/-- AVS. -/
def causeAvs : Nat := 3
/-- THERMAL_TRIP. -/
def causeTrip : Nat := 4
/-- RING_OVER_BUDGET. -/
def causeOverBudget : Nat := 5
/-- CORE_RETIRED. -/
def causeRetired : Nat := 6
/-- NO_CORES. -/
def causeNoCores : Nat := 7
/-- ECC_STORM. -/
def causeStorm : Nat := 8
/-- ECC_UNCORRECTED. -/
def causeEcc : Nat := 9
/-- SENSOR_LOST. -/
def causeSensor : Nat := 10
/-- RECOVERY. -/
def causeRecovery : Nat := 11
/-- RING_BROKEN. -/
def causeBroken : Nat := 12

/-- The ACK bits of R422: CORE_RETIRED, ECC_STORM, ECC_UNCORRECTED and SENSOR_LOST. -/
def ackBits : Nat := 2 ^ 6 + 2 ^ 8 + 2 ^ 9 + 2 ^ 10

/-- FAULT_N is driven low: a cause bit is set, and RESET_N is not low (R422). -/
def faultLow (h : Hw) : Bool := h.board.resetN && h.board.aonOn && h.health.causes != 0

/-- CAUSES after an ACK: the ACK bits of the mask clear, no other (R422, R425). -/
def causesAfterAck (causes mask : Nat) : Nat := causes - Nat.land causes (Nat.land mask ackBits)

/-- NOT_ACK: the bits of a mask that are not ACK bits (R476). -/
def notAck (mask : Nat) : Nat := mask - Nat.land mask ackBits

/-! ## ECC (R328, R422) -/

/-- The fault class of an ECC error: DRAM and the window replica 2, every SRAM 1 (R412). -/
def memoryClass : Memory → Nat
  | .dram | .window => 2
  | _ => 1

/-- Corrected errors counted, per memory of the health pages (R428). -/
def countCorrected (mem : Memory) (n : Nat) (c : Counters) : Counters :=
  match mem with
  | .coreStore => { c with csCe := satAdd 32 c.csCe n }
  | .dram | .window => { c with dramCe := satAdd 32 c.dramCe n }
  | _ => { c with otherCe := satAdd 32 c.otherCe n }

/-- Uncorrectable errors counted, per memory of the health pages (R428). -/
def countUncorrected (mem : Memory) (c : Counters) : Counters :=
  match mem with
  | .coreStore => { c with csUe := satAdd 32 c.csUe 1 }
  | .dram | .window => { c with dramUe := satAdd 32 c.dramUe 1 }
  | _ => { c with otherUe := satAdd 32 c.otherUe 1 }

/-- Corrected errors in one memory: they count, and 1024 in one second of device time set ECC_STORM (R307, R422). -/
def corrected (mem : Memory) (n : Nat) (h : Hw) : Hw :=
  if n = 0 then h else
    let win := h.power.time / ticksPerSecond
    let old := if h.health.stormWin = win then fitTo 6 0 h.health.storm else List.replicate 6 0
    let was := old.getD mem.code 0
    let h := { h with health := { h.health with
      storm := modifyAt mem.code (· + n) old, stormWin := win, cnt := countCorrected mem n h.health.cnt } }
    if was < 1024 ∧ 1024 ≤ was + n then
      setCause causeStorm (raiseHealth .eccStorm mem.code (memoryClass mem) (was + n) 0 h)
    else h

/-- A FAIL_ECC: it counts, sets the cause and raises ECC_UNCORRECTED with the address (R422, R424). -/
def uncorrected (mem : Memory) (addr : Nat) (h : Hw) : Hw :=
  setCause causeEcc
    (raiseHealth .eccUncorrected mem.code (memoryClass mem) (addr % 2 ^ 32) (addr / 2 ^ 32)
      { h with health := { h.health with cnt := countUncorrected mem h.health.cnt } })

/-- The memory that a device address belongs to (R304, R423). -/
def memoryAt (a : Nat) : Memory :=
  if a < 0x100000000000 then .dram else if a < 0x200000000000 then .coreStore else .window

/-- A channel, or the spare as 32, is lost: cause, event and mark (R130, R422). -/
def sensorLost (unit : Nat) (h : Hw) : Hw :=
  setCause causeSensor (raiseHealth .sensorLost unit 6 0 0
    { h with cal := { h.cal with stuck := setBit h.cal.stuck unit true } })

end Sys2Proof.Machine
end

