-- ==== Sys2Proof/Machine/Flash.lean ====
section
/-! DEFINITION. The flash: its layout and the operations LOADER uses on it (R393). -/

namespace Sys2Proof.Machine

def bootABase : Nat := 0x00000000
def bootBBase : Nat := 0x00001000
def activeBase : Nat := 0x00010000
def stagingBase : Nat := 0x01810000
/-- The trim block's offset in a slot. -/
def trimOffset : Nat := 0x017FF000
/-- The size of a slot. -/
def slotSize : Nat := 0x01800000
def scratchBase : Nat := 0x03010000
def swapLogBase : Nat := 0x03020000
def settingsABase : Nat := 0x03030000
def settingsBBase : Nat := 0x03070000
def settingsSize : Nat := 0x00040000
def calABase : Nat := 0x030B0000
def calBBase : Nat := 0x030B1000
def logBase : Nat := 0x030C0000
/-- Entries of the health log area: 3,904 sectors of 128 (R429). -/
def logEntries : Nat := 3904 * 128
def flashSize : Nat := 0x04000000

/-- Read bytes of the flash. -/
def flashRead (m : Mems) (h : Hw) (a n : Nat) : List Byte := readN m h .flash a n

/-- Read words of the flash. -/
def flashWords (m : Mems) (h : Hw) (a n : Nat) : List Word := readWords m h .flash a n

/-- Erase a range of whole sectors. -/
def flashErase (a n : Nat) (h : Hw) : Hw := put .flash a (List.replicate n 0xFF) h

/-- Program bytes where LOADER has erased before: they read as programmed. -/
def flashProgram (a : Nat) (bs : List Byte) (h : Hw) : Hw := put .flash a bs h

/-- Bytes that no rule states: free values (log 10). -/
def freeBytes : Nat → Hw → List Byte × Hw
  | 0, h => ([], h)
  | n + 1, h =>
    let (k, h) := drawNat h
    let (bs, h) := freeBytes n h
    (BitVec.ofNat 8 k :: bs, h)

/-! ## LOADER's order (R395) -/

/-- The elapsed tick at which an item of flash work arrived. -/
def jobCame : Job → Nat
  | .chunk came .. => came
  | .rollStage came _ => came

/-- The stores of Bell models that running MARKs ask for (R169): when each was issued. -/
def modelStores (h : Hw) : List Nat :=
  h.sched.graphs.flatMap fun g => g.tasks.filterMap fun x =>
    let commit := fld (wordAt x.desc 0) 0 4 == 10 && fld (wordAt x.desc 8) 0 4 == 1
    if commit && x.pieces.contains (.running none) then some x.issuedEl else none

/-- The arrival of every item that LOADER has before it: chunks and staging, calibration and settings stores, log
entries. -/
def loaderItems (h : Hw) : List Nat :=
  h.update.jobs.map jobCame ++ modelStores h ++ h.health.buffer.map (·.since) ++
    (match h.cal.run with
    | some r => if r.phase = .store then [r.timer] else []
    | none => [])

/-- LOADER's turn has come to an item that arrived at a tick: none that waits arrived before it. -/
def loaderTurn (came : Nat) (h : Hw) : Bool := (loaderItems h).all (came ≤ ·)

/-- A record later than another by SEQ (R143). -/
def laterSeq (x y : Nat) : Bool :=
  let d := (x + 2 ^ 32 - y) % 2 ^ 32
  decide (1 ≤ d) && decide (d ≤ 2 ^ 31)

end Sys2Proof.Machine
end

