-- ==== Sys2Proof/Machine/Access.lean ====
section
/-! DEFINITION. The address map, the masters and the access tables (R10, R304 to R317). -/

namespace Sys2Proof.Machine

/-! ## Masters (R10) -/

def HOST_A : Nat := 0
def HOST_S : Nat := 1
def SCHED : Nat := 2
def CORES : Nat := 3
def BELL : Nat := 4
def AFE_DMA : Nat := 5
def LINK_E : Nat := 6
def LINK_W : Nat := 7
def LOADER : Nat := 8

/-- The privileged masters (R10). -/
def privileged (m : Nat) : Bool := m == HOST_S || m == SCHED || m == LOADER

/-- The master of a doorbell write (R31). -/
def fnMaster : Fn → Nat
  | .f0 => HOST_A
  | .f1 => HOST_S

/-- The master of traffic that arrives on a port (R312). -/
def sideMaster : Side → Nat
  | .east => LINK_E
  | .west => LINK_W

/-! ## Straps and identity (R16, R17) -/

def Hw.nodeId (h : Hw) : Nat := 16 * h.board.straps.nodeHi + h.board.straps.nodeLo
def Hw.isHead (h : Hw) : Bool := h.board.straps.ringRole == 0
def Hw.isMember (h : Hw) : Bool := h.board.straps.ringRole == 7
def Hw.standalone (h : Hw) : Bool := h.board.straps.ringRole == 15
def Hw.hasHost (h : Hw) : Bool := h.board.straps.hostCfg != 15
/-- Drumhead is fitted and in use: the strap says so, and CHANNELS is valid, without which the boot runs as if the strap
were fitted but idle (R43, R79). -/
def Hw.senseFitted (h : Hw) : Bool := h.board.straps.senseCfg == 0 && h.image.channels.isSome
def Hw.senseGrounded (h : Hw) : Bool := h.board.straps.senseCfg == 15
/-- The rolling cap of R11 and R16 in mW. -/
def Hw.capMw (h : Hw) : Nat :=
  if h.board.straps.pwrClass = 0 then 60000 else if h.board.straps.pwrClass = 7 then 40000 else 25000

/-! ## The address map (R304, R305) -/

/-- The targets of the device address space. -/
inductive Target where
  | dram | reserved | coreStore | window | host0 | host1
  deriving DecidableEq, Repr

/-- The end of general DRAM. -/
def dramEnd : Nat := 0x000F7C000000
/-- The end of the system reserved range. -/
def reservedEnd : Nat := 0x000F80000000
def coreStoreBase : Nat := 0x100000000000
/-- Bytes of one core's store. -/
def coreStoreSize : Nat := 0x00400000
def windowBase : Nat := 0x200000000000
def windowSize : Nat := 0x01000000
def host0Base : Nat := 0x800000000000
def host1Base : Nat := 0xC00000000000
def spaceEnd : Nat := 0x1000000000000
/-- A partial-array self-refresh segment (R310). -/
def segmentSize : Nat := 0x0001F0000000

/-- The mapped range that holds every byte of [a, a + n), if one does. -/
def targetOf (h : Hw) (a n : Nat) : Option Target :=
  if a + n ≤ dramEnd then some .dram
  else if dramEnd ≤ a ∧ a + n ≤ reservedEnd then some .reserved
  else if coreStoreBase ≤ a ∧ a + n ≤ coreStoreBase + h.board.enabled * coreStoreSize then some .coreStore
  else if windowBase ≤ a ∧ a + n ≤ windowBase + windowSize then some .window
  else if h.hasHost ∧ host0Base ≤ a ∧ a + n ≤ host1Base then some .host0
  else if h.hasHost ∧ host1Base ≤ a ∧ a + n ≤ spaceEnd then some .host1
  else none

/-- An address of the coherent window. -/
def inWindow (a : Nat) : Bool := decide (windowBase ≤ a) && decide (a < windowBase + windowSize)

/-- The segment of a general DRAM address (R310). -/
def segmentOf (a : Nat) : Nat := a / segmentSize

/-- A range lies wholly in segments that DEEP keeps (R310, R314). -/
def inKept (h : Hw) (a n : Nat) : Bool :=
  decide (a + n ≤ dramEnd) &&
    (n == 0 || (List.range (segmentOf (a + n - 1) - segmentOf a + 1)).all
      (fun k => bitOf h.image.access.deepKeep (segmentOf a + k)))

/-! ## Grants (R314, R316) -/

/-- A region grants a master a read, a write, or both. -/
def regionGrants (r : Region) (master : Nat) (rd wr : Bool) : Bool :=
  (!rd || bit r.perm (2 * master)) && (!wr || bit r.perm (2 * master + 1))

/-- Every byte from a up to e lies in a region that grants the access: walk from region to region. -/
def coveredBy (rs : List Region) (master : Nat) (rd wr : Bool) (e : Nat) : Nat → Nat → Bool
  | 0, a => decide (e ≤ a)
  | fuel + 1, a =>
    if e ≤ a then true else
      match rs.find? (fun r => decide (r.base ≤ a) && decide (a < r.base + r.size) && regionGrants r master rd wr) with
      | some r => coveredBy rs master rd wr e fuel (r.base + r.size)
      | none => false

/-- The access tables allow a transfer (R316). -/
def granted (h : Hw) (master : Nat) (rd wr : Bool) (a n : Nat) : Bool :=
  let rs := h.image.access.regions
  coveredBy rs master rd wr (a + n) (rs.length + 1) a

/-- A refused transfer counts, and the boot's first refused address is kept (R316, R428). -/
def countRefusal (master a : Nat) (h : Hw) : Hw :=
  let c := h.health.cnt
  let c := { c with refusals := modifyAt master (fun n => satAdd 16 n 1) (fitTo 16 0 c.refusals) }
  let c := if c.refusedValid then c
    else { c with refusedValid := true, refusedAddr := a, refusedMaster := master }
  { h with health := { h.health with cnt := c } }

/-! ## Reading and writing by device address -/

/-- The space and offset that a device address stands for on this die; host windows have none. -/
def spaceOf (t : Target) (a : Nat) : Option (Space × Nat) :=
  match t with
  | .dram | .reserved => some (.dram, a)
  | .coreStore => some (.coreStore, a - coreStoreBase)
  | .window => some (.window, a - windowBase)
  | .host0 | .host1 => none

/-- Read n bytes at a device address in DRAM, core store or window. -/
def readDev (m : Mems) (h : Hw) (a n : Nat) : List Byte :=
  if windowBase ≤ a then readN m h .window (a - windowBase) n
  else if coreStoreBase ≤ a then readN m h .coreStore (a - coreStoreBase) n
  else readN m h .dram a n

/-- Read n words at a device address. -/
def readDevWords (m : Mems) (h : Hw) (a n : Nat) : List Word := bytesWords (readDev m h a (4 * n))

/-- Write bytes at a device address; a host window's bytes go to host memory, at function × 2^64 + bus address. -/
def putDev (a : Nat) (bs : List Byte) (h : Hw) : Hw :=
  if host1Base ≤ a then put .host (2 ^ 64 + (a - host1Base)) bs h
  else if host0Base ≤ a then put .host (a - host0Base) bs h
  else if windowBase ≤ a then put .window (a - windowBase) bs h
  else if coreStoreBase ≤ a then put .coreStore (a - coreStoreBase) bs h
  else put .dram a bs h

/-- Bytes of ranges that one tile covers. -/
def tileCover (rs : List (Nat × Nat)) (base : Nat) : Nat :=
  (rs.map fun r => min (r.1 + r.2) (base + 65536) - max r.1 base).sum

/-- A write by a master other than CORES, or a task's write from outside the stores, invalidates the tiles it reaches
(R322). -/
def invalidateTiles (a n : Nat) (h : Hw) : Hw :=
  { h with sched := { h.sched with cores := h.sched.cores.map fun k =>
      { k with tiles := k.tiles.filter fun t => tileCover [(a, n)] t.base == 0 } } }

/-- A write by a master other than CORES: core stores lose the tiles that it overwrites (R322). -/
def writeDev (a : Nat) (bs : List Byte) (h : Hw) : Hw := putDev a bs (invalidateTiles a bs.length h)

/-- A read of device memory meets an uncorrectable error (R328). -/
def devBad (h : Hw) (a n : Nat) : Bool :=
  h.health.badUnits.any fun u => decide (a < u + unitSize u) && decide (u < a + n) && decide (0 < n)

/-- A write of device memory covers part of a bad unit (R328). -/
def devBadPartly (h : Hw) (a n : Nat) : Bool :=
  h.health.badUnits.any fun u =>
    decide (a < u + unitSize u) && decide (u < a + n) && decide (0 < n) &&
    !(decide (a ≤ u) && decide (u + unitSize u ≤ a + n))

/-- The first bad unit that a range meets. -/
def firstBad (h : Hw) (a n : Nat) : Nat :=
  (h.health.badUnits.find? fun u => decide (a < u + unitSize u) && decide (u < a + n)).getD a

end Sys2Proof.Machine
end

