-- ==== Sys2Proof/Machine/Operands.lean ====
section
/-! DEFINITION. The operand forms of a submission slot: its header, the reserved fields of each kind, its fetch and the
checks of R34 that every kind shares. -/

namespace Sys2Proof.Machine

/-! ## Slot kinds and reserved fields -/

def kGraph : Nat := 0x01
def kBudget : Nat := 0x02
def kPower : Nat := 0x03
def kUpdateChunk : Nat := 0x04
def kUpdateActivate : Nat := 0x05
def kUpdateConfirm : Nat := 0x06
def kEventPost : Nat := 0x07
def kCalibrate : Nat := 0x08
def kStreamCtl : Nat := 0x09
def kHealthRead : Nat := 0x0A
def kSync : Nat := 0x0B
def kTime : Nat := 0x0C

/-- The reserved bits of a kind's payload within words 4 upward, as (word, lowest bit, length), and the first of the
words that are reserved to the end of the slot (R37, R121, R138, R249, R270, R287, R369, R381, R400, R402, R404,
R425). -/
def payloadReserved : Nat → List (Nat × Nat × Nat) × Nat
  | 0x01 => ([(5, 16, 16)], 6)
  | 0x02 => ([(4, 4, 28)], 7)
  | 0x03 => ([(4, 7, 25)], 5)
  | 0x04 => ([(4, 2, 30), (7, 16, 16)], 9)
  | 0x05 => ([(4, 1, 31)], 5)
  | 0x06 => ([], 4)
  | 0x07 => ([(4, 7, 25)], 5)
  | 0x08 => ([(5, 6, 26)], 6)
  | 0x09 => ([(4, 20, 12), (6, 16, 16), (7, 25, 7), (8, 13, 19)], 10)
  | 0x0A => ([(4, 4, 28), (5, 16, 16), (7, 16, 16), (9, 13, 19)], 10)
  | 0x0B => ([(4, 20, 12)], 7)
  | 0x0C => ([(4, 4, 28), (7, 16, 16)], 8)
  | _ => ([], 4)

/-- KIND of a slot (R32). -/
def slotKind (ws : List Word) : Nat := fld (wordAt ws 0) 0 8

/-- Check 1 of R34: OWN is 1, KIND is a code of R33, and reserved fields are zero. -/
def slotFormatOk (ws : List Word) : Bool :=
  let (fields, rest) := payloadReserved (slotKind ws)
  bit (wordAt ws 0) 31 && decide (1 ≤ slotKind ws) && decide (slotKind ws ≤ 0x0C) &&
  fld (wordAt ws 0) 8 23 == 0 && wordAt ws 2 == 0 && wordAt ws 3 == 0 &&
  fields.all (fun (w, lo, len) => fld (wordAt ws w) lo len == 0) &&
  (ws.drop rest).all (· == 0)

/-- Check 2 of R34: the slot's master holds the kind's permission in SLOT_PERM (R25). -/
def slotPermitted (h : Hw) (kind master : Nat) : Bool :=
  let group := if kind ≤ 8 then fld h.image.system.permLo (4 * (kind - 1)) 4
    else fld h.image.system.permHi (4 * (kind - 9)) 4
  if master = HOST_A then bitOf group 0 else if master = HOST_S then bitOf group 1
  else if master = LINK_E then bitOf group 2 else if master = LINK_W then bitOf group 3 else false

/-! ## Fetching a slot -/

/-- A slot that has been fetched. -/
structure Fetched where
  pos : Nat
  master : Nat
  words : List Word
  deriving Repr

def Fetched.tag (f : Fetched) : Word := wordAt f.words 1

/-- The record of a fetched slot. -/
def Fetched.record (f : Fetched) (st : Status) (d : Detail) (result : List Word) : Record :=
  { pos := f.pos, kind := slotKind f.words, status := st, tag := f.tag, detail := d, result := result }

/-- The slot completes with a status, a detail and no result. -/
def refuse (f : Fetched) (st : Status) (d : Detail) (h : Hw) : Hw := complete (f.record st d []) h

/-- The slot completes with DONE and result words. -/
def doneWith (f : Fetched) (result : List Word) (h : Hw) : Hw := complete (f.record .done .none result) h

/-- The slot that the next fetch reads, while the Z9 fetches: CTRL serves in ACTIVE or IDLE, no entry has stopped
fetching, and the ring can be reached (R34, R371). -/
def nextSlot (h : Hw) : Option Owned :=
  if h.up && !h.sq.fetchStopped && h.ringReach && h.sq.fetch != h.sq.producer then
    h.sq.owned.find? (fun o => o.pos == h.sq.fetch && !o.started)
  else none

/-- IDLE becomes ACTIVE (R364). -/
def goActive (h : Hw) : Hw :=
  if h.power.dev = .idle then { h with power := { h.power with dev := .active } } else h

/-- A slot starts: the fetch position moves on, and any slot but an EVENT_POST ends IDLE (R34, R364). -/
def startSlot (o : Owned) (kind : Nat) (tag : Word) (h : Hw) : Hw :=
  let h := { h with sq := { h.sq with
    fetch := (h.sq.fetch + 1) % 65536
    owned := h.sq.owned.map fun x =>
      if x.pos = o.pos then { x with started := true, kind := kind, tag := tag } else x } }
  if kind = kEventPost then h else goActive h

/-- The words of a slot: read from device DRAM where the ring is there, as the fetch returned them otherwise (log 5). -/
def slotWords (m : Mems) (h : Hw) (pos : Nat) (slot : Slot) : List Word :=
  if h.image.system.sqInDram then readWords m h .dram (h.image.system.sqBase + 128 * (pos % 1024)) 32
  else fitTo 32 0 slot.words

/-- The address of a slot in a ring in device DRAM. -/
def slotAddr (h : Hw) (pos : Nat) : Nat := h.image.system.sqBase + 128 * (pos % 1024)

/-- A slot command. The next slot is fetched; where an uncorrectable error meets the fetch it completes with FAIL_ECC
(R328), KIND and TAG being what no fetch returned: free values (log 13). Where its words are this row's, the checks of
R34 run in order, their refusals with the RESULT that the kind gives every completion, and then the kind's own part.
Where there is no slot to fetch, or it is another row's, nothing happens (log 4). -/
def withSlotOf (result : Fetched → Hw → List Word) (mine : List Word → Bool) (slot : Slot)
    (act : Mems → Fetched → Hw → Hw) (m : Mems) (h : Hw) : Hw :=
  match nextSlot h with
  | none => h
  | some o =>
    let inDram := h.image.system.sqInDram
    let h := if inDram then corrected .dram slot.fixed h else h
    let h := if inDram && slot.bad then markBad [slotAddr h o.pos] h else h
    if inDram && hitsBad h .dram (slotAddr h o.pos) 128 then
      let (k, h) := drawNat h
      let (t, h) := drawNat h
      let h := startSlot o (k % 256) (w32 t) h
      complete { pos := o.pos, kind := k % 256, status := .failEcc, tag := w32 t }
        (uncorrected .dram (firstBad h (slotAddr h o.pos) 128) h)
    else
      let ws := slotWords m h o.pos slot
      if mine ws then
        let f : Fetched := { pos := o.pos, master := o.master, words := ws }
        let h := startSlot o (slotKind ws) (wordAt ws 1) h
        if !slotFormatOk ws then complete (f.record .refusedFormat .none (result f h)) h
        else if !slotPermitted h (slotKind ws) o.master then complete (f.record .refusedAccess .none (result f h)) h
        else act m f h
      else h

/-- A slot command of a kind whose refusals by R34 have no RESULT words. -/
def withSlot (mine : List Word → Bool) (slot : Slot) (act : Mems → Fetched → Hw → Hw) (m : Mems) (h : Hw) : Hw :=
  withSlotOf (fun _ _ => []) mine slot act m h

/-- A slot of one kind. -/
def isKind (k : Nat) (ws : List Word) : Bool := slotKind ws == k

/-- A slot of one kind whose OP, in the given bits of word 4, has a value. -/
def isOp (k lo len op : Nat) (ws : List Word) : Bool := slotKind ws == k && fld (wordAt ws 4) lo len == op

/-- A slot whose KIND is no code of R33, that fails check 1 of R34, or whose OP has no row of its own. -/
def isUnknown (ws : List Word) : Bool :=
  let k := slotKind ws
  let w := wordAt ws 4
  !slotFormatOk ws || (k == kPower && decide (6 ≤ fld w 0 3)) || (k == kUpdateChunk && fld w 0 2 == 3) ||
  (k == kStreamCtl && decide (6 ≤ fld w 8 3)) || (k == kHealthRead && fld w 0 2 == 3) ||
  (k == kSync && decide (4 ≤ fld w 0 3)) || (k == kTime && decide (5 ≤ fld w 0 3))

end Sys2Proof.Machine
end

