-- ==== Sys2Proof/Machine/Board.lean ====
section
/-! DEFINITION. The doorbell, the slots that need nothing of another chapter, and the live vehicle inputs (R20, R21,
R29 to R40). -/

namespace Sys2Proof.Machine

/-! ## The doorbell -/

/-- The index of the oldest slot the Z9 still owns, or P when it owns none (R30). -/
def oldestOwned (h : Hw) : Nat :=
  match h.sq.owned with
  | [] => h.sq.producer
  | o :: _ => o.pos

/-- R30's limit on an advance. -/
def doorbellAccepts (h : Hw) (v : Nat) : Bool :=
  decide (v < 65536) &&
    decide ((v + 65536 - h.sq.producer) % 65536 ≤ 1024 - (h.sq.producer + 65536 - oldestOwned h) % 65536)

/-- The slots that an advance newly covers, attributed to one master (R31). -/
def newlyOwned (p master n : Nat) : List Owned :=
  (List.range n).map fun i => { pos := (p + i) % 65536, master := master }

/-- A doorbell value from a master: accepted with its new slots attributed, or ignored whole with DOORBELL_REJECT
(R29 to R31). -/
def doorbell (master v : Nat) (h : Hw) : Hw :=
  if doorbellAccepts h v then
    { h with sq := { h.sq with
      producer := v
      owned := h.sq.owned ++ newlyOwned h.sq.producer master ((v + 65536 - h.sq.producer) % 65536) } }
  else
    raiseHealth .doorbellReject 0 0 v h.sq.producer
      { h with health := { h.health with cnt := { h.health.cnt with
          doorbellRejects := satAdd 16 h.health.cnt.doorbellRejects 1 } } }

/-- The doorbell of the host functions is seen: there is a host, the link is up, CTRL is on and the node runs (R29,
R40). -/
def doorbellSeen (h : Hw) : Bool := h.hasHost && h.sq.linkUp && h.up

/-- DOORBELL_WRITE: a host write to the doorbell (R30); not seen while CTRL is off (R40). -/
def execDoorbellWrite (fn : Fn) (value : Word) (s : State) : Host.Outcome State Fault Refusal :=
  run (fun _ h => if doorbellSeen h then doorbell (fnMaster fn) value.toNat h else h) s

/-- What a host read of an offset of BAR0 returns: the last accepted producer index with zero above it, and zero at every
other offset (R29). The opcode table has no row for a read, and a read changes nothing. -/
def bar0Read (h : Hw) (offset : Nat) : Word := if offset = 0 then w32 (h.sq.producer % 65536) else 0

/-- BAR0_IGNORED_WRITE: a write to any other offset of BAR0 is ignored (R29). -/
def execBar0IgnoredWrite (_fn : Fn) (_offset : BitVec 12) (_value : Word) (s : State) :
    Host.Outcome State Fault Refusal := quiet id s

/-! ## Slots -/

/-- EVENT_POST: the slot is held with its mask; the oldest waiting event it accepts is delivered to it when the command
ends, and R39 is applied (R37 to R39). -/
def execEventPost (slot : Slot) (s : State) : Host.Outcome State Fault Refusal :=
  run (withSlot (isKind kEventPost) slot fun _ f h =>
    { h with sq := { h.sq with
        posts := h.sq.posts ++ [{ pos := f.pos, mask := fld (wordAt f.words 4) 0 7, tag := f.tag }] } }) s

/-! ## Vehicle inputs -/

/-- The vehicle-input block is powered: VSENSE_HV and VDD_AON are present (R20). -/
def inputsPowered (h : Hw) : Bool := h.board.hvPresent && h.board.aonOn

/-- MOTION_CHANGE: a level of MOTION is accepted after 8 equal samples (R20). -/
def execMotionChange (level : Bool) (s : State) : Host.Outcome State Fault Refusal :=
  quiet (fun h => if inputsPowered h then { h with board := { h.board with motion := level } } else h) s

/-- UPD_LOCK_CHANGE: a level of UPD_LOCK is accepted after 8 equal samples (R20). -/
def execUpdLockChange (level : Bool) (s : State) : Host.Outcome State Fault Refusal :=
  quiet (fun h => if inputsPowered h then { h with board := { h.board with updLock := level } } else h) s

/-- VBAT_SENSE_CONVERSION: a 10-bit conversion enters the last eight (R20). -/
def execVbatSenseConversion (code : BitVec 10) (s : State) : Host.Outcome State Fault Refusal :=
  quiet (fun h => if inputsPowered h then
    { h with board := { h.board with vbat := (code.toNat :: h.board.vbat).take 8 } } else h) s

/-- The VBAT_SENSE reading, 2 mV × the mean of the last eight conversions, is below a threshold in mV; 0 mV where no
conversion stands (R20, R21, log 14). -/
def vbatBelow (h : Hw) (mv : Nat) : Bool :=
  match h.board.vbat with
  | [] => decide (0 < mv)
  | cs => decide (2 * cs.sum < mv * cs.length)

/-- What R21 reports while VSENSE_HV is absent. -/
def inputsAbsent (b : Board) : Board :=
  { b with hvPresent := false, motion := true, updLock := true, vwake := false, vbat := [] }

/-! ## The ring wake pins -/

/-- RWAKE_OUT_PULSE_END: RWAKE_OUT falls after its 200 µs pulse (R163, R467). -/
def execRwakeOutPulseEnd (s : State) : Host.Outcome State Fault Refusal :=
  quiet (fun h => { h with board := { h.board with rwakeOut := false } }) s

/-- RWAKE_QUIET_END: RWAKE_IN is heeded again (R163). -/
def execRwakeQuietEnd (s : State) : Host.Outcome State Fault Refusal :=
  quiet (fun h => { h with board := { h.board with rwakeQuiet := false } }) s

end Sys2Proof.Machine
end

