-- ==== Sys2Proof/Machine/Drum.lean ====
section
/-! DEFINITION. Drumhead's features: beats and streams, channel states, log compression, frame records, the frame ring
and the holding buffer (R41 to R79). -/

namespace Sys2Proof.Machine

/-! ## Beats and streams -/

/-- The base beat P in ticks for a BEAT code (R65). -/
def beatTicks (code : Nat) : Nat :=
  match code with
  | 0 => 245760
  | 1 => 122880
  | 2 => 491520
  | _ => 983040

/-- CHANNELS in force; absent or invalid counts as every channel OFF (R79). -/
def channelsCfg (h : Hw) : ChannelsSec := h.image.channels.getD {}

/-- One channel's entry of CHANNELS. -/
def channelCfg (h : Hw) (c : Nat) : ChannelCfg := (channelsCfg h).channels.getD c {}

/-- P of the image in force. -/
def basePeriod (h : Hw) : Nat := beatTicks (channelsCfg h).beat

/-- d_s: the divider of stream s (R66, R78). -/
def streamDivider (h : Hw) (s : Nat) : Nat := 2 ^ (channelsCfg h).streamDiv.getD s 0

/-- Stream s closes a beat at the boundary that ends base beat n (R66). -/
def streamCloses (h : Hw) (n s : Nat) : Bool := (n + 1) % streamDivider h s == 0

/-- T_settle in ticks (R70). -/
def settleTicks (vibration : Bool) : Nat := if vibration then msTicks 1250 else msTicks 50

/-! ## Features -/

/-- The largest feature code n for which e reaches t(n) of R61, found bit by bit: e ≥ t(n) exactly when
e^320 ≥ 10^(3 (2n − 1)). -/
def logCode (e : Nat) : Nat :=
  let p := e ^ 320
  [128, 64, 32, 16, 8, 4, 2, 1].foldl (fun n b => if 10 ^ (6 * (n + b) - 3) ≤ p then n + b else n) 0

/-- A tap is enabled; TAP_EN zero enables all (R58). -/
def tapEnabled (tapEn k : Nat) : Bool := tapEn == 0 || bitOf tapEn k

/-- v exceeds V_fs = 2.0 V × 10^(−6 GAIN / 20): exactly when (v / 2)^10 × 10^(3 GAIN) > 1 (R50). -/
def aboveFullScale (gain : Nat) (v : Rat) : Bool :=
  decide ((2 * v.den) ^ 10 < v.num.toNat ^ 10 * 10 ^ (3 * gain))

/-- min(65535, round(65535 v / V_fs)), a half rounding up (R60, R63), found bit by bit: n is reached exactly when
2n − 1 ≤ 65535 v × 10^(3 GAIN / 10). -/
def linearCode (gain : Nat) (v : Rat) : Nat :=
  let p := (65535 * v.num.toNat) ^ 10 * 10 ^ (3 * gain)
  [32768, 16384, 8192, 4096, 2048, 1024, 512, 256, 128, 64, 32, 16, 8, 4, 2, 1].foldl
    (fun n b => if ((2 * (n + b) - 1) * v.den) ^ 10 ≤ p then n + b else n) 0

/-- Dumps D and residue S of an integrator that holds E = 1024 D + S (R60). -/
def integrator (e : Nat) : Nat × Nat := (e / 1024, e % 1024)

/-- A tap's linear value: the ideal E of the mean over the beat of t ticks, and the departure that R462 allows, 1 % and 2
codes (DESIGN CHOICE where R462 gives no limit, log 147). -/
def tapCode (gain t : Nat) (area : Rat) (err : Int) : Nat :=
  let e := linearCode gain (area / (t : Rat))
  let e := if err.natAbs * 100 ≤ e + 200 then min 65535 ((e : Int) + err).toNat else e
  let (d, s) := integrator e
  1024 * d + s

/-- The peak's linear value: above 64 within 0.5 dB of the ideal, at or below 64 with any error (R63, R462). -/
def peakCode (gain : Nat) (peak : Rat) (err : Int) : Nat :=
  let e := linearCode gain peak
  let x := min 65535 ((e : Int) + err).toNat
  if e ≤ 64 ∨ (x ^ 40 ≤ e ^ 40 * 10 ∧ e ^ 40 ≤ x ^ 40 * 10) then x else e

/-- One turning point of x past the crossing detector: x below −H arms it, x above +H counts where it is armed. H is
V_fs × 2^(2 XING_HYST − 10) times the share of its nominal value that the sample gives (R64, R462). -/
def crossStep (gain : Nat) (scale : Rat) (p : Nat × Bool) (x : Rat) : Nat × Bool :=
  if aboveFullScale gain (-x * scale) then (p.1, true)
  else if p.2 && aboveFullScale gain (x * scale) then (p.1 + 1, false)
  else p

/-- Crossings of a beat and the detector's state after it (R64). -/
def countCrossings (cfg : ChannelCfg) (s : ChannelSample) (armed : Bool) : Nat × Bool :=
  s.turns.foldl (crossStep cfg.gain (2 ^ (10 - 2 * cfg.xingHyst) / s.hyst)) (0, armed)

/-- The band features of a channel at the close of a beat of t ticks: log codes of its enabled taps, 0 for the others
(R58, R60, R61). -/
def bandCodes (cfg : ChannelCfg) (t : Nat) (s : ChannelSample) : List Nat :=
  (List.range 16).map fun k =>
    if tapEnabled cfg.tapEn k then logCode (tapCode cfg.gain t (s.areas.getD k 0) (s.errs.getD k 0)) else 0

/-- The crossing feature of a count (R64). -/
def xingCode (cfg : ChannelCfg) (n : Nat) : Nat := min 255 (n / 2 ^ cfg.xingDiv)

/-- What a closing stream beat of t ticks leaves in its channel (R49, R50, R67): features, flags and the crossing
detector. A channel in OFF yields none, the features of one in STUCK read 0. -/
def closeChannel (cfg : ChannelCfg) (t : Nat) (s : ChannelSample) (c : Channel) : Channel :=
  let clip := aboveFullScale cfg.gain s.input
  let bias := s.bias && cfg.bias != 0
  let (n, armed) := countCrossings cfg s c.armed
  match c.state with
  | .off => c
  | .stuck => { c with bands := [], peak := 0, xing := 0, clip := clip, bias := bias, armed := armed }
  | _ => { c with bands := bandCodes cfg t s, peak := logCode (peakCode cfg.gain s.peak s.peakErr)
                  xing := xingCode cfg n, clip := clip, bias := bias, armed := armed }

/-! ## Channel states (R69) -/

/-- A channel's state right after SENSE powers up. -/
def powerUpChannel (h : Hw) (c : Nat) : Channel :=
  { state :=
      if bitOf h.cal.stuck c then .stuck
      else if (channelCfg h c).mode = 0 then .off
      else if h.board.hvLow then .hvLow else .settling
    since := h.power.elapsed }

/-- SENSE powers down: every channel is OFF but a STUCK one (R69). -/
def powerDownChannel (c : Channel) : Channel := if c.state = .stuck then { state := .stuck } else {}

/-- VSENSE_HV falls below its threshold (R69). -/
def hvFallChannel (c : Channel) : Channel :=
  match c.state with
  | .settling | .live => { c with state := .hvLow }
  | _ => c

/-- VSENSE_HV is back above its threshold: settling restarts (R69). -/
def hvRiseChannel (el : Nat) (c : Channel) : Channel :=
  if c.state = .hvLow then { c with state := .settling, since := el } else c

/-- VSENSE_HV low: the board's level, the channels and this beat's HV_LOW (R69, R72). -/
def hvFall (h : Hw) : Hw :=
  { h with
    board := { h.board with hvLow := true }
    drum := { h.drum with hvLowSeen := true, channels := h.drum.channels.map hvFallChannel } }

/-- VSENSE_HV restored (R69). -/
def hvRise (h : Hw) : Hw :=
  { h with
    board := { h.board with hvLow := false, hvPresent := true }
    drum := { h.drum with channels := h.drum.channels.map (hvRiseChannel h.power.elapsed) } }

/-- The stream beat that closes at the boundary of base beat n, reached at elapsed tick el, started at least T_settle
after the channel's settling began (R69). A beat cut short by a time write starts at the write. -/
def settled (h : Hw) (n el c : Nat) (ch : Channel) : Bool :=
  let cfg := channelCfg h c
  ch.state == .settling && streamCloses h n cfg.stream &&
    decide (ch.since + settleTicks cfg.vibration ≤
      max (el - streamDivider h cfg.stream * basePeriod h) h.drum.resetEl)

/-- Channels whose settling ends at the boundary of base beat n are LIVE from this frame (R69). -/
def settleDue (n el : Nat) (h : Hw) : Hw :=
  { h with drum := { h.drum with
    channels := h.drum.channels.mapIdx fun c ch => if settled h n el c ch then { ch with state := .live } else ch } }

/-! ## Frame records -/

/-- A mask with bit c set where f holds of channel c. -/
def channelMask (f : Nat → Bool) : Nat := (List.range 32).foldl (fun n c => if f c then n + 2 ^ c else n) 0

/-- VALID of a channel in this frame: LIVE, and no time write in the beat (R68, R72). -/
def validNow (h : Hw) (c : Nat) : Bool := (h.drum.channels.getD c {}).state == .live && !h.drum.validOff

/-- The 576 bytes of the frame (R73); a channel that is not VALID reads zero. -/
def frameBytes (h : Hw) : List Byte :=
  let ch (c : Nat) : Channel := h.drum.channels.getD c {}
  let one (c n : Nat) : Byte := if validNow h c then BitVec.ofNat 8 n else 0
  ((List.range 32).flatMap fun c => (List.range 16).map fun k => one c ((ch c).bands.getD k 0)) ++
    ((List.range 32).map fun c => one c (ch c).peak) ++ ((List.range 32).map fun c => one c (ch c).xing)

/-- SPARE_ACTIVE and SPARE_FOR of this frame (R72): the channel the spare stands in for, or stood in for earlier in the
beat. -/
def spareInBeat (h : Hw) : Option Nat := h.drum.spareFor.orElse fun _ => h.drum.spareSeen

/-- Header words 0 to 14 of the record that closes base beat n, with HELD and DROPPED still zero (R72). -/
def headerWords (h : Hw) (n : Nat) : List Word :=
  let cfg := channelsCfg h
  let closes (c : Nat) : Bool := streamCloses h n (channelCfg h c).stream
  let ends := (List.range 8).foldl (fun m s => if streamCloses h n s then m + 2 ^ s else m) 0
  let step := h.drum.timeStep || h.drum.copyDiff != 0
  let hv := h.board.hvLow || h.drum.hvLowSeen
  let spare := match spareInBeat h with
    | some c => 2 ^ 12 + c * 2 ^ 13
    | none => 0
  w64 n ++ w64 ((n + 1) * basePeriod h) ++
    [w32 (channelMask (validNow h)), w32 (channelMask closes),
     w32 (channelMask fun c => (h.drum.channels.getD c {}).clip),
     w32 (channelMask fun c => (h.drum.channels.getD c {}).bias),
     w32 h.drum.trimmed, w32 (cfg.beat + ends * 4 + b2n step * 2 ^ 10 + b2n hv * 2 ^ 11 + spare),
     0, 0, 0, 0, 0]

/-- The record of base beat n before HELD, DROPPED and CRC are set: 60 header bytes and the frame. -/
def openRecord (h : Hw) (n : Nat) : FrameRec :=
  { beat := n, bytes := wordsBytes (headerWords h n) ++ frameBytes h }

/-- Set HELD and DROPPED and close the record with its CRC (R72). -/
def sealRecord (held : Bool) (dropped : Nat) (r : FrameRec) : List Byte :=
  let ws := bytesWords (r.bytes.take 60)
  let ws := modifyAt 9 (fun w => if held then w ||| w32 (2 ^ 18) else w) ws
  let ws := modifyAt 10 (fun _ => w32 (min dropped 65535)) ws
  let head := wordsBytes ws
  let frame := r.bytes.drop 60
  head ++ wordsBytes [w32 (crc16 (head ++ frame))] ++ frame

/-! ## The frame ring -/

/-- FRAME_DEPTH (R78). -/
def frameDepth (h : Hw) : Nat := 2 ^ (channelsCfg h).depthLog2

/-- Where the record of base beat n lies (R74). -/
def frameAddr (h : Hw) (n : Nat) : Nat := (channelsCfg h).frameBase + 640 * (n % frameDepth h)

/-- AFE_DMA writes a record and publishes it, or the access table refuses it: it is discarded, counted, and
FRAME_ACCESS is raised once per boot (R74, R77). -/
def publishRecord (held : Bool) (h : Hw) (r : FrameRec) : Hw :=
  let a := frameAddr h r.beat
  if granted h AFE_DMA false true a 640 && (targetOf h a 640).isSome then
    let h := writeDev a (sealRecord held h.drum.dropped r) h
    { h with drum := { h.drum with dropped := 0, latest := some r.beat } }
  else
    let h := countRefusal AFE_DMA a
      { h with drum := { h.drum with dropped := satAdd 16 h.drum.dropped 1, accessRaised := true } }
    h

/-- FRAME_ACCESS, once per boot (R77). -/
def publish (held : Bool) (h : Hw) (r : FrameRec) : Hw :=
  let h' := publishRecord held h r
  if h'.drum.accessRaised && !h.drum.accessRaised then raiseHealth .frameAccess 0 0 0 0 h' else h'

/-- A record enters the holding buffer, which keeps the 32 most recent (R76). -/
def holdRecord (r : FrameRec) (h : Hw) : Hw :=
  if h.drum.holding.length < 32 then { h with drum := { h.drum with holding := h.drum.holding ++ [r] } }
  else { h with drum := { h.drum with
    holding := h.drum.holding.drop 1 ++ [r], dropped := satAdd 16 h.drum.dropped 1 } }

/-- A record crosses the barrier: one whose CRC fails is discarded and counted, any other is published (R45, R75). -/
def crossBarrier (held ok : Bool) (h : Hw) (r : FrameRec) : Hw :=
  if ok then publish held h r
  else
    { h with
      drum := { h.drum with dropped := satAdd 16 h.drum.dropped 1 }
      health := { h.health with cnt := { h.health.cnt with barrierCrc := satAdd 16 h.health.cnt.barrierCrc 1 } } }

/-- MEM comes up: the held records cross the barrier in beat order, with HELD set; `bad` are those whose CRC fails, counted
from the oldest as 0 (R45, R76). -/
def flushHolding (bad : List Nat) (h : Hw) : Hw :=
  h.drum.holding.zipIdx.foldl (fun h r => crossBarrier true (!bad.contains r.2) h r.1)
    { h with drum := { h.drum with holding := [] } }

/-- A record's way from the beat boundary: held on Drumhead's side while MEM is not up, its drain in an entry among them
(R388), or across the barrier (R45, R75, R76). -/
def storeRecord (barrierOk : Bool) (r : FrameRec) (h : Hw) : Hw :=
  if h.power.memOn && !h.saving then crossBarrier false barrierOk h r else holdRecord r h

/-! ## The boundary -/

/-- The frame path runs: SENSE is powered and Drumhead is fitted and in use with valid CHANNELS (R43, R79). -/
def framesRun (h : Hw) : Bool := h.drum.senseOn && h.senseFitted

/-- Closing streams are converted at the boundary of base beat n (R66, R67). -/
def closeStreams (n : Nat) (samples : List ChannelSample) (h : Hw) : Hw :=
  { h with drum := { h.drum with
    channels := h.drum.channels.mapIdx fun c ch =>
      let cfg := channelCfg h c
      if streamCloses h n cfg.stream then
        closeChannel cfg (streamDivider h cfg.stream * basePeriod h) (samples.getD c {}) ch
      else ch } }

/-- The health counters of a frame: channel-beats with BIAS_FAULT and base beats with HV_LOW (R428). -/
def countFrame (n : Nat) (h : Hw) : Hw :=
  let biased := ((List.range 32).filter fun c =>
    streamCloses h n (channelCfg h c).stream && (h.drum.channels.getD c {}).bias).length
  let c := h.health.cnt
  { h with health := { h.health with cnt := { c with
    biasBeats := satAdd 32 c.biasBeats biased
    hvLowBeats := satAdd 32 c.hvLowBeats (b2n (h.board.hvLow || h.drum.hvLowSeen)) } } }

/-- The marks of a beat start afresh with the beat that the boundary opens. -/
def openBeat (n : Nat) (h : Hw) : Hw :=
  { h with drum := { h.drum with
    nextBeat := n + 1, timeStep := false, validOff := false, hvLowSeen := false, trimmed := 0, spareSeen := none } }

/-- A time write resets the integrators and clears the crossing detectors: TIME_STEP is set, VALID is clear in the frame
that closes the interrupted beat, and beats go on from the new time (R64, R68). -/
def drumTimeWrite (h : Hw) : Hw :=
  { h with drum := { h.drum with
    timeStep := true, validOff := true, resetEl := h.power.elapsed, nextBeat := h.power.time / basePeriod h
    channels := h.drum.channels.map fun c => { c with armed := false } } }

/-- CHANNEL_SETTLED: at the boundary that closes its first stream beat after T_settle a channel becomes LIVE (R69). -/
def execChannelSettled (channel : Nat) (s : State) : Host.Outcome State Fault Refusal :=
  quiet (fun h =>
    if framesRun h then
      let n := h.drum.nextBeat
      let el := h.power.elapsed + ((n + 1) * basePeriod h - h.power.time)
      if settled h n el channel (h.drum.channels.getD channel {}) then
        let h := passUntil el h
        { h with drum := { h.drum with
          channels := modifyAt channel (fun ch => { ch with state := .live }) h.drum.channels } }
      else h
    else h) s

end Sys2Proof.Machine
end

