-- ==== Sys2Proof/Machine/Raw.lean ====
section
/-! DEFINITION. The raw path: decimation, FIR and rank paths, the spike detector, fades, the resampler, stamps, blocks,
thresholds and the SYNC slot (R85 to R123). -/

namespace Sys2Proof.Machine

/-! ## Configuration -/

/-- RAWPATH of the image in force. -/
def rawCfg (h : Hw) (n : Nat) : RawCfg :=
  match h.image.raw with
  | some r => r.chains.getD n {}
  | none => {}

/-- The raw path may run, but for the device state (R86): Drumhead is fitted and in use, both sections are valid and
SENSE is powered. -/
def rawAllowed (h : Hw) : Bool :=
  h.senseFitted && h.image.raw.isSome && h.drum.senseOn

/-- The chain of a number. -/
def chainOf (h : Hw) (n : Nat) : Chain := h.raw.chains.getD n {}

/-- Change a chain. -/
def setChain (n : Nat) (f : Chain → Chain) (h : Hw) : Hw :=
  { h with raw := { h.raw with chains := modifyAt n f h.raw.chains } }

/-- The mask of running chains (R123). -/
def runningMask (h : Hw) : Nat :=
  (List.range 8).foldl (fun m n => if (chainOf h n).running then m + 2 ^ n else m) 0

/-! ## Stages (R87 to R89) -/

/-- Saturation of a stage to ±8,388,607 (R88), with its flag. -/
def saturate24 (x : Int) : Int × Bool :=
  if 8388607 < x then (8388607, true) else if x < -8388607 then (-8388607, true) else (x, false)

/-- A fraction rounded to one of its two neighbours; the manual does not say which (R92, log 15). -/
def rawRound (q : Rat) : Int :=
  if q.den = 1 then q.num else if Config.rawRoundsUp q then q.floor + 1 else q.floor

/-- Product of polynomials by their coefficients. -/
def polyMul : List Nat → List Nat → List Nat
  | [], _ => []
  | a :: as, bs =>
    let rest := polyMul as bs
    let here := bs.map (a * ·)
    let n := max here.length (rest.length + 1)
    (List.range n).map fun i => here.getD i 0 + (if i = 0 then 0 else rest.getD (i - 1) 0)

/-- The 61 coefficients of the fourth-order CIC of decimation 16 (R87). -/
def cicKernel : List Nat :=
  let one := List.replicate 16 1
  polyMul one (polyMul one (polyMul one one))

/-- The CIC output over the latest modulator bits, newest first: the CIC sum of ±1, times 128 (R89). -/
def cicOutput (mods : List Bool) : SSample :=
  let s := ((mods.zip cicKernel).map fun (b, c) => if b then (c : Int) else -(c : Int)).sum
  let (x, sat) := saturate24 (s * 128)
  { x := x, sat := sat }

/-- The halfband output over the latest seven CIC outputs, newest first: (−1, 0, 9, 16, 9, 0, −1) / 32 (R89). SAT comes
from every sample of the window, one under a zero coefficient too (DESIGN CHOICE, log 148). -/
def halfOutput (cic : List SSample) : SSample :=
  let c (i : Nat) : Int := (cic.getD i {}).x
  let q : Rat := ((-(c 0) + 9 * c 2 + 16 * c 3 + 9 * c 4 - c 6 : Int) : Rat) / 32
  let (x, sat) := saturate24 (rawRound q)
  { x := x, sat := sat || (cic.take 7).any (·.sat) }

/-- Coefficient of tap i of a response: symmetric about tap 191; UNITY and MUTE exact; DCB exactly zero at zero
frequency; the others free (R92) within the masks of R90 and R91, which RomConforms states of Config.firCoef. -/
def firTap (resp i : Nat) : Rat :=
  let dist := if i ≤ 191 then 191 - i else i - 191
  match resp with
  | 22 => if dist = 0 then 1 else 0
  | 23 => 0
  | 19 => if dist = 0 then -2 * ((List.range 191).map fun k => Config.firCoef 19 (k + 1)).sum else Config.firCoef 19 dist
  | r => Config.firCoef r dist

/-- The FIR output of a response over the latest 383 halfband samples, newest first (R87, R89); SAT comes from every one of
them, whatever its coefficient (DESIGN CHOICE, log 148). -/
def firOutput (resp : Nat) (half : List SSample) : SSample :=
  let q : Rat := ((half.take 383).mapIdx fun i s => firTap resp i * (s.x : Rat)).sum
  let (x, sat) := saturate24 (rawRound q)
  { x := x, sat := sat || (half.take 383).any (·.sat) }

/-- A value set in among sorted ones. -/
def insertInt (x : Int) : List Int → List Int
  | [] => [x]
  | y :: ys => if x ≤ y then x :: y :: ys else y :: insertInt x ys

/-- The middle one of an odd number of values. -/
def median (xs : List Int) : Int := (xs.foldr insertInt []).getD (xs.length / 2) 0

/-- The rank path: the median of the seven halfband samples centred where the FIR is (R94). -/
def rankOutput (half : List SSample) : SSample :=
  let w := (half.drop 188).take 7
  { x := median (w.map (·.x)), sat := w.any (·.sat) }

/-- The output under a pair of path and response (R102). -/
def pairOutput (p : Pair) (half : List SSample) : SSample :=
  if p.rank then rankOutput half else firOutput p.resp half

/-! ## Switching (R102 to R105) -/

/-- What a request did (OUTCOME of R123). -/
inductive SwitchOutcome where
  | fade | pending | noEffect | direct
  deriving DecidableEq, Repr

/-- A target pair arrives at the chain (R95, R103 to R105, R123). Before the chain's first emitted sample it is applied
without a fade, the pair in force among them (OUTCOME 3 where R105 would say 2; DESIGN CHOICE, log 150). -/
def requestPair (target : Pair) (c : Chain) : Chain × SwitchOutcome :=
  if !c.emitted then ({ c with inForce := target }, .direct)
  else match c.fade with
    | some _ => ({ c with pending := some target }, .pending)
    | none =>
      if target = c.inForce then (c, .noEffect)
      else if c.inForce.rank && target.rank then ({ c with inForce := target }, .direct)
      else ({ c with fade := some (target, 0) }, .fade)

/-- The pair from which a request forms its target (R102). -/
def requestBase (c : Chain) : Pair := c.pending.getD c.inForce

/-- At fade sample 64 the target pair comes into force, and a differing pending pair starts the next fade (R103,
R104). -/
def endFade (c : Chain) : Chain :=
  match c.fade with
  | some (t, 64) =>
    let d := { c with inForce := t, fade := none, pending := none }
    match c.pending with
    | some p => (requestPair p d).1
    | none => d
  | _ => c

/-- The quiet count has reached 96 × SPIKE_HOLD on the rank path (R95). -/
def quietDue (cfg : RawCfg) (c : Chain) : Bool := c.spikeRank && decide (96 * cfg.spikeHold ≤ c.quiet)

/-- The target path returns to FIR (R95). -/
def quietReturn (cfg : RawCfg) (c : Chain) : Chain :=
  if quietDue cfg c then { c with spikeRank := false, spikeReqs := c.spikeReqs ++ [false] } else c

/-- The spike detector on a new halfband sample (R95): from the first k with h[k − 6] valid, that is k = 10. -/
def spikeDetect (cfg : RawCfg) (c : Chain) : Chain :=
  if cfg.spikeEn && decide (11 ≤ c.nHalf) then
    let w := (c.half.take 7).map (·.x)
    let d : Int := ((w.getD 3 0 - median w).natAbs : Int)
    if (cfg.spikeRatio : Int) * c.lvl + 8 * 16 * (cfg.spikeFloor : Int) < 8 * d then
      { c with quiet := 0, spikeRank := true, spikeReqs := c.spikeReqs ++ if c.spikeRank then [] else [true] }
    else { c with lvl := c.lvl + (d - c.lvl) / 256, quiet := c.quiet + 1 }
  else c

/-- The spike detector's requests reach the filter stage in order of arrival, after every other request (R102). -/
def applySpike (c : Chain) : Chain :=
  c.spikeReqs.foldl (fun c r => (requestPair { requestBase c with rank := r } c).1) { c with spikeReqs := [] }

/-! ## Filter samples, the resampler and stamps -/

/-- The device time at which filter sample j completes (R109). -/
def filterTick (c : Chain) (j : Nat) : Nat := c.resetTick + 512 * j + 504

/-- The filter sample of the chain's histories, with the fade advanced (R103, R106). -/
def filterSample (c : Chain) : Chain × FSample :=
  match c.fade with
  | none =>
    let o := pairOutput c.inForce c.half
    (c, { x := o.x, rank := c.inForce.rank, sat := o.sat })
  | some (t, i) =>
    let i := i + 1
    let old := pairOutput c.inForce c.half
    let new := pairOutput t c.half
    let q : Rat := (((64 - i : Int) * old.x + (i : Int) * new.x : Int) : Rat) / 64
    let (x, sat) := saturate24 (rawRound q)
    ({ c with fade := some (t, i) },
     { x := x, fade := true, rank := (c.inForce.rank && decide (i < 64)) || t.rank, sat := sat || old.sat || new.sat })

/-- The kernel g at T / 64: symmetric, zero from 4 on, 1 at 0 and 0 at the other integers (R98). -/
def kernelAt (t : Int) : Rat :=
  let a := t.natAbs
  if 256 ≤ a then 0 else if a = 0 then 1 else if a % 64 = 0 then 0 else Config.kernel a

/-- h(p, m) of R98; at p = 64 it is h(0, m − 1). -/
def kernelTap (p m : Nat) : Rat := kernelAt (192 + (p : Int) - 64 * (m : Int))

/-- The resampler's output for an accumulator value, over the latest eight filter samples, newest first (R98). -/
def resample (num a : Nat) (filt : List FSample) : Int × Bool × Nat :=
  let d := a * 65536 / num
  let p := d / 1024
  let w := d % 1024
  let q : Rat := ((filt.take 8).mapIdx fun m s =>
    (((1024 - w : Nat) : Rat) * kernelTap p m + (w : Rat) * kernelTap (p + 1) m) / 1024 * (s.x : Rat)).sum
  let (y, sat) := saturate24 (rawRound q)
  (y, sat, d)

/-- The acquisition time in 1/256 tick (R100). -/
def stampOf (e d : Nat) : Int := 256 * ((e : Int) - 51056) - 2 * (d : Int)

/-! ## Thresholds (R117) -/

/-- The envelope after a sample. -/
def envelope (cfg : RawCfg) (env : Nat) (y : Int) : Nat :=
  if cfg.envShift = 0 then y.natAbs else max y.natAbs (env - env / 2 ^ cfg.envShift)

/-- The threshold block on an emitted sample: envelope, run and peak; the change of state is the row's of its own. -/
def thresholdStep (cfg : RawCfg) (y stamp : Int) (c : Chain) : Chain :=
  if cfg.thrEn then
    let env := envelope cfg c.env y
    let counts := if c.on then decide (env < 128 * (cfg.thrLevel - cfg.thrHyst)) else decide (128 * cfg.thrLevel ≤ env)
    { c with
      env := env
      run := if counts then c.run + 1 else 0
      runStamp := if counts && c.run == 0 then stamp else c.runStamp
      runPeak := if c.on then max c.runPeak env else c.runPeak }
  else c

/-- The run has reached THR_MIN. -/
def thresholdDue (cfg : RawCfg) (c : Chain) : Bool := cfg.thrEn && decide (max cfg.thrMin 1 ≤ c.run)

/-- EVT_ON of the chain's last sample (R114). -/
def markLast (b : Bool) (c : Chain) : Chain :=
  let mark (xs : List OSample) : List OSample := modifyAt (xs.length - 1) (fun s => { s with evtOn := b }) xs
  if c.block.isEmpty then
    { c with closed := modifyAt (c.closed.length - 1) (fun k => { k with samples := mark k.samples }) c.closed }
  else { c with block := mark c.block }

/-- EVENT_THRESHOLD (R118). -/
def raiseThreshold (n : Nat) (cfg : RawCfg) (rise : Bool) (stamp : Int) (peak : Nat) (h : Hw) : Hw :=
  raiseEvent .eventThreshold .none
    ([w32 (n + cfg.channel * 8 + b2n rise * 256)] ++ w64 (patternOf 64 (stamp / 256)) ++
      [w32 (patternOf 8 stamp), w32 peak]) h

/-- The threshold state turns, where it is due, with its event (R117, R118). -/
def turnThreshold (n : Nat) (rise : Bool) (h : Hw) : Hw :=
  let cfg := rawCfg h n
  let c := chainOf h n
  if c.running && c.on != rise && thresholdDue cfg c then
    let peak := if rise then 0 else c.runPeak
    raiseThreshold n cfg rise c.runStamp peak
      (setChain n (fun c => markLast rise { c with on := rise, run := 0, runPeak := if rise then c.env else 0 }) h)
  else h

/-! ## Blocks (R112 to R116) -/

/-- The open block closes; an empty one leaves nothing. -/
def closeBlock (short timeStep : Bool) (c : Chain) : Chain :=
  if c.block.isEmpty then c else
    { c with
      closed := c.closed ++ [{ seq := c.seq, samples := c.block, partly := short, timeStep := timeStep
                               valid := c.blockValid, spare := c.blockSpare, response := c.blockResp }]
      seq := (c.seq + 1) % 2 ^ 64, block := [], blockValid := true, blockSpare := false }

/-- The two words of a sample (R114). -/
def sampleWords (s : OSample) : List Word :=
  [w32 (patternOf 24 s.y + b2n s.first * 2 ^ 24 + b2n s.fade * 2 ^ 25 + b2n s.rank * 2 ^ 26 + b2n s.sat * 2 ^ 27 +
      b2n s.evtOn * 2 ^ 28),
   w32 (patternOf 24 (s.stamp / 256) * 256 + patternOf 8 s.stamp)]

/-- The 1024 bytes of a block (R113, R114). -/
def blockBytes (n : Nat) (cfg : RawCfg) (lost : Nat) (b : RawBlock) : List Byte :=
  let t := (b.samples.getD 0 {}).stamp
  let first := b.samples.any (·.first)
  let head := wordsBytes (w64 b.seq ++ w64 (patternOf 64 (t / 256)) ++
    [w32 (patternOf 8 t + b.samples.length * 256 + cfg.channel * 2 ^ 16 + n * 2 ^ 21 + b.response * 2 ^ 24),
     w32 (cfg.num + cfg.den * 4096), w32 (min lost 0xFFFFFFFF),
     w32 (b2n first + b2n b.partly * 2 + b2n b.timeStep * 4 + b2n b.valid * 8 + b2n b.spare * 16), 0, 0, 0, 0, 0, 0, 0])
  let body := wordsBytes (fitTo 240 0 (b.samples.flatMap sampleWords))
  head ++ wordsBytes [w32 (crc16 (head ++ body))] ++ body

/-- A closed block crosses the barrier and is published or discarded (R115, R116). -/
def publishBlock (n : Nat) (barrierOk : Bool) (b : RawBlock) (h : Hw) : Hw :=
  let cfg := rawCfg h n
  let a := cfg.base + 1024 * (b.seq % 2 ^ cfg.depthLog2)
  let drop (h : Hw) : Hw := setChain n (fun c => { c with lost := satAdd 32 c.lost b.samples.length }) h
  if !barrierOk || !h.power.memOn then drop h
  else if granted h AFE_DMA false true a 1024 && (targetOf h a 1024).isSome then
    setChain n (fun c => { c with lost := 0 }) (writeDev a (blockBytes n cfg (chainOf h n).lost b) h)
  else
    let first := !h.raw.accessRaised
    let h := countRefusal AFE_DMA a (drop { h with raw := { h.raw with accessRaised := true } })
    if first then raiseHealth .rawAccess n 0 0 0 h else h

/-- The oldest closed block of a chain goes its way. -/
def shipBlock (n : Nat) (barrierOk : Bool) (h : Hw) : Hw :=
  match (chainOf h n).closed with
  | [] => h
  | b :: bs => publishBlock n barrierOk b (setChain n (fun c => { c with closed := bs }) h)

/-- Every closed block of every chain is published (before a save begins, R86). -/
def shipAll (h : Hw) : Hw :=
  (List.range 8).foldl (fun h n => (List.range (chainOf h n).closed.length).foldl (fun h _ => shipBlock n true h) h) h

/-- Blocks and samples not yet published are discarded and counted toward LOST (R116, R388). -/
def discardBlocks (c : Chain) : Chain :=
  { c with closed := [], lost := satAdd 32 c.lost ((c.closed.map (·.samples.length)).sum) }

/-! ## Resets and stops (R107 to R110) -/

/-- The first modulator edge at or after an instant (R88). -/
def edgeFrom (t : Nat) : Nat := (t + 7) / 8 * 8

/-- A reset of a chain at a reset instant (R107): its open block closes, histories, phases, accumulator, fade, spike
detector and threshold start afresh, on the FIR path. -/
def resetChain (t : Nat) (timeStep : Bool) (c : Chain) : Chain :=
  let c := closeBlock true timeStep c
  let p := match c.pending, c.fade with
    | some p, _ => p
    | none, some (t, _) => t
    | none, none => c.inForce
  { c with
    resetTick := t, inForce := { rank := false, resp := p.resp }, pending := none, fade := none, mods := [], cic := []
    half := [], filt := [], nHalf := 0, nFilt := 0, acc := 0, muffled := true, emitted := false, lvl := 0, quiet := 0
    spikeRank := false, spikeReqs := [], env := 0, run := 0, on := false, runPeak := 0 }

/-- Every running chain resets at one instant (R107). -/
def resetRunning (t : Nat) (timeStep : Bool) (h : Hw) : Hw :=
  { h with raw := { h.raw with
    chains := h.raw.chains.map fun c => if c.running then resetChain t timeStep c else c } }

/-- A chain stops: its open block closes short (R115). -/
def stopChain (c : Chain) : Chain :=
  { closeBlock true false c with running := false, stopping := false, stopSlots := [], resetAt := none, resetSlot := none }

/-- Every chain stops, as on entry to SLEEP, DEEP or OFF and where SENSE powers down (R86); waiting SYNC slots end. -/
def stopAllChains (h : Hw) : Hw :=
  { h with raw := { h.raw with chains := h.raw.chains.map stopChain, waits := [] } }

/-- The modulator of a unit is powered: a chain that reads it runs, or its START has powered it up; the spare's where the
spare stands in for a channel that a running chain reads (R110, R111). -/
def modulatorOn (h : Hw) (unit : Nat) : Bool :=
  let unit := if unit = 32 then h.drum.spareFor else some unit
  (List.range 8).any fun n =>
    let c := chainOf h n
    unit == some (rawCfg h n).channel && (c.running || (c.resetAt.isSome && decide (c.resetPower ≤ h.power.elapsed)))

/-- Complete an owned, started slot by its index, with the KIND and TAG it was fetched with. -/
def completeOwned (pos : Nat) (st : Status) (d : Detail) (result : List Word) (h : Hw) : Hw :=
  match h.sq.owned.find? (fun o => o.pos == pos) with
  | some o => complete { pos := pos, kind := o.kind, status := st, tag := o.tag, detail := d, result := result } h
  | none => h

/-- RESULT of a SYNC slot (R123). -/
def syncResult (applied running outcome : Nat) : List Word := w64 applied ++ [w32 (running + outcome * 256)]

/-- SYNC, START and STOP slots that wait in Drumhead fail as SENSE goes down (log 52). -/
def failRawSlots (h : Hw) : Hw :=
  let starts := h.raw.chains.filterMap (·.resetSlot)
  let stops := h.raw.chains.flatMap (·.stopSlots)
  let slots := (h.raw.waits.map (·.pos) ++ starts ++ stops).eraseDups
  slots.foldl (fun h p => completeOwned p .failDomainOff .none [] h) h

/-- On an entry every chain stops as by a STOP (R86): waiting STOPs are applied at once, and SYNC and START slots that
still wait fail (DESIGN CHOICE, log 52). -/
def entryRawSlots (h : Hw) : Hw :=
  let stops := (h.raw.chains.flatMap (·.stopSlots)).eraseDups
  let h := stops.foldl (fun h p => completeOwned p .done .none (syncResult h.power.time 0 0) h) h
  stopAllChains (failRawSlots
    { h with raw := { h.raw with chains := h.raw.chains.map fun c => { c with stopSlots := [] } } })

/-- The device time of a reset that may not fall before an elapsed tick nor before AT (R108, R110). -/
def resetInstant (h : Hw) (ready at_ : Nat) : Nat := edgeFrom (max (h.power.time + (ready - h.power.elapsed)) at_)

/-- A chain waits to start: its modulator powers up as the command reaches Drumhead, within 50 µs, and the reset falls
40 µs later or at AT, whichever is later (R110). The time to cross the barrier is free within its bound (log 16). -/
def askStart (h : Hw) (arrive at_ : Nat) (slot : Option Nat) (c : Chain) : Chain :=
  if c.running || c.resetAt.isSome then c
  else
    let ready := arrive + usTicks 40
    { c with resetAt := some (resetInstant h ready at_), resetSlot := slot, resetPower := arrive, resetReady := ready
             resetFrom := at_ }

/-- Waiting resets after a write of device time: each falls where the new time puts it, at once where AT has passed, and
an AT that passes before its command arrives is late (R108, R110, R122). -/
def retimeWaits (h : Hw) : Hw :=
  let late (w : RawWait) : Bool :=
    if h.power.elapsed < w.arrive ∧ w.at_ ≠ 0 then
      decide (w.at_ < h.power.time + (w.arrive - h.power.elapsed))
    else w.late
  { h with raw := { h.raw with
    chains := h.raw.chains.map fun c =>
      if c.resetAt.isSome then { c with resetAt := some (resetInstant h c.resetReady c.resetFrom) } else c
    waits := h.raw.waits.map fun w =>
      { w with instant := resetInstant h (w.arrive + if w.sync then 0 else usTicks 40) w.at_, late := late w } } }

/-- Chains with AUTOSTART start, after a boot and after every wake into ACTIVE or IDLE (R86). -/
def autostart (h : Hw) : Hw :=
  if rawAllowed h then
    (List.range 8).foldl (fun h n =>
      let cfg := rawCfg h n
      if cfg.enable && cfg.autostart then
        let (k, h) := drawNat h
        setChain n (askStart h (h.power.elapsed + k % usTicks 50) 0 none) h
      else h) h
  else h

/-- A chain's START takes effect: it runs from its reset instant with the response selected for it (R110, R123). -/
def startChain (t : Nat) (c : Chain) : Chain :=
  resetChain t false { c with running := true, stopping := false, resetAt := none, resetSlot := none
                              inForce := { rank := false, resp := c.selected }, pending := none, fade := none }

/-- A START slot completes once no chain waits for it any more. -/
def startDone (pos t : Nat) (h : Hw) : Hw :=
  if h.raw.chains.any (fun c => c.resetSlot == some pos) then h else
    let late := h.raw.waits.any (fun w => w.pos == pos && w.late)
    completeOwned pos .done (if late then .syncLate else .none) (syncResult t (runningMask h) 0)
      { h with raw := { h.raw with waits := h.raw.waits.filter (fun w => w.pos != pos) } }

/-- The waiting SYNC of the earliest reset instant. -/
def firstSync (h : Hw) : Option RawWait :=
  h.raw.waits.foldl (fun best w =>
    if w.sync && (best.map fun b => decide (w.instant < b.instant)).getD true then some w else best) none

/-- CHAIN_RESET: at the reset instant of its START a chain starts; at the instant of a SYNC every running chain resets
(R107, R108, R110). -/
def chainResetEffect (n : Nat) (h : Hw) : Hw :=
  let c := chainOf h n
  match c.resetAt with
  | some t =>
    let h := setChain n (startChain t) (passToTime t h)
    match c.resetSlot with
    | some pos => startDone pos t h
    | none => h
  | none =>
    match firstSync h with
    | some w =>
      if c.running || runningMask h = 0 then
        let h := resetRunning w.instant false (passToTime w.instant h)
        completeOwned w.pos .done (if w.late then .syncLate else .none) (syncResult w.instant (runningMask h) 0)
          { h with raw := { h.raw with waits := h.raw.waits.filter (fun x => x.pos != w.pos) } }
      else h
    | none => h

def execChainReset (chain : Nat) (s : State) : Host.Outcome State Fault Refusal :=
  run (fun _ h => chainResetEffect chain h) s

/-! ## The samples -/

/-- 16 modulator bits, the first in bit 0, and their CIC output. -/
def cicStep (bits : Nat) (c : Chain) : Chain :=
  let mods := ((List.range 16).foldl (fun ms i => bitOf bits i :: ms) c.mods).take 61
  { c with mods := mods, cic := (cicOutput mods :: c.cic).take 7 }

/-- HALFBAND_SAMPLE: 32 modulator bits give two CIC outputs and a halfband sample, on which the spike detector runs
(R89, R95). -/
def execHalfbandSample (chain : Nat) (bits : Word) (s : State) : Host.Outcome State Fault Refusal :=
  quiet (fun h =>
    let c := chainOf h chain
    if c.running then
      let cfg := rawCfg h chain
      setChain chain (fun c =>
        let c := quietReturn cfg c
        let c := cicStep (fld bits 16 16) (cicStep (fld bits 0 16) c)
        spikeDetect cfg { c with half := (halfOutput c.cic :: c.half).take 383, nHalf := c.nHalf + 1 })
        (passToTime (c.resetTick + 256 * c.nHalf + 248) h)
    else h) s

/-- SPIKE_QUIET_RETURN: after 96 × SPIKE_HOLD quiet samples the target path returns to FIR (R95). -/
def execSpikeQuietReturn (chain : Nat) (s : State) : Host.Outcome State Fault Refusal :=
  quiet (fun h => if (chainOf h chain).running then setChain chain (quietReturn (rawCfg h chain)) h else h) s

/-- FADE_END: at fade sample 64 the target pair comes into force (R104). -/
def execFadeEnd (chain : Nat) (s : State) : Host.Outcome State Fault Refusal :=
  quiet (fun h => if (chainOf h chain).running then setChain chain endFade h else h) s

/-- Muffling ends once 200 filter samples have been made (R109). -/
def endMuffle (c : Chain) : Chain := if 200 ≤ c.nFilt then { c with muffled := false } else c

/-- MUFFLE_END (R109). -/
def execMuffleEnd (chain : Nat) (s : State) : Host.Outcome State Fault Refusal :=
  quiet (fun h => if (chainOf h chain).running then setChain chain endMuffle h else h) s

/-- The response in force as a filter sample has been made: at fade sample 64 the target's (R103). -/
def responseNow (c : Chain) : Nat :=
  match c.fade with
  | some (t, 64) => t.resp
  | _ => c.inForce.resp

/-- An output sample is emitted: into the open block, which closes at 120 samples, and through the threshold block
(R98, R109, R115, R117). -/
def emitSample (cfg : RawCfg) (valid spare : Bool) (y : Int) (sat : Bool) (stamp : Int) (c : Chain) : Chain :=
  let w := c.filt.take 8
  let c := thresholdStep cfg y stamp c
  let o : OSample :=
    { y := y, stamp := stamp, first := !c.emitted, fade := w.any (·.fade), rank := w.any (·.rank)
      sat := sat || w.any (·.sat), evtOn := c.on }
  let c := { c with block := c.block ++ [o], blockValid := c.blockValid && valid, blockSpare := c.blockSpare || spare
                    blockResp := responseNow c, emitted := true }
  if c.block.length = 120 then closeBlock false false c else c

/-- One filter sample: the fade, the resampler and the output (R98, R103, R109). -/
def filterStep (cfg : RawCfg) (valid spare : Bool) (c : Chain) : Chain :=
  let e := filterTick c c.nFilt
  let c := applySpike (endMuffle c)
  let (c, x) := filterSample c
  let c := { c with filt := (x :: c.filt).take 8, nFilt := c.nFilt + 1 }
  let a := c.acc + cfg.num
  if cfg.den ≤ a then
    let a := a - cfg.den
    let (y, sat, d) := resample cfg.num a c.filt
    let c := { c with acc := a }
    if c.muffled then c else emitSample cfg valid spare y sat (stampOf e d) c
  else { c with acc := a }

/-- A STOP applies at a filter sample, which then yields no output sample (DESIGN CHOICE, log 149); its slot completes once
no chain waits for it, APPLIED being the tick at which its last chain stops (R110, R123; DESIGN CHOICE, log 149). -/
def stopAt (n t : Nat) (h : Hw) : Hw :=
  let slots := (chainOf h n).stopSlots
  let stopped (h : Hw) (pos : Nat) : Hw :=
    if h.raw.chains.any (fun c => c.stopSlots.contains pos) then h
    else completeOwned pos .done .none (syncResult t (runningMask h) 0) h
  slots.foldl stopped (setChain n stopChain h)

/-- RAW_FILTER_SAMPLE: a filter sample of a running chain, once its two halfband samples are there; what earlier samples
made due and no command has served comes first (R98, R104, R110, R117, log 17). -/
def rawFilterEffect (n : Nat) (h : Hw) : Hw :=
  let c := chainOf h n
  if c.running && decide (2 * (c.nFilt + 1) ≤ c.nHalf) then
    let cfg := rawCfg h n
    let h := passToTime (filterTick c c.nFilt) h
    let h := turnThreshold n false (turnThreshold n true h)
    let h := setChain n (fun c => endFade (quietReturn cfg c)) h
    if c.stopping then stopAt n (filterTick c c.nFilt) h
    else setChain n (filterStep cfg (validNow h cfg.channel) (h.drum.spareFor == some cfg.channel)) h
  else h

def execRawFilterSample (chain : Nat) (s : State) : Host.Outcome State Fault Refusal :=
  run (fun _ h => rawFilterEffect chain h) s

/-- THRESHOLD_RISE (R117, R118). -/
def execThresholdRise (chain : Nat) (s : State) : Host.Outcome State Fault Refusal :=
  run (fun _ h => turnThreshold chain true h) s

/-- THRESHOLD_FALL (R117, R118). -/
def execThresholdFall (chain : Nat) (s : State) : Host.Outcome State Fault Refusal :=
  run (fun _ h => turnThreshold chain false h) s

/-- RAW_BLOCK_CLOSE: a closed block crosses the barrier and is published or discarded (R115, R116). -/
def execRawBlockClose (chain : Nat) (barrierOk : Bool) (s : State) : Host.Outcome State Fault Refusal :=
  run (fun _ h => shipBlock chain barrierOk h) s

/-! ## The SYNC slot (R121 to R123) -/

/-- The payload breaks R121 for its OP. -/
def syncBadForm (ws : List Word) : Bool :=
  let w := wordAt ws 4
  let op := fld w 0 3
  let chains := fld w 3 8
  let chain := fld w 11 3
  let resp := fld w 14 5
  let atEn := bit w 19
  let at_ := dwordAt ws 5
  ((op == 1 || op == 2) && chains == 0) || ((op == 0 || op == 3) && chains != 0) ||
  (op != 3 && (chain != 0 || resp != 0)) || (op == 3 && decide (24 ≤ resp)) ||
  ((op == 2 || op == 3) && atEn) || (!atEn && at_ != 0)

/-- The checks of R122 that every OP shares, before the OP acts. -/
def syncChecked (f : Fetched) (act : Hw → Hw) (h : Hw) : Hw :=
  let w := wordAt f.words 4
  let op := fld w 0 3
  let named (n : Nat) : Bool := if op = 3 then fld w 11 3 == n else bitOf (fld w 3 8) n
  let at_ := dwordAt f.words 5
  let cfg := rawCfg h (fld w 11 3)
  let resp := fld w 14 5
  if syncBadForm f.words then refuse f .refusedFormat .none h
  else if !rawAllowed h then refuse f .refusedState .rawOff h
  else if (op == 1 || op == 3) && (List.range 8).any (fun n => named n && !(rawCfg h n).enable) then
    refuse f .refusedState .chainDisabled h
  else if bit w 19 && decide (h.power.time + 2 ^ 28 < at_) then refuse f .refusedFormat .none h
  else if op == 3 && !(if cfg.respAllow = 0 then resp == cfg.response else bitOf cfg.respAllow resp) then
    refuse f .refusedAccess .responseNotAllowed h
  else act h

/-- When a command with AT reaches Drumhead: the time of arrival and whether AT has passed by then (R110, R122). -/
def syncArrival (ws : List Word) (h : Hw) : Nat × Bool × Hw :=
  let (k, h) := drawNat h
  let t := h.power.time + k % usTicks 50
  (t, bit (wordAt ws 4) 19 && decide (dwordAt ws 5 < t), h)

/-- SYNC: every running chain resets, at once or at AT (R107, R108). With none running as the slot starts it completes at
once, a future AT notwithstanding (DESIGN CHOICE, log 151); APPLIED then names no instant and is a free value (log 18). -/
def syncEffect (f : Fetched) (h : Hw) : Hw :=
  let (t, late, h) := syncArrival f.words h
  if runningMask h = 0 then
    let (k, h) := drawNat h
    complete (f.record .done (if late then .syncLate else .none) (syncResult k (runningMask h) 0)) h
  else
    { h with raw := { h.raw with
        waits := h.raw.waits ++ [{ pos := f.pos, instant := edgeFrom (max t (dwordAt f.words 5)), sync := true
                                   late := late, arrive := h.power.elapsed + (t - h.power.time), at_ := dwordAt f.words 5 }] } }

/-- START: the named chains that do not run wait for their reset instant (R110, R122); one that already waits for an
earlier START is left to it, and with no other chain the slot completes at once (DESIGN CHOICE, log 149). -/
def startEffect (f : Fetched) (h : Hw) : Hw :=
  let mask := fld (wordAt f.words 4) 3 8
  let (t, late, h) := syncArrival f.words h
  let arrive := h.power.elapsed + (t - h.power.time)
  let at_ := dwordAt f.words 5
  let idle := (List.range 8).filter fun n => bitOf mask n && !(chainOf h n).running && (chainOf h n).resetAt.isNone
  if idle.isEmpty then
    let (k, h) := drawNat h
    complete (f.record .done (if late then .syncLate else .none) (syncResult k (runningMask h) 0)) h
  else
    idle.foldl (fun h n => setChain n (askStart h arrive at_ (some f.pos)) h)
      { h with raw := { h.raw with
          waits := h.raw.waits ++ [{ pos := f.pos, instant := resetInstant h (arrive + usTicks 40) at_, sync := false
                                     late := late, arrive := arrive, at_ := at_ }] } }

/-- STOP: the named running chains stop at their next filter sample (R110); a chain whose START still waits is no running
chain and is left to start (DESIGN CHOICE, log 149). -/
def stopEffect (f : Fetched) (h : Hw) : Hw :=
  let mask := fld (wordAt f.words 4) 3 8
  let busy := (List.range 8).filter fun n => bitOf mask n && (chainOf h n).running
  if busy.isEmpty then
    let (k, h) := drawNat h
    complete (f.record .done .none (syncResult k (runningMask h) 0)) h
  else
    busy.foldl (fun h n => setChain n (fun c => { c with stopping := true, stopSlots := c.stopSlots ++ [f.pos] }) h) h

/-- SELECT: a response is requested of one chain (R102 to R105, R123). -/
def selectEffect (f : Fetched) (h : Hw) : Hw :=
  let w := wordAt f.words 4
  let n := fld w 11 3
  let resp := fld w 14 5
  let c := chainOf h n
  if c.running then
    -- a fade that has made its 64 samples has ended (R104)
    let c := endFade c
    let (c', o) := requestPair { requestBase c with resp := resp } c
    let applied := match o with
      | .fade => filterTick c c.nFilt
      | _ => 0
    let code := match o with
      | .fade => 0
      | .pending => 1
      | .noEffect => 2
      | .direct => 3
    let h := setChain n (fun _ => { c' with selected := resp }) h
    doneWith f (syncResult applied (runningMask h) code) h
  else
    let h := setChain n (fun c => { c with selected := resp }) h
    doneWith f (syncResult 0 (runningMask h) 3) h

/-- SYNC_SYNC (R107). -/
def execSyncSync (slot : Slot) (s : State) : Host.Outcome State Fault Refusal :=
  run (withSlot (isOp kSync 0 3 0) slot fun _ f h => syncChecked f (syncEffect f) h) s

/-- SYNC_START (R110). -/
def execSyncStart (slot : Slot) (s : State) : Host.Outcome State Fault Refusal :=
  run (withSlot (isOp kSync 0 3 1) slot fun _ f h => syncChecked f (startEffect f) h) s

/-- SYNC_STOP (R110). -/
def execSyncStop (slot : Slot) (s : State) : Host.Outcome State Fault Refusal :=
  run (withSlot (isOp kSync 0 3 2) slot fun _ f h => syncChecked f (stopEffect f) h) s

/-- SYNC_SELECT (R102). -/
def execSyncSelect (slot : Slot) (s : State) : Host.Outcome State Fault Refusal :=
  run (withSlot (isOp kSync 0 3 3) slot fun _ f h => syncChecked f (selectEffect f) h) s

end Sys2Proof.Machine
end

