-- ==== Sys2Proof/Machine/Calib.lean ====
section
/-! DEFINITION. Calibration: measure windows, corrections, a channel's turn, the calibration record and the CALIBRATE
slot (R125 to R146). Levels are integers of 1/64 dB; corrections are exact fractions rounded as R129 says. -/

namespace Sys2Proof.Machine

/-! ## Levels and rounding -/

/-- Rounding half away from zero (R129). -/
def roundAway (q : Rat) : Int := if 0 ≤ q then (q + 1 / 2).floor else -((-q + 1 / 2).floor)

/-- l = round(64 × 20 × log10(max(e, 1))) (R129): the largest n with 10^(2n − 1) ≤ e^2560, found bit by bit. -/
def levelOf (e : Nat) : Int :=
  let p := (max e 1) ^ 2560
  ([4096, 2048, 1024, 512, 256, 128, 64, 32, 16, 8, 4, 2, 1].foldl
    (fun n b => if 10 ^ (2 * (n + b) - 1) ≤ p then n + b else n) 0 : Nat)

/-- The mean of integers as a fraction. -/
def meanOf (xs : List Int) : Rat := (xs.sum : Rat) / (xs.length : Rat)

/-! ## Trims (R125 to R127) -/

/-- TRIM_METHOD: the Z5-compatible one is in force (R126). -/
def z5Method (h : Hw) : Bool := (channelsCfg h).z5

/-- Nominal trims (R125). -/
def nominalTrims : Trims := { freq := List.replicate 16 32, gcode := List.replicate 16 32 }

/-- A field held at the limits of its range, and whether it was (R127). -/
def holdAt (lo hi x : Int) : Int × Bool := if x < lo then (lo, true) else if hi < x then (hi, true) else (x, false)

/-- Codes with corrections subtracted, each held in its range; how many were held. -/
def correctCodes (hi : Int) (codes : List Nat) (deltas : List Int) : List Nat × Nat :=
  let rs := (List.range 16).map fun k => holdAt 0 hi ((codes.getD k 0 : Int) - deltas.getD k 0)
  (rs.map (·.1.toNat), (rs.filter (·.2)).length)

/-! ## Corrections (R131 to R133) -/

/-- The mean of l of tap k over the accepted beats, in dB. -/
def meanL (r : CalRun) (k : Nat) : Rat := (r.sumL.getD k 0 : Rat) / (64 * (r.nBeats : Rat))

/-- The mean pair level of taps k and k + 1, in dB. -/
def meanPair (r : CalRun) (k : Nat) : Rat := (r.sumPair.getD k 0 : Rat) / (64 * (r.nBeats : Rat))

/-- A tap is measurable: its mean level is 48 dB or more (R129). -/
def measurable (r : CalRun) (k : Nat) : Bool := decide (3072 * (r.nBeats : Int) ≤ r.sumL.getD k 0)

/-- DAMP as a divisor. -/
def dampOf (r : CalRun) : Rat := if r.damp then 2 else 1

/-- The offset correction: the mean signed integral in units of V_fs × 2^−11 (R131); the integral is in codes of R60,
65,535 of which make V_fs. -/
def offsetMu (r : CalRun) : Rat := (r.sumSigned : Rat) / (r.nBeats : Rat) * 2048 / 65535

/-- Running sums of a list, from a first value. -/
def runningSums (c : Rat) : List Rat → List Rat
  | [] => [c]
  | x :: xs => c :: runningSums (c + x) xs

/-- A list less its mean. -/
def lessMean (xs : List Rat) : List Rat := let m := xs.sum / (xs.length : Rat); xs.map (· - m)

/-- c(k): the centre error of each tap in per cent (R131). -/
def centreErrors (r : CalRun) : List Rat :=
  let s := (List.range 15).map fun k =>
    (meanPair r k - (meanL r k + meanL r (k + 1)) / 2 - 21 / 10) / (-18 / 100)
  lessMean (runningSums 0 (lessMean s))

/-- The template t_k in dB (R131). -/
def templateDb (k : Nat) : Rat :=
  match k with
  | 0 => -30 / 100
  | 1 => -10 / 100
  | 14 => -25 / 100
  | 15 => -60 / 100
  | _ => 0

/-- The least-squares line a + b × k through points (k, v). -/
def fitLine (ps : List (Nat × Rat)) : Rat × Rat :=
  let n : Rat := ps.length
  let sx : Rat := (ps.map fun p => (p.1 : Rat)).sum
  let sy := (ps.map (·.2)).sum
  let sxx : Rat := (ps.map fun p => (p.1 : Rat) * (p.1 : Rat)).sum
  let sxy := (ps.map fun p => (p.1 : Rat) * p.2).sum
  let b := (n * sxy - sx * sy) / (n * sxx - sx * sx)
  ((sy - b * sx) / n, b)

/-- The taps of the gain fit: enabled, with a mean level of 48 dB or more (R131). -/
def gainTaps (tapEn : Nat) (r : CalRun) : List Nat :=
  (List.range 16).filter fun k => tapEnabled tapEn k && measurable r k

/-- GCODE corrections of a gain pass (R131). -/
def gainDeltas (tapEn : Nat) (r : CalRun) : List Int :=
  let m := gainTaps tapEn r
  let v (k : Nat) : Rat := meanL r k - templateDb k
  let (a, b) := fitLine (m.map fun k => (k, v k))
  (List.range 16).map fun k =>
    if m.contains k then roundAway ((v k - a - b * (k : Rat)) * 10 / dampOf r) else 0

/-- A rational set in among sorted ones. -/
def insertRat (x : Rat) : List Rat → List Rat
  | [] => [x]
  | y :: ys => if x ≤ y then x :: y :: ys else y :: insertRat x ys

/-- The lower median (R132). -/
def lowerMedian (xs : List Rat) : Rat := (xs.foldr insertRat []).getD ((xs.length - 1) / 2) 0

/-- The mean of l(4 .. 11) in dB. -/
def midLevel (r : CalRun) : Rat := ((List.range 8).map fun i => meanL r (4 + i)).sum / 8

/-- raw(c) of R132 in dB. -/
def rawLevel (gain : Nat) (r : CalRun) : Rat := midLevel r - 6 * (gain : Rat) - 5 / 100 * (r.codes.gain : Rat)

/-- EVENT_CAL (R141). -/
def raiseCal (d : Detail) (unit phase accepted : Nat) (h : Hw) : Hw :=
  raiseEvent .eventCal d [w32 (unit + phase * 64), w32 accepted] h

/-- PHASE of R141 and unit of a run's state: the spare in the shadow phase, channel c after it. -/
def calUnit (r : CalRun) : Nat × Nat := if r.phase = .shadow then (32, 0) else (r.channel, 1)

/-- CAL_LIMIT, once per held field (R127). -/
def raiseLimits (r : CalRun) : Nat → Hw → Hw
  | 0, h => h
  | n + 1, h => raiseLimits r n (raiseCal .calLimit (calUnit r).1 (calUnit r).2 r.accepted h)

/-- The run after held fields: LIMIT_MASK names channels (R140). -/
def noteLimits (n : Nat) (r : CalRun) : CalRun :=
  if 0 < n && r.phase != .shadow then { r with limitMask := setBit r.limitMask r.channel true } else r

/-- The offset correction on a run's codes; 1 where it was held at the limit. -/
def correctOffset (r : CalRun) : CalRun × Nat :=
  let (o, held) := holdAt (-127) 127 (r.codes.offset - roundAway (offsetMu r))
  ({ r with codes := { r.codes with offset := o } }, b2n held)

/-- The centre pass's corrections (R131). -/
def correctCentre (z5 dc : Bool) (tapEn : Nat) (r : CalRun) : CalRun × Nat :=
  let (r, n0) := if dc || r.skipOffset then (r, 0) else correctOffset r
  if (List.range 16).all (fun k => tapEnabled tapEn k && measurable r k) then
    let c := centreErrors r
    let step : Rat := if z5 then 2 else 1 / 2
    let deltas := c.map fun e => roundAway (e / step / dampOf r)
    let (freq, n) := correctCodes (if z5 then 15 else 63) r.codes.freq deltas
    ({ r with codes := { r.codes with freq := freq } }, n0 + n)
  else (r, n0)

/-- The gain trim moved by a correction. -/
def correctGainTrim (delta : Int) (r : CalRun) : CalRun × Nat :=
  let (g, held) := holdAt (-63) 63 (r.codes.gain + delta)
  ({ r with codes := { r.codes with gain := g } }, b2n held)

/-- The gain pass's corrections: GCODE, then equalisation of a channel or the spare's match to its channel; with fewer than
8 taps the pass is skipped and changes no code (R131 to R133). -/
def correctGain (h : Hw) (r : CalRun) : CalRun × Nat :=
  let cfg := channelCfg h r.channel
  let (g, n0) := correctCodes 63 r.codes.gcode (gainDeltas cfg.tapEn r)
  if (gainTaps cfg.tapEn r).length < 8 then (r, 0) else
  let r := { r with codes := { r.codes with gcode := g } }
  if r.phase = .shadow then
    let live : Rat := ((List.range 8).map fun i => (r.sumLive.getD (4 + i) 0 : Rat)).sum / (8 * 64 * (r.nBeats : Rat))
    let (r, n) := correctGainTrim (roundAway ((live - midLevel r) * 20)) r
    (r, n0 + n)
  else if !r.skipEqual && cfg.sensorType != 0 && (List.range 8).all (fun i => measurable r (4 + i)) then
    let raw := rawLevel cfg.gain r
    let others := (List.range 32).filter fun c =>
      c != r.channel && (channelCfg h c).sensorType == cfg.sensorType && bitOf h.cal.quietValid c
    let set := raw :: others.map fun c => (h.cal.quiet.getD c 0 : Rat) / 64
    let r := { r with quiet := some (roundAway (raw * 64)) }
    if 3 ≤ set.length then
      let (r, n) := correctGainTrim (roundAway ((lowerMedian set - raw) * 20 / dampOf r)) r
      (r, n0 + n)
    else (r, n0)
  else (r, n0)

/-! ## Passes and windows (R128, R129) -/

/-- Ticks of a measurement beat (R128). -/
def measTicks (vibration : Bool) : Nat := if vibration then 983040 else 245760

/-- The first pass of a unit's turn. An AC channel with SKIP_CENTRE and SKIP_GAIN but not SKIP_OFFSET has no pass in which its
offset is measured; it is taken over, handed back and counted all the same (R138; DESIGN CHOICE, log 152). -/
def firstPass (dc : Bool) (r : CalRun) : CalPass :=
  if dc && !r.skipOffset then .offset else if !r.skipCentre then .centre else if !r.skipGain then .gain else .finished

/-- The pass after one that completed. -/
def passAfter (r : CalRun) : CalPass :=
  match r.pass with
  | .offset => if !r.skipCentre then .centre else if !r.skipGain then .gain else .finished
  | .centre => if !r.skipGain then .gain else .finished
  | .gain | .finished => .finished

/-- A pass starts with no beat and no window. -/
def clearPass (r : CalRun) : CalRun :=
  { r with beats := [], accepted := 0, sumL := [], sumPair := [], sumSigned := 0, sumLive := [], nBeats := 0 }

/-- A unit enters measure mode with codes and its timer starting now; the spare, whose codes are new, settles first, the
channel, which is LIVE, is settled (R128, R134). -/
def enterMeasure (h : Hw) (codes : Trims) (r : CalRun) : CalRun :=
  let cfg := channelCfg h r.channel
  let m := measTicks cfg.vibration
  let wait := if r.phase = .shadow then settleTicks cfg.vibration else 0
  clearPass { r with
    codes := codes, pass := firstPass cfg.dc r, timer := h.power.elapsed, settled := h.power.elapsed + wait
    nextMeas := (h.power.time / m + 1) * m, step := false, quiet := none }

/-- What a measurement beat leaves for its window (R129). -/
def measBeat (h : Hw) (r : CalRun) (s : MeasSample) : MeasBeat :=
  { raw := fitTo 16 0 s.taps, l := (fitTo 16 0 s.taps).map levelOf, pair := (fitTo 15 0 s.pairs).map levelOf
    peakRaw := s.peak, lpeak := levelOf s.peak, signed := s.signed
    flagged := s.clip || s.bias || h.board.hvLow || r.step
    live := (fitTo 16 0 s.live).map levelOf }

/-- Elementwise sum of integers. -/
def addInts (n : Nat) (xs ys : List Int) : List Int := (List.range n).map fun i => xs.getD i 0 + ys.getD i 0

/-- How a window of 16 beats is judged. -/
inductive Verdict where
  | zeroRange | rejected | accepted
  deriving DecidableEq, Repr

/-- A tap's levels over the window are unstable: variance over 4 dB², or its halves' means over 1 dB apart (R129). -/
def unstableTap (ls : List Int) : Bool :=
  let s := ls.sum
  decide (4 * 64 * 64 * 16 * 16 < 16 * (ls.map fun x => x * x).sum - s * s) ||
    decide (64 * 8 < ((ls.take 8).sum - (ls.drop 8).sum).natAbs)

/-- The judgement of R129. -/
def judgeWindow (tapEn : Nat) (bs : List MeasBeat) : Verdict :=
  let enabled := (List.range 16).filter (tapEnabled tapEn)
  let col (k : Nat) : List Int := bs.map fun b => b.l.getD k 0
  let same (f : MeasBeat → Int) : Bool := match bs with
    | [] => true
    | b :: rest => rest.all fun c => f c == f b
  let peaks := bs.map (·.lpeak)
  if enabled.all (fun k => same fun b => (b.raw.getD k 0 : Int)) && same (fun b => (b.peakRaw : Int)) && same (·.signed) then
    .zeroRange
  else if bs.any (·.flagged) then .rejected
  else if decide ((6 * 64 * 16 : Int) < 16 * peaks.foldl max 0 - peaks.sum) then .rejected
  else if enabled.any (fun k => decide (3072 * 16 ≤ (col k).sum) && unstableTap (col k)) then .rejected
  else .accepted

/-- A window's beats join the pass's sums. -/
def takeWindow (bs : List MeasBeat) (r : CalRun) : CalRun :=
  { r with
    sumL := bs.foldl (fun s b => addInts 16 s b.l) r.sumL
    sumPair := bs.foldl (fun s b => addInts 15 s b.pair) r.sumPair
    sumSigned := r.sumSigned + (bs.map (·.signed)).sum
    sumLive := bs.foldl (fun s b => addInts 16 s b.live) r.sumLive
    nBeats := r.nBeats + bs.length, accepted := r.accepted + 1 }

/-- A completed pass: its corrections are computed and its codes loaded at this boundary; settling starts anew. -/
def completePass (r : CalRun) (h : Hw) : Hw :=
  let cfg := channelCfg h r.channel
  let (r', n) := match r.pass with
    | .offset => correctOffset r
    | .centre => correctCentre (z5Method h) cfg.dc cfg.tapEn r
    | .gain => correctGain h r
    | .finished => (r, 0)
  let h := raiseLimits r n h
  let r' := noteLimits n r'
  let unit := (calUnit r).1
  { h with cal := { h.cal with
    loaded := modifyAt unit (fun _ => r'.codes) h.cal.loaded
    run := some (clearPass { r' with
      pass := passAfter r', settled := h.power.elapsed + settleTicks cfg.vibration }) } }

/-- Zero-range windows in a row of a unit, whatever turn they fall in (R130). -/
def zeroRunOf (h : Hw) (unit : Nat) : Nat := h.cal.zeroRuns.getD unit 0

/-- Set that count. -/
def setZeroRun (unit n : Nat) (h : Hw) : Hw :=
  { h with cal := { h.cal with zeroRuns := modifyAt unit (fun _ => n) (fitTo 33 0 h.cal.zeroRuns) } }

/-- The accepted windows that a pass needs: the DC offset is taken from one, every other pass from eight (R129, R131). -/
def windowsNeeded (p : CalPass) : Nat := if p = .offset then 1 else 8

/-- A window of 16 beats is complete and is judged. -/
def endWindow (r : CalRun) (h : Hw) : Hw :=
  let cfg := channelCfg h r.channel
  let unit := (calUnit r).1
  match judgeWindow cfg.tapEn r.beats with
  | .zeroRange =>
    setZeroRun unit (zeroRunOf h unit + 1) { h with cal := { h.cal with run := some { r with beats := [] } } }
  | .rejected => setZeroRun unit 0 { h with cal := { h.cal with run := some { r with beats := [] } } }
  | .accepted =>
    let h := setZeroRun unit 0 h
    let r' := { takeWindow r.beats r with beats := [] }
    if windowsNeeded r.pass ≤ r'.accepted then completePass r' h else { h with cal := { h.cal with run := some r' } }

/-- A unit of the run is in measure mode with a pass to make. -/
def measuring (r : CalRun) : Bool := (r.phase == .shadow || r.phase == .standin) && r.pass != .finished

/-- A channel's old codes are loaded back. -/
def restoreOld (r : CalRun) (h : Hw) : Hw :=
  { h with cal := { h.cal with loaded := modifyAt r.channel (fun _ => r.old) h.cal.loaded } }

/-- MEASUREMENT_BEAT: the measurement beat that ends at the next boundary enters the open window, if the unit was settled
when it began (R128, R129). In REVERT the channel's old codes are loaded at that boundary (R134). -/
def measurementEffect (s : MeasSample) (h : Hw) : Hw :=
  match h.cal.run with
  | some r =>
    let m := measTicks (channelCfg h r.channel).vibration
    let el := h.power.elapsed + (r.nextMeas - h.power.time)
    if r.phase = .revert then
      let h := restoreOld r (passUntil el h)
      { h with cal := { h.cal with run := some { r with nextMeas := r.nextMeas + m } } }
    else if measuring r && zeroRunOf h (calUnit r).1 < 3 then
      let h := passUntil el h
      let b := measBeat h r s
      let r' := { r with nextMeas := r.nextMeas + m, step := false }
      if r.settled + m ≤ el then
        let r' := { r' with beats := r'.beats ++ [b] }
        if r'.beats.length = 16 then endWindow r' h else { h with cal := { h.cal with run := some r' } }
      else { h with cal := { h.cal with run := some r' } }
    else h
  | none => h

def execMeasurementBeat (sample : MeasSample) (s : State) : Host.Outcome State Fault Refusal :=
  run (fun _ h => measurementEffect sample h) s

/-! ## A channel's turn (R134) -/

/-- Replace the run. -/
def setRun (r : Option CalRun) (h : Hw) : Hw := { h with cal := { h.cal with run := r } }

/-- RESULT of a CALIBRATE slot (R140). -/
def calResult (r : CalRun) (stored : Option Nat) : List Word :=
  [w32 r.doneMask, w32 r.timeoutMask, w32 r.stuckMask, w32 r.skippedMask, w32 r.limitMask, w32 (stored.getD 0),
   w32 (b2n stored.isSome + b2n r.aborted * 2 + b2n r.spareLost * 4)]

/-- The run ends: a store is due, or the slot completes at once (R134, R145). -/
def endRun (r : CalRun) (h : Hw) : Hw :=
  if r.doneMask != 0 && !r.noStore then
    setRun (some { r with phase := .store, rest := [], timer := h.power.elapsed }) h
  else completeOwned r.slot .done .none (calResult r none) (setRun none h)

/-- NEXT of R134: the first channel of a list that is LIVE starts its turn; those before it that are not LIVE or are
STUCK are skipped; where none is left the run ends. -/
def calNext (r : CalRun) : List Nat → Hw → Hw
  | [], h => endRun r h
  | c :: cs, h =>
    if (h.drum.channels.getD c {}).state == .live && !bitOf h.cal.stuck c && !bitOf h.cal.stuck 32 then
      let spare := h.cal.defaults.getD 32 nominalTrims
      let r := { r with rest := cs, channel := c, phase := .shadow, old := h.cal.loaded.getD c nominalTrims }
      setRun (some (enterMeasure h spare r))
        { h with cal := { h.cal with loaded := modifyAt 32 (fun _ => spare) h.cal.loaded } }
    else calNext { r with skippedMask := setBit r.skippedMask c true } cs h

/-- The spare stands in for no channel any more; the beat remembers that it did (R72, R135). -/
def releaseSpare (midBeat : Bool) (h : Hw) : Hw :=
  { h with drum := { h.drum with
    spareFor := none, spareSeen := if midBeat then h.drum.spareFor.orElse (fun _ => h.drum.spareSeen) else h.drum.spareSeen } }

/-- A boundary of channel c has just been reached: the last base-beat boundary closed its stream and no time has passed
since (R134). -/
def atBoundary (h : Hw) (c : Nat) : Bool :=
  decide (1 ≤ h.drum.nextBeat) && streamCloses h (h.drum.nextBeat - 1) (channelCfg h c).stream &&
    h.power.time == h.drum.nextBeat * basePeriod h

/-- CAL_PHASE_SETTLED (R134). -/
def phaseSettledEffect (h : Hw) : Hw :=
  match h.cal.run with
  | some r =>
    if (r.phase == .shadow || r.phase == .standin) && r.pass == .finished then
      let h := passUntil r.settled h
      setRun (some { r with phase := if r.phase = .shadow then .takeoverWait else .handbackWait }) h
    else h
  | none => h

def execCalPhaseSettled (s : State) : Host.Outcome State Fault Refusal := quiet phaseSettledEffect s

/-- CAL_TAKEOVER: the spare's features replace c's and c enters measure mode (R134, R135). -/
def takeoverEffect (h : Hw) : Hw :=
  match h.cal.run with
  | some r =>
    if r.phase == .takeoverWait && atBoundary h r.channel then
      setRun (some (enterMeasure h r.old { r with phase := .standin }))
        { h with drum := { h.drum with spareFor := some r.channel } }
    else h
  | none => h

def execCalTakeover (s : State) : Host.Outcome State Fault Refusal := quiet takeoverEffect s

/-- A channel enters STUCK (R69, R130). -/
def channelDead (c : Nat) (h : Hw) : Hw :=
  { h with drum := { h.drum with channels := modifyAt c (fun _ => { state := .stuck }) h.drum.channels } }

/-- A commit updates the retention copy of a channel's trims and what goes with them (R144); under NO_STORE there is none, and
the trims hold until SENSE powers down (R138). -/
def keepTrims (c : Nat) (t : Trims) (h : Hw) : Hw :=
  { h with cal := { h.cal with
    trims := modifyAt c (fun _ => t) h.cal.trims
    keptDone := setBit h.cal.keptDone c true
    keptQuietValid := setBit h.cal.keptQuietValid c (bitOf h.cal.quietValid c)
    keptQuiet := modifyAt c (fun _ => h.cal.quiet.getD c 0) (fitTo 32 0 h.cal.keptQuiet) } }

/-- Hand-back: the channel's new trims take effect and are kept (R134, R144); a STUCK channel's spare is released. -/
def handbackEffect (h : Hw) : Hw :=
  match h.cal.run with
  | some r =>
    let c := r.channel
    if !atBoundary h c then h
    else if r.phase = .handbackWait then
      let quiet := match r.quiet with
        | some q => modifyAt c (fun _ => q) (fitTo 32 0 h.cal.quiet)
        | none => h.cal.quiet
      let h := { h with
        cal := { h.cal with
          loaded := modifyAt c (fun _ => r.codes) h.cal.loaded
          calDone := setBit h.cal.calDone c true
          quietValid := if r.quiet.isSome then setBit h.cal.quietValid c true else h.cal.quietValid
          quiet := quiet }
        drum := { h.drum with trimmed := setBit h.drum.trimmed c true } }
      let h := if r.noStore then h else keepTrims c r.codes h
      calNext { r with doneMask := setBit r.doneMask c true } r.rest (releaseSpare false h)
    else if r.phase = .stuckWait then calNext r r.rest (releaseSpare false (channelDead c h))
    else h
  | none => h

def execCalHandback (s : State) : Host.Outcome State Fault Refusal := run (fun _ h => handbackEffect h) s

/-- CAL_TIMEOUT: the 30 s of a unit end in SHADOW or STANDIN; the channel's old codes are loaded at the measurement-beat
boundary that follows, from which T_settle of REVERT counts (R134). -/
def calTimeoutEffect (h : Hw) : Hw :=
  match h.cal.run with
  | some r =>
    if r.phase == .shadow || r.phase == .standin then
      let h := passUntil (r.timer + 30 * ticksPerSecond) h
      let phase := if r.phase = .shadow then 0 else 1
      let h := raiseCal .calTimeout r.channel phase r.accepted h
      let r' := { r with timeoutMask := setBit r.timeoutMask r.channel true }
      if r.phase = .shadow then calNext r' r.rest h
      else
        let load := h.power.elapsed + (r.nextMeas - h.power.time)
        setRun (some { r' with
          phase := .revert, settled := load + settleTicks (channelCfg h r.channel).vibration, codes := r.old }) h
    else h
  | none => h

def execCalTimeout (s : State) : Host.Outcome State Fault Refusal := run (fun _ h => calTimeoutEffect h) s

/-- CAL_REVERT_END: after T_settle, at a boundary of c, its own features resume with its old trims (R134). -/
def revertEndEffect (h : Hw) : Hw :=
  match h.cal.run with
  | some r =>
    if r.phase == .revert && atBoundary h r.channel && decide (r.settled ≤ h.power.elapsed) then
      calNext r r.rest (releaseSpare false (restoreOld r h))
    else h
  | none => h

def execCalRevertEnd (s : State) : Host.Outcome State Fault Refusal := run (fun _ h => revertEndEffect h) s

/-- The channels of a list as a mask. -/
def maskOf (cs : List Nat) : Nat := cs.foldl (fun m c => setBit m c true) 0

/-- CHANNEL_STUCK: three zero-range windows in a row (R130, R134). -/
def channelStuckEffect (h : Hw) : Hw :=
  match h.cal.run with
  | some r =>
    let unit := (calUnit r).1
    if zeroRunOf h unit < 3 then h
    else if r.phase = .shadow then
      let h := raiseCal .spareStuck 32 0 r.accepted (sensorLost 32 (setZeroRun unit 0 h))
      endRun { r with spareLost := true, skippedMask := Nat.lor r.skippedMask (maskOf (r.channel :: r.rest)) } h
    else if r.phase = .standin then
      let h := raiseCal .stuck r.channel 1 r.accepted (sensorLost r.channel (setZeroRun unit 0 h))
      setRun (some { r with phase := .stuckWait, stuckMask := setBit r.stuckMask r.channel true }) h
    else h
  | none => h

def execChannelStuck (s : State) : Host.Outcome State Fault Refusal := run (fun _ h => channelStuckEffect h) s

/-- A channel in its turn enters HV_LOW: the spare is released at once and its old codes are loaded (R134). -/
def calHvLow (h : Hw) : Hw :=
  match h.cal.run with
  | some r =>
    let inTurn := match r.phase with
      | .shadow | .standin | .revert | .handbackWait => true
      | .takeoverWait | .stuckWait | .store => false
    if inTurn && (h.drum.channels.getD r.channel {}).state == .hvLow then
      calNext { r with skippedMask := setBit r.skippedMask r.channel true } r.rest (releaseSpare true (restoreOld r h))
    else h
  | none => h

/-- The channels that a run's end leaves uncalibrated for no reason of their own: the one in progress, unless it timed out or
is STUCK, and those still to come (R140). -/
def leftOver (r : CalRun) : Nat :=
  let own := if bitOf (Nat.lor r.timeoutMask r.stuckMask) r.channel then [] else [r.channel]
  Nat.lor r.skippedMask (maskOf (own ++ r.rest))

/-- The run ends before a save or a power-down of SENSE: the channel in progress gets its old codes back and its own
features resume at once, unless it is STUCK; a store may still be due (R130, R137). -/
def calAbort (h : Hw) : Hw :=
  match h.cal.run with
  | some r =>
    if r.phase = .store then h else
      let h := if r.phase = .stuckWait then channelDead r.channel h else restoreOld r h
      endRun { r with aborted := true, skippedMask := leftOver r } (releaseSpare true h)
  | none => h

/-- Drumhead's time copy is reloaded during a run: the open measurement beat carries TIME_STEP (R42, R72, R129). -/
def calReload (h : Hw) : Hw :=
  match h.cal.run with
  | some r => setRun (some { r with step := true }) h
  | none => h

/-- A time write during a run: the open measurement beat is flagged and the beats go on from the new time (R136). -/
def calTimeWrite (h : Hw) : Hw :=
  match h.cal.run with
  | some r =>
    let m := measTicks (channelCfg h r.channel).vibration
    setRun (some { r with step := true, nextMeas := (h.power.time / m + 1) * m }) h
  | none => h

/-! ## The calibration record (R142 to R145) -/

/-- The nine words of a unit's entry. -/
def trimWords (t : Trims) (quiet : Int) : List Word :=
  w32 (patternOf 8 t.offset + patternOf 8 t.gain * 256 + patternOf 16 quiet * 65536) ::
    (List.range 8).map fun i => w32 (t.freq.getD (2 * i) 0 + t.gcode.getD (2 * i) 0 * 64 +
      t.freq.getD (2 * i + 1) 0 * 2 ^ 16 + t.gcode.getD (2 * i + 1) 0 * 2 ^ 22)

/-- A unit's trims from its nine words. -/
def readTrims (ws : List Word) : Trims :=
  let w (i : Nat) : Word := wordAt ws i
  { offset := signedOf 8 (fld (w 0) 0 8), gain := signedOf 8 (fld (w 0) 8 8)
    freq := (List.range 16).map fun k => fld (w (1 + k / 2)) (16 * (k % 2)) 6
    gcode := (List.range 16).map fun k => fld (w (1 + k / 2)) (16 * (k % 2) + 6) 6 }

/-- The record of the trims in force. -/
def calRecord (h : Hw) (seq : Nat) : List Byte :=
  let head : List Word := [w32 0x5A39CA1B, w32 (1 + b2n (z5Method h) * 65536), w32 seq, w32 1188, w32 h.cal.defaultTag,
    w32 h.cal.calDone, w32 h.cal.quietValid, 0]
  let body := (List.range 32).flatMap fun c => trimWords (h.cal.loaded.getD c nominalTrims) (h.cal.quiet.getD c 0)
  let bs := wordsBytes (head ++ body)
  bs ++ wordsBytes [w32 (crc32 bs)]

/-- A record is intact (R143). -/
def calIntact (bs : List Byte) : Bool :=
  let ws := bytesWords bs
  wordAt ws 0 == w32 0x5A39CA1B && fld (wordAt ws 1) 0 16 == 1 && wordAt ws 3 == w32 1188 &&
    wordAt ws 296 == w32 (crc32 (bs.take 1184))

/-- An intact record is current under the image and the default table in force (R143). -/
def calCurrent (h : Hw) (bs : List Byte) : Bool :=
  let ws := bytesWords bs
  calIntact bs && bit (wordAt ws 1) 16 == z5Method h && (wordAt ws 4).toNat == h.cal.defaultTag

/-- The record's SEQ. -/
def calSeq (bs : List Byte) : Nat := (wordAt (bytesWords bs) 2).toNat

/-- The area of the newest intact record, as 0 for A or 1 for B, and its SEQ. -/
def newestIntact (a b : List Byte) : Option (Nat × Nat) :=
  match calIntact a, calIntact b with
  | true, true => if laterSeq (calSeq b) (calSeq a) then some (1, calSeq b) else some (0, calSeq a)
  | true, false => some (0, calSeq a)
  | false, true => some (1, calSeq b)
  | false, false => none

/-- The two areas of the flash. -/
def calAreas (m : Mems) (h : Hw) : List Byte × List Byte :=
  (flashRead m h calABase 1188, flashRead m h calBBase 1188)

/-- What a power failure in the store leaves in the target area: in step 1 an erase that has begun, in step 2 an erased
sector with a record short of word 296, in step 3 the whole record (R146). The loss of power is a command of its own. -/
def storeCut (cut : StoreCut) (target : Nat) (record : List Byte) (h : Hw) : Hw :=
  match cut with
  | .erase n => flashErase target (min 4096 (max 1 n)) h
  | .program n => flashProgram target (record.take (min n 1184)) (flashErase target 4096 h)
  | .compare => flashProgram target record (flashErase target 4096 h)

/-- CAL_STORE: the record is erased, programmed and compared, twice where the first comparison fails; the slot completes
(R145). It waits behind other flash work (R395). A power failure cuts it short with the run still in it (R146). What a
record that failed its comparison holds, and UNIT and ACCEPTED of CAL_STORE_FAIL, are free (log 20). -/
def calStoreEffect (verify1 verify2 : Bool) (cut : Option StoreCut) (m : Mems) (h : Hw) : Hw :=
  match h.cal.run with
  | some r =>
    if r.phase = .store && loaderTurn r.timer h then
      let (a, b) := calAreas m h
      let newest := newestIntact a b
      let target := match newest with
        | some (0, _) => calBBase
        | _ => calABase
      let seq := match newest with
        | some (_, n) => (n + 1) % 2 ^ 32
        | none => 0
      match cut with
      | some x => storeCut x target (calRecord h seq) h
      | none =>
        let h := setRun none (flashErase target 4096 h)
        if verify1 || verify2 then
          completeOwned r.slot .done .none (calResult r (some seq)) (flashProgram target (calRecord h seq) h)
        else
          let (bs, h) := freeBytes 1188 h
          let (k, h) := drawNat h
          let (n, h) := drawNat h
          completeOwned r.slot .done .none (calResult r none)
            (raiseCal .calStoreFail (k % 33) 2 (n % 9) (flashProgram target bs h))
    else h
  | none => h

def execCalStore (verify1 verify2 : Bool) (cut : Option StoreCut) (s : State) : Host.Outcome State Fault Refusal :=
  run (calStoreEffect verify1 verify2 cut) s

/-- The default trim table of ACTIVE's trim block (R142, R393): 32 channels and the spare. -/
def defaultTable (m : Mems) (h : Hw) : List Trims :=
  let ws := flashWords m h (activeBase + trimOffset) 297
  (List.range 33).map fun u => readTrims (ws.drop (9 * u))

/-- LOADER reads both areas at a boot and chooses the ruling trims; a stale intact record raises CAL_RECORD_STALE
(R143). UNIT of that event names no unit: free (log 20). `keep`: the retention SRAM has brought its trims through DEEP or
OFF (R367), and they stand (DEDUCED, log 153). -/
def loadCalRecord (keep : Bool) (m : Mems) (h : Hw) : Hw :=
  let table := flashRead m h (activeBase + trimOffset) 1188
  let tag := leNat ((sha384 table).take 4)
  let h := { h with cal := { h.cal with defaults := defaultTable m h, defaultTag := tag } }
  let (a, b) := calAreas m h
  let pick := match calCurrent h a, calCurrent h b with
    | true, true => some (if laterSeq (calSeq b) (calSeq a) then b else a)
    | true, false => some a
    | false, true => some b
    | false, false => none
  let stale := (calIntact a && !calCurrent h a) || (calIntact b && !calCurrent h b)
  let h := if keep then h else match pick with
    | some bs =>
      let ws := bytesWords bs
      { h with cal := { h.cal with
        trims := (List.range 32).map fun c => readTrims (ws.drop (8 + 9 * c))
        keptDone := (wordAt ws 5).toNat, keptQuietValid := (wordAt ws 6).toNat
        keptQuiet := (List.range 32).map fun c => signedOf 16 (fld (wordAt ws (8 + 9 * c)) 16 16) } }
    | none => { h with cal := { h.cal with
        trims := h.cal.defaults.take 32, keptDone := 0, keptQuietValid := 0, keptQuiet := List.replicate 32 0 } }
  if stale then
    let (k, h) := drawNat h
    raiseCal .calRecordStale (k % 33) 3 0 h
  else h

/-- Trims, and what goes with them, are loaded from the retention SRAM at a SENSE power-up (R144). -/
def reloadTrims (h : Hw) : Hw :=
  { h with cal := { h.cal with
    loaded := fitTo 32 nominalTrims h.cal.trims ++ [h.cal.defaults.getD 32 nominalTrims]
    calDone := h.cal.keptDone, quietValid := h.cal.keptQuietValid, quiet := h.cal.keptQuiet } }

/-! ## The CALIBRATE slot (R138, R139) -/

/-- The channels a slot names. -/
def calChannels (h : Hw) (mask : Nat) : List Nat :=
  (List.range 32).filter fun c => if mask = 0 then (channelCfg h c).mode != 0 else bitOf mask c

/-- CALIBRATE's checks and start. Under SENSE_OFF no channel is LIVE: each is skipped and the slot completes (R134, R139). -/
def calibrateEffect (f : Fetched) (h : Hw) : Hw :=
  let mask := (wordAt f.words 4).toNat
  let w := wordAt f.words 5
  if !h.senseFitted then refuse f .refusedState .senseOff h
  else if h.cal.run.isSome then refuse f .refusedState .calBusy h
  else if bitOf h.cal.stuck 32 then refuse f .refusedState .spareStuck h
  else if (List.range 32).any (fun c => bitOf mask c && (channelCfg h c).mode == 0) || fld w 0 5 == 31 then
    refuse f .refusedFormat .none h
  else
    let r : CalRun :=
      { slot := f.pos, tag := f.tag, skipOffset := bit w 0, skipCentre := bit w 1, skipGain := bit w 2
        skipEqual := bit w 3, noStore := bit w 4, damp := bit w 5 }
    if r.skipOffset && r.skipCentre && r.skipGain then
      doneWith f (calResult { r with skippedMask := maskOf (calChannels h mask) } none) h
    else calNext r (calChannels h mask) h

def execCalibrate (slot : Slot) (s : State) : Host.Outcome State Fault Refusal :=
  run (withSlot (isKind kCalibrate) slot fun _ f h => calibrateEffect f h) s

/-! ## VSENSE_HV -/

/-- VSENSE_HV_LOSS: the vehicle inputs report R21, and the rail is below its threshold too (R21, R69). -/
def execVsenseHvLoss (s : State) : Host.Outcome State Fault Refusal :=
  run (fun _ h => calHvLow (hvFall { h with board := inputsAbsent h.board })) s

/-- The voltages in mV at which the HV_LOW threshold may be met as VSENSE_HV falls, and as it rises (R459). -/
def mayFallLow (mv : Nat) : Bool := decide (mv < 5700)
def mayRiseBack (mv : Nat) : Bool := decide (5550 < mv)

/-- VSENSE_HV_LOW: channels enter HV_LOW and a calibration turn in progress ends (R69, R134). -/
def execVsenseHvLow (mv : Nat) (s : State) : Host.Outcome State Fault Refusal :=
  run (fun _ h => if mayFallLow mv then calHvLow (hvFall h) else h) s

/-- VSENSE_HV_RESTORED: HV_LOW channels restart settling (R69). -/
def execVsenseHvRestored (mv : Nat) (s : State) : Host.Outcome State Fault Refusal :=
  run (fun _ h => if mayRiseBack mv then hvRise h else h) s

end Sys2Proof.Machine
end

