-- ==== Sys2Proof/Machine/Bell.lean ====
section
/-! DEFINITION. The Bell engine: the BELL section and its model blob, inference, input and class histories, and the
base-beat boundary that offers each frame to it (R75, R147 to R154, R166 to R168). -/

namespace Sys2Proof.Machine

/-! ## The model blob (R167) -/

/-- A layer of a model. -/
structure BellLayer where
  op : Nat
  relu : Bool
  kt : Nat
  out : Nat
  wOff : Nat
  bOff : Nat
  mult : Nat
  shift : Nat
  deriving Repr

/-- The layers that a blob's words describe. -/
def blobLayers (ws : List Word) : List BellLayer :=
  (List.range (fld (wordAt ws 1) 0 5)).map fun i =>
    let w := wordAt ws (4 + 4 * i)
    let v := wordAt ws (7 + 4 * i)
    { op := fld w 0 2, relu := bit w 2, kt := fld w 3 5, out := fld w 8 12, wOff := (wordAt ws (5 + 4 * i)).toNat
      bOff := (wordAt ws (6 + 4 * i)).toNat, mult := fld v 0 16, shift := fld v 16 5 }

/-- The output shape of a layer on T rows of width W (R151). -/
def layerShape (l : BellLayer) (t w : Nat) : Nat × Nat :=
  match l.op with
  | 0 => (1, l.out)
  | 1 => (t + 1 - l.kt, l.out)
  | _ => (t / 2, w)

/-- Bytes of weights and MACs of a layer on T × W. -/
def layerWeights (l : BellLayer) (t w : Nat) : Nat :=
  match l.op with
  | 0 => l.out * t * w
  | 1 => l.out * l.kt * w
  | _ => 0

/-- MACs of a layer on T × W. -/
def layerMacs (l : BellLayer) (t w : Nat) : Nat :=
  match l.op with
  | 0 => l.out * t * w
  | 1 => (t + 1 - l.kt) * l.out * l.kt * w
  | _ => 0

/-- A layer's words keep to their table entries (R167). -/
def layerFieldsOk (ws : List Word) (i : Nat) (l : BellLayer) (t : Nat) : Bool :=
  fld (wordAt ws (4 + 4 * i)) 20 12 == 0 && fld (wordAt ws (7 + 4 * i)) 21 11 == 0 && decide (l.op ≤ 2) &&
  (match l.op with
   | 0 => l.kt == 0 && decide (1 ≤ l.out) && decide (l.out ≤ 2048)
   | 1 => decide (1 ≤ l.kt) && decide (l.kt ≤ 16) && decide (l.kt ≤ t) && decide (1 ≤ l.out) && decide (l.out ≤ 2048)
   | _ => !l.relu && l.kt == 0 && l.out == 0 && l.wOff == 0 && l.bOff == 0 && decide (2 ≤ t)) &&
  l.wOff % 4 == 0 && l.bOff % 4 == 0

/-- Two byte ranges, as start and length, overlap. -/
def overlaps (a b : Nat × Nat) : Bool := decide (a.1 < b.1 + b.2) && decide (b.1 < a.1 + a.2) && a.2 != 0 && b.2 != 0

/-- No two ranges of a list overlap. -/
def disjoint : List (Nat × Nat) → Bool
  | [] => true
  | r :: rs => !rs.any (overlaps r) && disjoint rs

/-- What checking a model's layers in turn gathers. -/
structure BlobCheck where
  ok : Bool := true
  t : Nat
  w : Nat
  i : Nat := 0
  ranges : List (Nat × Nat) := []
  bytes : Nat := 0
  largest : Nat := 0
  macs : Nat := 0

/-- One more layer checked (R168). -/
def checkLayer (ws : List Word) (size : Nat) (c : BlobCheck) (l : BellLayer) : BlobCheck :=
  let n := layerWeights l c.t c.w
  let nb := if l.op ≤ 1 then 4 * l.out else 0
  let (t, w) := layerShape l c.t c.w
  let inside := decide (l.wOff + n ≤ size) && decide (l.bOff + nb ≤ size)
  { ok := c.ok && layerFieldsOk ws c.i l c.t && inside && decide (1 ≤ t)
    t := t, w := w, i := c.i + 1
    ranges := if l.op ≤ 1 then c.ranges ++ [(l.wOff, n), (l.bOff, nb)] else c.ranges
    bytes := c.bytes + n + nb, largest := max c.largest (t * w), macs := c.macs + layerMacs l c.t c.w }

/-- A model blob passes R168 for an input of T rows of width W. -/
def blobOk (blob : List Byte) (t w : Nat) : Bool :=
  let ws := bytesWords blob
  let n := fld (wordAt ws 1) 0 5
  let c := (blobLayers ws).foldl (checkLayer ws blob.length) { t := t, w := w }
  (wordAt ws 0).toNat == blob.length && decide (1 ≤ n) && decide (n ≤ 16) &&
  fld (wordAt ws 1) 5 27 == 0 && wordAt ws 2 == 0 && wordAt ws 3 == 0 && c.ok && c.t == 1 && c.w == 16 &&
  disjoint c.ranges && decide (c.bytes ≤ 65536) && decide (t * w + 2 * c.largest ≤ 16384) &&
  decide (c.macs ≤ 196608)

/-! ## The BELL section (R166, R168) -/

/-- Number of inputs per row W (R148). -/
def bellWidth (chMask tapMask : Nat) (usePeak useXing : Bool) : Nat :=
  popCount 32 chMask * ((if tapMask = 0 then 16 else popCount 16 tapMask) + b2n usePeak + b2n useXing)

/-- A class entry keeps to its table entry. -/
def classOk (t1En : Bool) (w : Word) : Bool :=
  let k := fld w 8 5
  let n := fld w 13 5
  let a := fld w 18 2
  fld w 20 12 == 0 && (if a = 0 then k == 0 && n == 0 else decide (1 ≤ k) && decide (k ≤ n) && decide (n ≤ 16)) &&
    (a != 1 || t1En)

/-- The content of a BELL section, or none where it is invalid. `modes`: the MODE of each channel where the image
carries a CHANNELS section. -/
def parseBell (bs : List Byte) (modes : Option (List Nat)) : Option BellSec :=
  let ws := bytesWords (bs.take 128)
  let w0 := wordAt ws 0
  if bs.length < 128 then none
  else if !bit w0 0 then if ws.all (· == 0) then some {} else none
  else
    let w2 := wordAt ws 2
    let chMask := (wordAt ws 1).toNat
    let tapMask := fld w2 0 16
    let hist := fld w2 18 4
    let cascade := addrAt ws 8
    let blob := bs.drop 128
    let reserved := fld w0 15 17 == 0 && fld w2 22 10 == 0 && fld (wordAt ws 5) 16 16 == 0 && fld (wordAt ws 7) 16 16 == 0 &&
      fld (wordAt ws 9) 16 16 == 0 && ((ws.drop 10).take 6).all (· == 0)
    let classes := (ws.drop 16).take 16
    let modesOk := match modes with
      | some ms => (List.range 32).all fun c => !bitOf chMask c || ms.getD c 0 != 0
      | none => true
    let minValid := fld w0 9 6
    let width := bellWidth chMask tapMask (bit w2 16) (bit w2 17)
    if reserved && chMask != 0 && decide (minValid ≤ 32) && decide (minValid ≤ popCount 32 chMask) && cascade % 64 == 0 &&
        classes.all (classOk (bit w0 5)) && modesOk &&
        (!(bit w0 5 || bit w0 6) || decide (cascade + 128 ≤ 0x000F7C000000)) && blobOk blob (hist + 1) width then
      some
        { enable := true, stream := fld w0 1 3, allowAdapt := bit w0 4, t1En := bit w0 5, t2En := bit w0 6
          failVerdict := fld w0 7 2, minValid := minValid, chMask := chMask, tapMask := tapMask, usePeak := bit w2 16
          useXing := bit w2 17, hist := hist, t1Timeout := fld (wordAt ws 3) 0 16, t2Timeout := fld (wordAt ws 3) 16 16
          t1Graph := addrAt ws 4, t2Graph := addrAt ws 6, cascadeBase := cascade
          classes := classes.map fun w => { thr := fld w 0 8, k := fld w 8 5, n := fld w 13 5, action := fld w 18 2 }
          blob := blob }
    else none

/-! ## Inference (R151, R152) -/

/-- INT32 accumulation wraps. -/
def wrap32 (x : Int) : Int := signedOf 32 (patternOf 32 x)

/-- Requantisation and the limit at zero (R151). -/
def requant (l : BellLayer) (acc : Int) : Int :=
  let half : Int := if l.shift = 0 then 0 else 2 ^ (l.shift - 1)
  let y := (acc * (l.mult : Int) + half) / 2 ^ l.shift
  let y := if y < -128 then -128 else if 127 < y then 127 else y
  if l.relu && y < 0 then 0 else y

/-- The INT32 accumulation of a bias and a dot product, wrapping at each step. -/
def bellDot (bias : Int) (ws : List Byte) (xs : List Int) : Int :=
  (ws.zip xs).foldl (fun acc (w, x) => wrap32 (acc + signedOf 8 w.toNat * x)) bias

/-- The outputs of a flat input for each o: weights row-major, n per output. -/
def bellDense (blob : List Byte) (l : BellLayer) (n : Nat) (xs : List Int) : List Int :=
  (List.range l.out).map fun o =>
    let bias := signedOf 32 (leNat ((blob.drop (l.bOff + 4 * o)).take 4))
    requant l (bellDot bias ((blob.drop (l.wOff + o * n)).take n) xs)

/-- Elementwise maximum of rows 2t and 2t + 1. -/
def bellPool : List (List Int) → List (List Int)
  | a :: b :: rest => (a.zipWith max b) :: bellPool rest
  | _ => []

/-- One layer on rows of width W. -/
def bellLayer (blob : List Byte) (rows : List (List Int)) (l : BellLayer) : List (List Int) :=
  let w := (rows.headD []).length
  match l.op with
  | 0 => [bellDense blob l (rows.length * w) rows.flatten]
  | 1 => (List.range (rows.length + 1 - l.kt)).map fun t =>
      bellDense blob l (l.kt * w) ((rows.drop t).take l.kt).flatten
  | _ => bellPool rows

/-- The 16 scores of an input tensor, oldest row first. -/
def bellScores16 (blob : List Byte) (rows : List (List Int)) : List Nat :=
  let out := (blobLayers (bytesWords blob)).foldl (bellLayer blob) rows
  (List.range 16).map fun k => ((out.headD []).getD k 0 + 128).toNat

/-! ## Histories (R148 to R150, R154) -/

/-- Bell runs (R147). -/
def bellRuns (h : Hw) : Bool :=
  h.drum.senseOn && h.senseFitted &&
    match h.image.bell with
    | some b => b.enable
    | none => false

/-- BELL of the image in force. -/
def bellCfg (h : Hw) : BellSec := h.image.bell.getD {}

/-- The row that Bell builds from the frame in the channels' places (R148, R149). -/
def bellRow (h : Hw) : List Int :=
  let b := bellCfg h
  (List.range 32).flatMap fun c =>
    if bitOf b.chMask c then
      let ch : Channel := h.drum.channels.getD c {}
      let one (f : Nat) : Int := if validNow h c then (f : Int) - 128 else -128
      ((List.range 16).filter (fun k => b.tapMask == 0 || bitOf b.tapMask k)).map (fun k => one (ch.bands.getD k 0)) ++
        (if b.usePeak then [one ch.peak] else []) ++ (if b.useXing then [one ch.xing] else [])
    else []

/-- The channels of CH_MASK that are VALID in this frame. -/
def bellValidCount (h : Hw) : Nat :=
  ((List.range 32).filter fun c => bitOf (bellCfg h).chMask c && validNow h c).length

/-- The input history and every class history are cleared (R150). -/
def bellClear (h : Hw) : Hw :=
  { h with bell := { h.bell with rows := [], overBits := List.replicate 16 [] } }

/-- Bell's stores are loaded at a SENSE power-up with the model in force (R150, R170, R328). -/
def bellLoad (h : Hw) : Hw :=
  let h := bellClear h
  { h with bell := { h.bell with dead := false, eccRaised := false, due := none } }

/-- A stored adapted model takes over at a Bell beat (R169). -/
def bellTakeModel (h : Hw) : Hw :=
  match h.bell.next with
  | some blob => bellClear { h with bell := { h.bell with blob := blob, next := none } }
  | none => h

/-- A Bell beat adds its row, unless its frame carries TIME_STEP, and its scores become due (R148 to R150, R169). -/
def bellBeat (n : Nat) (step : Bool) (h : Hw) : Hw :=
  let b := bellCfg h
  let h := bellTakeModel h
  if step then { h with bell := { h.bell with due := some { beat := n, infer := false } } }
  else
    let rows := (bellRow h :: h.bell.rows).take (b.hist + 1)
    let infer := rows.length == b.hist + 1 && decide (b.minValid ≤ bellValidCount h)
    { h with bell := { h.bell with rows := rows, due := some { beat := n, infer := infer } } }

/-- The frame that closes base beat n is offered to Bell: one with TIME_STEP clears the histories, on a Bell beat or not
(R148, R150). -/
def bellOffer (n : Nat) (h : Hw) : Hw :=
  if bellRuns h then
    let step := h.drum.timeStep || h.drum.copyDiff != 0
    let h := if step then bellClear h else h
    if streamCloses h n (bellCfg h).stream then bellBeat n step h else h
  else h

/-- How many of the last n beats were over. -/
def overCount (bits : List Bool) (n : Nat) : Nat := ((bits.take n).filter id).length

/-- Class k fires with its new over bit: the count of its last N rises from K − 1 to K (R154). -/
def classFires (c : BellClass) (old : List Bool) (hit : Bool) : Bool :=
  c.action != 0 && overCount old c.n + 1 == c.k && overCount (hit :: old) c.n == c.k

/-- Scores of the due beat, the classes' new histories and those that fire, in increasing order (R154). -/
def bellDecide (scores : Option (List Nat)) (h : Hw) : Hw × List Nat :=
  let b := bellCfg h
  let hit (k : Nat) : Bool := match scores with
    | some s => decide ((b.classes.getD k {}).thr < s.getD k 0)
    | none => false
  let old (k : Nat) : List Bool := h.bell.overBits.getD k []
  let fired := (List.range 16).filter fun k => classFires (b.classes.getD k {}) (old k) (hit k)
  ({ h with bell := { h.bell with
      overBits := (List.range 16).map fun k => (hit k :: old k).take 16, due := none } }, fired)

/-! ## The base-beat boundary (R75) -/

/-- BEAT_BOUNDARY: closing streams are converted, the frame record is assembled, offered to Bell, and published, held
or lost at the barrier; then the next beat opens (R65 to R77, R148). Nothing happens while the frame path does not
run. -/
def beatEffect (samples : List ChannelSample) (barrierOk : Bool) (h : Hw) : Hw :=
  if framesRun h then
    let n := h.drum.nextBeat
    let h := passToTime ((n + 1) * basePeriod h) h
    let h := closeStreams n samples (settleDue n h.power.elapsed h)
    let r := openRecord h n
    let h := bellOffer n (countFrame n h)
    openBeat n (storeRecord barrierOk r h)
  else h

def execBeatBoundary (samples : List ChannelSample) (barrierOk : Bool) (s : State) : Host.Outcome State Fault Refusal :=
  run (fun _ h => beatEffect samples barrierOk h) s

end Sys2Proof.Machine
end

