-- ==== Sys2Proof/Machine/Image.lean ====
section
/-! DEFINITION. The configuration image: the checks of R22 and the content of each section with its fall-back (R22 to
R27, R78, R79, R119, R120, R166, R168, R233, R234, R285, R286, R314, R315, R349, R472). -/

namespace Sys2Proof.Machine

/-- Fields of words, as (word, lowest bit, length), are all zero. -/
def fieldsZero (ws : List Word) (fs : List (Nat × Nat × Nat)) : Bool :=
  fs.all fun (w, lo, len) => fld (wordAt ws w) lo len == 0

/-! ## SYSTEM (R25, R472) -/

/-- The SYSTEM section, or none where R472 fails it. -/
def parseSystem (bs : List Byte) : Option SystemSec :=
  let ws := bytesWords bs
  let base := dwordAt ws 1
  let inDram := bit (wordAt ws 0) 0
  if bs.length == 24 && fieldsZero ws [(0, 2, 30), (3, 16, 16), (5, 16, 16)] && base % 4096 == 0 &&
      (!inDram || decide (base + 0x20000 ≤ dramEnd)) then
    some { sqInDram := inDram, sris := bit (wordAt ws 0) 1, sqBase := base, vbatMin := fld (wordAt ws 3) 0 16
           permLo := wordAt ws 4, permHi := wordAt ws 5 }
  else none

/-! ## ACCESS (R314, R315) -/

/-- What a broken ACCESS section runs with: no region, nothing kept in DEEP, all of general DRAM as the pool. -/
def accessFallback : AccessSec := { deepKeep := 0, poolBase := 0, poolBytes := dramEnd, regions := [] }

/-- Region r of an ACCESS section. -/
def regionAt (ws : List Word) (r : Nat) : Region :=
  { base := addrAt ws (8 + 4 * r), size := 4096 * (wordAt ws (10 + 4 * r)).toNat, perm := wordAt ws (11 + 4 * r) }

/-- A region lies where R315 lets it, and grants only what it may. -/
def regionOk (noHost : Bool) (r : Region) : Bool :=
  let e := r.base + r.size
  let inWin := decide (windowBase ≤ r.base) && decide (e ≤ windowBase + windowSize)
  let grants (m : Nat) : Bool := fld r.perm (2 * m) 2 != 0
  r.base % 4096 == 0 && r.size != 0 &&
  (decide (e ≤ dramEnd) || inWin ||
    (!noHost && ((decide (host0Base ≤ r.base) && decide (e ≤ host1Base)) ||
      (decide (host1Base ≤ r.base) && decide (e ≤ spaceEnd))))) &&
  (List.range 7).all (fun k => !grants (9 + k)) &&
  (!inWin || [0, 3, 4, 5, 6, 7].all (fun m => !grants m))

/-- The ACCESS section, or none where R315 fails it. -/
def parseAccess (noHost : Bool) (bs : List Byte) : Option AccessSec :=
  let ws := bytesWords bs
  let n := fld (wordAt ws 0) 0 9
  let kib := (wordAt ws 4).toNat
  let pool := addrAt ws 2
  let rs := (List.range n).map (regionAt ws)
  let reserved := fieldsZero ws [(0, 9, 23), (1, 8, 24), (3, 16, 16), (5, 0, 32), (6, 0, 32), (7, 0, 32)] &&
    (List.range n).all fun r => fld (wordAt ws (9 + 4 * r)) 16 16 == 0
  if decide (32 ≤ bs.length) && bs.length == 32 + 16 * n && decide (n ≤ 256) && reserved && rs.all (regionOk noHost) &&
      disjoint (rs.map fun r => (r.base, r.size)) && pool % 4096 == 0 && kib % 4 == 0 &&
      (kib != 0 || pool == 0) && decide (pool + 1024 * kib ≤ dramEnd) then
    some { deepKeep := fld (wordAt ws 1) 0 8, poolBase := pool, poolBytes := if kib = 0 then dramEnd else 1024 * kib
           regions := rs }
  else none

/-! ## CHANNELS (R78, R79) -/

/-- Channel c of a CHANNELS section. -/
def channelAt (ws : List Word) (c : Nat) : ChannelCfg :=
  let w := wordAt ws (8 + 2 * c)
  { mode := fld w 0 2, gain := fld w 2 3, bias := fld w 5 2, vibration := bit w 7, stream := fld w 8 3
    xingDiv := fld w 11 2, xingHyst := fld w 13 2, dc := bit w 15, sensorType := fld w 16 4
    tapEn := fld (wordAt ws (9 + 2 * c)) 0 16 }

/-- The CHANNELS section, or none where R79 fails it. -/
def parseChannels (bs : List Byte) : Option ChannelsSec :=
  let ws := bytesWords bs
  let depth := fld (wordAt ws 4) 0 4
  let base := addrAt ws 2
  let chs := (List.range 32).map (channelAt ws)
  let reserved := fieldsZero ws
      [(0, 3, 29), (1, 16, 16), (3, 16, 16), (4, 4, 28), (5, 0, 32), (6, 0, 32), (7, 0, 32)] &&
    (List.range 32).all fun c => fieldsZero ws [(8 + 2 * c, 20, 12), (9 + 2 * c, 16, 16)]
  if bs.length == 288 && reserved && decide (4 ≤ depth) && decide (depth ≤ 12) && base % 4096 == 0 &&
      chs.all (fun c => c.mode == 1 || c.bias == 0) && decide (base + 640 * 2 ^ depth ≤ spaceEnd) then
    some { beat := fld (wordAt ws 0) 0 2, z5 := bit (wordAt ws 0) 2
           streamDiv := (List.range 8).map fun s => fld (wordAt ws 1) (2 * s) 2
           frameBase := base, depthLog2 := depth, channels := chs }
  else none

/-! ## QUOTAS (R285, R286) -/

/-- The QUOTAS section, or none where R286 fails it. -/
def parseQuotas (capMw : Nat) (bs : List Byte) : Option QuotasSec :=
  let ws := bytesWords bs
  let q (i : Nat) : List Nat := [fld (wordAt ws i) 0 16, fld (wordAt ws i) 16 16]
  let init := q 0 ++ q 1
  let max := q 2 ++ q 3
  let floor := fld (wordAt ws 4) 0 16
  let base := fld (wordAt ws 4) 16 16
  let thr := fld (wordAt ws 5) 0 8
  let stop := fld (wordAt ws 5) 8 8
  if bs.length == 64 && (init.zip max).all (fun (i, m) => decide (i ≤ m)) && decide (floor ≤ init.getD 0 0) &&
      decide (1 ≤ init.getD 0 0) && decide (base + floor ≤ capMw) && decide (60 ≤ thr) && decide (thr < stop) &&
      decide (stop ≤ 125) && fieldsZero ws [(5, 17, 15), (6, 16, 16)] && (ws.drop 7).all (· == 0) then
    some { init := init, max := max, c0Floor := floor, base := base, tThr := thr, tStop := stop
           longOk := bit (wordAt ws 5) 16, classPerm := fld (wordAt ws 6) 0 16 }
  else none

/-! ## RING (R349) -/

/-- The RING section, or none where it breaks the table. -/
def parseRing (standalone : Bool) (bs : List Byte) : Option RingSec :=
  let ws := bytesWords bs
  let rtt := (wordAt ws 0).toNat
  let err := fld (wordAt ws 1) 2 8
  let tmo := fld (wordAt ws 1) 16 16
  let n := fld (wordAt ws 2) 0 9
  if bs.length == 32 && ((decide (100 ≤ rtt) && decide (rtt ≤ 100000)) || (standalone && rtt == 0)) &&
      fld (wordAt ws 1) 0 2 != 3 && decide (n ≤ 256) && fieldsZero ws [(1, 10, 6), (2, 9, 23)] &&
      (ws.drop 3).all (· == 0) then
    some { rttBudget := rtt, minWidth := 2 * 2 ^ fld (wordAt ws 1) 0 2, errRetrain := if err = 0 then 64 else err
           exchTimeout := if tmo = 0 then 1000 else tmo, expectN := n }
  else none

/-! ## MARGINS (R233, R234) -/

/-- The MARGINS section, or none where R234 fails it. -/
def parseMargins (bs : List Byte) : Option MarginsSec :=
  let ws := bytesWords bs
  if bs.length == 64 && fld (wordAt ws 2) 1 31 == 0 && (ws.drop 3).all (· == 0) then
    some { permit := (List.range 16).map fun c => fld (wordAt ws (c / 8)) (4 * (c % 8)) 4, c0M0 := bit (wordAt ws 2) 0 }
  else none

/-! ## RAWPATH (R119, R120) -/

/-- Chain r of a RAWPATH section. -/
def rawAt (ws : List Word) (r : Nat) : RawCfg :=
  let w (i : Nat) : Word := wordAt ws (8 + 8 * r + i)
  { enable := bit (w 0) 0, autostart := bit (w 0) 1, channel := fld (w 0) 2 5, response := fld (w 0) 7 5
    spikeEn := bit (w 0) 12, num := fld (w 1) 0 12, den := fld (w 1) 12 12, respAllow := fld (w 2) 0 24
    base := addrAt ws (8 + 8 * r + 3), depthLog2 := fld (w 4) 16 4, thrLevel := fld (w 5) 0 16
    thrHyst := fld (w 5) 16 16, thrEn := bit (w 6) 0, envShift := fld (w 6) 1 4, thrMin := fld (w 6) 5 16
    spikeRatio := fld (w 7) 0 8, spikeFloor := fld (w 7) 8 16, spikeHold := fld (w 7) 24 8 }

/-- Chain r's entry follows R119 and R120, `modes` being the MODE of each channel where the image has CHANNELS. THR_HYST
below THR_LEVEL is asked where THR_EN is set, and of an entry that names a hysteresis (log 23). -/
def rawEntryOk (modes : Option (List Nat)) (ws : List Word) (r : Nat) : Bool :=
  let c := rawAt ws r
  let own := (ws.drop (8 + 8 * r)).take 8
  if !c.enable then own.all (· == 0)
  else
    fieldsZero own [(0, 13, 19), (1, 24, 8), (2, 24, 8), (4, 20, 12), (6, 21, 11)] &&
    decide (1 ≤ c.num) && decide (c.num ≤ c.den) && decide (c.den ≤ 4 * c.num) && decide (c.response < 24) &&
    (c.respAllow == 0 || bitOf c.respAllow c.response) && c.base % 4096 == 0 && decide (4 ≤ c.depthLog2) &&
    decide (c.depthLog2 ≤ 14) && (!c.thrEn || c.thrLevel != 0) &&
    ((!c.thrEn && c.thrHyst == 0) || decide (c.thrHyst < c.thrLevel)) &&
    (!c.spikeEn || (c.spikeRatio != 0 && c.spikeHold != 0)) &&
    decide (c.base + 1024 * 2 ^ c.depthLog2 ≤ spaceEnd) &&
    (match modes with
     | some ms => ms.getD c.channel 0 != 0
     | none => true)

/-- The RAWPATH section, or none where R120 fails it. -/
def parseRaw (channels : Option ChannelsSec) (modes : Option (List Nat)) (bs : List Byte) : Option RawSec :=
  let ws := bytesWords bs
  let chains := (List.range 8).map (rawAt ws)
  let rings := (chains.filter (·.enable)).map fun c => (c.base, 1024 * 2 ^ c.depthLog2)
  let frame := match channels with
    | some c => [(c.frameBase, 640 * 2 ^ c.depthLog2)]
    | none => []
  if bs.length == 288 && fld (wordAt ws 0) 1 31 == 0 && ((ws.drop 1).take 7).all (· == 0) &&
      (List.range 8).all (rawEntryOk modes ws) && disjoint (rings ++ frame) then
    some { beatPinEn := bit (wordAt ws 0) 0, chains := chains }
  else none

/-! ## The image (R22 to R24) -/

/-- One entry of the directory. -/
structure DirEntry where
  type : Nat
  off  : Nat
  len  : Nat
  deriving Repr

/-- The directory of an image's words. -/
def directory (ws : List Word) : List DirEntry :=
  (List.range (fld (wordAt ws 3) 0 8)).map fun s =>
    { type := fld (wordAt ws (8 + 4 * s)) 0 8, off := (wordAt ws (9 + 4 * s)).toNat, len := (wordAt ws (10 + 4 * s)).toNat }

/-- The content of a section type, if the image has it. -/
def sectionOf (img : List Byte) (dir : List DirEntry) (type : Nat) : Option (List Byte) :=
  (dir.find? (fun e => e.type == type)).map fun e => (img.drop e.off).take e.len

/-- Every section lies after the directory and before SIGBLOCK, none overlap, types are known, single and complete. A
reserved field of the header or directory that is not zero fails the format check (log 22). -/
def directoryOk (grounded : Bool) (img : List Byte) : Bool :=
  let ws := bytesWords (img.take (32 + 16 * 16))
  let n := fld (wordAt ws 3) 0 8
  let dir := directory ws
  let types := dir.map (·.type)
  let needed := [1, 2, 4, 6] ++ (if grounded then [] else [3, 5, 8])
  decide (1 ≤ n) && decide (n ≤ 16) && decide (32 + 16 * n + 192 ≤ img.length) &&
  fieldsZero ws [(1, 16, 16), (3, 8, 24), (6, 9, 23), (7, 0, 32)] &&
  (List.range n).all (fun s => fieldsZero ws [(8 + 4 * s, 8, 24), (11 + 4 * s, 0, 32)]) &&
  dir.all (fun e => e.off % 64 == 0 && e.len != 0 && decide (32 + 16 * n ≤ e.off) &&
    decide (e.off + e.len ≤ img.length - 192)) &&
  disjoint (dir.map fun e => (e.off, e.len)) && decide types.Nodup && types.all (fun t => decide (1 ≤ t) && decide (t ≤ 8)) &&
  needed.all types.contains

/-- The image that starts a part: its first LENGTH bytes, if R22's checks pass. `anyNode` leaves out the
node-identity test, as R392 does. -/
def checkedImage (h : Hw) (anyNode : Bool) (part : List Byte) : Option (List Byte) :=
  let ws := bytesWords (part.take 32)
  let len := (wordAt ws 2).toNat
  let img := part.take len
  let sys := (sectionOf img (directory (bytesWords (img.take 288))) 1).bind parseSystem
  if wordAt ws 0 == w32 0x5A390C1F && fld (wordAt ws 1) 0 16 == 1 && decide (len ≤ 0x100000) && len % 4 == 0 &&
      decide (len ≤ part.length) && directoryOk h.senseGrounded img && sys.isSome &&
      (anyNode || bit (wordAt ws 6) 8 || fld (wordAt ws 6) 0 8 == h.nodeId) &&
      sha384 ((img.drop (len - 192)).take 96) == h.board.keyHash &&
      ecdsaOk ((img.drop (len - 192)).take 96) (img.drop (len - 96)) (sha384 (img.take (len - 96))) then
    some img
  else none

/-- CONFIG_FAULTS: a bit for each present section found invalid, or required and absent content (R426). -/
def faultBit (n : Nat) (present ok : Bool) : Nat := if present && !ok then 2 ^ n else 0

/-- An accepted image's sections, with the fall-back of each (R27, R79, R120, R168, R234, R286, R315, R349). -/
def imageOf (h : Hw) (img : List Byte) : Image :=
  let ws := bytesWords (img.take 288)
  let dir := directory ws
  let sec := sectionOf img dir
  let channels := (sec 3).bind parseChannels
  let modes := (sec 3).map fun bs => ((List.range 32).map (channelAt (bytesWords bs))).map (·.mode)
  let raw := (sec 8).bind (parseRaw channels modes)
  let bell := (sec 5).bind (parseBell · modes)
  let margins := (sec 7).bind parseMargins
  let quotas := (sec 4).bind (parseQuotas h.capMw)
  let access := (sec 2).bind (parseAccess (!h.hasHost))
  let ring := (sec 6).bind (parseRing h.standalone)
  { serial := dwordAt ws 4, system := ((sec 1).bind parseSystem).getD {}, access := access.getD accessFallback
    channels := channels, quotas := quotas, bell := bell, ring := ring, margins := margins.getD {}, raw := raw
    configFaults := faultBit 0 (sec 3).isSome channels.isSome + faultBit 1 (sec 8).isSome raw.isSome +
      faultBit 2 (sec 5).isSome bell.isSome + faultBit 3 (sec 7).isSome margins.isSome +
      faultBit 4 true quotas.isSome + faultBit 5 true access.isSome + faultBit 6 true ring.isSome }

end Sys2Proof.Machine
end

