-- ==== Sys2Proof/Machine/Fp.lean ====
section
/-! DEFINITION. Numbers of the cores: real values with NaN, infinities and signed zeros, rounding to a binary format,
IEEE 754 binary32 operations, and the special functions within their bounds (R178, R198, R209). -/

namespace Sys2Proof.Machine

/-! ## Values -/

/-- A number: NaN, an infinity, or a rational with the sign that a zero keeps. -/
inductive Fv where
  | nan
  | inf (neg : Bool)
  | num (neg : Bool) (q : Rat)
  deriving DecidableEq, Repr, Inhabited

/-- A rational as a number; a zero is +0. -/
def Fv.ofRat (q : Rat) : Fv := .num (decide (q < 0)) q
def Fv.zero : Fv := .num false 0
def Fv.one : Fv := .num false 1

/-- The sign of a number. -/
def Fv.neg : Fv → Bool
  | .nan => false
  | .inf s => s
  | .num s _ => s

/-- The number with its sign turned. -/
def Fv.negate : Fv → Fv
  | .nan => .nan
  | .inf s => .inf (!s)
  | .num s q => .num (!s) (-q)

/-- The absolute value. -/
def Fv.abs : Fv → Fv
  | .nan => .nan
  | .inf _ => .inf false
  | .num _ q => .num false |q|

def Fv.isNan : Fv → Bool
  | .nan => true
  | _ => false

def Fv.isFinite : Fv → Bool
  | .num _ _ => true
  | _ => false

/-- The rational of a finite number; 0 otherwise. -/
def Fv.rat : Fv → Rat
  | .num _ q => q
  | _ => 0

def Fv.isZero : Fv → Bool
  | .num _ q => q == 0
  | _ => false

/-- Less than; false where either is NaN. -/
def Fv.lt : Fv → Fv → Bool
  | .nan, _ => false
  | _, .nan => false
  | .inf true, .inf true => false
  | .inf true, _ => true
  | _, .inf true => false
  | .inf false, _ => false
  | _, .inf false => true
  | .num _ a, .num _ b => decide (a < b)

/-- The greater of two; NaN where either is NaN. -/
def Fv.max (a b : Fv) : Fv := if a.isNan || b.isNan then .nan else if a.lt b then b else a

/-- The lesser of two; NaN where either is NaN. -/
def Fv.min (a b : Fv) : Fv := if a.isNan || b.isNan then .nan else if b.lt a then b else a

/-- Positive and finite. -/
def Fv.posFinite : Fv → Bool
  | .num _ q => decide (0 < q)
  | _ => false

/-! ## Binary formats -/

/-- A binary format: precision, exponent of the smallest normal, and the largest finite value. -/
structure BinFmt where
  prec : Nat
  emin : Int
  top  : Rat

/-- 2 to an integer. -/
def pow2 (e : Int) : Rat := if 0 ≤ e then ((2 ^ e.toNat : Nat) : Rat) else 1 / ((2 ^ (-e).toNat : Nat) : Rat)

def fmtF32 : BinFmt := { prec := 24, emin := -126, top := (2 - pow2 (-23)) * pow2 127 }
def fmtBf16 : BinFmt := { prec := 8, emin := -126, top := (2 - pow2 (-7)) * pow2 127 }
def fmtE4m3 : BinFmt := { prec := 4, emin := -6, top := 448 }
def fmtE5m2 : BinFmt := { prec := 3, emin := -14, top := 57344 }
def fmtE2m1 : BinFmt := { prec := 2, emin := 0, top := 6 }

/-- The exponent of a positive rational: 2^e ≤ q < 2^(e+1). -/
def exponentOf (q : Rat) : Int :=
  let n := q.num.natAbs
  let e : Int := (n.log2 : Int) - (q.den.log2 : Int)
  if q < pow2 e then e - 1 else e

/-- The spacing of a format at a magnitude (R198). -/
def BinFmt.ulp (f : BinFmt) (q : Rat) : Rat :=
  let e := if q = 0 then f.emin else max (exponentOf |q|) f.emin
  pow2 (e - (f.prec - 1 : Nat))

/-- The nearest integer, ties to even. -/
def roundEven (q : Rat) : Int :=
  let f := q.floor
  let d := q - f
  if d < 1 / 2 then f else if 1 / 2 < d then f + 1 else if f % 2 = 0 then f else f + 1

/-- Toward zero. -/
def truncZero (q : Rat) : Int := if 0 ≤ q then q.floor else -((-q).floor)

/-- The rounding modes of R198; `sr u` carries the element's 16-bit random value. -/
inductive Rounding where
  | rne | rz | sr (u : Nat)
  deriving DecidableEq, Repr

/-- A quotient by a spacing rounded to an integer (R198). -/
def Rounding.int (r : Rounding) (v : Rat) : Int :=
  match r with
  | .rne => roundEven v
  | .rz => truncZero v
  | .sr u =>
    let a := (|v| + (u % 65536 : Nat) / 65536).floor
    if v < 0 then -a else a

/-- A rational rounded to a format with no upper limit. -/
def BinFmt.round (f : BinFmt) (r : Rounding) (q : Rat) : Rat :=
  if q = 0 then 0 else let u := f.ulp q; (r.int (q / u) : Rat) * u

/-- Rounding a rational to FP32, ties to even, overflow to infinity; a zero result keeps the sign given. -/
def rnSigned (neg : Bool) (q : Rat) : Fv :=
  if q = 0 then .num neg 0 else
    let v := fmtF32.round .rne q
    if fmtF32.top < |v| then .inf (decide (q < 0)) else .num (decide (q < 0)) v

/-- rn() of R187 on an exact rational. -/
def rnRat (q : Rat) : Fv := rnSigned false q

/-- rn() of a number. -/
def rn : Fv → Fv
  | .num s q => rnSigned s q
  | v => v

/-! ## Exact operations, and their FP32 roundings (R178) -/

/-- Exact sum, with IEEE 754's zeros and infinities. -/
def Fv.addX : Fv → Fv → Fv
  | .nan, _ => .nan
  | _, .nan => .nan
  | .inf a, .inf b => if a = b then .inf a else .nan
  | .inf a, _ => .inf a
  | _, .inf b => .inf b
  | .num a p, .num b q => if p + q = 0 then .num (a && b) 0 else .ofRat (p + q)

/-- Exact product. -/
def Fv.mulX : Fv → Fv → Fv
  | .nan, _ => .nan
  | _, .nan => .nan
  | .inf a, .inf b => .inf (a != b)
  | .inf a, .num b q => if q = 0 then .nan else .inf (a != b)
  | .num a p, .inf b => if p = 0 then .nan else .inf (a != b)
  | .num a p, .num b q => .num (a != b) (p * q)

/-- Exact quotient. -/
def Fv.divX : Fv → Fv → Fv
  | .nan, _ => .nan
  | _, .nan => .nan
  | .inf _, .inf _ => .nan
  | .inf a, .num b _ => .inf (a != b)
  | .num a _, .inf b => .num (a != b) 0
  | .num a p, .num b q =>
    if q = 0 then (if p = 0 then .nan else .inf (a != b)) else .num (a != b) (p / q)

def Fv.add (a b : Fv) : Fv := rn (a.addX b)
def Fv.sub (a b : Fv) : Fv := rn (a.addX b.negate)
def Fv.mul (a b : Fv) : Fv := rn (a.mulX b)
def Fv.div (a b : Fv) : Fv := rn (a.divX b)

/-- An integer converted to FP32. -/
def Fv.ofInt (i : Int) : Fv := rnRat (i : Rat)

/-! ## Codes of binary formats -/

/-- Decode sign, exponent and fraction of a format with `eb` exponent bits, `mb` fraction bits, bias 2^(eb−1) − 1. -/
def decodeBin (eb mb : Nat) (finiteTop : Bool) (n : Nat) : Fv :=
  let s := bitOf n (eb + mb)
  let e := bitsOf n mb eb
  let f := bitsOf n 0 mb
  let bias : Int := 2 ^ (eb - 1) - 1
  let sgn (q : Rat) : Fv := .num s (if s then -q else q)
  if e = 2 ^ eb - 1 ∧ !finiteTop then (if f = 0 then .inf s else .nan)
  else if e = 0 then sgn ((f : Rat) * pow2 (1 - bias - mb))
  else sgn ((1 + (f : Rat) / 2 ^ mb) * pow2 ((e : Int) - bias))

/-- Encode a value that the format holds exactly. -/
def encodeBin (eb mb : Nat) (neg : Bool) (q : Rat) : Nat :=
  let bias : Int := 2 ^ (eb - 1) - 1
  let a := |q|
  let s := if neg then 2 ^ (eb + mb) else 0
  if a = 0 then s else
    let e := exponentOf a
    if e < 1 - bias then s + (a / pow2 (1 - bias - mb)).floor.toNat
    else s + (e + bias).toNat * 2 ^ mb + ((a / pow2 e - 1) * 2 ^ mb).floor.toNat

/-- The FP32 value of a word. -/
def ofF32 (w : Word) : Fv := decodeBin 8 23 false w.toNat

/-- The word of an FP32 value; NaN is 0x7FC0_0000 (R204). -/
def toF32 : Fv → Word
  | .nan => 0x7FC00000
  | .inf s => if s then 0xFF800000 else 0x7F800000
  | .num s q => w32 (encodeBin 8 23 s q)

/-- The BF16 value of 16 bits. -/
def ofBf16 (n : Nat) : Fv := decodeBin 8 7 false n

/-- A BF16 superscale is zero, or positive and finite (R185, R190). DESIGN CHOICE, unsafe (log 154): only 0x0000 is taken as
zero; minus zero, 0x8000, of which the rules do not speak, fails with SCALE_VALUE. -/
def superOk (n : Nat) : Bool := (ofBf16 n).isFinite && (n == 0 || !(ofBf16 n).neg)

/-- The value of a UE4M3 code (R177). -/
def ue4m3 (c : Nat) : Rat :=
  let e := bitsOf c 3 4
  let f := bitsOf c 0 3
  if e = 0 then (f : Rat) * pow2 (-9) else (1 + (f : Rat) / 8) * pow2 ((e : Int) - 7)

/-! ## Special functions (R209) -/

/-- Fixed-point scale of the approximations: 2^120. -/
def fxOne : Nat := 2 ^ 120

/-- ln 2 at scale 2^120, from ln 2 = 2 Σ (1/3)^(2k+1) / (2k+1). -/
def fxLn2 : Nat :=
  ((List.range 40).foldl (fun (s, p) k => (s + 2 * p / (2 * k + 1), p / 9)) (0, fxOne / 3)).1

/-- e^r at scale 2^120 for a scaled r of magnitude below 1. -/
def fxExp (r : Int) : Int :=
  ((List.range 40).foldl (fun (s, t) k => let t := t * r / (fxOne : Int) / ((k : Int) + 1); (s + t, t))
    ((fxOne : Int), (fxOne : Int))).1

/-- e^q, to about 100 bits, for q between −400 and 400; 0 below. -/
def expApprox (q : Rat) : Rat :=
  if q < -400 then 0 else
    let x := (min q 400 * fxOne).floor
    let n := x / (fxLn2 : Int)
    (fxExp (x - n * fxLn2) : Rat) / fxOne * pow2 n

/-- ln q for positive q, to about 100 bits. -/
def lnApprox (q : Rat) : Rat :=
  let e := exponentOf q
  let m := q / pow2 e
  let z := ((m - 1) / (m + 1) * fxOne).floor
  let s := ((List.range 45).foldl (fun (s, p) k => (s + 2 * p / (2 * (k : Int) + 1), p * z / fxOne * z / fxOne))
    ((0 : Int), z)).1
  ((s + e * (fxLn2 : Int) : Int) : Rat) / fxOne

/-- √q for q ≥ 0: exact where it is, otherwise within 2^−60 of itself and never at a rounding boundary. -/
def sqrtApprox (q : Rat) : Rat :=
  if q ≤ 0 then 0 else
    let k : Int := 80 - (exponentOf q).ediv 2
    let n := (q * pow2 (2 * k)).floor.toNat
    let r := n.sqrt
    if ((r * r : Nat) : Rat) = q * pow2 (2 * k) then (r : Rat) * pow2 (-k) else ((r : Rat) + 1 / 2) * pow2 (-k)

/-- The special functions. -/
inductive Sfu where
  | exp | log | recip | rsqrt | sqrt | sigmoid | tanh | silu | gelu
  deriving DecidableEq, Repr

/-- A number for a special function, in the order of R207's codes. -/
def Sfu.code : Sfu → Nat
  | .gelu => 0x09
  | .silu => 0x0A
  | .sigmoid => 0x0B
  | .tanh => 0x0C
  | .exp => 0x0D
  | .log => 0x0E
  | .recip => 0x0F
  | .rsqrt => 0x10
  | .sqrt => 0x11

/-- tanh q by e^(2q). -/
def tanhApprox (q : Rat) : Rat :=
  if 40 < |q| then (if q < 0 then -1 else 1) else let e := expApprox (2 * q); (e - 1) / (e + 1)

/-- The logistic function. -/
def sigmoidApprox (q : Rat) : Rat := if q < -390 then 0 else 1 / (1 + expApprox (-q))

/-- The exact result of a special function at a finite input, to far more bits than FP32 has. -/
def Sfu.exact (f : Sfu) (q : Rat) : Rat :=
  match f with
  | .exp => expApprox q
  | .log => lnApprox q
  | .recip => 1 / q
  | .rsqrt => 1 / sqrtApprox q
  | .sqrt => sqrtApprox q
  | .sigmoid => sigmoidApprox q
  | .tanh => tanhApprox q
  | .silu => q * sigmoidApprox q
  | .gelu => q / 2 * (1 + tanhApprox (797885 / 1000000 * (q + 44715 / 1000000 * q ^ 3)))

/-- The bound of R209 at an exact result: 2 ulp, or 4 ulp and at least 2^−24. -/
def Sfu.bound (f : Sfu) (y : Rat) : Rat :=
  match f with
  | .exp | .log | .recip | .rsqrt | .sqrt => 2 * fmtF32.ulp y
  | _ => max (4 * fmtF32.ulp y) (pow2 (-24))

/-- An FP32 result that R209 leaves open within a bound of the exact one: the chip's own where it keeps to the bound,
the correctly rounded one otherwise (log 24). -/
def within (bound y : Rat) (own : Fv) : Fv :=
  match own with
  | .num s v => if |v - y| ≤ bound + |y| * pow2 (-60) then .num s v else rnRat y
  | _ => rnRat y

/-- A special function on an FP32 input (R207, R209). At infinities: the limit; SILU and GELU of −∞, which the manual
does not state, are free (log 24). -/
def Sfu.apply (f : Sfu) (x : Fv) : Fv :=
  let own := ofF32 (w32 (Config.special f.code (toF32 x).toNat))
  match x with
  | .nan => .nan
  | .inf true =>
    match f with
    | .exp | .sigmoid => .zero
    | .recip => .num true 0
    | .tanh => .ofRat (-1)
    | .log | .rsqrt | .sqrt => .nan
    | .silu | .gelu => own
  | .inf false =>
    match f with
    | .exp | .log | .sqrt | .silu | .gelu => .inf false
    | .recip | .rsqrt => .zero
    | .tanh | .sigmoid => .one
  | .num _ q =>
    match f with
    | .log => if q < 0 then .nan else if q = 0 then .inf true else within (f.bound (f.exact q)) (f.exact q) own
    | .rsqrt => if q < 0 then .nan else if q = 0 then .inf false else within (f.bound (f.exact q)) (f.exact q) own
    | .sqrt => if q < 0 then .nan else within (f.bound (f.exact q)) (f.exact q) own
    | .recip => if q = 0 then .inf false else within (f.bound (f.exact q)) (f.exact q) own
    | _ => within (f.bound (f.exact q)) (f.exact q) own

/-- √ correctly rounded, as R212 has it. -/
def Fv.sqrtRn : Fv → Fv
  | .nan => .nan
  | .inf s => if s then .nan else .inf false
  | .num s q => if q < 0 then .nan else if q = 0 then .num s 0 else rnRat (sqrtApprox q)

/-! ## Sums (R208) -/

/-- Pairs of neighbours added, as the fixed tree does. -/
def pairSums : List Fv → List Fv
  | a :: b :: rest => a.add b :: pairSums rest
  | xs => xs

/-- The fixed tree over 64 lanes. -/
def laneTree (xs : List Fv) : Fv :=
  ((List.range 6).foldl (fun xs _ => pairSums xs) xs).headD .zero

/-- Every 64th element from the first on. -/
def everyLane : Nat → List Fv → List Fv
  | _, [] => []
  | k, x :: xs => if k = 0 then x :: everyLane 63 xs else everyLane (k - 1) xs

/-- The sum of a row: lane L sums elements L, L + 64, … in order, then the tree (R208). A lane without elements holds
+0. -/
def laneSum (xs : List Fv) : Fv :=
  laneTree ((List.range 64).map fun l =>
    match everyLane 0 (xs.drop l) with
    | [] => .zero
    | y :: ys => ys.foldl Fv.add y)

end Sys2Proof.Machine
end

