-- ==== Sys2Proof/Machine/Formats.lean ====
section
/-! DEFINITION. Element formats, tensor records, the scale stream, and quantise-on-write (R176 to R191, R197 to R205,
R474). -/

namespace Sys2Proof.Machine

/-! ## Formats (R176) -/

def fInt8 : Nat := 0x0
def fInt4 : Nat := 0x1
def fE4m3 : Nat := 0x2
def fE5m2 : Nat := 0x3
def fBf16 : Nat := 0x4
def fFp32 : Nat := 0x5
def fInt32 : Nat := 0x6

/-- A block format. -/
def isBlk (f : Nat) : Bool := decide (8 ≤ f) && decide (f ≤ 11)
/-- An MX format. -/
def isMx (f : Nat) : Bool := decide (12 ≤ f) && decide (f ≤ 15)
/-- A format with a scale stream. -/
def isScaled (f : Nat) : Bool := decide (8 ≤ f)
/-- INT8, INT4, their block forms and MXINT8. -/
def isIntFmt (f : Nat) : Bool := [0, 1, 8, 9, 12].contains f
/-- A 4-bit format. -/
def is4bit (f : Nat) : Bool := [1, 9, 15].contains f
/-- Plain integer formats (R181). -/
def isPlainInt (f : Nat) : Bool := [0, 1].contains f
/-- The FP8 class of R179. -/
def isFp8 (f : Nat) : Bool := [2, 3, 10, 11, 13, 14, 15].contains f

/-- Bits per element. -/
def fmtBits (f : Nat) : Nat := if is4bit f then 4 else if f = 4 then 16 else if f = 5 ∨ f = 6 then 32 else 8

/-- The format of a scaled format's elements, as a plain code; 15 (E2M1) stays. -/
def elemFmt (f : Nat) : Nat :=
  match f with
  | 8 => 0 | 9 => 1 | 10 => 2 | 11 => 3 | 12 => 0 | 13 => 2 | 14 => 3 | n => n

/-- The value of an element's code, before any scale (R176, R178, R186). -/
def elemValue (f n : Nat) : Fv :=
  match elemFmt f with
  | 0 => .ofInt (signedOf 8 n)
  | 1 => .ofInt (signedOf 4 n)
  | 2 => if n % 128 = 127 then .nan else decodeBin 4 3 true n
  | 3 => decodeBin 5 2 false n
  | 4 => decodeBin 8 7 false n
  | 5 => decodeBin 8 23 false n
  | 6 => .ofRat (signedOf 32 n : Rat)
  | _ => decodeBin 2 1 true n

/-- qmax of an element format (R200 to R202). -/
def fmtQmax (f : Nat) : Rat :=
  match elemFmt f with
  | 0 => 127
  | 1 => 7
  | 2 => 448
  | 3 => 57344
  | 4 => fmtBf16.top
  | 5 => fmtF32.top
  | _ => 6

/-! ## Tensor records (R182 to R184) -/

/-- A tensor. -/
structure Tensor where
  addr : Nat
  fmt  : Nat
  cols : Nat
  rows : Nat
  groups : Nat
  rowStride : Nat
  groupStride : Nat
  scaleAt : Nat
  superAt : Nat
  tscale : Word
  deriving DecidableEq, Repr, Inhabited

/-- Packed length of a row in bytes. -/
def packedRow (fmt cols : Nat) : Nat := cols * fmtBits fmt / 8

/-- A number rounded up to a multiple. -/
def roundUp (n m : Nat) : Nat := (n + m - 1) / m * m

/-- A ceiling quotient. -/
def ceilDiv (n m : Nat) : Nat := (n + m - 1) / m

/-- The tensor that a record describes. -/
def tensorOf (ws : List Word) : Tensor :=
  let fmt := fld (wordAt ws 2) 0 4
  let cols := (wordAt ws 3).toNat
  let rows := (wordAt ws 4).toNat
  let rs := if wordAt ws 6 = 0 then roundUp (packedRow fmt cols) 4 else (wordAt ws 6).toNat
  { addr := addrAt ws 0, fmt := fmt, cols := cols, rows := rows
    groups := max 1 (fld (wordAt ws 5) 0 16), rowStride := rs
    groupStride := if wordAt ws 7 = 0 then roundUp (rows * rs) 64 else (wordAt ws 7).toNat
    scaleAt := addrAt ws 8, superAt := addrAt ws 10, tscale := wordAt ws 12 }

/-- A record follows R182 to R184. -/
def tensorOk (ws : List Word) : Bool :=
  let t := tensorOf ws
  t.addr % 64 == 0 && t.fmt != 7 && decide (1 ≤ t.cols) && decide (t.cols ≤ 1048576) && decide (1 ≤ t.rows) &&
  decide (t.rows ≤ 16777216) && t.rowStride % 4 == 0 && decide (packedRow t.fmt t.cols ≤ t.rowStride) &&
  t.groupStride % 64 == 0 && t.scaleAt % 4 == 0 && t.superAt % 4 == 0 &&
  (isScaled t.fmt || t.scaleAt == 0) && (isBlk t.fmt || t.superAt == 0) && (!isScaled t.fmt || t.tscale == 0) &&
  (!is4bit t.fmt || t.cols % 2 == 0) && (!isScaled t.fmt || t.cols % 32 == 0) &&
  fld (wordAt ws 1) 16 16 == 0 && fld (wordAt ws 2) 4 28 == 0 && fld (wordAt ws 5) 16 16 == 0 &&
  fld (wordAt ws 9) 16 16 == 0 && fld (wordAt ws 11) 16 16 == 0 && (ws.drop 13).all (· == 0)

/-- Where a row starts. -/
def Tensor.rowAt (t : Tensor) (g r : Nat) : Nat := t.addr + g * t.groupStride + r * t.rowStride

/-- The byte ranges of a tensor's elements, rows that touch taken together. -/
def Tensor.elemRanges (t : Tensor) : List (Nat × Nat) :=
  let p := packedRow t.fmt t.cols
  (List.range t.groups).flatMap fun g =>
    if p = t.rowStride then [(t.rowAt g 0, p * t.rows)] else (List.range t.rows).map fun r => (t.rowAt g r, p)

/-- The byte ranges of a tensor: elements, scale stream and superscale array. -/
def Tensor.ranges (t : Tensor) : List (Nat × Nat) :=
  t.elemRanges ++
    (if isScaled t.fmt then [(t.scaleAt, 2 * (t.groups * t.rows * (t.cols / 32)))] else []) ++
    (if isBlk t.fmt then [(t.superAt, 2 * (t.groups * t.rows * ceilDiv t.cols 1024))] else [])

/-- The bytes of a tensor, scale stream and superscales included (R215). -/
def Tensor.bytes (t : Tensor) : Nat :=
  t.groups * t.rows * packedRow t.fmt t.cols +
    (if isScaled t.fmt then 2 * (t.groups * t.rows * (t.cols / 32)) else 0) +
    (if isBlk t.fmt then 2 * (t.groups * t.rows * ceilDiv t.cols 1024) else 0)

/-- TSCALE as a number: zero means 1.0 (R182). -/
def Tensor.ts (t : Tensor) : Fv := if t.tscale = 0 then .one else ofF32 t.tscale

/-! ## Reading -/

/-- The element codes of bytes, n bits each (R183). -/
def codesOf (bits : Nat) : List Byte → List Nat
  | [] => []
  | b :: bs =>
    if bits = 4 then b.toNat % 16 :: b.toNat / 16 :: codesOf bits bs
    else if bits = 8 then b.toNat :: codesOf bits bs
    else if bits = 16 then
      match bs with
      | c :: cs => leNat [b, c] :: codesOf bits cs
      | [] => []
    else
      match bs with
      | c :: d :: e :: cs => leNat [b, c, d, e] :: codesOf bits cs
      | _ => []

/-- The element codes of a row. -/
def rowCodes (m : Mems) (h : Hw) (t : Tensor) (g r : Nat) : List Nat :=
  codesOf (fmtBits t.fmt) (readDev m h (t.rowAt g r) (packedRow t.fmt t.cols))

/-- The index of block j of a row (R184). -/
def Tensor.block (t : Tensor) (g r j : Nat) : Nat := (g * t.rows + r) * (t.cols / 32) + j

/-- A block's scale, checked by R190 in its order: the UE4M3 code and superscale of a block format, or X of MX. -/
inductive Scale where
  | blk (code super : Nat)
  | mx (x : Nat)
  deriving DecidableEq, Repr

/-- Fetch and check the scale entry of block j (R189, R190). -/
def fetchScale (m : Mems) (h : Hw) (t : Tensor) (g r j : Nat) : Except Detail Scale :=
  let b := t.block g r j
  let e := leNat (readDev m h (t.scaleAt + 2 * b) 2)
  let s := bitsOf e 0 8
  let idx := bitsOf e 8 4
  if idx ≠ b % 16 then .error .scaleIndex
  else if bitsOf e 12 4 ≠ Nat.xor (Nat.xor (s % 16) (s / 16)) (Nat.xor idx 5) then .error .scaleCheck
  else if isBlk t.fmt then
    let sup := leNat (readDev m h (t.superAt + 2 * ((g * t.rows + r) * ceilDiv t.cols 1024 + j / 32)) 2)
    if 128 ≤ s ∨ s = 127 ∨ !superOk sup then .error .scaleValue else .ok (.blk s sup)
  else .ok (.mx s)

/-- The exact factor of a block's elements (R185, R186). -/
def Scale.exact (f : Nat) : Scale → Fv
  | .blk c s => .ofRat (ue4m3 c * (ofBf16 s).rat)
  | .mx x => if x = 255 then .nan else .ofRat (pow2 ((x : Int) - 127) * (if f = 12 then 1 / 64 else 1))

/-- A superscale of zero makes every element of its superblock zero, a NaN or an infinity too (R185). -/
def Scale.underSuper (s : Scale) (v : Fv) : Fv :=
  match s with
  | .blk _ sup => if sup % 32768 = 0 && !v.isFinite then .zero else v
  | .mx _ => v

/-- The factor e of R187. -/
def Scale.factor (f : Nat) (s : Scale) : Fv := rn (s.exact f)

/-- The scales of a row's blocks. -/
def rowScales (m : Mems) (h : Hw) (t : Tensor) (g r : Nat) : Except Detail (List Scale) :=
  (List.range (t.cols / 32)).mapM fun j => fetchScale m h t g r j

/-- A row decoded to FP32 with its format, scales and TSCALE (R207): the exact real value, rounded once (log 25). -/
def rowValues (m : Mems) (h : Hw) (t : Tensor) (g r : Nat) : Except Detail (List Fv) :=
  let vs := (rowCodes m h t g r).map (elemValue t.fmt)
  if isScaled t.fmt then do
    let ss ← rowScales m h t g r
    return vs.mapIdx fun i v =>
      let s := ss.getD (i / 32) (.mx 255)
      rn ((s.underSuper v).mulX (s.exact t.fmt))
  else .ok (vs.map fun v => rn (v.mulX t.ts))

/-- All rows of a tensor, group by group. -/
def tensorValues (m : Mems) (h : Hw) (t : Tensor) : Except Detail (List (List Fv)) :=
  (List.range (t.groups * t.rows)).mapM fun n => rowValues m h t (n / t.rows) (n % t.rows)

/-! ## Quantise-on-write -/

/-- Codes packed into bytes (R183). -/
def packCodes (bits : Nat) : List Nat → List Byte
  | [] => []
  | a :: as =>
    if bits = 4 then
      match as with
      | b :: bs => BitVec.ofNat 8 (a % 16 + 16 * (b % 16)) :: packCodes bits bs
      | [] => [BitVec.ofNat 8 (a % 16)]
    else leBytes (bits / 8) a ++ packCodes bits as

/-- The code of a value that an element format holds exactly. -/
def elemCode (f : Nat) (neg : Bool) (q : Rat) : Nat :=
  match elemFmt f with
  | 0 => patternOf 8 q.floor
  | 1 => patternOf 4 q.floor
  | 2 => encodeBin 4 3 neg q
  | 3 => encodeBin 5 2 neg q
  | 4 => encodeBin 8 7 neg q
  | 5 => encodeBin 8 23 neg q
  | 6 => patternOf 32 q.floor
  | _ => encodeBin 2 1 neg q

/-- Rounding a scaled value to an element format (R198). SR acts as RNE for FP32. -/
def roundElem (f : Nat) (r : Rounding) (v : Rat) : Rat :=
  match elemFmt f with
  | 0 | 1 => (r.int v : Rat)
  | 2 => fmtE4m3.round r v
  | 3 => fmtE5m2.round r v
  | 4 => fmtBf16.round r v
  | 5 => fmtF32.round (match r with | .sr _ => .rne | r => r) v
  | _ => fmtE2m1.round r v

/-- ROUND with an element's random value. -/
def roundingOf (code u : Nat) : Rounding := if code = 0 then .rne else if code = 1 then .rz else .sr u

/-- The code of a NaN, and whether it counts as saturated (R204); the sign S of an 8-bit NaN is open (log 26) and rides
in bit 16 of the element's value u. -/
def nanCode (f u : Nat) : Nat × Bool :=
  let s := if bitOf u 16 then 128 else 0
  match elemFmt f with
  | 2 => (127 + s, false)
  | 3 => (126 + s, false)
  | 4 => (0x7FC0, false)
  | 5 => (0x7FC00000, false)
  | _ => (0, true)

/-- The quotient of a value by a scale, through its rounded reciprocal where that is finite (R200, R474). -/
def scaledBy (s y : Fv) : Fv :=
  let r := Fv.one.div s
  match r with
  | .inf _ => y.div s
  | _ => y.mul r

/-- One element written: scaled value v, limited before rounding where `pre` (R201) and after it (R200); u its random
value. Its code and whether it counts. -/
def writeElem (f round u : Nat) (y v : Fv) (pre : Bool) : Nat × Bool :=
  let qm := fmtQmax f
  match y, v with
  | .nan, _ => nanCode f u
  | .inf _, w => (elemCode f w.neg (if w.neg then -qm else qm), true)
  | _, .nan => nanCode f u
  | _, .inf s => (elemCode f s (if s then -qm else qm), true)
  | _, .num s x =>
    let x' := if pre then max (-qm) (min qm x) else x
    let q := roundElem f (roundingOf round u) x'
    if qm < |q| then (elemCode f s (if s then -qm else qm), true) else (elemCode f s q, false)

/-- What a quantised tensor amounts to: its writes, saturated elements, elements written. -/
structure QOut where
  writes : List (Nat × List Byte) := []
  sat : Nat := 0
  n : Nat := 0

def QOut.append (a b : QOut) : QOut := { writes := a.writes ++ b.writes, sat := a.sat + b.sat, n := a.n + b.n }

/-- The smallest value of a format not less than a non-negative rational (R201). -/
def BinFmt.roundUp (f : BinFmt) (q : Rat) : Rat := if q = 0 then 0 else ((q / f.ulp q).ceil : Rat) * f.ulp q

/-- The largest finite magnitude of a list. -/
def finiteMax (ys : List Fv) : Rat := ys.foldl (fun a y => match y with | .num _ q => max a |q| | _ => a) 0

/-- The entry of block b in a scale stream (R189). -/
def scaleEntry (s b : Nat) : Nat :=
  s + 256 * (b % 16) + 4096 * Nat.xor (Nat.xor (s % 16) (s / 16)) (Nat.xor (b % 16) 5)

/-- A list cut into pieces of n. -/
def chunksOf {α : Type} (n : Nat) : Nat → List α → List (List α)
  | 0, _ => []
  | fuel + 1, xs => if xs.isEmpty then [] else xs.take n :: chunksOf n fuel (xs.drop n)

/-- The bytes of a row of codes, and how many counted. -/
def rowOut (t : Tensor) (g r : Nat) (cs : List (Nat × Bool)) : QOut :=
  { writes := [(t.rowAt g r, packCodes (fmtBits t.fmt) (cs.map (·.1)))]
    sat := (cs.filter (·.2)).length, n := cs.length }

/-- A row under a static scale per element (R200); a column scale that is not positive and finite writes 0 or NaN,
counted. -/
def quantStatic (t : Tensor) (round : Nat) (scale : Nat → Option Fv) (rnd : Nat → Nat) (g r : Nat) (ys : List Fv) :
    QOut :=
  rowOut t g r (ys.mapIdx fun i y =>
    let u := rnd ((g * t.rows + r) * t.cols + i)
    match scale i with
    | some s =>
      match y with
      | .inf k => writeElem t.fmt round u y (.inf (k != s.neg)) false
      | _ => writeElem t.fmt round u y (scaledBy s y) false
    | none => ((nanCode t.fmt u).1, true))

/-- One block under DYNAMIC_BLOCK: its elements with factor e (R201, R202). -/
def quantBlock (f round : Nat) (e : Fv) (rnd : Nat → Nat) (base : Nat) (ys : List Fv) : List (Nat × Bool) :=
  ys.mapIdx fun i y =>
    match y with
    | .inf s => writeElem f round (rnd (base + i)) y (.inf s) true
    | _ =>
      let (c, sat) := writeElem f round (rnd (base + i)) y (scaledBy e y) true
      -- an element beyond emax of an MX block counts (R202); rounding error of r does not
      (c, sat || (isMx f && decide (e.rat * fmtQmax f < |y.rat|)))

/-- X of an MX block (R202). -/
def mxCode (f : Nat) (a : Rat) : Nat :=
  if a = 0 then 0 else
    let t := a / (fmtQmax f * (if f = 12 then 1 / 64 else 1))
    let k := exponentOf t
    let k := if t = pow2 k then k else k + 1
    (max 0 (min 254 (k + 127))).toNat

/-- A row under DYNAMIC_BLOCK (R201, R202): its elements, scale entries and superscales. -/
def quantDynamic (t : Tensor) (round : Nat) (rnd : Nat → Nat) (g r : Nat) (ys : List Fv) : QOut :=
  let base := (g * t.rows + r) * t.cols
  let blocks := chunksOf 32 (t.cols / 32) ys
  if isMx t.fmt then
    let coded := blocks.mapIdx fun j b =>
      let x := mxCode t.fmt (finiteMax b)
      let e := Fv.ofRat (pow2 ((x : Int) - 127) * (if t.fmt = 12 then 1 / 64 else 1))
      (scaleEntry x (t.block g r j), quantBlock t.fmt round e rnd (base + 32 * j) b)
    let o := rowOut t g r (coded.flatMap (·.2))
    { o with writes := o.writes ++ [(t.scaleAt + 2 * t.block g r 0, coded.flatMap fun (s, _) => leBytes 2 s)] }
  else
    let qm := fmtQmax t.fmt
    let supers := (chunksOf 32 (ceilDiv t.cols 1024) blocks).map fun bs =>
      let amax := finiteMax bs.flatten
      if amax = 0 then 1 else encodeBin 8 7 false (fmtBf16.roundUp (amax / (qm * 448)))
    let coded := blocks.mapIdx fun j b =>
      let sup := (ofBf16 (supers.getD (j / 32) 1)).rat
      let a := finiteMax b
      let code := if a = 0 then 1 else encodeBin 4 3 false (fmtE4m3.roundUp (a / (qm * sup)))
      (scaleEntry code (t.block g r j), quantBlock t.fmt round (rnRat (ue4m3 code * sup)) rnd (base + 32 * j) b)
    let o := rowOut t g r (coded.flatMap (·.2))
    { o with writes := o.writes ++ [(t.scaleAt + 2 * t.block g r 0, coded.flatMap fun (s, _) => leBytes 2 s),
        (t.superAt + 2 * ((g * t.rows + r) * ceilDiv t.cols 1024), supers.flatMap fun s => leBytes 2 s)] }

/-- A row under ROW_RANGE (R203): elements, and s and z into TQ. -/
def quantRange (t tq : Tensor) (round : Nat) (rnd : Nat → Nat) (g r : Nat) (ys : List Fv) : QOut :=
  let fin := (ys.filter Fv.isFinite).map Fv.rat
  let lo := match fin with
    | [] => 0
    | x :: xs => xs.foldl min x
  let hi := match fin with
    | [] => 0
    | x :: xs => xs.foldl max x
  let int4 := elemFmt t.fmt == 1
  let s := rnRat ((hi - lo) / (if int4 then 15 else 255))
  let top : Int := if int4 then 7 else 127
  let bits := if int4 then 4 else 8
  let flat := hi == lo || s.isZero
  let sOut := if flat then Fv.ofRat (pow2 (-149)) else s
  let z := if flat then rnRat lo else rnRat (lo + (if int4 then 8 else 128) * s.rat)
  let one (i : Nat) (y : Fv) : Nat × Bool :=
    match y with
    | .nan => (0, true)
    | .inf k => (patternOf bits (if k then -top - 1 else top), true)
    | y =>
      if flat then (0, false) else
        match scaledBy s (y.sub z) with
        | .num _ v =>
          let q := (roundingOf round (rnd ((g * t.rows + r) * t.cols + i))).int v
          (patternOf bits (max (-top - 1) (min top q)), false)
        | w => (patternOf bits (if w.neg then -top - 1 else top), false)
  let o := rowOut t g r (ys.mapIdx one)
  { o with writes := o.writes ++
      [(tq.rowAt 0 (g * t.rows + r), wordsBytes [toF32 sOut, toF32 z])] }

/-- A whole tensor quantised row by row. `qmode` and the parameters of TQ are those of R197; `rnd` gives each element's
random value (R199). -/
def quantTensor (t : Tensor) (qmode round : Nat) (tq : Option Tensor) (cols : List Fv) (rnd : Nat → Nat)
    (rows : List (List Fv)) : QOut :=
  let one (n : Nat) (ys : List Fv) : QOut :=
    let g := n / t.rows
    let r := n % t.rows
    if isScaled t.fmt then quantDynamic t round rnd g r ys
    else
      match qmode, tq with
      | 3, some tq => quantRange t tq round rnd g r ys
      | 1, _ => quantStatic t round (fun i => let s := cols.getD i .nan; if s.posFinite then some s else none) rnd g r ys
      | _, _ => quantStatic t round (fun _ => some t.ts) rnd g r ys
  (rows.mapIdx one).foldl QOut.append {}

end Sys2Proof.Machine
end

