-- ==== Sys2Proof/Machine/Layer.lean ====
section
/-! DEFINITION. What LAYER, VECTOR and UPDATE_STEP tasks compute (R178 to R195, R206 to R213). -/

namespace Sys2Proof.Machine

/-! ## A task's result -/

/-- What running a whole task gives: writes to device addresses, saturated and written elements, the random values it
drew, non-finite gradients where a step was skipped, the failure that commits nothing, and the master and address of a
transfer that the access tables refused. -/
structure TaskOut where
  writes : List (Nat × List Byte) := []
  sat : Nat := 0
  n : Nat := 0
  draws : Nat := 0
  gradBad : Option Nat := none
  fail : Option (Status × Detail) := none
  refused : Option (Nat × Nat) := none

/-- A quantised output as a task's result. -/
def QOut.out (q : QOut) (draws : Nat) : TaskOut := { writes := q.writes, sat := q.sat, n := q.n, draws := draws }

/-- A task that failed its scale checks (R190). -/
def skewed (d : Detail) : TaskOut := { fail := some (.failScaleSkew, d) }

/-- The result of a computation that the scale checks can fail. -/
def orSkew (x : Except Detail TaskOut) : TaskOut :=
  match x with
  | .ok o => o
  | .error d => skewed d

/-- A free value of a task that began at draw d (log 10). -/
def rndFrom (d : Nat) (i : Nat) : Nat := Config.freeNat (d + i)

/-! ## Operands -/

/-- An operand matrix of one group, its K elements in order, with the factor of each block of 32 (R187). -/
structure Operand where
  codes : List (List Fv)
  factors : List (List Fv)

/-- Rows of a matrix turned into columns. -/
def columns (n : Nat) (rows : List (List Fv)) : List (List Fv) :=
  (List.range n).map fun i => rows.map fun r => r.getD i .zero

/-- Read an operand of group g whose K runs along rows, or (turned) down columns. -/
def readOperand (m : Mems) (h : Hw) (t : Tensor) (g : Nat) (turned : Bool) : Except Detail Operand := do
  let rows := (List.range t.rows).map fun r => (rowCodes m h t g r).map (elemValue t.fmt)
  if isScaled t.fmt then
    let ss ← (List.range t.rows).mapM fun r => rowScales m h t g r
    return { codes := rows.mapIdx fun r vs => vs.mapIdx fun i v =>
               ((ss.getD r []).getD (i / 32) (.mx 255)).underSuper v
             factors := ss.map fun s => s.map (Scale.factor t.fmt) }
  else return { codes := if turned then columns t.cols rows else rows, factors := [] }

/-- An infinite operand element is taken as NaN (R178). -/
def arrayElem : Fv → Fv
  | .inf _ => .nan
  | v => v

/-- A float partial over a stretch of K from an accumulator: four products a step, each step rounded once (R172,
R180). -/
def floatPartial : Nat → Fv → List (Fv × Fv) → Fv
  | 0, acc, _ => acc
  | fuel + 1, acc, ps =>
    if ps.isEmpty then acc else
      let s := (ps.take 4).foldl (fun s (a, b) => s.addX ((arrayElem a).mulX (arrayElem b))) acc
      floatPartial fuel (rn s) (ps.drop 4)

/-- An integer partial, modulo 2^32 (R180). MXINT8's factor 2^−6 lies in its scale. -/
def intPartial (ps : List (Fv × Fv)) : Int :=
  signedOf 32 (patternOf 32 ((ps.foldl (fun (s : Rat) (a, b) => s + Fv.rat a * Fv.rat b) 0).floor))

/-- An accumulator: INT32 for a plain integer pair, FP32 otherwise. -/
inductive Acc where
  | int (i : Int)
  | fp (v : Fv)

/-- The accumulator as FP32 (R195). -/
def Acc.value : Acc → Fv
  | .int i => .ofInt i
  | .fp v => v

/-- One stretch of K, from K index k0, of an output element (R187). -/
def stretch (isInt scaled : Bool) (ea eb : List Fv) (k0 : Nat) (ps : List (Fv × Fv)) : Acc :=
  if scaled then
    .fp (((chunksOf 32 (ps.length / 32 + 1) ps).mapIdx fun j b => (k0 / 32 + j, b)).foldl (fun acc (β, b) =>
      let p := if isInt then Fv.ofInt (intPartial b) else floatPartial 8 .zero b
      acc.add (((ea.getD β .one).mul (eb.getD β .one)).mul p)) .zero)
  else if isInt then .int (intPartial ps)
  else .fp (Fv.zero.add ((Fv.one.mul .one).mul (floatPartial (ps.length + 1) .zero ps)))

/-- Partials of one element added in their order (R194). -/
def addPartials : List Acc → Acc
  | [] => .fp .zero
  | a :: as => as.foldl (fun s x => match s, x with
    | .int i, .int j => .int (signedOf 32 (patternOf 32 (i + j)))
    | s, x => .fp (s.value.add x.value)) a

/-- How many ranges of K a LAYER with KSPLIT is divided into: free, and fixed by descriptor and tensor records (R194,
R280, log 27). -/
def kParts (d : List Word) (ts : List (List Word)) (k : Nat) : Nat :=
  if bit (wordAt d 11) 10 then
    1 + Config.kCut ((d ++ ts.flatten).map fun w => w.toNat) % max 1 (min (fld (wordAt d 0) 14 5 + 1) (ceilDiv k 32))
  else 1

/-- The ranges of K, in multiples of 32, that n cores divide it into, as evenly as they can. -/
def kRanges (n k : Nat) : List (Nat × Nat) :=
  let u := ceilDiv k 32
  (List.range n).map fun p => (32 * (p * u / n), min k (32 * ((p + 1) * u / n)))

/-- The n-th order of a list: the one that takes element n mod length first. -/
def orderOf {α : Type} : Nat → Nat → List α → List α
  | 0, _, xs => xs
  | fuel + 1, n, xs =>
    match xs.drop (n % max 1 xs.length) with
    | [] => []
    | x :: rest => x :: orderOf fuel (n / max 1 xs.length) (xs.take (n % max 1 xs.length) ++ rest)

/-- An output element: its K elements, over the ranges that KSPLIT gave, in the order of delivery `ord` (R187,
R194). -/
def dotProduct (isInt scaled : Bool) (ranges : List (Nat × Nat)) (ord : Nat) (a b ea eb : List Fv) : Acc :=
  let ps := a.zip b
  addPartials ((orderOf ranges.length ord ranges).map fun (lo, hi) =>
    stretch isInt scaled ea eb lo ((ps.drop lo).take (hi - lo)))

/-! ## Activations (R193, R195) -/

/-- max(y, 0). -/
def relu (y : Fv) : Fv := if y.isNan then .nan else if Fv.zero.lt y then y else .zero

/-- act() of a LAYER. -/
def activate (act : Nat) (param : Fv) (y : Fv) : Fv :=
  match act with
  | 1 => relu y
  | 2 => (relu y).min param
  | 3 => if y.lt .zero then y.mul param else y
  | 4 => Sfu.gelu.apply y
  | 5 => Sfu.silu.apply y
  | 6 => Sfu.sigmoid.apply y
  | 7 => Sfu.tanh.apply y
  | _ => y

/-! ## LAYER -/

/-- The tensor of an index, or none for 0xFFFF or an index beyond the table. -/
def tensorAt (ts : List (List Word)) (i : Nat) : Option Tensor := if i = 0xFFFF then none else ts[i]?.map tensorOf

/-- The halves of a word. -/
def lo16 (w : Word) : Nat := fld w 0 16
def hi16 (w : Word) : Nat := fld w 16 16

/-- The rows of C before quantisation (R192, R195). `nk` ranges of K; the order in which an element's partials arrive is
free (R194, log 27). -/
def layerRows (m : Mems) (h : Hw) (d : List Word) (ts : List (List Word)) (nk : Nat) :
    Except Detail (List (List Acc)) := do
  let w (i : Nat) := wordAt d i
  let a := (tensorAt ts (lo16 (w 8))).getD default
  let b := (tensorAt ts (hi16 (w 8))).getD default
  let c := (tensorAt ts (lo16 (w 9))).getD default
  let tA := bit (w 11) 8
  let tB := bit (w 11) 9
  let k := if tA then a.rows else a.cols
  let isInt := isIntFmt a.fmt && isIntFmt b.fmt
  let scaled := isScaled a.fmt || isScaled b.fmt
  let ranges := kRanges nk k
  let groups ← (List.range c.groups).mapM fun g => do
    let oa ← readOperand m h a g tA
    let ob ← readOperand m h b (if b.groups = 1 then 0 else g) (!tB)
    return (List.range c.rows).map fun i => (List.range c.cols).map fun j =>
      let tile := (g * ceilDiv c.rows 24 + i / 24) * ceilDiv c.cols 32 + j / 32
      dotProduct isInt scaled ranges (rndFrom h.draws tile) (oa.codes.getD i []) (ob.codes.getD j [])
        (oa.factors.getD i []) (ob.factors.getD j [])
  return groups.flatten

/-- A LAYER task (R192); `rnd` gives each element's random value and NaN sign. -/
def runLayer (m : Mems) (h : Hw) (d : List Word) (ts : List (List Word)) (rnd : Nat → Nat) : TaskOut :=
  let w (i : Nat) := wordAt d i
  let a := (tensorAt ts (lo16 (w 8))).getD default
  let b := (tensorAt ts (hi16 (w 8))).getD default
  let c := (tensorAt ts (lo16 (w 9))).getD default
  let k := if bit (w 11) 8 then a.rows else a.cols
  let used := if bit (w 11) 10 then c.groups * ceilDiv c.rows 24 * ceilDiv c.cols 32 else 0
  orSkew (do
    let accs ← layerRows m h d ts (kParts d ts k)
    if c.fmt = fInt32 then
      let q := accs.mapIdx fun n row =>
        rowOut c (n / c.rows) (n % c.rows) (row.map fun x =>
          (match x with
           | .int i => patternOf 32 i
           | .fp _ => 0, false))
      return (q.foldl QOut.append {}).out used
    else
      let bias ← match tensorAt ts (lo16 (w 10)) with
        | some t => (rowValues m h t 0 0).map some
        | none => .ok none
      let add ← match tensorAt ts (hi16 (w 9)) with
        | some t => (tensorValues m h t).map some
        | none => .ok none
      let s := a.ts.mul b.ts
      let ys := accs.mapIdx fun n row => row.mapIdx fun j x =>
        let y := x.value.mul s
        let y := match bias with
          | some bs => y.add (bs.getD j .zero)
          | none => y
        let y := match add with
          | some rs => y.add ((rs.getD n []).getD j .zero)
          | none => y
        activate (fld (w 11) 0 4) (ofF32 (w 13)) y
      let tq := tensorAt ts (hi16 (w 10))
      let cols ← match tq with
        | some t => if fld (w 11) 6 2 = 1 then rowValues m h t 0 0 else .ok []
        | none => .ok []
      return (quantTensor c (fld (w 11) 6 2) (fld (w 11) 4 2) tq cols rnd ys).out used)

/-! ## VECTOR (R206 to R209) -/

/-- The element of TY that meets element i of row n of TX (R208). -/
def yElem (tx ty : Tensor) (ys : List (List Fv)) (n i : Nat) : Fv :=
  let g := if ty.groups = 1 then 0 else n / tx.rows
  let r := if ty.rows = 1 then 0 else n % tx.rows
  (ys.getD (g * ty.rows + r) []).getD (if ty.cols = 1 ∧ tx.cols ≠ 1 then 0 else i) .zero

/-- An elementwise operation of R207 on x and, where there is one, y. NaN passes through MAX and MIN (log 29). -/
def vectorElem (op : Nat) (p0 p1 : Fv) (x : Fv) (y : Option Fv) : Fv :=
  match op, y with
  | 0x01, some y => x.add y
  | 0x02, some y => x.sub y
  | 0x03, some y => x.mul y
  | 0x04, some y => (p0.mul x).add (p1.mul y)
  | 0x04, none => (p0.mul x).add p1
  | 0x05, some y => x.max y
  | 0x06, some y => x.min y
  | 0x08, _ => relu x
  | 0x09, _ => Sfu.gelu.apply x
  | 0x0A, _ => Sfu.silu.apply x
  | 0x0B, _ => Sfu.sigmoid.apply x
  | 0x0C, _ => Sfu.tanh.apply x
  | 0x0D, _ => Sfu.exp.apply x
  | 0x0E, _ => Sfu.log.apply x
  | 0x0F, _ => Sfu.recip.apply x
  | 0x10, _ => Sfu.rsqrt.apply x
  | 0x11, _ => Sfu.sqrt.apply x
  | _, _ => x

/-- The largest element of a row. -/
def rowMax : List Fv → Fv
  | [] => .inf true
  | x :: xs => xs.foldl Fv.max x

/-- A row operation of R207. `prm`: rows of TP. The steps' order of rounding is that of the formula (log 25). -/
def vectorRow (op : Nat) (p0 : Fv) (prm : List (List Fv)) (xs : List Fv) : List Fv :=
  let n := Fv.ofInt xs.length
  let param (r i : Nat) (none_ : Fv) : Fv := match prm[r]? with
    | some row => row.getD i none_
    | none => none_
  if xs.any Fv.isNan then (if op = 0x1C ∨ op = 0x1D then [.nan] else xs.map fun _ => .nan)
  else match op with
  | 0x18 | 0x19 =>
    let t := if p0.isZero then .one else p0
    let tx := xs.map t.mul
    let mx := rowMax tx
    if xs.all (· == .inf true) then xs.map fun _ => if op = 0x18 then .zero else .inf true
    else
      let ds := tx.map fun v => v.sub mx
      let es := ds.map Sfu.exp.apply
      let s := laneSum es
      let out := if op = 0x18 then es.map fun e => e.div s else ds.map fun d => d.sub (Sfu.log.apply s)
      if out.any Fv.isNan then xs.map fun _ => .nan else out
  | 0x1A =>
    let mean := (laneSum xs).div n
    let ds := xs.map fun x => x.sub mean
    let var := (laneSum (ds.map fun d => d.mul d)).div n
    let den := Sfu.sqrt.apply (var.add p0)
    ds.mapIdx fun i d => ((d.div den).mul (param 0 i .one)).add (param 1 i .zero)
  | 0x1B =>
    let ms := (laneSum (xs.map fun x => x.mul x)).div n
    let den := Sfu.sqrt.apply (ms.add p0)
    xs.mapIdx fun i x => (x.div den).mul (param 0 i .one)
  | 0x1C => [laneSum xs]
  | _ => [rowMax xs]

/-- A VECTOR task (R206). -/
def runVector (m : Mems) (h : Hw) (d : List Word) (ts : List (List Word)) (rnd : Nat → Nat) : TaskOut :=
  let w (i : Nat) := wordAt d i
  let tx := (tensorAt ts (lo16 (w 8))).getD default
  let tz := (tensorAt ts (hi16 (w 9))).getD default
  let op := fld (w 10) 0 6
  orSkew (do
    let xs ← tensorValues m h tx
    let ys ← match tensorAt ts (hi16 (w 8)) with
      | some t => (tensorValues m h t).map fun v => some (t, v)
      | none => .ok none
    let prm ← match tensorAt ts (lo16 (w 9)) with
      | some t => tensorValues m h t
      | none => .ok []
    let p0 := ofF32 (w 11)
    let p1 := ofF32 (w 12)
    let zs := xs.mapIdx fun n row =>
      if 0x18 ≤ op then vectorRow op p0 prm row
      else row.mapIdx fun i x => vectorElem op p0 p1 x (ys.map fun (t, v) => yElem tx t v n i)
    return (quantTensor tz (fld (w 10) 8 2) (fld (w 10) 6 2) none [] rnd zs).out 0)

/-! ## UPDATE_STEP (R210 to R213) -/

/-- A rational cut to 160 significant bits, and to 0 or a cap beyond FP32's range by far. -/
def cut160 (q : Rat) : Rat :=
  if |q| < pow2 (-400) then 0 else if pow2 400 < |q| then (if q < 0 then -pow2 400 else pow2 400) else
    let u := pow2 (exponentOf |q| - 160)
    (truncZero (q / u) : Rat) * u

/-- q to the t-th power, to about 150 bits; `fuel` halvings of t. -/
def powApprox : Nat → Rat → Nat → Rat
  | 0, _, _ => 1
  | fuel + 1, q, t =>
    if t = 0 then 1 else
      let r := powApprox fuel (cut160 (q * q)) (t / 2)
      if t % 2 = 1 then cut160 (r * q) else r

/-- 1 − β^t within 2 ulp (R212): the chip's own value within the bound (log 24). -/
def biasCorrection (k : Nat) (beta : Fv) (t : Nat) : Fv :=
  match beta with
  | .nan => .nan
  | .inf s => .inf (!(s && t % 2 == 1))
  | .num _ q =>
    let y := 1 - powApprox 33 q t
    within (2 * fmtF32.ulp y) y (ofF32 (w32 (Config.special (0x40 + k) ((toF32 beta).toNat + 2 ^ 32 * t))))

/-- The eight hyperparameters (R211). -/
structure Hyper where
  lr : Fv
  b1 : Fv
  b2 : Fv
  eps : Fv
  wd : Fv
  gs : Fv
  clip : Fv

/-- One element's step by the formulas of R212: g already scaled and clipped; new parameter and moments. -/
def formulaStep (opt : Nat) (y : Hyper) (c1 c2 p g m1 m2 : Fv) : Fv × Fv × Fv :=
  let lwd := fun x => y.lr.mul x
  match opt with
  | 0 => (p.sub (lwd (g.add (y.wd.mul p))), m1, m2)
  | 1 =>
    let m' := (y.b1.mul m1).add g
    (p.sub (lwd (m'.add (y.wd.mul p))), m', m2)
  | _ =>
    let m' := (y.b1.mul m1).add ((Fv.one.sub y.b1).mul g)
    let v' := (y.b2.mul m2).add (((Fv.one.sub y.b2).mul g).mul g)
    let den := (v'.div c2).sqrtRn.add y.eps
    ((p.sub ((y.lr.mul y.wd).mul p)).sub ((y.lr.mul (m'.div c1)).div den), m', v')

/-- One element's step: LR zero leaves the parameter unchanged and still updates the moments (R211). -/
def stepElem (opt : Nat) (y : Hyper) (c1 c2 p g m1 m2 : Fv) : Fv × Fv × Fv :=
  let out := formulaStep opt y c1 c2 p g m1 m2
  if y.lr.isZero then (p, out.2) else out

/-- A tensor copied byte for byte (R213). -/
def copyTensor (m : Mems) (h : Hw) (src dst : Tensor) : QOut :=
  let rows := (List.range (dst.groups * dst.rows)).map fun n =>
    (dst.rowAt (n / dst.rows) (n % dst.rows),
      readDev m h (src.rowAt (n / dst.rows) (n % dst.rows)) (packedRow src.fmt src.cols))
  let blocks := dst.groups * dst.rows * (dst.cols / 32)
  let scales := if isScaled dst.fmt then [(dst.scaleAt, readDev m h src.scaleAt (2 * blocks))] else []
  let supers := if isBlk dst.fmt then
      [(dst.superAt, readDev m h src.superAt (2 * (dst.groups * dst.rows * ceilDiv dst.cols 1024)))] else []
  { writes := rows ++ scales ++ supers, sat := 0, n := dst.groups * dst.rows * dst.cols }

/-- New values written to a tensor through quantise-on-write (R212). -/
def writeTensor (t : Tensor) (round : Nat) (rnd : Nat → Nat) (ys : List (List Fv)) : QOut :=
  quantTensor t (if isScaled t.fmt then 2 else 0) round none [] rnd ys

/-- The hyperparameters that TH's first eight elements give, decoded with TH's TSCALE (R182, R211). -/
def hyperOf (t : Option Tensor) (words : List Word) : Hyper :=
  let e (i : Nat) : Fv := match t with
    | some t => rn ((ofF32 (wordAt words i)).mulX t.ts)
    | none => .zero
  { lr := e 0, b1 := e 1, b2 := e 2, eps := e 3, wd := e 4, gs := if (e 5).isZero then .one else e 5, clip := e 6 }

/-- An UPDATE_STEP task (R210); `th` is what TH's first eight elements held when the task started (R211). -/
def runUpdateStep (m : Mems) (h : Hw) (d : List Word) (ts : List (List Word)) (th : List Word) (rnd : Nat → Nat) :
    TaskOut :=
  let w (i : Nat) := wordAt d i
  let get (i : Nat) := tensorAt ts i
  let opt := fld (w 12) 0 2
  let round := fld (w 12) 2 2
  let par := (get (lo16 (w 8))).getD default
  let parN := (get (lo16 (w 10))).getD default
  let n := par.groups * par.rows * par.cols
  let vals (t : Option Tensor) : Except Detail (List (List Fv)) := match t with
    | some t => tensorValues m h t
    | none => .ok []
  orSkew (do
    let y := hyperOf (get (hi16 (w 11))) th
    let ps ← vals (some par)
    let gr ← vals (get (hi16 (w 8)))
    let gs := gr.map fun row => row.map fun g => g.mul y.gs
    let bad := ((gs.flatten).filter fun g => !g.isFinite).length
    let m1 ← vals (get (lo16 (w 9)))
    let m2 ← vals (get (hi16 (w 9)))
    if bad ≠ 0 then
      let keep (src dst : Option Tensor) (k : Nat) (v : List (List Fv)) : QOut := match src, dst with
        | some s, some t =>
          if s.fmt = t.fmt ∧ s.ts = t.ts then copyTensor m h s t
          else writeTensor t round (fun i => rnd (k * n + i)) v
        | _, _ => {}
      let q := ((keep (some par) (some parN) 0 ps).append (keep (get (lo16 (w 9))) (get (hi16 (w 10))) 1 m1)).append
        (keep (get (hi16 (w 9))) (get (lo16 (w 11))) 2 m2)
      return { q.out 0 with gradBad := some bad }
    else
      let c1 := biasCorrection 1 y.b1 (w 13).toNat
      let c2 := biasCorrection 2 y.b2 (w 13).toNat
      let lim (g : Fv) : Fv := if Fv.zero.lt y.clip then (g.min y.clip).max y.clip.negate else g
      let el (v : List (List Fv)) (r i : Nat) : Fv := (v.getD r []).getD i .zero
      let out := ps.mapIdx fun r row => row.mapIdx fun i p =>
        stepElem opt y c1 c2 p (lim (el gs r i)) (el m1 r i) (el m2 r i)
      let put (t : Option Tensor) (k : Nat) (f : Fv × Fv × Fv → Fv) : QOut := match t with
        | some t => writeTensor t round (fun i => rnd (k * n + i)) (out.map fun row => row.map f)
        | none => {}
      return (((put (some parN) 0 (·.1)).append (put (get (hi16 (w 10))) 1 (·.2.1))).append
        (put (get (lo16 (w 11))) 2 (·.2.2))).out 0)

end Sys2Proof.Machine
end

