-- ==== Sys2Proof/Machine/Attend.lean ====
section
/-! DEFINITION. What ATTEND and RECUR tasks compute (R218 to R229, R247, R255 to R262). -/

namespace Sys2Proof.Machine

/-! ## The knob (R226) -/

/-- τ, W and τ_far of a knob; Q0 has none. -/
def knobRow : Nat → Option (Rat × Option Nat × Rat)
  | 1 => some (16, none, 0)
  | 2 => some (13, none, 0)
  | 3 => some (11, none, 0)
  | 4 => some (19 / 2, some 2048, 8)
  | 5 => some (17 / 2, some 1536, 7)
  | 6 => some (15 / 2, some 1024, 6)
  | 7 => some (7, some 1024, 5)
  | 8 => some (13 / 2, some 768, 9 / 2)
  | 9 => some (6, some 512, 4)
  | 10 => some (11 / 2, some 512, 7 / 2)
  | 11 => some (5, some 384, 3)
  | 12 => some (9 / 2, some 256, 5 / 2)
  | 13 => some (4, some 192, 2)
  | 14 => some (7 / 2, some 128, 3 / 2)
  | 15 => some (3, some 64, 1)
  | _ => none

/-- What becomes of a query-key pair. -/
inductive PairFate where
  | masked | kept | weak | far
  deriving DecidableEq, Repr

/-- A row classified (R222, R223): qp, and for each key its position, whether it is masked, and its estimate. -/
def classifyRow (knob : Nat) (qp : Nat) (keys : List (Nat × Bool × Fv)) : List PairFate :=
  match knobRow knob with
  | none => keys.map fun (_, masked, _) => if masked then .masked else .kept
  | some (tau, w, tauFar) =>
    let known := (keys.filter fun (_, masked, e) => !masked && !e.isNan).map (·.2.2)
    match known with
    | [] => keys.map fun (_, masked, _) => if masked then .masked else .kept
    | x :: xs =>
      let mHat := xs.foldl Fv.max x
      let lw := mHat.sub (.ofRat tau)
      let lf := mHat.sub (.ofRat tauFar)
      keys.map fun (kp, masked, e) =>
        let d := (qp - kp) + (kp - qp)
        if masked then .masked
        else if e.isNan then .kept
        else if w.any (fun n => decide (n < d)) && e.lt lf then .far
        else if e.lt lw then .weak
        else .kept

/-- The top four bits of an 8-bit integer (R221). -/
def hi4 (v : Fv) : Int := (v.rat / 16).floor

/-- acc_hat of R221: blocks of 32, or the whole K for a plain pair. -/
def estimate (scaled : Bool) (eq ek : List Fv) (q k : List Fv) : Fv :=
  let ps := q.zip k
  let blocks := if scaled then chunksOf 32 (ps.length / 32 + 1) ps else [ps]
  (blocks.mapIdx fun β b => (β, b)).foldl (fun acc (β, b) =>
    let s : Int := b.foldl (fun s (x, y) => s + hi4 x * hi4 y) 0
    acc.add (rn (((eq.getD β .one).mul (ek.getD β .one)).mulX (.ofRat (256 * (s : Rat)))))) .zero

/-- A softmax weight rounded to P_FMT by RNE (R227). -/
def roundWeight (e4m3 : Bool) : Fv → Fv
  | .num s q => .num s ((if e4m3 then fmtE4m3 else fmtBf16).round .rne q)
  | v => v

/-- The exact pass over a row's kept positions, 32 at a time (R227): scores and value rows; the output before TV. -/
def exactPass (e4m3 : Bool) (dv : Nat) (kept : List (Fv × List Fv)) : List Fv :=
  let start : Fv × Fv × List Fv := (.inf true, .zero, List.replicate dv .zero)
  let (_, l, o) := (chunksOf 32 (kept.length / 32 + 1) kept).foldl (fun (mx, l, o) tile =>
    let mt := mx.max (rowMax (tile.map (·.1)))
    let c := if mx = .inf true then .zero else Sfu.exp.apply (mx.sub mt)
    let ps := tile.map fun (s, _) => roundWeight e4m3 (Sfu.exp.apply (s.sub mt))
    let l' := (l.mul c).add (laneSum ps)
    let o' := o.mapIdx fun j x =>
      floatPartial 9 (x.mul c) ((ps.zip (tile.map (·.2))).map fun (p, v) => (p, v.getD j .zero))
    (mt, l', o')) start
  let r := Fv.one.div l
  o.map fun x => x.mul r

/-- The skip statistics (R229). -/
structure SkipStat where
  considered : Nat := 0
  weak : Nat := 0
  far : Nat := 0
  masked : Nat := 0
  rows : Nat := 0
  minKept : Option Nat := none

/-- A row's fates added to the statistics. -/
def SkipStat.addRow (s : SkipStat) (fates : List PairFate) : SkipStat :=
  let count (f : PairFate) : Nat := (fates.filter (· == f)).length
  let kept := count .kept
  { considered := s.considered + fates.length - count .masked, weak := s.weak + count .weak
    far := s.far + count .far, masked := s.masked + count .masked, rows := s.rows + 1
    minKept := if count .masked = fates.length then s.minKept else some (match s.minKept with
      | some n => min n kept
      | none => kept) }

/-- The 16 words of the statistics record. -/
def SkipStat.words (s : SkipStat) (knob : Nat) : List Word :=
  w64 s.considered ++ w64 s.weak ++ w64 s.far ++ w64 s.masked ++
    [w32 s.rows, w32 (s.minKept.getD 0), w32 knob, 0, 0, 0, 0, 0]

/-- An ATTEND task (R218). -/
def runAttend (m : Mems) (h : Hw) (d : List Word) (ts : List (List Word)) (rnd : Nat → Nat) : TaskOut :=
  let w (i : Nat) := wordAt d i
  let tq := (tensorAt ts (lo16 (w 8))).getD default
  let tk := (tensorAt ts (hi16 (w 8))).getD default
  let tv := (tensorAt ts (lo16 (w 9))).getD default
  let tOut := (tensorAt ts (hi16 (w 9))).getD default
  let knob := fld (w 11) 0 4
  let causal := bit (w 11) 4
  let scale := if w 12 = 0 then rnRat (1 / sqrtApprox tq.cols) else ofF32 (w 12)
  let isInt := isIntFmt tq.fmt && isIntFmt tk.fmt
  let scaled := isScaled tq.fmt || isScaled tk.fmt
  let ss := tq.ts.mul tk.ts
  orSkew (do
    let mask ← match tensorAt ts (lo16 (w 10)) with
      | some t => (tensorValues m h t).map fun v => some (t, v)
      | none => .ok none
    let groups ← (List.range tq.groups).mapM fun g => do
      let gk := g * tk.groups / tq.groups
      let oq ← readOperand m h tq g false
      let ok ← readOperand m h tk gk false
      let vs := (List.range tv.rows).map fun r => (rowCodes m h tv gk r).map (elemValue tv.fmt)
      return (List.range tq.rows).map fun i =>
        let q := oq.codes.getD i []
        let eq := oq.factors.getD i []
        let qp := (w 13).toNat + i
        let biasOf (j : Nat) (s : Fv) : Fv := match mask with
          | some (t, v) => s.add ((v.getD ((if t.groups = 1 then 0 else g) * t.rows + i) []).getD j .zero)
          | none => s
        let keys := (List.range tk.rows).map fun j =>
          let k := ok.codes.getD j []
          let ek := ok.factors.getD j []
          let kp := (w 14).toNat + j
          let acc := (stretch isInt scaled eq ek 0 (q.zip k)).value
          let s := biasOf j ((acc.mul ss).mul scale)
          let e := if knob = 0 then .zero else biasOf j (((estimate scaled eq ek q k).mul ss).mul scale)
          (kp, (causal && decide (qp < kp)) || s == .inf true, e, s)
        let fates := classifyRow knob qp (keys.map fun (kp, mk, e, _) => (kp, mk, e))
        let kept := ((keys.zip fates).mapIdx fun j (x, f) => (j, x, f)).filterMap fun (j, x, f) =>
          if f = .kept then some (x.2.2.2, vs.getD j []) else none
        let out := if kept.isEmpty then List.replicate tv.cols .zero
          else (exactPass (bit (w 11) 6) tv.cols kept).map fun x => x.mul tv.ts
        (out, fates)
    let rows := groups.flatten
    let q := quantTensor tOut (fld (w 11) 9 2) (fld (w 11) 7 2) none [] rnd (rows.map (·.1))
    let stat := (rows.map (·.2)).foldl SkipStat.addRow {}
    let statW := match tensorAt ts (hi16 (w 10)) with
      | some t => [(t.rowAt 0 0, wordsBytes (stat.words knob))]
      | none => []
    return { q.out 0 with writes := q.writes ++ statW })

/-! ## RECUR (R254 to R262) -/

/-- A state in memory: elements of FP32 or BF16 (R247). -/
def stateValues (bf16 : Bool) (bs : List Byte) : List Fv :=
  (codesOf (if bf16 then 16 else 32) bs).map fun n => if bf16 then ofBf16 n else ofF32 (w32 n)

/-- A state's bytes: elements rounded to STATE_FMT with RNE, zeros to the end of the slot (R247, R255). Where BF16
rounding overflows, infinity; NaN as R204 writes it (log 32). -/
def stateBytes (bf16 : Bool) (slotBytes : Nat) (vs : List Fv) : List Byte :=
  let one (v : Fv) : List Byte :=
    if bf16 then
      leBytes 2 (match v with
        | .nan => 0x7FC0
        | .inf s => if s then 0xFF80 else 0x7F80
        | .num s q =>
          let r := fmtBf16.round .rne q
          if fmtBf16.top < |r| then (if s then 0xFF80 else 0x7F80) else encodeBin 8 7 s r)
    else leBytes 4 (toF32 v).toNat
  fitTo slotBytes 0 (vs.flatMap one)

/-- A term of an output: the steps whose decays multiply it, from the first, and its other factors. -/
structure Term where
  from_ : Nat
  facs  : List Fv

/-- A sum of terms in exact arithmetic, decays of steps from_ to t multiplied in. -/
structure ExactSum where
  y    : Rat
  /-- The sum of the terms' magnitudes. -/
  mag  : Rat
  /-- No partial result of any way of evaluating the sum is larger. -/
  big  : Rat
  /-- `big` in steps of a grid that holds every partial result. -/
  grid : Rat

/-- The exact sum; none where a factor is not finite. -/
def exactSum (a : Nat → Fv) (t : Nat) (terms : List Term) : Option ExactSum :=
  let facs := terms.flatMap fun x => x.facs ++ (List.range (t + 1 - x.from_)).map fun i => a (x.from_ + i)
  if facs.all Fv.isFinite then
    let total (f : Rat → Rat) : Rat := (terms.map fun x =>
      (x.facs.map fun v => f v.rat).foldl (· * ·) 1 *
        ((List.range (t + 1 - x.from_)).map fun i => f (a (x.from_ + i)).rat).foldl (· * ·) 1).sum
    let den := facs.foldl (fun n v => max n v.rat.den) 1
    some { y := total id, mag := total fun q => |q|, big := total fun q => max 1 |q|, grid := total fun q => max 1 |q| * den }
  else none

/-- An FP32 result of a chunk. The sequential value is always allowed, and is the result where every way of evaluating
the sum is exact (its factors on a common grid keep every partial result below 2^24 steps of that grid) or a factor is
not finite. Otherwise the chip's own value where it differs from the exact one by no more than the rounding of its
operations; and any value where a partial result may leave the range of FP32 (R256, log 31). -/
def chunkValue (a : Nat → Fv) (t : Nat) (terms : List Term) (seq own : Fv) : Fv :=
  match exactSum a t terms with
  | some x =>
    if x.grid < 2 ^ 24 ∨ own = seq then seq
    else if 2 ^ 127 ≤ x.big then own
    else
      let n : Rat := (4 * (terms.length + t + 8) : Nat)
      within (n * (x.mag * pow2 (-24) + x.big * pow2 (-149))) x.y own
  | none => seq

/-- The last reset at or before step t (R261, R262). -/
def lastMark (mark : Nat → Bool) (t : Nat) : Option Nat := ((List.range (t + 1)).filter mark).getLast?

/-- One channel of the recurrence: h over t from terms at each step and an initial value (R255, R261). `read t` makes
outputs of the value at step t linear with coefficient lists; here the plain state. -/
def seqState (a : Nat → Fv) (b : Nat → Fv) (mark : Nat → Bool) (h0 : Fv) : Nat → Fv
  | 0 => if mark 0 then b 0 else ((a 0).mul h0).add (b 0)
  | t + 1 => if mark (t + 1) then b (t + 1) else ((a (t + 1)).mul (seqState a b mark h0 t)).add (b (t + 1))

/-- The terms of a state at step t: the inputs since the last reset, and the state read where there was none. -/
def stateTerms (mark : Nat → Bool) (t : Nat) (h0 : List Fv) (input : Nat → List Fv) : List Term :=
  match lastMark mark t with
  | some p => (List.range (t + 1 - p)).map fun i => { from_ := p + i + 1, facs := input (p + i) }
  | none => { from_ := 0, facs := h0 } :: (List.range (t + 1)).map fun i => { from_ := i + 1, facs := input i }

/-- A RECUR chunk (R255): the declared state's bytes in; Y and the bytes of the new slot out. `rnd` gives what each
element draws. -/
def runRecur (m : Mems) (h : Hw) (d : List Word) (ts : List (List Word)) (st : Stream) (state : List Byte)
    (rnd : Nat → Nat) : Except Detail (QOut × List Byte) := do
  let w (i : Nat) := wordAt d i
  let outer := bit (w 8) 8
  let T := fld (w 8) 10 13
  let ta := (tensorAt ts (lo16 (w 10))).getD default
  let tb := (tensorAt ts (hi16 (w 10))).getD default
  let ty := (tensorAt ts (lo16 (w 12))).getD default
  let as ← tensorValues m h ta
  let bs ← tensorValues m h tb
  let vs ← match tensorAt ts (lo16 (w 11)) with
    | some t => tensorValues m h t
    | none => .ok []
  let qs ← match tensorAt ts (hi16 (w 11)) with
    | some t => tensorValues m h t
    | none => .ok []
  let mw := match tensorAt ts (hi16 (w 12)) with
    | some t => rowCodes m h t 0 0
    | none => []
  let mark (t : Nat) : Bool := decide (t < T) && (bitOf (mw.getD (t / 32) 0) (t % 32) || (t == 0 && st.sampled))
  let s0 := stateValues st.bf16 state
  let el (v : List (List Fv)) (t i : Nat) : Fv := (v.getD t []).getD i .zero
  let code (xs : List Fv) : List Nat := xs.map fun x => (toF32 x).toNat
  -- what bears on step t: the marks, its rows and those from the last reset on, and the state where there was none
  let key (t : Nat) : List Nat :=
    let p := (lastMark mark t).getD 0
    let since (v : List (List Fv)) : List Nat := ((v.take (t + 1)).drop p).flatMap code
    [t, b2n outer, T, fld (w 13) 0 8, tb.cols, ty.cols] ++ (List.range T).map (fun t => b2n (mark t)) ++
      since as ++ since bs ++ since vs ++ code (qs.getD t []) ++ (if (lastMark mark t).isSome then [] else code s0)
  let own (t i : Nat) : Fv := ofF32 (w32 (Config.recur (key t) i))
  let finish (ys : List (List Fv)) (state : List Fv) : QOut × List Byte :=
    (quantTensor ty (fld (w 8) 25 2) (fld (w 8) 23 2) none []
      (fun e => rnd e % 65536 + 65536 * b2n (Config.nanSign (key (e / max 1 ty.cols)) e)) ys,
      stateBytes st.bf16 st.slotBytes state)
  if !outer then
    let N := ta.cols
    let one (t n : Nat) : Fv :=
      chunkValue (fun r => el as r n) t (stateTerms mark t [s0.getD n .zero] fun s => [el bs s n])
        (seqState (fun r => el as r n) (fun s => el bs s n) mark (s0.getD n .zero) t) (own t n)
    let ys := (List.range T).map fun t => (List.range N).map (one t)
    return finish ys (ys.getD (T - 1) [])
  else
    let H := fld (w 13) 0 8
    let dk := tb.cols / H
    let dv := ty.cols / H
    let s (hd i j : Nat) : Fv := s0.getD ((hd * dk + i) * dv + j) .zero
    let seqS (hd t i j : Nat) : Fv :=
      seqState (fun r => el as r hd) (fun x => (el bs x (hd * dk + i)).mul (el vs x (hd * dv + j))) mark (s hd i j) t
    let terms (hd t i j : Nat) : List Term :=
      stateTerms mark t [s hd i j] fun x => [el bs x (hd * dk + i), el vs x (hd * dv + j)]
    let yOf (t hd j : Nat) : Fv :=
      let parts := (List.range dk).map fun i => (el qs t (hd * dk + i)).mul (seqS hd t i j)
      chunkValue (fun r => el as r hd) t
        ((List.range dk).flatMap fun i => (terms hd t i j).map fun x => { x with facs := el qs t (hd * dk + i) :: x.facs })
        (parts.tail.foldl Fv.add (parts.headD .zero)) (own t (hd * dv + j))
    let ys := (List.range T).map fun t => (List.range H).flatMap fun hd => (List.range dv).map (yOf t hd)
    let out := (List.range H).flatMap fun hd => (List.range dk).flatMap fun i => (List.range dv).map fun j =>
      chunkValue (fun r => el as r hd) (T - 1) (terms hd (T - 1) i j) (seqS hd (T - 1) i j)
        (own (T - 1) (ty.cols + (hd * dk + i) * dv + j))
    return finish ys out

end Sys2Proof.Machine
end

