-- ==== Sys2Proof/Machine/Tasks.lean ====
section
/-! DEFINITION. Task descriptors: what a task reads and writes, and the tasks that move data: FEATURES, MOVE, the local
side of EXCHANGE, MARK (R80 to R83, R272, R273, R278, R312, R318). -/

namespace Sys2Proof.Machine

/-! ## Descriptor words 0 to 7 (R272) -/

def kLayer : Nat := 1
def kAttend : Nat := 2
def kRecur : Nat := 3
def kVector : Nat := 4
def kMove : Nat := 5
def kExchange : Nat := 6
def kFeatures : Nat := 7
def kUpdateStep : Nat := 8
def kSwap : Nat := 9
def kMark : Nat := 10
def kJoin : Nat := 11
def kWait : Nat := 12

def taskKind (d : List Word) : Nat := fld (wordAt d 0) 0 4
def taskPieces (d : List Word) : Nat := fld (wordAt d 0) 14 5 + 1
def taskMargin (d : List Word) : Nat := fld (wordAt d 0) 8 2
def taskClass (d : List Word) : Nat := fld (wordAt d 0) 10 4
def taskAffinity (d : List Word) : Nat := fld (wordAt d 7) 0 16
def taskCsKib (d : List Word) : Nat := fld (wordAt d 7) 16 13

/-- The predecessors that a descriptor names. -/
def taskPreds (d : List Word) : List Nat :=
  (List.range (fld (wordAt d 0) 4 3)).map fun k => fld (wordAt d (1 + k / 2)) (16 * (k % 2)) 16

/-- The kind's pieces occupy a core (R273). -/
def occupiesCore (kind : Nat) : Bool := [1, 2, 3, 4, 7, 8].contains kind

/-- SAT_FRAC of a task (R193, R206, R210, R219, R254). -/
def taskSatFrac (d : List Word) : Nat :=
  match taskKind d with
  | 1 => lo16 (wordAt d 12)
  | 2 => lo16 (wordAt d 15)
  | 3 => lo16 (wordAt d 14)
  | 4 => lo16 (wordAt d 13)
  | 8 => hi16 (wordAt d 12)
  | _ => 0

/-! ## What a task reads and writes -/

/-- The byte ranges of the tensor of an index. -/
def tensorRanges (ts : List (List Word)) (i : Nat) : List (Nat × Nat) :=
  match tensorAt ts i with
  | some t => t.ranges
  | none => []

/-- Bytes that LAYOUT takes of one record (R80). -/
def featureBytes (d : List Word) : Nat :=
  match fld (wordAt d 8) 12 2 with
  | 0 => 640
  | 1 => 576
  | _ => 16 * (if wordAt d 11 = 0 then 32 else popCount 32 (wordAt d 11).toNat)

/-- NFRAMES. -/
def featureCount (d : List Word) : Nat := fld (wordAt d 8) 1 11

/-- The byte ranges that a task reads by its descriptor; the frame ring, a Bell blob and state slots are not among
them. -/
def taskReads (d : List Word) (ts : List (List Word)) : List (Nat × Nat) :=
  let w (i : Nat) := wordAt d i
  let t (i : Nat) := tensorRanges ts i
  match taskKind d with
  | 1 => t (lo16 (w 8)) ++ t (hi16 (w 8)) ++ t (hi16 (w 9)) ++ t (lo16 (w 10)) ++
      (if fld (w 11) 6 2 = 1 then t (hi16 (w 10)) else [])
  | 2 => t (lo16 (w 8)) ++ t (hi16 (w 8)) ++ t (lo16 (w 9)) ++ t (lo16 (w 10))
  | 3 => t (lo16 (w 10)) ++ t (hi16 (w 10)) ++ t (lo16 (w 11)) ++ t (hi16 (w 11)) ++ t (hi16 (w 12))
  | 4 => t (lo16 (w 8)) ++ t (hi16 (w 8)) ++ t (lo16 (w 9))
  | 5 => if fld (w 13) 0 2 = 0 then [(addrAt d 8, (w 12).toNat)] else []
  | 6 => if fld (w 8) 0 2 = 0 then [(addrAt d 9, (w 13).toNat)] else []
  | 8 => t (lo16 (w 8)) ++ t (hi16 (w 8)) ++ t (lo16 (w 9)) ++ t (hi16 (w 9)) ++ t (hi16 (w 11))
  | _ => []

/-- The byte ranges that a task writes by its descriptor, state slots apart. -/
def taskWrites (d : List Word) (ts : List (List Word)) : List (Nat × Nat) :=
  let w (i : Nat) := wordAt d i
  let t (i : Nat) := tensorRanges ts i
  match taskKind d with
  | 1 => t (lo16 (w 9)) ++ (if fld (w 11) 6 2 = 3 then t (hi16 (w 10)) else [])
  | 2 => t (hi16 (w 9)) ++ t (hi16 (w 10))
  | 3 => t (lo16 (w 12))
  | 4 => t (hi16 (w 9))
  | 5 => [(addrAt d 10, (w 12).toNat)]
  | 6 => if fld (w 8) 0 2 = 1 then [(addrAt d 9, (w 13).toNat)] else []
  | 7 => [(addrAt d 12, featureCount d * featureBytes d + 64)]
  | 8 => t (lo16 (w 10)) ++ t (hi16 (w 10)) ++ t (lo16 (w 11))
  | 10 => if fld (w 8) 0 4 = 0 then [(addrAt d 9, 16)] else []
  | _ => []

/-- The stream entry of an index. -/
def streamOf (h : Hw) (i : Nat) : Stream := h.streams.getD i {}

/-- The state slot pairs of a stream that is open: at HOME and, in core store, at STATE (R247). -/
def slotPairs (s : Stream) : List (Nat × Nat) :=
  if s.st = .free then []
  else (s.home, 2 * s.slotBytes) :: (if s.inCs then [(s.state, 2 * s.slotBytes)] else [])

/-- The slot pairs that a RECUR task's stream occupies now (R258). -/
def taskSlots (h : Hw) (d : List Word) : List (Nat × Nat) :=
  if taskKind d = kRecur then slotPairs (streamOf h (fld (wordAt d 8) 0 8)) else []

/-! ## Parts of a task (R194, R208, R224, R260, R280)

A task of P pieces is cut into P parts, as evenly as its kind's units allow; piece p always covers the same part. -/

/-- The tensor whose elements the parts of a task write. -/
def mainOut (d : List Word) (ts : List (List Word)) : Tensor :=
  let w (i : Nat) := wordAt d i
  let i := match taskKind d with
    | 1 => lo16 (w 9)
    | 2 => hi16 (w 9)
    | 3 => lo16 (w 12)
    | 4 => hi16 (w 9)
    | _ => lo16 (w 10)
  (tensorAt ts i).getD default

/-- K of a LAYER. -/
def layerK (d : List Word) (ts : List (List Word)) : Nat :=
  let a := (tensorAt ts (lo16 (wordAt d 8))).getD default
  if bit (wordAt d 11) 8 then a.rows else a.cols

/-- How many units a task has: tiles (with the ranges of K that they are cut into), runs of 24 query rows of a group,
runs of 64 state elements or heads, rows, runs of 1024 elements. -/
def partUnits (d : List Word) (ts : List (List Word)) : Nat :=
  let o := mainOut d ts
  match taskKind d with
  | 1 => o.groups * ceilDiv o.rows 24 * ceilDiv o.cols 32 * kParts d ts (layerK d ts)
  | 2 => o.groups * ceilDiv o.rows 24
  | 3 => if bit (wordAt d 8) 8 then fld (wordAt d 13) 0 8 else max 1 (o.cols / 64)
  | 4 => o.groups * o.rows
  | 8 => if isScaled o.fmt then o.groups * o.rows * ceilDiv o.cols 1024 else ceilDiv (o.groups * o.rows * o.cols) 1024
  | _ => 1

/-- The unit to which element i of row n belongs, rows counted through the groups. A tile whose K is cut is finished with
its last range. -/
def partUnit (d : List Word) (ts : List (List Word)) (n i : Nat) : Nat :=
  let o := mainOut d ts
  let r := n % max 1 o.rows
  let g := n / max 1 o.rows
  match taskKind d with
  | 1 =>
    let k := kParts d ts (layerK d ts)
    ((g * ceilDiv o.rows 24 + r / 24) * ceilDiv o.cols 32 + i / 32) * k + (k - 1)
  | 2 => g * ceilDiv o.rows 24 + r / 24
  | 3 => if bit (wordAt d 8) 8 then i / max 1 (o.cols / max 1 (fld (wordAt d 13) 0 8))
      else min (i / 64) (max 1 (o.cols / 64) - 1)
  | 4 => n
  | 8 => if isScaled o.fmt then n * ceilDiv o.cols 1024 + i / 1024 else (n * o.cols + i) / 1024
  | _ => 0

/-- The piece that writes element i of row n: units cut as evenly as they can. -/
def partOf (d : List Word) (ts : List (List Word)) (n i : Nat) : Nat :=
  ((partUnit d ts n i + 1) * taskPieces d - 1) / max 1 (partUnits d ts)

/-- The pieces that write a row's elements, in order. -/
def rowParts (d : List Word) (ts : List (List Word)) (n : Nat) : List Nat :=
  (List.range (mainOut d ts).cols).map fun i => partOf d ts n i

/-- The pieces that write a task's elements, in order. -/
def elemParts (d : List Word) (ts : List (List Word)) : List Nat :=
  (List.range ((mainOut d ts).groups * (mainOut d ts).rows)).flatMap (rowParts d ts)

/-- The tensors of a task that its parts write alike: the main output, and the moments of an UPDATE_STEP. -/
def partOuts (d : List Word) (ts : List (List Word)) : List Tensor :=
  mainOut d ts :: (if taskKind d = kUpdateStep then [hi16 (wordAt d 10), lo16 (wordAt d 11)].filterMap (tensorAt ts) else [])

/-- The bytes of elements lo to hi of a row of a tensor: elements, scale entries and superscales. -/
def Tensor.cut (t : Tensor) (n lo hi : Nat) : List (Nat × Nat) :=
  let at_ := t.rowAt (n / max 1 t.rows) (n % max 1 t.rows)
  [(at_ + lo * fmtBits t.fmt / 8, hi * fmtBits t.fmt / 8 - lo * fmtBits t.fmt / 8)] ++
    (if isScaled t.fmt then [(t.scaleAt + 2 * (n * (t.cols / 32) + lo / 32), 2 * (ceilDiv hi 32 - lo / 32))] else []) ++
    (if isBlk t.fmt then [(t.superAt + 2 * (n * ceilDiv t.cols 1024 + lo / 1024), 2 * (ceilDiv hi 1024 - lo / 1024))]
     else [])

/-- Runs of equal elements of a list, with the index at which each begins and ends. -/
def runsOf : Nat → List Nat → List (Nat × Nat × Nat)
  | _, [] => []
  | i, x :: xs => match runsOf (i + 1) xs with
    | (y, lo, hi) :: rest => if x = y && lo = i + 1 then (y, i, hi) :: rest else (x, i, i + 1) :: (y, lo, hi) :: rest
    | [] => [(x, i, i + 1)]

/-- The byte ranges that piece p of a task writes. A record that the task writes as a whole (TQ under ROW_RANGE, the skip
statistics) goes with the last piece (log 46). -/
def partWrites (d : List Word) (ts : List (List Word)) (p : Nat) : List (Nat × Nat) :=
  if occupiesCore (taskKind d) && taskKind d != kFeatures then
    ((List.range ((mainOut d ts).groups * (mainOut d ts).rows)).flatMap fun n =>
      ((runsOf 0 (rowParts d ts n)).filter fun r => r.1 == p).flatMap fun r =>
        (partOuts d ts).flatMap fun t => t.cut n r.2.1 r.2.2) ++
    (if p + 1 = taskPieces d then
      (if taskKind d = kLayer && fld (wordAt d 11) 6 2 = 3 then tensorRanges ts (hi16 (wordAt d 10)) else []) ++
        (if taskKind d = kAttend then tensorRanges ts (hi16 (wordAt d 10)) else [])
     else [])
  else taskWrites d ts

/-- ROUND of a task. -/
def taskRound (d : List Word) : Nat :=
  match taskKind d with
  | 1 => fld (wordAt d 11) 4 2
  | 2 => fld (wordAt d 11) 7 2
  | 3 => fld (wordAt d 8) 23 2
  | 4 => fld (wordAt d 10) 6 2
  | 8 => fld (wordAt d 12) 2 2
  | _ => 0

/-- How many values the elements of piece p draw from its core's rounding generator (R199). -/
def partDraws (d : List Word) (ts : List (List Word)) (p : Nat) : Nat :=
  if taskRound d = 2 then ((elemParts d ts).filter (· == p)).length * (partOuts d ts).length else 0

/-- How many elements of a list before place i equal x. -/
def countBefore (x i : Nat) (xs : List Nat) : Nat := ((xs.take i).filter (· == x)).length

/-- The random value of element e of a task, from the generator of the core that ran its piece: the e-th element of the
parts' tensors in order, each generator's values in that order (R199). -/
def drawnValue (d : List Word) (ts : List (List Word)) (gens : List GenMark) (e : Nat) : Nat :=
  let ps := elemParts d ts
  let n := max 1 ps.length
  let p := ps.getD (e % n) 0
  match gens.find? fun g => g.piece == p with
  | some g => Config.rounding g.seed g.core
      ((g.drawn + e / n * (ps.filter (· == p)).length + countBefore p (e % n) ps) % (2 ^ 64 - 1)) % 65536
  | none => 0

/-! ## FEATURES (R80 to R83) -/

/-- The beat counts of the slots of a FEATURES task, given L at its start. -/
def featureBeats (d : List Word) (L : Option Nat) : List Int :=
  let n := featureCount d
  let l : Int := match L with
    | some b => signedOf 64 b
    | none => -1
  let first : Int := if bit (wordAt d 8) 0 then signedOf 64 (dwordAt d 9) else l - n + 1
  (List.range n).map fun (i : Nat) => first + (i : Int)

/-- A FEATURES task (R81 to R83): records copied, or zeros for a missing slot, and the trailer. -/
def runFeatures (m : Mems) (h : Hw) (d : List Word) (L : Option Nat) : TaskOut :=
  let per := featureBytes d
  let beats := featureBeats d L
  let frames := h.senseFitted && !h.power.senseOff
  let l : Int := match L with
    | some b => signedOf 64 b
    | none => -1
  let reach (b : Int) : Bool := frames && decide (0 ≤ b) && decide (b ≤ l)
  let addr (b : Int) : Nat := frameAddr h b.toNat
  match beats.find? (fun b => reach b && !granted h CORES true false (addr b) 640) with
  | some b => { fail := some (.refusedAccess, .accessRuntime), refused := some (CORES, addr b) }
  | none =>
    match beats.find? (fun b => reach b && devBad h (addr b) 640) with
    | some _ => { fail := some (.failEcc, .none) }
    | none =>
      let rec_ (b : Int) : Option (List Byte) :=
        if reach b then
          let bs := readDev m h (addr b) 640
          if dwordAt (bytesWords (bs.take 8)) 0 = patternOf 64 b then some bs else none
        else none
      let recs := beats.map rec_
      let got := recs.filterMap id
      let chans := (List.range 32).filter fun c => wordAt d 11 == 0 || bit (wordAt d 11) c
      let cut (bs : List Byte) : List Byte :=
        match fld (wordAt d 8) 12 2 with
        | 0 => bs
        | 1 => bs.drop 64
        | _ => chans.flatMap fun c => (bs.drop (64 + 16 * c)).take 16
      let data := recs.flatMap fun r => match r with
        | some bs => cut bs
        | none => List.replicate per 0
      let word (i : Nat) (bs : List Byte) : Word := wordAt (bytesWords (bs.take 64)) i
      let ends (b : Option Int) : List Word := w64 (patternOf 64 (b.getD 0))
      let trailer := [w32 got.length, w32 (beats.length - got.length)] ++ ends beats.head? ++ ends beats.getLast? ++
        [got.foldl (fun v bs => v &&& word 4 bs) 0xFFFFFFFF, got.foldl (fun v bs => v ||| word 6 bs) 0]
      { writes := [(addrAt d 12, data ++ wordsBytes (fitTo 16 0 trailer))] }

/-! ## MOVE and MARK PROGRESS -/

/-- A host window's address (R304). -/
def inHostWindow (a : Nat) : Bool := decide (host0Base ≤ a)

/-- A MOVE: access under the owner as it happens, then its bytes (R312, R316, R318). `hostData`: what a host window
returned. -/
def runMove (m : Mems) (h : Hw) (owner : Nat) (d : List Word) (hostData : List Byte) : TaskOut :=
  let n := (wordAt d 12).toNat
  let src := addrAt d 8
  let dst := addrAt d 10
  let fill := fld (wordAt d 13) 0 2 == 1
  let rdOk := fill || granted h owner true false src n && (targetOf h src n).isSome
  let wrOk := granted h owner false true dst n && (targetOf h dst n).isSome
  if !rdOk then { fail := some (.refusedAccess, .accessRuntime), refused := some (owner, src) }
  else if !wrOk then { fail := some (.refusedAccess, .accessRuntime), refused := some (owner, dst) }
  else if (!fill && inHostWindow src || inHostWindow dst) && !h.sq.linkUp then { fail := some (.failLink, .pcieDown) }
  else
    let bytes := if fill then (List.replicate (n / 4) (wordsBytes [wordAt d 14])).flatten
      else if inHostWindow src then fitTo n 0 hostData
      else readDev m h src n
    { writes := [(dst, bytes)] }

/-- MARK PROGRESS: device time, TAG and task index at ADDR, under SCHED (R278). -/
def runProgress (h : Hw) (tag : Word) (task : Nat) (d : List Word) : TaskOut :=
  let a := addrAt d 9
  if granted h SCHED false true a 16 && (targetOf h a 16).isSome then
    { writes := [(a, wordsBytes (w64 h.power.time ++ [tag, w32 task]))] }
  else { fail := some (.refusedAccess, .accessRuntime), refused := some (SCHED, a) }

/-! ## Errors in memory -/

/-- Units within a range that hold an error: whole ones, and those that the range covers in part (R328). -/
def badIn (h : Hw) (a n : Nat) (whole : Bool) : List Nat :=
  h.health.badUnits.filter fun u => decide (a < u + unitSize u) && decide (u < a + n) &&
    (decide (a ≤ u) && decide (u + unitSize u ≤ a + n)) == whole

/-- Bytes of outputs that the manual leaves unspecified take free values (R190, R300, log 10). A bad unit that a range
covers in part stays as it is, and of one that it covers whole it is free whether it was rewritten (R328). -/
def freeFill : List (Nat × Nat) → Hw → Hw
  | [], h => h
  | (a, n) :: rs, h =>
    let partly := badIn h a n false
    let lo := (partly.filter (· ≤ a)).foldl (fun x u => max x (u + unitSize u)) a
    let hi := (partly.filter (a < ·)).foldl min (a + n)
    let whole := badIn h lo (hi - lo) true
    let (bs, h) := freeBytes (hi - lo) h
    let (k, h) := drawNat h
    let left := (whole.mapIdx fun i u => if bitOf k i then [u] else []).flatten
    freeFill rs (markBad left (putDev lo bs h))

/-- The parts of ranges that a master may write (R316). -/
def writableParts (h : Hw) (master : Nat) (rs : List (Nat × Nat)) : List (Nat × Nat) :=
  rs.flatMap fun r => (h.image.access.regions.filter fun g => regionGrants g master false true).filterMap fun g =>
    let lo := max r.1 g.base
    let hi := min (r.1 + r.2) (g.base + g.size)
    if lo < hi then some (lo, hi - lo) else none

/-- The first uncorrectable error that reads of some ranges, or partial writes of others, meet (R328). -/
def eccMet (h : Hw) (rd wr : List (Nat × Nat)) : Option Nat :=
  match rd.find? (fun (a, n) => devBad h a n) with
  | some (a, n) => some (firstBad h a n)
  | none =>
    match wr.find? (fun (a, n) => devBadPartly h a n) with
    | some (a, n) => some (firstBad h a n)
    | none => none

end Sys2Proof.Machine
end

