-- ==== Sys2Proof/Machine/Admit.lean ====
section
/-! DEFINITION. Admission: the graph header, the rules of each task kind, and the thirteen checks with the check cache
(R179 to R184, R188, R193, R196, R197, R206 to R208, R210 to R215, R219, R220, R224, R254, R258, R264, R270 to R284,
R318, R319, R350). -/

namespace Sys2Proof.Machine

/-! ## Fields -/

/-- A tensor index names a record, or is 0xFFFF where that is allowed. -/
def idxOk (ts : List (List Word)) (none_ : Bool) (i : Nat) : Bool := (i == 0xFFFF && none_) || (i != 0xFFFF && decide (i < ts.length))

/-- No range of one list overlaps a range of another. -/
def apart (xs ys : List (Nat × Nat)) : Bool := xs.all fun x => ys.all fun y => !overlaps x y

/-- Two tensors have one shape. -/
def sameShape (a b : Tensor) : Bool := a.rows == b.rows && a.cols == b.cols && a.groups == b.groups

/-- ROWS, COLS and GROUPS of a tensor. -/
def hasShape (t : Tensor) (rows cols groups : Nat) : Bool := t.rows == rows && t.cols == cols && t.groups == groups

/-- An FP32 field that is finite, and one that is positive and finite. -/
def finiteWord (w : Word) : Bool := (ofF32 w).isFinite
def posWord (w : Word) : Bool := (ofF32 w).posFinite

/-- A pair of operand formats allowed by R179. -/
def pairOk (a b : Nat) : Bool :=
  (isIntFmt a && isIntFmt b) || (isFp8 a && isFp8 b) || (a == fBf16 && (b == fBf16 || isFp8 b))

/-- QMODE allowed for an output format, and TQ shaped for it (R197). -/
def quantOk (c : Tensor) (qmode : Nat) (tq : Option Tensor) : Bool :=
  let modes := if isScaled c.fmt then [2] else match c.fmt with
    | 0 | 1 => [0, 1, 3]
    | 2 | 3 => [0, 1]
    | _ => [0]
  modes.contains qmode && (match qmode, tq with
    | 1, some t => t.fmt == fFp32 && hasShape t 1 c.cols 1
    | 3, some t => t.fmt == fFp32 && hasShape t (c.rows * c.groups) 2 1
    | 1, none | 3, none => false
    | _, some _ => false
    | _, none => true)

/-! ## The kinds -/

/-- A LAYER follows R193 and R196, and its pieces R280. -/
def layerOk (d : List Word) (ts : List (List Word)) : Bool :=
  let w (i : Nat) := wordAt d i
  let idx := idxOk ts false (lo16 (w 8)) && idxOk ts false (hi16 (w 8)) && idxOk ts false (lo16 (w 9)) &&
    idxOk ts true (hi16 (w 9)) && idxOk ts true (lo16 (w 10)) && idxOk ts true (hi16 (w 10))
  let a := (tensorAt ts (lo16 (w 8))).getD default
  let b := (tensorAt ts (hi16 (w 8))).getD default
  let c := (tensorAt ts (lo16 (w 9))).getD default
  let tA := bit (w 11) 8
  let tB := bit (w 11) 9
  let k := if tA then a.rows else a.cols
  let act := fld (w 11) 0 4
  let add := tensorAt ts (hi16 (w 9))
  let bias := tensorAt ts (lo16 (w 10))
  let plain := isPlainInt a.fmt && isPlainInt b.fmt
  let tiles := c.groups * ceilDiv c.rows 24 * ceilDiv c.cols 32
  idx && pairOk a.fmt b.fmt &&
  c.rows == (if tA then a.cols else a.rows) && c.cols == (if tB then b.rows else b.cols) &&
  (if tB then b.cols else b.rows) == k && a.groups == c.groups && (b.groups == a.groups || b.groups == 1) &&
  decide (k ≤ (if plain then 65536 else 1048576)) &&
  (!isScaled a.fmt || !tA) && (!isScaled b.fmt || tB) && (!(isScaled a.fmt || isScaled b.fmt) || k % 32 == 0) &&
  (match add with
   | some t => sameShape t c
   | none => true) &&
  (match bias with
   | some t => (t.fmt == fFp32 || t.fmt == fBf16) && hasShape t 1 c.cols 1
   | none => true) &&
  quantOk c (fld (w 11) 6 2) (tensorAt ts (hi16 (w 10))) &&
  (c.fmt != fInt32 || (plain && c.tscale == 0 && bias.isNone && add.isNone && act == 0)) &&
  decide (act ≤ 7) && fld (w 11) 4 2 != 3 &&
  (match act with
   | 2 => posWord (w 13)
   | 3 => finiteWord (w 13)
   | _ => w 13 == 0) &&
  fld (w 11) 11 21 == 0 && hi16 (w 12) == 0 && w 14 == 0 && w 15 == 0 &&
  apart (taskReads d ts) (taskWrites d ts) &&
  decide (taskPieces d ≤ tiles * (if bit (w 11) 10 then ceilDiv k 32 else 1))

/-- An ATTEND follows R219 and R220, and its pieces R224. -/
def attendOk (d : List Word) (ts : List (List Word)) : Bool :=
  let w (i : Nat) := wordAt d i
  let idx := idxOk ts false (lo16 (w 8)) && idxOk ts false (hi16 (w 8)) && idxOk ts false (lo16 (w 9)) &&
    idxOk ts false (hi16 (w 9)) && idxOk ts true (lo16 (w 10)) && idxOk ts true (hi16 (w 10))
  let q := (tensorAt ts (lo16 (w 8))).getD default
  let k := (tensorAt ts (hi16 (w 8))).getD default
  let v := (tensorAt ts (lo16 (w 9))).getD default
  let o := (tensorAt ts (hi16 (w 9))).getD default
  let knob := fld (w 11) 0 4
  let qmode := fld (w 11) 9 2
  let est (f : Nat) : Bool := [0, 8, 12].contains f
  idx && q.cols == k.cols && decide (q.cols ≤ 1024) && k.groups != 0 && q.groups % k.groups == 0 &&
  v.groups == k.groups && v.rows == k.rows && decide (k.rows ≤ 1048576) &&
  decide ((w 13).toNat + q.rows ≤ 2 ^ 32) && decide ((w 14).toNat + k.rows ≤ 2 ^ 32) &&
  (if knob = 0 then pairOk q.fmt k.fmt else est q.fmt && est k.fmt) &&
  (if bit (w 11) 6 then v.fmt == fE4m3 || v.fmt == fE5m2 else v.fmt == fBf16 || v.fmt == fE4m3 || v.fmt == fE5m2) &&
  hasShape o q.rows v.cols q.groups && o.fmt != fInt32 && (qmode == 0 || qmode == 2) && quantOk o qmode none &&
  (match tensorAt ts (lo16 (w 10)) with
   | some t => bit (w 11) 5 && (t.fmt == fFp32 || t.fmt == fBf16) && t.rows == q.rows && t.cols == k.rows &&
       (t.groups == 1 || t.groups == q.groups)
   | none => !bit (w 11) 5) &&
  (match tensorAt ts (hi16 (w 10)) with
   | some t => t.fmt == fInt32 && hasShape t 1 16 1
   | none => true) &&
  fld (w 11) 7 2 != 3 && (w 12 == 0 || posWord (w 12)) && fld (w 11) 11 21 == 0 && hi16 (w 15) == 0 &&
  apart (taskReads d ts) (taskWrites d ts) &&
  decide (taskPieces d ≤ q.groups * ceilDiv q.rows 24)

/-- A RECUR follows R254 and R258, and its pieces R260. The state slots count as read and written where the stream is
open at the check (log 35). -/
def recurOk (h : Hw) (d : List Word) (ts : List (List Word)) : Bool :=
  let w (i : Nat) := wordAt d i
  let outer := bit (w 8) 8
  let steps := fld (w 8) 10 13
  let heads := fld (w 13) 0 8
  let qmode := fld (w 8) 25 2
  let idx := idxOk ts false (lo16 (w 10)) && idxOk ts false (hi16 (w 10)) && idxOk ts false (lo16 (w 12)) &&
    idxOk ts true (hi16 (w 12)) &&
    (if outer then idxOk ts false (lo16 (w 11)) && idxOk ts false (hi16 (w 11))
     else lo16 (w 11) == 0xFFFF && hi16 (w 11) == 0xFFFF)
  let a := (tensorAt ts (lo16 (w 10))).getD default
  let b := (tensorAt ts (hi16 (w 10))).getD default
  let v := (tensorAt ts (lo16 (w 11))).getD default
  let q := (tensorAt ts (hi16 (w 11))).getD default
  let y := (tensorAt ts (lo16 (w 12))).getD default
  let row (t : Tensor) : Bool := t.groups == 1 && t.rows == steps
  let slots := taskSlots h d
  idx && decide (1 ≤ steps) && decide (steps ≤ 4096) && row a && row b && row y &&
  (a.fmt == fFp32 || a.fmt == fBf16) && b.fmt != fInt32 && y.fmt != fInt32 &&
  (if outer then
    decide (1 ≤ heads) && decide (heads ≤ 64) && row v && row q && v.fmt != fInt32 && q.fmt != fInt32 &&
    a.cols == heads && b.cols % heads == 0 && v.cols % heads == 0 && q.cols == b.cols && y.cols == v.cols &&
    decide (b.cols ≤ 256 * heads) && decide (v.cols ≤ 256 * heads) && decide (taskPieces d ≤ heads)
   else heads == 0 && b.cols == a.cols && y.cols == a.cols && decide (a.cols ≤ 4194304) &&
    decide (taskPieces d ≤ max 1 (a.cols / 64))) &&
  (bit (w 8) 9 || w 9 == 0) && fld (w 8) 23 2 != 3 && (qmode == 0 || qmode == 2) && quantOk y qmode none &&
  (match tensorAt ts (hi16 (w 12)) with
   | some t => t.fmt == fInt32 && hasShape t 1 (ceilDiv steps 32) 1
   | none => true) &&
  fld (w 8) 27 5 == 0 && fld (w 13) 8 8 == 0 && hi16 (w 14) == 0 && w 15 == 0 &&
  apart (taskReads d ts) (taskWrites d ts) && apart (taskReads d ts) slots && apart (taskWrites d ts) slots

/-- What a VECTOR operation asks of TY: required, optional or none; none for a code that is not listed (R207). -/
def vectorTy (op : Nat) : Option (Bool × Bool) :=
  if [1, 2, 3, 5, 6].contains op then some (true, true)
  else if op = 4 then some (false, true)
  else if [0, 8, 9, 0xA, 0xB, 0xC, 0xD, 0xE, 0xF, 0x10, 0x11, 0x18, 0x19, 0x1A, 0x1B, 0x1C, 0x1D].contains op
    then some (false, false)
  else none

/-- A VECTOR follows R206 to R208. -/
def vectorOk (d : List Word) (ts : List (List Word)) : Bool :=
  let w (i : Nat) := wordAt d i
  let op := fld (w 10) 0 6
  let qmode := fld (w 10) 8 2
  let idx := idxOk ts false (lo16 (w 8)) && idxOk ts true (hi16 (w 8)) && idxOk ts true (lo16 (w 9)) &&
    idxOk ts false (hi16 (w 9))
  let x := (tensorAt ts (lo16 (w 8))).getD default
  let y := tensorAt ts (hi16 (w 8))
  let p := tensorAt ts (lo16 (w 9))
  let z := (tensorAt ts (hi16 (w 9))).getD default
  let rowOp := op == 0x1C || op == 0x1D
  idx &&
  (match vectorTy op with
   | some (need, may) => (!need || y.isSome) && (may || y.isNone)
   | none => false) &&
  hasShape z x.rows (if rowOp then 1 else x.cols) x.groups &&
  (match y with
   | some t => (t.groups == x.groups || t.groups == 1) &&
       ((t.rows == x.rows && t.cols == x.cols) || (t.rows == 1 && (t.cols == x.cols || t.cols == 1)))
   | none => true) &&
  (match p with
   | some t => t.cols == x.cols && t.groups == 1 && (op != 0x1A || decide (2 ≤ t.rows)) || (op != 0x1A && op != 0x1B)
   | none => true) &&
  ([4, 0x18, 0x19, 0x1A, 0x1B].contains op || w 11 == 0) && (op == 4 || w 12 == 0) &&
  z.fmt != fInt32 && (qmode == 0 || qmode == 2) && quantOk z qmode none && fld (w 10) 6 2 != 3 &&
  fld (w 10) 10 22 == 0 && hi16 (w 13) == 0 && w 14 == 0 && w 15 == 0 &&
  decide (taskPieces d ≤ x.groups * x.rows)

/-- An UPDATE_STEP follows R210, R211 and R214, and its pieces R280. -/
def updateStepOk (d : List Word) (ts : List (List Word)) : Bool :=
  let w (i : Nat) := wordAt d i
  let opt := fld (w 12) 0 2
  let parFmt (f : Nat) : Bool := [5, 4, 0, 1, 2, 8, 9, 10].contains f
  let momFmt (f : Nat) : Bool := [5, 4, 10, 11].contains f
  let idx := idxOk ts false (lo16 (w 8)) && idxOk ts false (hi16 (w 8)) && idxOk ts false (lo16 (w 10)) &&
    idxOk ts false (hi16 (w 11)) &&
    (if opt = 0 then lo16 (w 9) == 0xFFFF && hi16 (w 10) == 0xFFFF
     else idxOk ts false (lo16 (w 9)) && idxOk ts false (hi16 (w 10))) &&
    (if opt = 2 then idxOk ts false (hi16 (w 9)) && idxOk ts false (lo16 (w 11))
     else hi16 (w 9) == 0xFFFF && lo16 (w 11) == 0xFFFF)
  let par := (tensorAt ts (lo16 (w 8))).getD default
  let grad := (tensorAt ts (hi16 (w 8))).getD default
  let parN := (tensorAt ts (lo16 (w 10))).getD default
  let th := (tensorAt ts (hi16 (w 11))).getD default
  let moms := [lo16 (w 9), hi16 (w 9), hi16 (w 10), lo16 (w 11)].filterMap (tensorAt ts)
  let blocks := (par :: parN :: moms).any fun t => isBlk t.fmt
  let runs := if blocks then par.groups * par.rows * ceilDiv par.cols 1024
    else ceilDiv (par.groups * par.rows * par.cols) 1024
  idx && opt != 3 && parFmt par.fmt && parFmt parN.fmt && sameShape par parN && sameShape par grad && grad.fmt != fInt32 &&
  moms.all (fun t => momFmt t.fmt && sameShape par t) && th.fmt == fFp32 && th.rows == 1 && th.groups == 1 &&
  decide (8 ≤ th.cols) && fld (w 12) 2 2 != 3 && fld (w 12) 4 12 == 0 &&
  (if opt = 2 then w 13 != 0 else w 13 == 0) && w 14 == 0 && w 15 == 0 &&
  apart (taskReads d ts) (taskWrites d ts) && decide (taskPieces d ≤ runs)

/-- A FEATURES follows R80 and R280. -/
def featuresOk (d : List Word) : Bool :=
  let w (i : Nat) := wordAt d i
  let n := featureCount d
  let layout := fld (w 8) 12 2
  decide (1 ≤ n) && decide (n ≤ 1024) && layout != 3 && fld (w 8) 14 18 == 0 &&
  (bit (w 8) 0 || (w 9 == 0 && w 10 == 0)) && (layout == 2 || w 11 == 0) && addrAt d 12 % 64 == 0 &&
  hi16 (w 13) == 0 && decide (n * featureBytes d + 64 ≤ (w 14).toNat) && w 15 == 0 && taskPieces d == 1

/-- A range that a MOVE may name: wholly inside one mapped range, neither core store nor system reserved (R319). -/
def moveRangeOk (h : Hw) (r : Nat × Nat) : Bool :=
  match targetOf h r.1 r.2 with
  | some .dram | some .window | some .host0 | some .host1 => true
  | _ => false

/-- A MOVE follows R318 and R319. -/
def moveOk (h : Hw) (d : List Word) : Bool :=
  let w (i : Nat) := wordAt d i
  let op := fld (w 13) 0 2
  decide (op ≤ 1) && w 12 != 0 && (w 12).toNat % 4 == 0 && addrAt d 8 % 4 == 0 && addrAt d 10 % 4 == 0 &&
  (op != 1 || (w 8 == 0 && w 9 == 0)) && (op == 1 || w 14 == 0) && hi16 (w 9) == 0 && hi16 (w 11) == 0 &&
  fld (w 13) 2 30 == 0 && w 15 == 0 && (taskReads d [] ++ taskWrites d []).all (moveRangeOk h) &&
  apart (taskReads d []) (taskWrites d [])

/-- An EXCHANGE follows R350; its local range is one that a MOVE may name, less host memory, which only MOVE reaches (R319,
log 34). -/
def exchangeOk (h : Hw) (d : List Word) : Bool :=
  let w (i : Nat) := wordAt d i
  let op := fld (w 8) 0 2
  let n := (w 13).toNat
  op != 3 && fld (w 8) 2 2 != 3 && fld (w 8) 4 8 != h.nodeId && fld (w 8) 12 20 == 0 && hi16 (w 10) == 0 &&
  hi16 (w 12) == 0 && hi16 (w 14) == 0 && addrAt d 9 % 16 == 0 && addrAt d 11 % 16 == 0 &&
  (if op = 2 then w 9 == 0 && w 11 == 0 && n == 0
   else w 14 == 0 && n % 16 == 0 && decide (16 ≤ n) && decide (n ≤ 2 ^ 30) &&
     (targetOf h (addrAt d 9) n == some .dram || targetOf h (addrAt d 9) n == some .window))

/-- SWAP, MARK, JOIN and WAIT follow R264, R278, R276 and R277. -/
def plainKindOk (d : List Word) : Bool :=
  let w (i : Nat) := wordAt d i
  let zero (n : Nat) : Bool := (d.drop n).all (· == 0)
  match taskKind d with
  | 9 => fld (w 8) 9 23 == 0 && zero 9
  | 10 => decide (fld (w 8) 0 4 ≤ 1) && fld (w 8) 4 28 == 0 && hi16 (w 10) == 0 && zero 11 &&
      (fld (w 8) 0 4 == 1 || addrAt d 9 % 16 == 0)
  | 11 => zero 8
  | _ => fld (w 8) 3 29 == 0 && zero 12

/-- Words 0 to 7 of task i follow R272 to R274 and R281. -/
def commonOk (long : Bool) (i : Nat) (d : List Word) : Bool :=
  let w (i : Nat) := wordAt d i
  let n := fld (w 0) 4 3
  let preds := taskPreds d
  let aff := taskAffinity d
  let unused := (List.range 6).all fun k => decide (k < n) || fld (w (1 + k / 2)) (16 * (k % 2)) 16 == 0
  decide (1 ≤ taskKind d) && decide (taskKind d ≤ 12) && n != 7 && !bit (w 0) 7 && fld (w 0) 19 13 == 0 &&
  fld (w 7) 29 3 == 0 && unused && preds.all (fun p => decide (p < i)) && preds.eraseDups.length == preds.length &&
  (aff == 0xFFFF || decide (aff < i)) && decide (taskCsKib d ≤ 4096) &&
  (occupiesCore (taskKind d) ||
    (w 6 == 0 && taskCsKib d == 0 && taskPieces d == 1 && w 4 == 0 &&
      (w 5 == 0 || taskKind d == kMove || taskKind d == kExchange))) &&
  (long || decide ((w 6).toNat ≤ 800000 * taskPieces d))

/-- Check 8 of one task: none where it passes, otherwise the detail (R282). -/
def taskFault (h : Hw) (long : Bool) (ts : List (List Word)) (i : Nat) (d : List Word) : Option Detail :=
  if !commonOk long i d then some .task
  else
    let ok (b : Bool) : Option Detail := if b then none else some .task
    match taskKind d with
    | 1 => ok (layerOk d ts)
    | 2 => ok (attendOk d ts)
    | 3 => ok (recurOk h d ts)
    | 4 => ok (vectorOk d ts)
    | 5 => if moveOk h d then none else some .move
    | 6 => if exchangeOk h d then none else some .exchange
    | 7 => ok (featuresOk d)
    | 8 => ok (updateStepOk d ts)
    | _ => ok (plainKindOk d)

/-! ## The header (R271) -/

def graphHdrMagic : Word := 0x5A390A9F

/-- A header follows R271. -/
def headerOk (ws : List Word) : Bool :=
  let w (i : Nat) := wordAt ws i
  let n := fld (w 2) 0 17
  w 0 == graphHdrMagic && w 1 == 1 && decide (1 ≤ n) && decide (n ≤ 65536) && fld (w 2) 20 12 == 0 &&
  (w 3).toNat % 64 == 0 && hi16 (w 4) == 0 && (w 5).toNat % 64 == 0 && (w 8).toNat % 4096 == 0 && hi16 (w 9) == 0 &&
  (w 10).toNat % 4 == 0 && w 14 == 0 && w 15 == 0

def hdrTasks (ws : List Word) : Nat := min 65536 (fld (wordAt ws 2) 0 17)
def hdrTensors (ws : List Word) : Nat := hi16 (wordAt ws 6)
def hdrClass (ws : List Word) : Nat := fld (wordAt ws 2) 17 2
def hdrLong (ws : List Word) : Bool := bit (wordAt ws 2) 19
def hdrArena (ws : List Word) : Nat × Nat := (addrAt ws 8, 1024 * (wordAt ws 10).toNat)
def hdrDeadline (ws : List Word) : Nat := (wordAt ws 7).toNat
def hdrFootprint (ws : List Word) : Nat := (wordAt ws 11).toNat

/-- A table of 64-byte records. -/
def tableOf (bs : List Byte) (n : Nat) : List (List Word) :=
  let ws := bytesWords bs
  (List.range n).map fun i => (ws.drop (16 * i)).take 16

/-! ## Cores and their stores -/

/-- The core of a number. -/
def coreOf (h : Hw) (c : Nat) : Core := h.sched.cores.getD c {}

/-- Enabled cores that are not retired (R4, R5). -/
def usableCores (h : Hw) : List Nat := (List.range h.board.enabled).filter fun c => !(coreOf h c).retired

/-- Bytes of stream slot pairs in a core's store, and of those a running swap-in takes (R263, R297). -/
def pairBytes (h : Hw) (c : Nat) : Nat :=
  ((h.streams.filter fun s => s.st != .free && ((s.inCs && s.core == c) || s.dest.any (·.1 == c))).map
    fun s => 2 * s.slotBytes).sum

/-- The tile cache of a core: its store less the sequencer's area and the slot pairs (R297). -/
def tileCache (h : Hw) (c : Nat) : Nat := 4194304 - 262144 - pairBytes h c

/-! ## The checks (R282) -/

/-- Why a graph is refused: status, detail, the task or tensor at fault, an uncorrectable error, a refused transfer; the
header as far as it was read and follows R271, and whether the cache served the check. -/
structure GraphFault where
  status : Status
  detail : Detail
  index : Option Nat := none
  hdr : List Word := []
  cached : Bool := false
  ecc : Option Nat := none
  refused : Option (Nat × Nat) := none
  deriving DecidableEq, Repr

/-- A graph that passes: header, tasks, tensors, CRC-32 over the three, whether the cache served it, and whether the check
was a full one. -/
structure GraphPass where
  hdr : List Word
  tasks : List (List Word)
  tensors : List (List Word)
  crc : Nat
  cached : Bool
  full : Bool

/-- Bytes of a header or table, read under the owning master, SCHED for a cascade graph (R305, R312, R316). Of the masters
that may own a graph SCHED alone reaches the window without a MOVE (R324, log 34). -/
def fetchTable (m : Mems) (h : Hw) (owner a n : Nat) : Except GraphFault (List Byte) :=
  let mapped := match targetOf h a n with
    | some .dram => true
    | some .window => owner == SCHED
    | _ => false
  if n = 0 then .ok []
  else if !mapped || !granted h owner true false a n then
    .error { status := .refusedAccess, detail := .tableRead, refused := some (owner, a) }
  else if devBad h a n then .error { status := .failEcc, detail := .tableRead, ecc := some (firstBad h a n) }
  else .ok (readDev m h a n)

/-- CLASS_PERM of a master (R285). -/
def classAllowed (q : QuotasSec) (owner cls : Nat) : Bool :=
  let g := if owner = HOST_A then some 0 else if owner = HOST_S then some 1 else if owner = LINK_E then some 2
    else if owner = LINK_W then some 3 else none
  match g with
  | some k => bitOf q.classPerm (4 * k + cls)
  | none => false

/-- A condition that must hold, or the refusal. -/
def require (b : Bool) (st : Status) (d : Detail) (i : Option Nat) : Except GraphFault Unit :=
  if b then .ok () else .error { status := st, detail := d, index := i }

/-- Regions that a graph's tasks may write: its arena and the state slots of open streams (check 9, log 33). -/
def writeRegions (h : Hw) (arena : Nat × Nat) : List Region :=
  ((arena :: h.streams.flatMap slotPairs).filter fun r => r.2 != 0).map fun r =>
    { base := r.1, size := r.2, perm := 0xFFFFFFFF }

/-- Check 9 for one range. -/
def insideArena (h : Hw) (arena : Nat × Nat) (r : Nat × Nat) : Bool :=
  let rs := writeRegions h arena
  r.2 == 0 || coveredBy rs 0 false true (r.1 + r.2) (rs.length + 1) r.1

/-- Check 9 of one task: writes of MOVE and EXCHANGE count where they land in DRAM (R319, R350), and MARK PROGRESS writes
inside the arena alone (R278). -/
def arenaOk (h : Hw) (arena : Nat × Nat) (d : List Word) (ts : List (List Word)) : Bool :=
  (taskWrites d ts).all fun r =>
    if taskKind d = kMark then decide (arena.1 ≤ r.1) && decide (r.1 + r.2 ≤ arena.1 + arena.2)
    else ((taskKind d == kMove || taskKind d == kExchange) && decide (coreStoreBase ≤ r.1)) || insideArena h arena r

/-- Check 10 of one task: the grants, by the master that makes its transfers (R312, R319, R350). Only MOVE reaches
host memory (R319). -/
def grantFault (h : Hw) (owner : Nat) (d : List Word) (ts : List (List Word)) : Option Detail :=
  let rd := taskReads d ts
  let wr := taskWrites d ts
  let all (master : Nat) : Bool :=
    rd.all (fun r => r.2 == 0 || granted h master true false r.1 r.2) &&
      wr.all (fun r => r.2 == 0 || granted h master false true r.1 r.2)
  let moves : Bool := all owner && (privileged owner || wr.all fun r => !inWindow r.1)
  if taskKind d = kMove then if moves then none else some .moveAccess
  else if taskKind d = kExchange then if moves then none else some .exchange
  else if occupiesCore (taskKind d) then
    if all CORES && (rd ++ wr).all (fun r => r.2 == 0 || targetOf h r.1 r.2 == some .dram) then none
    else some .tensorAccess
  else none

/-- Check 11 of one task (R290 at P0 and M0). -/
def energyOk (h : Hw) (q : QuotasSec) (cls : Nat) (d : List Word) : Bool :=
  let e := (wordAt d 4).toNat + (wordAt d 5).toNat
  decide (e ≤ 1000 * q.max.getD cls 0 * taskPieces d) &&
    (cls == 0 || decide (e ≤ 1000 * (h.capMw - q.base - q.c0Floor) * taskPieces d))

/-- Check 12 (R215). -/
def adapterOk (tasks ts : List (List Word)) : Bool :=
  let named := ((tasks.filter fun d => taskKind d == kUpdateStep).map fun d => lo16 (wordAt d 10)).eraseDups
  decide (((named.filterMap (tensorAt ts)).map Tensor.bytes).sum ≤ 64 * 1048576)

/-- The graph pool (R311, R314). -/
def poolOf (h : Hw) : Nat × Nat :=
  if h.image.access.poolBytes = 0 then (0, dramEnd) else (h.image.access.poolBase, h.image.access.poolBytes)

/-- Resident graphs, cascade graphs apart or alone. -/
def residents (h : Hw) (cascade : Bool) : List Graph :=
  h.sched.graphs.filter fun g => g.resident && decide (1024 ≤ g.key) == cascade

/-- The first element that a test fails, with its index. -/
def firstFault {α β : Type} (f : Nat → α → Option β) (xs : List α) : Option (Nat × β) :=
  (xs.mapIdx fun i x => (f i x).map fun b => (i, b)).findSome? id

/-- A list of which no element fails, or the refusal. -/
def requireAll {α : Type} (st : Status) (f : Nat → α → Option Detail) (xs : List α) : Except GraphFault Unit :=
  match firstFault f xs with
  | some (i, d) => .error { status := st, detail := d, index := some i }
  | none => .ok ()

/-- Checks 3 to 13 of R282 in their order, or those that R283 leaves where the tables are known to have passed. -/
def checkTables (h : Hw) (q : QuotasSec) (owner : Nat) (cascade known : Bool) (ws : List Word)
    (tasks ts : List (List Word)) : Except GraphFault Unit := do
  let cls := hdrClass ws
  let arena := hdrArena ws
  require (headerOk ws) .refusedFormat .header none
  require (cascade || classAllowed q owner cls) .refusedAccess .cls none
  require (decide ((residents h cascade).length < (if cascade then 2 else 64))) .refusedState .graphLimit none
  require (!hdrLong ws || q.longOk) .refusedState .longTasks none
  if known then pure () else do
    requireAll .refusedFormat (fun _ t => if tensorOk t then none else some .tensor) ts
    requireAll .refusedFormat (taskFault h (hdrLong ws) ts) tasks
    requireAll .refusedFormat (fun _ d => if arenaOk h arena d ts then none else some .outsideArena) tasks
    requireAll .refusedAccess (fun _ d => grantFault h owner d ts) tasks
  requireAll .refusedTooLarge (fun _ d => if energyOk h q cls d then none else some .pieceEnergy) tasks
  require (adapterOk tasks ts) .refusedTooLarge .adapter none
  let (pb, pn) := poolOf h
  require (arena.2 == 0 || (decide (pb ≤ arena.1) && decide (arena.1 + arena.2 ≤ pb + pn) &&
    decide (arena.1 + arena.2 ≤ dramEnd))) .refusedTooLarge .arenaSize none
  require ((h.sched.graphs.filter (·.resident)).all fun g => !overlaps arena (hdrArena g.hdr)) .refusedTooLarge
    .arenaOverlap none
  require (!(usableCores h).isEmpty || tasks.all fun d => !occupiesCore (taskKind d)) .refusedState .noCores none

/-- The checks of R282, where the cache, or for a cascade graph the check record `known`, may hold the tables byte for
byte (R283). A cascade graph takes checks 1, 3 and 5 to 13. -/
def checkGraph (m : Mems) (h : Hw) (hdrAddr owner : Nat) (cascade : Bool) (known : Option Nat) :
    Except GraphFault GraphPass := do
  let q ← match h.image.quotas with
    | some q => .ok q
    | none => .error { status := .refusedState, detail := .quotasInvalid }
  require (cascade || hdrAddr % 64 == 0) .refusedFormat .header none
  let hb ← fetchTable m h owner hdrAddr 64
  let ws := bytesWords hb
  let read := if headerOk ws then ws else []
  let noted (c : Bool) (e : GraphFault) : GraphFault := { e with hdr := read, cached := c }
  let tb ← (fetchTable m h owner (addrAt ws 3) (64 * hdrTasks ws)).mapError (noted false)
  let rb ← (fetchTable m h owner (addrAt ws 5) (64 * hdrTensors ws)).mapError (noted false)
  let crc := crc32 (hb ++ tb ++ rb)
  let cached := h.sched.cache.any fun e => e == (hdrAddr, crc)
  let full := !cached && known != some crc
  let tasks := tableOf tb (hdrTasks ws)
  let ts := tableOf rb (hdrTensors ws)
  (checkTables h q owner cascade (!full) ws tasks ts).mapError (noted cached)
  return { hdr := ws, tasks := tasks, tensors := ts, crc := crc, cached := cached, full := full }

/-! ## What admission records -/

/-- The highest level that a class's permission allows up to a requested one (R232, R233). -/
def permitted (h : Hw) (cls req : Nat) : Nat :=
  let p := h.image.margins.permit.getD cls 0
  if 3 ≤ req ∧ bitOf p 3 then 3 else if 2 ≤ req ∧ bitOf p 2 then 2 else if 1 ≤ req ∧ bitOf p 1 then 1 else 0

/-- A task's level by permission and the C0 rule (R232), before the cap. -/
def permittedLevel (h : Hw) (gcls : Nat) (d : List Word) : Nat :=
  if h.image.margins.c0M0 && gcls == 0 then 0 else permitted h (taskClass d) (taskMargin d)

/-- The graph's footprint exceeds the store that is available to it (R284). -/
def footprintOver (h : Hw) (ws : List Word) (cores : List Nat) : Bool :=
  let all := (cores.map (tileCache h)).sum / 1024
  let others := ((h.sched.graphs.filter (·.resident)).map fun g => hdrFootprint g.hdr).sum
  decide (all - others < hdrFootprint ws)

/-- The cache after a full check, or a check it served (R283). -/
def cacheUse (addr crc : Nat) (c : List (Nat × Nat)) : List (Nat × Nat) :=
  ((addr, crc) :: c.filter fun e => e.1 != addr).take 16

/-- A graph made resident (R282, R284, R232). -/
def admitGraph (cores : List Nat) (p : GraphPass) (g : Graph) (h : Hw) : Graph :=
  let cls := hdrClass p.hdr
  { g with
    resident := true, admitAt := h.power.time, admitEl := h.power.elapsed, admitSeq := h.sched.admissions
    hdr := p.hdr, tensors := p.tensors, rankCls := cls
    tasks := p.tasks.map fun d => { desc := d, pieces := List.replicate (taskPieces d) .todo }
    caps := List.replicate 16 3, rep := List.replicate 16 0, hiRail := List.replicate 16 0
    frameL := h.drum.latest
    flags := { g.flags with
      footprint := footprintOver h p.hdr cores, checkCached := p.cached
      marginClamped := p.tasks.any fun d => decide (permittedLevel h cls d < taskMargin d) } }

end Sys2Proof.Machine
end

