-- ==== Sys2Proof/Machine/Rail.lean ====
section
/-! DEFINITION. Performance levels, margin levels, rail changes, charges and the energy account (R230 to R232, R240 to
R245, R290 to R293, R359, R360, R475, R477). Charges are exact fractions of nJ. -/

namespace Sys2Proof.Machine

/-! ## Levels -/

/-- V_nom of a performance level in mV (R359). -/
def vNom (p : Nat) : Nat := [780, 720, 670, 600, 550, 500].getD p 500

/-- The offset of a margin level in mV (R230). -/
def marginOffset (l : Nat) : Nat := 25 * l

/-- The rail's voltage at a performance and a margin level (R230). -/
def railMillivolts (p l : Nat) : Nat := max 500 (vNom p - marginOffset l)

/-- The safest level with the same voltage, as which a level acts (R475). -/
def actsAs (p l : Nat) : Nat :=
  if railMillivolts p 0 = railMillivolts p l then 0
  else if railMillivolts p 1 = railMillivolts p l then 1
  else if railMillivolts p 2 = railMillivolts p l then 2
  else l

/-- A level as this chip judges it now (R475). -/
def judged (h : Hw) (l : Nat) : Nat := actsAs (levelInForce h) l

/-- A task's effective level (R232, R245). -/
def effectiveLevel (h : Hw) (g : Graph) (d : List Word) : Nat :=
  if h.power.marginsOff then 0 else min (permittedLevel h g.rankCls d) (g.caps.getD (taskClass d) 3)

/-! ## Charges (R290) -/

/-- The charge of one piece, issued at a rail level, in nJ. -/
def pieceCharge (h : Hw) (d : List Word) (l : Nat) : Rat :=
  let v : Rat := (railMillivolts (levelInForce h) l : Rat) / 780
  (((wordAt d 4).toNat : Rat) * (v * v) + ((wordAt d 5).toNat : Rat)) / (taskPieces d : Rat)

/-- The charge of copied or spilled bytes. -/
def bytesCharge (n : Nat) : Rat := (n : Rat) * 2 / 100

/-- A charge added to a class in a slot of the account. -/
def AcctSlot.add (c : Nat) (e : Rat) (s : AcctSlot) : AcctSlot :=
  match c with
  | 0 => { s with c0 := s.c0 + e }
  | 1 => { s with c1 := s.c1 + e }
  | 2 => { s with c2 := s.c2 + e }
  | _ => { s with c3 := s.c3 + e }

/-- The charges of a class in a slot. -/
def AcctSlot.get (c : Nat) (s : AcctSlot) : Rat :=
  match c with
  | 0 => s.c0
  | 1 => s.c1
  | 2 => s.c2
  | _ => s.c3

/-- Charge a class in the current slot. -/
def charge (c : Nat) (e : Rat) (h : Hw) : Hw :=
  let acct := match h.sched.account with
    | [] => [AcctSlot.add c e { base := false }]
    | s :: ss => s.add c e :: ss
  { h with sched := { h.sched with account := acct } }

/-- A(c). -/
def classAccount (h : Hw) (c : Nat) : Rat := (h.sched.account.map (AcctSlot.get c)).sum

/-- The class charges of the window. -/
def allCharges (h : Hw) : Rat := classAccount h 0 + classAccount h 1 + classAccount h 2 + classAccount h 3

/-- QUOTAS of the image in force. -/
def quotasCfg (h : Hw) : QuotasSec := h.image.quotas.getD {}

/-- D (R290). -/
def deviceAccount (h : Hw) : Rat :=
  allCharges h + ((h.sched.account.filter (·.base)).length : Rat) * ((quotasCfg h).base : Rat) * (125 / 4)

/-! ## The thermal factor (R292) -/

/-- Tmax in 1/16 °C, with the first sensor that gave it. -/
def tMax (temps : List Int) : Option (Int × Nat) :=
  (temps.mapIdx fun i t => (t, i)).foldl (fun best x => match best with
    | none => some x
    | some b => if b.1 < x.1 then some x else some b) none

/-- h of R292; 1 before the first reading (log 36). -/
def thermalFactor (h : Hw) : Rat :=
  let q := quotasCfg h
  match tMax h.sched.temps with
  | none => 1
  | some (t, _) =>
    let thr : Int := 16 * (q.tThr : Int)
    let stop : Int := 16 * (q.tStop : Int)
    if t ≤ thr then 1 else if stop ≤ t then 0 else ((stop - t : Int) : Rat) / ((stop - thr : Int) : Rat)

/-! ## The tests (R291, R477) -/

/-- The quota test of a class for a charge. -/
def quotaTest (h : Hw) (c : Nat) (e : Rat) : Bool :=
  let q : Rat := 1000 * (h.sched.quotas.getD c 0 : Rat)
  let a := classAccount h c
  decide (0 < q) && (decide (a + e ≤ q) || (decide (a = 0) && decide (q < e)))

/-- The device test. With h = 0 no piece of C1 to C3 passes (R292). -/
def deviceTest (h : Hw) (c : Nat) (e : Rat) : Bool :=
  let cap : Rat := 1000 * (h.capMw : Rat)
  let d := deviceAccount h
  let limit := if c = 0 then cap else cap * thermalFactor h
  let held := if c = 0 then 0 else max 0 (1000 * ((quotasCfg h).c0Floor : Rat) - classAccount h 0)
  (c == 0 || decide (0 < thermalFactor h)) &&
    (decide (d + e + held ≤ limit) || (decide (allCharges h = 0) && decide (limit < e)))

end Sys2Proof.Machine

namespace Sys2Proof

/-! ## AVSBus (R362, R363) -/

/-- A response acknowledges its frame: it passes its CRC and carries SlaveAck 0b00. -/
def AvsResponse.acks (r : AvsResponse) : Bool := r.crcOk && r.ack == 0

/-- The response that acknowledges a frame sent while the device runs: the first of the frame and three repeats. -/
def avsAnswer (rs : List AvsResponse) : Option AvsResponse := (rs.take 4).find? AvsResponse.acks

/-- The voltage write was acknowledged. -/
def AvsReply.ack (r : AvsReply) : Bool := (avsAnswer r.write).isSome

/-- What the voltage read returned, if it was acknowledged. -/
def AvsReply.readMv (r : AvsReply) : Option Nat := (avsAnswer r.read).map (·.data)

/-- The write of the M0 voltage was acknowledged. -/
def AvsReply.m0Ack (r : AvsReply) : Bool := (avsAnswer r.m0).isSome

end Sys2Proof

namespace Sys2Proof.Machine

/-- The frames sent for one: it and its repeats, up to the one that is acknowledged. -/
def avsRepeats (f : AvsFrame) (rs : List AvsResponse) : List AvsFrame :=
  match (rs.take 4).findIdx? AvsResponse.acks with
  | some n => List.replicate (n + 1) f
  | none => List.replicate 4 f

/-- Status reads of both rail selects were acknowledged at a boot: four attempts of 2 ms, one round every 20 µs (R363,
log 155). -/
def bootAcked (rounds : List (AvsResponse × AvsResponse)) : Bool :=
  (rounds.take 400).any fun r => r.1.acks && r.2.acks

/-- The frames of a boot or a wake: status reads, VDD_CTRL to 750 mV, VDD_ARRAY to its voltage (R362, R376). -/
def bootFrames (mv : Nat) : List AvsFrame := [.status 0, .status 1, .write 1 750, .write 0 mv]

/-! ## Rail changes (R243, R244) -/

/-- A rail write begins, at step 1 of R244. -/
def beginRail (l p : Nat) (h : Hw) : Hw :=
  { h with power := { h.power with
      avs := [.write 0 (railMillivolts p l)]
      railChange := some { level := l, mv := railMillivolts p l, plevel := p, since := h.power.elapsed } } }

/-- A margin change is asked: at once, or after the change in progress or the dip; a safer request rules (R243,
R385). -/
def askRail (l : Nat) (h : Hw) : Hw :=
  if h.power.railChange.isNone && h.power.change.isNone && h.power.dip.isNone then beginRail l h.power.plevel h
  else
    let l := match h.power.railNext with
      | some r => min r.level l
      | none => l
    { h with power := { h.power with
        railNext := some { level := l, mv := railMillivolts h.power.plevel l, plevel := h.power.plevel } } }

/-- The level at which the rail stands or to which it is going: a lowering in progress binds already (R242, R243). -/
def railGoal (h : Hw) : Nat :=
  match h.power.railChange with
  | some r => max r.level h.power.rail
  | none => h.power.rail

/-- What is waiting takes its turn: a level change first, then a raise (R243, R360). -/
def railTurn (h : Hw) : Hw :=
  if h.power.railChange.isSome || h.power.dip.isSome then h
  else
    match h.power.change with
    | some c =>
      if !c.written && (c.switched || decide (c.target < h.power.plevel)) then
        beginRail h.power.rail c.target { h with power := { h.power with change := some { c with written := true } } }
      else h
    | none =>
      match h.power.railNext with
      | some r =>
        let h := { h with power := { h.power with railNext := none } }
        if r.level < h.power.rail then beginRail r.level h.power.plevel h else h
      | none => h

/-- AVS_MARGIN_FAIL: the array clock stays at P5, issue at M0, FAULT_N (R245, R422). -/
def avsMarginFail (h : Hw) : Hw :=
  setCause causeAvs (raiseHealth .avsMarginFail 0 7 0 0
    { h with power := { h.power with marginsOff := true, clockHeld := true, rail := 0, railNext := none } })

/-- A voltage write that was never acknowledged (R245). -/
def avsGiveUp (r : AvsReply) (p : Nat) (h : Hw) : Hw :=
  match r.readMv with
  | some mv =>
    let h := raiseHealth .avsMargin 0 7 mv 0
      { h with power := { h.power with marginsOff := true, rail := 0, railMv := mv, railNext := none } }
    if r.m0Ack then { h with power := { h.power with railMv := railMillivolts p 0 } } else avsMarginFail h
  | none => avsMarginFail h

/-! ## The levels that a window sees (R239, R240) -/

/-- Layer classes with a running piece note the rail level at which they run. -/
def noteLevels (h : Hw) : Hw :=
  let l := judged h h.power.rail
  let classes (g : Graph) : List Nat :=
    h.sched.cores.filterMap fun c => match c.run with
      | some (.piece ref _) =>
        if ref.graph = g.key then some (taskClass (g.tasks.getD ref.task {}).desc) else none
      | _ => none
  { h with sched := { h.sched with graphs := h.sched.graphs.map fun g =>
      { g with hiRail := (classes g).foldl (fun xs c => modifyAt c (max l) xs) g.hiRail } } }

end Sys2Proof.Machine
end

