-- ==== Sys2Proof/Machine/Ports.lean ====
section
/-! DEFINITION. The ring ports: sending with credit and retry, acknowledgement, forwarding (R331 to R341). A unit of
credit is 16 bytes; a frame takes one for its header and one for each 16 bytes of payload (log 37). -/

namespace Sys2Proof.Machine

/-! ## Ports -/

/-- The port on the other side. -/
def otherSide : Side → Side
  | .east => .west
  | .west => .east

def portOf (h : Hw) : Side → Port
  | .east => h.ring.east
  | .west => h.ring.west

def setPort (s : Side) (f : Port → Port) (h : Hw) : Hw :=
  match s with
  | .east => { h with ring := { h.ring with east := f h.ring.east } }
  | .west => { h with ring := { h.ring with west := f h.ring.west } }

/-- The partner's identity, once its IDENT has come. -/
def Port.node (p : Port) : Option Nat := p.partner.map (·.node)

/-- The port carries frames. -/
def Port.carries (p : Port) : Bool := p.st == .up && !p.retraining

/-- Credit a partner advertises, in units: half of 2, 8, 16 and 32 KiB, CROSSED clear and set (R338). -/
def fullCredit : List Nat := [64, 64, 256, 256, 512, 512, 1024, 1024]

/-- LEN: the payload in units of 16 bytes (R336). -/
def frameLen (f : Frame) : Nat := (f.payload.length + 15) / 16

/-- Units that a frame takes. -/
def frameUnits (f : Frame) : Nat := 1 + frameLen f

/-- The four header words (R336). -/
def frameHeader (f : Frame) : List Word :=
  [w32 (f.type % 256 + 2 ^ 8 * (f.dst % 256) + 2 ^ 16 * (f.src % 256) + 2 ^ 24 * (f.hops % 256)),
   w32 (frameLen f % 32 + 2 ^ 5 * (f.vc % 4) + 2 ^ 7 * b2n f.west + 2 ^ 8 * b2n f.crossed + 2 ^ 12 * (f.lseq % 4096)),
   w32 (f.tag % 2 ^ 16 + 2 ^ 16 * (f.addrHi % 2 ^ 16)), f.param]

/-- A frame as it leaves a port: its CRC-32 over header and payload (R336). -/
def sealFrame (f : Frame) : Frame :=
  { f with crc := w32 (crc32 (wordsBytes (frameHeader f) ++ fitTo (16 * frameLen f) 0 f.payload)) }

/-- The copy of a frame that failed its CRC while it was being forwarded: it ends with its CRC inverted (R340). -/
def stompFrame (f : Frame) : Frame := { sealFrame f with crc := ~~~ (sealFrame f).crc }

/-- The place of a frame's credit. -/
def creditIndex (f : Frame) : Nat := 2 * f.vc + b2n f.crossed

/-- The retry buffer has room for a frame: 16 KiB (R340). -/
def retryRoom (p : Port) (f : Frame) : Bool :=
  decide ((p.retry.map fun x => 16 * frameUnits x).sum + 16 * frameUnits f ≤ 16384)

/-- Credit is owed to the partner for a frame that has left its buffer (R337, R338). -/
def oweCredit (s : Side) (f : Frame) (h : Hw) : Hw :=
  setPort s (fun p => { p with owed := modifyAt f.vc (· + frameUnits f) (fitTo 4 0 p.owed) }) h

/-- A frame goes out: its LSEQ is set, credit is used, and the retry buffer keeps it (R336, R340). -/
def transmit (s : Side) (fwd : Bool) (f : Frame) (h : Hw) : Hw :=
  let p := portOf h s
  let f := sealFrame { f with lseq := p.txSeq, fixed := 0 }
  let h := setPort s (fun p => { p with
    txSeq := (p.txSeq + 1) % 4096, retry := p.retry ++ [f]
    credit := modifyAt (creditIndex f) (· - frameUnits f) p.credit }) h
  let h := { h with sent := h.sent ++ [(s, f)] }
  if fwd then oweCredit (otherSide s) f h else h

/-- A frame may go out now: credit for the whole of it, room in the retry buffer, and none of its VC ahead of it
(R339). -/
def mayGo (p : Port) (f : Frame) : Bool :=
  p.carries && decide (frameUnits f ≤ p.credit.getD (creditIndex f) 0) && retryRoom p f &&
    !p.held.any (fun x => x.2.vc == f.vc)

/-- A frame for a port: sent, or held whole until it may go; a port that is DOWN carries nothing (R339). The head sets
CROSSED on what leaves it (R338). -/
def sendFrame (s : Side) (fwd : Bool) (f : Frame) (h : Hw) : Hw :=
  let f := { f with hops := min 255 (f.hops + 1), crossed := f.crossed || h.ring.head == some h.nodeId }
  let p := portOf h s
  if p.st != .up then h
  else if mayGo p f then transmit s fwd f h
  else setPort s (fun p => { p with held := p.held ++ [(fwd, f)] }) h

/-- A frame that starts on this node in a direction (R336). -/
def originate (s : Side) (f : Frame) (h : Hw) : Hw :=
  sendFrame s false { f with src := h.nodeId, west := s == .west, hops := 0, crossed := false } h

/-- The frame among those held that goes next: lowest VC first, then the order of arrival (R338, R339). -/
def nextHeld (p : Port) : Option (Bool × Frame) :=
  (List.range 4).findSome? fun v =>
    match p.held.find? (fun x => x.2.vc == v) with
    | some x =>
      if p.carries && decide (frameUnits x.2 ≤ p.credit.getD (creditIndex x.2) 0) && retryRoom p x.2 then some x else none
    | none => none

/-- Held frames go while credit lasts. -/
def pumpHeld : Nat → Side → Hw → Hw
  | 0, _, h => h
  | n + 1, s, h =>
    match nextHeld (portOf h s) with
    | some x => pumpHeld n s (transmit s x.1 x.2 (setPort s (fun p => { p with held := p.held.erase x }) h))
    | none => h

/-! ## Link frames (R337) -/

/-- A link frame goes out. -/
def sendLink (s : Side) (type param : Nat) (h : Hw) : Hw :=
  { h with sent := h.sent ++ [(s, sealFrame { type := type, src := h.nodeId, west := s == .west, param := w32 param })] }

/-- A link frame: one hop, no VC, no credit, no retry. -/
def linkFrame (s : Side) (type param : Nat) (h : Hw) : Hw :=
  if (portOf h s).carries then sendLink s type param h else h

/-- LINK_ACK frames: the last LSEQ received good, and the credit owed, one frame for each VC that has some (R337). -/
def sendAck (s : Side) (h : Hw) : Hw :=
  let p := portOf h s
  let owed := fitTo 4 0 p.owed
  let vcs := (List.range 4).filter fun v => owed.getD v 0 != 0
  let h := if vcs.isEmpty then linkFrame s 0x01 p.rxSeq h
    else vcs.foldl (fun h v => linkFrame s 0x01 (p.rxSeq + 4096 * v + 65536 * owed.getD v 0) h) h
  setPort s (fun p => { p with unacked := 0, owed := [0, 0, 0, 0] }) h

/-- Frames of the retry buffer up to an acknowledged LSEQ are free. -/
def afterAck (acked : Nat) (retry : List Frame) : List Frame :=
  retry.filter fun f => decide (1 ≤ (f.lseq + 4096 - acked) % 4096) && decide ((f.lseq + 4096 - acked) % 4096 < 2048)

/-- Returned credit: to the half with CROSSED clear up to its size, then to the other (log 37). -/
def addCredit (vc n : Nat) (c : List Nat) : List Nat :=
  let room := fullCredit.getD (2 * vc) 0 - c.getD (2 * vc) 0
  let a := min room n
  modifyAt (2 * vc + 1) (fun x => min (fullCredit.getD (2 * vc + 1) 0) (x + (n - a))) (modifyAt (2 * vc) (· + a) c)

/-! ## Receiving (R339, R340) -/

/-- A frame that arrives with its CRC right: taken in LSEQ order, counted toward the acknowledgement, its credit owed
once it has left the buffer. `act` gets it; what is forwarded owes its credit as it goes. -/
def receive (s : Side) (f : Frame) (act : Hw → Hw) (h : Hw) : Hw :=
  let p := portOf h s
  if p.carries && f.lseq == (p.rxSeq + 1) % 4096 then
    let h := setPort s (fun p => { p with rxSeq := f.lseq, unacked := p.unacked + 1 }) h
    let h := act h
    if 32 ≤ (portOf h s).unacked then sendAck s h else h
  else h

/-- A frame consumed by this node; what it reads of DRAM may be corrected (R307). -/
def consumed (s : Side) (f : Frame) (act : Hw → Hw) (h : Hw) : Hw := act (oweCredit s f (corrected .dram f.fixed h))

/-- A frame goes on its way through the other port; where that is DOWN it is lost. -/
def forward (s : Side) (f : Frame) (h : Hw) : Hw :=
  if (portOf h (otherSide s)).st == .up then sendFrame (otherSide s) true f h else oweCredit s f h

/-- A frame addressed to one node: consumed there, forwarded elsewhere (R339). -/
def addressed (s : Side) (f : Frame) (act : Hw → Hw) (h : Hw) : Hw :=
  receive s f (fun h => if f.dst == h.nodeId then consumed s f act h else forward s f h) h

/-! ## The link's own events -/

/-- MIN_WIDTH and ERR_RETRAIN in force; a ring boot uses ×2 and 64 (R355). -/
def ringCfg (h : Hw) : RingSec := h.image.ring.getD { rttBudget := 0, minWidth := 2, errRetrain := 64, exchTimeout := 1000 }

/-- A CRC failure is counted in its 1 s window; at ERR_RETRAIN the port is to retrain (R335). -/
def countCrc (s : Side) (h : Hw) : Hw :=
  let win := h.power.time / ticksPerSecond
  let c := h.health.cnt
  let h := { h with health := { h.health with cnt := match s with
    | .east => { c with crcE := satAdd 16 c.crcE 1 }
    | .west => { c with crcW := satAdd 16 c.crcW 1 } } }
  let h := setPort s (fun p => { p with crcWindow := if p.crcWin = win then p.crcWindow + 1 else 1, crcWin := win }) h
  if (ringCfg h).errRetrain ≤ (portOf h s).crcWindow then setPort s (fun p => { p with retraining := true, attempts := 0 }) h
  else h

/-- The copy of a failed frame that was leaving on the other port: it takes no LSEQ, no credit and no room in the retry
buffer, since the next node drops it (R340, log 160). -/
def stompCopy (s : Side) (f : Frame) (h : Hw) : Hw :=
  let out := otherSide s
  let f := { f with hops := min 255 (f.hops + 1), crossed := f.crossed || h.ring.head == some h.nodeId, fixed := 0
                    lseq := (portOf h out).txSeq }
  if f.dst ≠ h.nodeId ∧ 3 < f.type ∧ mayGo (portOf h out) f then { h with sent := h.sent ++ [(out, stompFrame f)] } else h

/-- FRAME_CRC_FAIL (R340): a stomped frame is dropped and counted; any other fails its CRC, and LINK_NAK asks for a
replay. A copy that was already leaving on the other port ends with its CRC inverted. -/
def crcFailEffect (s : Side) (inverted : Bool) (copy : Option Frame) (h : Hw) : Hw :=
  if (portOf h s).carries then
    let h := match copy with
      | some f => stompCopy s f h
      | none => h
    if inverted then
      { h with health := { h.health with cnt := { h.health.cnt with stomped := satAdd 32 h.health.cnt.stomped 1 } } }
    else countCrc s (linkFrame s 0x02 (portOf h s).rxSeq h)
  else h

def execFrameCrcFail (side : Side) (inverted : Bool) (copy : Option Frame) (s : State) :
    Host.Outcome State Fault Refusal :=
  quiet (crcFailEffect side inverted copy) s

/-- LINK_ACK_TIMER: frames wait for their acknowledgement and it goes out (R340). -/
def execLinkAckTimer (side : Side) (s : State) : Host.Outcome State Fault Refusal :=
  quiet (fun h =>
    let p := portOf h side
    if p.carries && (decide (0 < p.unacked) || p.owed.any (· != 0)) then sendAck side h else h) s

/-- LINK_ACK: acknowledged frames leave the retry buffer, credit comes back, held frames go (R337, R340). -/
def linkAckEffect (s : Side) (f : Frame) (h : Hw) : Hw :=
  if (portOf h s).carries then
    let h := setPort s (fun p => { p with
      retry := afterAck (fld f.param 0 12) p.retry, replays := 0
      credit := addCredit (fld f.param 12 2) (fld f.param 16 16) p.credit }) h
    pumpHeld (portOf h s).held.length s h
  else h

def execLinkAck (side : Side) (frame : Frame) (s : State) : Host.Outcome State Fault Refusal :=
  quiet (linkAckEffect side frame) s

/-- LINK_NAK: every frame after the acknowledged LSEQ is replayed; the eighth replay without success asks for a
retrain (R340). -/
def linkNakEffect (s : Side) (f : Frame) (h : Hw) : Hw :=
  if (portOf h s).carries then
    let h := setPort s (fun p => { p with retry := afterAck (fld f.param 0 12) p.retry }) h
    let p := portOf h s
    let same := p.retry.length != 0
    let h := { h with sent := h.sent ++ p.retry.map fun x => (s, x) }
    if same then
      setPort s (fun p => { p with
        replays := p.replays + 1
        attempts := if 8 ≤ p.replays + 1 then 0 else p.attempts
        retraining := p.retraining || decide (8 ≤ p.replays + 1) }) h
    else h
  else h

def execLinkNak (side : Side) (frame : Frame) (s : State) : Host.Outcome State Fault Refusal :=
  quiet (linkNakEffect side frame) s

/-- The frame types of R337. -/
def knownTypes : List Nat :=
  [0x01, 0x02, 0x03, 0x10, 0x20, 0x21, 0x22, 0x30, 0x31, 0x32, 0x33, 0x34, 0x35, 0x40, 0x41, 0x50, 0x51]

/-- A ROLL_CTL frame with an OP of 10 to 15 (R401). -/
def unknownRollCtl (f : Frame) : Bool := f.type == 0x51 && decide (10 ≤ fld f.param 0 4)

/-- UNKNOWN_FRAME: a frame of another type is discarded and counted (R337); a ROLL_CTL with an unknown OP is discarded
(R401). -/
def execUnknownFrame (side : Side) (frame : Frame) (s : State) : Host.Outcome State Fault Refusal :=
  quiet (fun h =>
    if unknownRollCtl frame then receive side frame (oweCredit side frame) h
    else if knownTypes.contains frame.type then h
    else receive side frame (fun h => oweCredit side frame
      { h with health := { h.health with cnt := { h.health.cnt with badType := satAdd 16 h.health.cnt.badType 1 } } }) h) s

/-! ## Directions -/

/-- Hops to a member in the direction a port sends, as the roll calls measured them: a frame sent EAST reaches a node
whose own roll call arrived on the EAST port (R344). -/
def hopsTo (h : Hw) (s : Side) (peer : Nat) : Option Nat :=
  (h.ring.rolls.find? fun r => r.origin == peer && r.side == s).map (·.hops)

/-- The direction of an EXCHANGE (R351): the route asked, or the shorter path, EAST on a tie; none without a path. -/
def routeTo (h : Hw) (route peer : Nat) : Option Side :=
  match route with
  | 1 => (hopsTo h .east peer).map fun _ => .east
  | 2 => (hopsTo h .west peer).map fun _ => .west
  | _ =>
    match hopsTo h .east peer, hopsTo h .west peer with
    | some e, some w => some (if w < e then .west else .east)
    | some _, none => some .east
    | none, some _ => some .west
    | none, none => none

/-- Bytes in frames of 256, the last possibly shorter (R351). -/
def frameChunks (bs : List Byte) : List (Nat × List Byte) :=
  (List.range (ceilDiv bs.length 256)).map fun i => (256 * i, (bs.drop (256 * i)).take 256)

/-- A fresh transaction tag (R336). -/
def newTag (h : Hw) : Nat × Hw :=
  (h.ring.nextTag, { h with ring := { h.ring with nextTag := (h.ring.nextTag + 1) % 65536 } })

end Sys2Proof.Machine
end

