-- ==== Sys2Proof/Machine/Window.lean ====
section
/-! DEFINITION. The coherent window and the start of a formation: write units, sequencing, the replica's copy, and what
FORMING does to the window and to EXCHANGE (R324 to R328, R344, R346, R354). -/

namespace Sys2Proof.Machine

/-! ## Notices to the scheduler -/

/-- A task has ended in another unit: the scheduler takes note before the command ends. -/
def notice (ref : PieceRef) (failure : Option (Status × Detail)) (h : Hw) : Hw :=
  { h with sched := { h.sched with notices := h.sched.notices ++ [(ref.graph, ref.task, failure)] } }

/-- The descriptor of a piece's task. -/
def descOf (h : Hw) (ref : PieceRef) : List Word :=
  match h.sched.graphs.find? (fun g => g.key == ref.graph) with
  | some g => (g.tasks.getD ref.task {}).desc
  | none => []

/-! ## EXCHANGE in flight -/

/-- An EXCHANGE in flight fails; after a failed GET the bytes of a local range in DRAM are
unspecified: free; a window keeps the units that it has (R354, log 34). -/
def failExch (st : Status) (d : Detail) (e : Exch) (h : Hw) : Hw :=
  let desc := descOf h e.ref
  let h := if e.op = 1 ∧ !inWindow (addrAt desc 9) then freeFill [(addrAt desc 9, (wordAt desc 13).toNat)] h else h
  notice e.ref (some (st, d)) { h with ring := { h.ring with exch := h.ring.exch.filter fun x => x.tag != e.tag } }

/-! ## A roll ends (R400, R401) -/

/-- The eight words of a mask over node identities. -/
def maskWords (n : Nat) : List Word := (List.range 8).map fun i => w32 (n / 2 ^ (32 * i))

/-- RESULT of an UPDATE_CHUNK slot (R400). `subject`: the node that refused, with bit 8 set. -/
def chunkWords (accepted subject mask : Nat) (hash : List Word) : List Word :=
  [w32 accepted, w32 subject] ++ maskWords mask ++ fitTo 12 0 hash

/-- The ROLL slot completes, and this node's part in the roll is over. -/
def endRoll (st : Status) (d : Detail) (subject : Nat) (h : Hw) : Hw :=
  let u := h.update
  let h := { h with update := { u with role := .none, rollSlot := none } }
  match u.rollSlot with
  | some (pos, tag) =>
    complete { pos := pos, kind := kUpdateChunk, status := st, tag := tag, detail := d
               result := chunkWords 0 subject u.staged u.rollHash } h
  | none => h

/-- The activation's or the confirmation's slot ends without its frame's return. -/
def endRound (st : Status) (d : Detail) (subject : Nat) (h : Hw) : Hw :=
  let u := h.update
  let words := [0, w32 subject] ++ maskWords 0
  let h := { h with update := { u with actSlot := none, confSlot := none } }
  let h := match u.actSlot with
    | some (pos, tag, _) =>
      complete { pos := pos, kind := kUpdateActivate, status := st, tag := tag, detail := d, result := words } h
    | none => h
  match u.confSlot with
  | some (pos, tag) =>
    complete { pos := pos, kind := kUpdateConfirm, status := st, tag := tag, detail := d, result := words } h
  | none => h

/-- The ring leaves FORMED: a roll ends with ROLL_BROKEN (R401), and so does an activation or a confirmation whose frame
is going round (log 54). -/
def breakRoll (h : Hw) : Hw :=
  if h.ring.st = .formed then endRound .failLink .rollBroken 0 (endRoll .failLink .rollBroken 0 h) else h

/-! ## Formation starts (R344, R346) -/

/-- The ring is in use: RING_ROLE is not standalone, the RING section is valid, and the node has not declared itself
failed (R341, R349). -/
def ringInUse (h : Hw) : Bool := !h.standalone && h.image.ring.isSome && !h.ring.failed

/-- The node's own roll call. -/
def ownRollCall (h : Hw) : Frame :=
  { type := 0x10, src := h.nodeId, vc := 0
    payload := wordsBytes [w32 h.ring.epoch, w32 h.ring.nonce, w32 (b2n h.isHead + 2 * b2n h.hasHost), 0] }

/-- The window closes: reads and writes wait (R327). -/
def closeWindow (h : Hw) : Hw := { h with ring := { h.ring with winOpen := false, copying := none } }

/-- FORMING with an epoch: the window closes, EXCHANGE transfers in flight fail, roll calls go out of the ports that are
up. -/
def startFormation (epoch : Nat) (h : Hw) : Hw :=
  let h := breakRoll h
  let h := h.ring.exch.foldl (fun h e => failExch .failLink .ringReform e h) h
  let h := closeWindow { h with ring := { h.ring with
    st := .forming, epoch := epoch % 2 ^ 32, rolls := [], returned := false, members := [], head := none } }
  originate .west (ownRollCall h) (originate .east (ownRollCall h) h)

/-- A port has come up or gone DOWN: formation starts at one more than the highest epoch seen. -/
def reform (h : Hw) : Hw := if ringInUse h then startFormation (h.ring.epoch + 1) h else h

/-! ## The ring goes down and comes up (R341, R346, R349) -/

/-- The device runs at T1: in an excursion, or after its STAY (R157, R160). -/
def atT1 (h : Hw) : Bool :=
  match h.cascade.exc with
  | some e => e.tier == 1
  | none => match h.cascade.stay with
    | some (t, _) => t == 1
    | none => false

/-- The lanes of a port that is up. -/
def portLanes (p : Port) : Option LaneSet :=
  if p.st = .up then some { lanes := p.lanes, inverted := p.inverted, width := p.width } else none

/-- Lanes, polarities and widths go into the retention SRAM (R366). -/
def keepLanes (h : Hw) : Hw :=
  { h with ring := { h.ring with
      keptEast := (portLanes h.ring.east).orElse fun _ => h.ring.keptEast
      keptWest := (portLanes h.ring.west).orElse fun _ => h.ring.keptWest } }

/-- Both ports are down and the ring state is DOWN: CTRL goes off, a node at T1, a failed node (R341, R346). -/
def ringDown (h : Hw) : Hw :=
  let h := breakRoll h
  { h with ring := { h.ring with
      east := {}, west := {}, st := .down, rolls := [], returned := false, members := [], head := none
      winOpen := false, copying := none, units := [], unitsWait := [] } }

/-- A port trains: from the start, or, where it was DOWN, once more (R333). -/
def trainPort (p : Port) : Port := { st := .training, downRaised := p.downRaised, fromDown := p.st == .down && p.downRaised }

/-- The ports train; after a SLEEP first at the lanes that the retention SRAM holds (R333, R376). -/
def trainBoth (h : Hw) : Hw :=
  { h with ring := { h.ring with
      st := .training, east := { trainPort {} with saved := h.ring.keptEast }
      west := { trainPort {} with saved := h.ring.keptWest }, keptEast := none, keptWest := none } }

/-- The node declares itself failed: it leaves the ring until the next full boot (R342). -/
def failNode (h : Hw) : Hw := ringDown { h with ring := { h.ring with failed := true } }

/-- The ring is brought up where it is in use; otherwise the window opens as on a standalone node (R327, R346, R349). -/
def ringUp (h : Hw) : Hw :=
  let h := ringDown h
  if ringInUse h then trainBoth h
  else { h with ring := { h.ring with winOpen := !h.ring.failed } }

/-! ## Units -/

/-- A write to the window needs no ring: a standalone node, one whose ring is held DOWN or ALONE, or a ring of one active
node (R325, R327). -/
def windowLone (h : Hw) : Bool :=
  match h.ring.st with
  | .alone | .down => true
  | .formed => decide (h.ring.members.length ≤ 1)
  | _ => false

/-- A window write is split into units, each inside one 64-byte line, in address order (R324). -/
def splitUnits : Nat → Nat → List Byte → List (Nat × List Byte)
  | 0, _, _ => []
  | fuel + 1, a, bs =>
    if bs.isEmpty then [] else
      let n := 64 - a % 64
      (a, bs.take n) :: splitUnits fuel (a + n) (bs.drop n)

/-- The payload of a unit: offset and length, then its bytes (log 39). -/
def unitPayload (addr : Nat) (bytes : List Byte) : List Byte :=
  let data := bytes ++ List.replicate ((16 - bytes.length % 16) % 16) 0
  wordsBytes [w32 addr, w32 bytes.length, 0, 0] ++ data

/-- Offset and bytes that a payload carries. -/
def payloadUnit (p : List Byte) : Nat × List Byte :=
  let ws := bytesWords (p.take 16)
  ((wordAt ws 0).toNat, (p.drop 16).take (wordAt ws 1).toNat)

/-- The node closes its window and asks the head for its replica; the head itself, and a node without one, has nothing to
copy and keeps its window (log 40). -/
def requestCopy (h : Hw) : Hw :=
  match h.ring.head with
  | some hd =>
    if hd = h.nodeId then h
    else
      let h := { h with ring := { h.ring with winOpen := false, copying := some windowSize } }
      let (t, h) := newTag h
      originate .east { type := 0x21, dst := hd, vc := 1, tag := t } h
  | none => h

/-- A read, or a write of part of a unit, meets an uncorrectable error; in the replica the node copies it anew (R328). -/
def meetError (a : Nat) (h : Hw) : Hw :=
  let h := uncorrected (memoryAt a) a h
  if windowBase ≤ a then requestCopy h else h

/-- Bytes applied to this node's replica, as far as they lie in the window; a line that holds an error is not rewritten in
part (R328). -/
def applyUnit (a : Nat) (bs : List Byte) (h : Hw) : Hw :=
  let bs := bs.take (windowSize - a)
  if devBadPartly h (windowBase + a) bs.length then meetError (firstBad h (windowBase + a) bs.length) h
  else put .window a bs h

/-- The next window sequence number. -/
def nextWinSeq (h : Hw) : Nat := (h.ring.winSeq + 1) % 2 ^ 32

/-- A unit leaves its origin: unsequenced, or from step 3 where the origin is the head (R325). -/
def sendUnit (u : WinUnit) (h : Hw) : Hw :=
  let h := { h with ring := { h.ring with units := h.ring.units ++ [{ u with since := h.power.elapsed }] } }
  let f : Frame := { type := 0x20, vc := 1, tag := u.tag, payload := unitPayload u.addr u.bytes }
  if h.ring.head = some h.nodeId then
    let h := applyUnit u.addr u.bytes { h with ring := { h.ring with winSeq := nextWinSeq h } }
    originate .east { f with param := w32 h.ring.winSeq } h
  else originate .east f h

/-- Units of a piece are outstanding or waiting. -/
def hasUnits (h : Hw) (ref : PieceRef) : Bool := (h.ring.units ++ h.ring.unitsWait).any fun u => u.ref == ref

/-- The piece's transfer still brings data. -/
def inFlight (h : Hw) (ref : PieceRef) : Bool := h.ring.exch.any fun e => e.ref == ref

/-- What stands for a slot's writes among the units: no graph has this key. -/
def slotUnits (master : Nat) : Nat := 0x40000000 + master

/-- A unit that needs no ring is applied and completes at once (R325). -/
def loneUnit (u : WinUnit) (h : Hw) : Hw :=
  let h := applyUnit u.addr u.bytes h
  if hasUnits h u.ref || inFlight h u.ref then h else notice u.ref none h

/-- Waiting units go while the window is open and fewer than 64 are outstanding (R324, R327). -/
def pumpUnits : Nat → Hw → Hw
  | 0, h => h
  | n + 1, h =>
    match h.ring.unitsWait with
    | [] => h
    | u :: us =>
      if h.ring.winOpen && decide (h.ring.units.length < 64) then
        let h := { h with ring := { h.ring with unitsWait := us } }
        pumpUnits n (if windowLone h then loneUnit u h else sendUnit u h)
      else h

/-- A MOVE's bytes for the window become units. -/
def queueUnits (ref : PieceRef) (a : Nat) (bs : List Byte) (h : Hw) : Hw :=
  let us := splitUnits (bs.length + 1) a bs
  let h := us.foldl (fun h (p : Nat × List Byte) =>
    let (t, h) := newTag h
    { h with ring := { h.ring with unitsWait := h.ring.unitsWait ++
        [{ tag := t, ref := ref, addr := p.1, bytes := p.2 }] } }) h
  pumpUnits us.length h

/-- An outstanding unit lies in a line that a range touches (R326). -/
def unitOverlaps (h : Hw) (refs : PieceRef → Bool) (a n : Nat) : Bool :=
  (h.ring.units ++ h.ring.unitsWait).any fun u =>
    refs u.ref && decide (u.addr / 64 * 64 < a + n) && decide (a < u.addr / 64 * 64 + 64)

/-- The piece of a unit belongs to a graph of a master, or the unit is of a slot that the master posted. -/
def unitOf (h : Hw) (owner : Nat) (r : PieceRef) : Bool :=
  match h.sched.graphs.find? (fun g => g.key == r.graph) with
  | some g => g.owner == owner
  | none => r.graph == slotUnits owner

/-- A read of the window waits: it is closed, or the same master has a unit to an overlapping line outstanding (R326,
R327). -/
def readWaits (h : Hw) (owner a n : Nat) : Bool :=
  inWindow a && (!h.ring.winOpen || unitOverlaps h (unitOf h owner) (a - windowBase) n)

/-- A unit of this node has returned; the last of its MOVE or EXCHANGE completes it (R325). -/
def unitReturned (tag : Nat) (h : Hw) : Hw :=
  match h.ring.units.find? (fun u => u.tag == tag) with
  | some u =>
    let h := { h with ring := { h.ring with units := h.ring.units.filter fun x => x.tag != tag } }
    let h := if hasUnits h u.ref || inFlight h u.ref then h else notice u.ref none h
    pumpUnits 64 h
  | none => h

/-! ## The replica's copy (R327) -/

/-- Bytes of the replica that one WIN_COPY_DATA carries (log 39). -/
def copyChunk : Nat := 128

/-- The head's replica in frames, each with the sequence number that it stands at (log 39). -/
def copyFrames (m : Mems) (h : Hw) (dst tag : Nat) : List Frame :=
  (List.range (windowSize / copyChunk)).map fun i =>
    { type := 0x22, dst := dst, vc := 1, tag := tag, param := w32 h.ring.winSeq
      payload := unitPayload (copyChunk * i) (readN m h .window (copyChunk * i) copyChunk) }

/-! ## A unit's way round the ring (R325, R326) -/

/-- A sequenced unit at a node after the head: applied in sequence; a gap closes the window and asks for a copy. -/
def applySequenced (seq : Nat) (payload : List Byte) (h : Hw) : Hw :=
  if !h.ring.winOpen then h
  else if seq = nextWinSeq h then
    let (a, bs) := payloadUnit payload
    applyUnit a bs { h with ring := { h.ring with winSeq := seq } }
  else requestCopy h

/-- WIN_UNIT at a node. -/
def winUnitEffect (s : Side) (f : Frame) (h : Hw) : Hw :=
  receive s f (fun h =>
    let here := h.ring.head == some h.nodeId
    if !f.crossed then
      if here then
        if h.ring.winOpen then
          let (a, bs) := payloadUnit f.payload
          let h := applyUnit a bs { h with ring := { h.ring with winSeq := nextWinSeq h } }
          forward s { f with param := w32 h.ring.winSeq } h
        else oweCredit s f h
      else forward s f h
    else if here then
      let h := oweCredit s f h
      if f.src = h.nodeId then unitReturned f.tag h else h
    else
      let h := applySequenced f.param.toNat f.payload h
      let h := if f.src = h.nodeId then unitReturned f.tag h else h
      forward s f h) h

/-- WIN_COPY_REQ at the head. -/
def winCopyReqEffect (m : Mems) (s : Side) (f : Frame) (h : Hw) : Hw :=
  addressed s f (fun h =>
    if h.ring.head = some h.nodeId then
      (copyFrames m h f.src f.tag).foldl (fun h x => originate .east x h) h
    else h) h

/-- WIN_COPY_DATA at the node that asked: the replica's bytes, and with the last the window opens. -/
def winCopyDataEffect (s : Side) (f : Frame) (h : Hw) : Hw :=
  addressed s f (fun h =>
    match h.ring.copying with
    | some left =>
      let (a, bs) := payloadUnit f.payload
      let h := applyUnit a bs h
      if left ≤ bs.length then
        pumpUnits 64 { h with ring := { h.ring with copying := none, winOpen := true, winSeq := f.param.toNat } }
      else { h with ring := { h.ring with copying := some (left - bs.length) } }
    | none => h) h

/-- The instant at which a unit is late: four times the round-trip budget after it was sent (R327). -/
def unitLate (h : Hw) (u : WinUnit) : Nat := u.since + (4 * (ringCfg h).rttBudget * 24576 + 999999) / 1000000

/-- WIN_UNIT_TIMEOUT: the oldest outstanding unit has not returned. Its MOVE fails with FAIL_LINK, and a formation starts,
which closes the window on every node (log 41). -/
def winTimeoutEffect (h : Hw) : Hw :=
  match h.ring.units with
  | u :: _ =>
    let h := passUntil (unitLate h u) h
    let keep (x : WinUnit) : Bool := x.ref != u.ref
    let h := notice u.ref (some (.failLink, .none)) { h with ring := { h.ring with
      units := h.ring.units.filter keep, unitsWait := h.ring.unitsWait.filter keep } }
    reform (closeWindow h)
  | [] => h

end Sys2Proof.Machine
end

