-- ==== Sys2Proof/Machine/Streams.lean ====
section
/-! DEFINITION. The stream table: its entries, the requests that wait at a stream, swaps, issue and commit of a chunk
(R246 to R253, R259 to R268). -/

namespace Sys2Proof.Machine

/-! ## Graphs -/

/-- A graph by its key. -/
def graphOf (h : Hw) (key : Nat) : Option Graph := h.sched.graphs.find? fun g => g.key == key

/-- Change a graph. -/
def modGraph (key : Nat) (f : Graph → Graph) (h : Hw) : Hw :=
  let one (g : Graph) : Graph := if g.key = key then f g else g
  { h with sched := { h.sched with graphs := h.sched.graphs.map one } }

/-- A graph whose tasks may issue: resident, not failed, not closed (R159, R300, R473). -/
def Graph.live (g : Graph) : Bool := g.resident && g.failure.isNone && !g.closed

/-! ## Entries -/

/-- STATUS codes (R246). -/
def StreamSt.code : StreamSt → Nat
  | .free => 0
  | .idle => 1
  | .queued => 2
  | .running => 3
  | .swappedOut => 4
  | .swapOutBusy => 5
  | .swapInBusy => 6
  | .broken => 7

/-- Change an entry. -/
def setStream (i : Nat) (f : Stream → Stream) (h : Hw) : Hw :=
  { h with streams := modifyAt i f (fitTo 256 {} h.streams) }

/-- A waiting request that is a chunk. -/
def StreamReq.isChunk : StreamReq → Bool
  | .chunk _ _ => true
  | _ => false

/-- A waiting request that asks for a copy to HOME. -/
def StreamReq.isOut : StreamReq → Bool
  | .swapTask _ _ i | .swapSlot _ _ i => !i
  | .close _ _ | .evict => true
  | .chunk _ _ => false

/-- The stream that a RECUR or SWAP task names. -/
def taskStream (d : List Word) : Nat := fld (wordAt d 8) 0 8

/-- QUEUED_N: RECUR tasks naming the stream that are ready and not yet issued, limited to 255. -/
def queuedN (h : Hw) (i : Nat) : Nat :=
  let waits (x : Task) : Bool := taskKind x.desc == kRecur && taskStream x.desc == i && (match x.st with
    | .ready _ => true
    | _ => false)
  min 255 ((h.sched.graphs.filter Graph.live).map fun g => (g.tasks.filter waits).length).sum

/-- The eight words of entry i (R246). -/
def streamWords (h : Hw) (i : Nat) : List Word :=
  let s := streamOf h i
  let at_ := if s.inCs then s.state else s.home
  [w32 (s.st.code + 8 * b2n s.resetFlag + 16 * s.owner + 256 * b2n s.preferCs + 512 * b2n s.bf16 + 1024 * b2n s.inCs +
     2048 * (if s.inCs then s.core else 0) + 65536 * queuedN h i), w32 s.gen] ++
  [w32 at_, w32 (at_ / 2 ^ 32 % 2 ^ 16), w32 s.home, w32 (s.home / 2 ^ 32 % 2 ^ 16), w32 s.slotBytes, w32 s.chunkLen]

/-- The address of the slot of a generation (R247). -/
def slotOf (s : Stream) (gen : Nat) : Nat := (if s.inCs then s.state else s.home) + s.slotBytes * (gen % 2)

/-- The status of a stream at rest, by where its state is and whether a chunk waits (R248). -/
def restStatus (s : Stream) : StreamSt :=
  if s.preferCs && !s.inCs then .swappedOut
  else if s.reqs.any StreamReq.isChunk then .queued else .idle

/-! ## Room in core store (R263, R296, R297) -/

/-- Change a core. -/
def setCore (c : Nat) (f : Core → Core) (h : Hw) : Hw :=
  { h with sched := { h.sched with cores := modifyAt c f (fitTo 32 {} h.sched.cores) } }

/-- Cores that take pieces and state: usable, not about to retire, and at T1 core 0 alone. -/
def servingCores (h : Hw) : List Nat :=
  (usableCores h).filter fun c => !(coreOf h c).retiring && (!atT1 h || c == 0)

/-- A core's free tile capacity (R297). -/
def freeCapacity (h : Hw) (c : Nat) : Nat :=
  tileCache h c - 65536 * ((coreOf h c).tiles.filter (·.dirty)).length - 1024 * (coreOf h c).ws

/-- Slot pairs in a core's store, as offset and length; a running swap-in's too. -/
def storedPairs (h : Hw) (c : Nat) : List (Nat × Nat) :=
  let base := coreStoreBase + c * coreStoreSize
  h.streams.filterMap fun s =>
    if s.st != .free && s.inCs && s.core == c then some (s.state - base, 2 * s.slotBytes)
    else match s.dest with
      | some (k, a) => if k = c then some (a - base, 2 * s.slotBytes) else none
      | none => none

/-- The lowest offset above the sequencer's area at which a pair fits (log 42). -/
def freeOffset (h : Hw) (c n : Nat) : Option Nat :=
  let ps := storedPairs h c
  let tries := 262144 :: ps.map fun p => p.1 + p.2
  let fits := tries.filter fun o => decide (o + n ≤ coreStoreSize) && !ps.any (overlaps (o, n))
  fits.foldl (fun best o => match best with
    | none => some o
    | some b => some (min b o)) none

/-- Lexicographic order of lists of numbers. -/
def lexLe : List Int → List Int → Bool
  | [], _ => true
  | _ :: _, [] => false
  | a :: as, b :: bs => decide (a < b) || (a == b && lexLe as bs)

/-- The element of the smallest key, the first of equals. -/
def minBy {α : Type} (key : α → List Int) : List α → Option α
  | [] => none
  | x :: xs => match minBy key xs with
    | none => some x
    | some y => if lexLe (key x) (key y) then some x else some y

/-- Core and offset of a swap-in: most free tile capacity, then the coolest, then the lowest number (R296). -/
def chooseHome (h : Hw) (s : Stream) (notOn : List Nat) : Option (Nat × Nat) :=
  let n := 2 * s.slotBytes
  let ok := (servingCores h).filterMap fun c =>
    if notOn.contains c || (coreOf h c).copying || decide (freeCapacity h c < n) then none
    else (freeOffset h c n).map fun o => (c, coreStoreBase + c * coreStoreSize + o)
  minBy (fun x => [-(freeCapacity h x.1 : Int), h.sched.temps.getD (x.1 / 2) 0, (x.1 : Int)]) ok

/-! ## Requests (R248, R263 to R266) -/

/-- A request completes, or fails. -/
def endRequest (i : Nat) (r : StreamReq) (failure : Option (Status × Detail)) (h : Hw) : Hw :=
  match r with
  | .chunk g t => match failure with
    | some _ => notice { graph := g, task := t } failure h
    | none => h
  | .swapTask g t _ => notice { graph := g, task := t } failure h
  | .swapSlot pos _ _ | .close pos _ =>
    let (st, d) := failure.getD (.done, .none)
    completeOwned pos st d (streamWords h i) h
  | .evict => h

/-- The class that pays for a copy (R265, R267; evictions as C3, log 43). -/
def copyClass (h : Hw) : StreamReq → Nat
  | .chunk g _ | .swapTask g _ _ => match h.sched.graphs.find? (fun x => x.key == g) with
    | some x => x.rankCls
    | none => 3
  | _ => 3

/-- The graph that a copy is charged to. -/
def copyGraph : StreamReq → Option Nat
  | .chunk g _ | .swapTask g _ _ => some g
  | _ => none

/-- A charge to a class, and to the graph that causes it (R290, R302). -/
def chargeGraph (g : Option Nat) (c : Nat) (e : Rat) (h : Hw) : Hw :=
  let add (x : Graph) : Graph := if g = x.key then { x with energy := x.energy + e } else x
  let h := charge c e h
  { h with sched := { h.sched with graphs := h.sched.graphs.map add } }

/-- Tiles that a core's store has room for, with its slot pairs and working set. -/
def tileRoom (h : Hw) (c : Nat) : Nat := (tileCache h c - 1024 * (coreOf h c).ws) / 65536

/-- Whether a graph is of C0. -/
def isC0 (h : Hw) (key : Nat) : Bool := match graphOf h key with
  | some g => g.rankCls == 0
  | none => false

/-- The tile that goes first: not of C0, clean, least recently used (R297). -/
def victim (h : Hw) (tiles : List Tile) : Option Tile :=
  minBy (fun t => [(b2n (isC0 h t.graph) : Int), (b2n t.dirty : Int), (t.used : Int)]) tiles

/-- Bytes of a tile: as much of its 64 KiB as lies in its graph's arena (R297). -/
def tileBytes (h : Hw) (t : Tile) : Nat :=
  match graphOf h t.graph with
  | some g => min ((hdrArena g.hdr).1 + (hdrArena g.hdr).2) (t.base + 65536) - max (hdrArena g.hdr).1 t.base
  | none => 0

/-- A core's store is brought within its room: tiles are freed in order, and a dirty one is a spill, counted for the graph
that owns it and charged to the class of the task that needed the room (R290, R297). -/
def makeRoom : Nat → Nat → Option Nat → Nat → Hw → Hw
  | 0, _, _, _, h => h
  | n + 1, c, cause, cls, h =>
    let core := coreOf h c
    if core.tiles.length ≤ tileRoom h c then h
    else match victim h core.tiles with
      | none => h
      | some v =>
        let bytes := tileBytes h v
        let h := setCore c (fun k => { k with tiles := k.tiles.erase v }) h
        let h := if v.dirty then
            chargeGraph cause cls (bytesCharge bytes) (modGraph v.graph (fun g =>
              { g with spillBytes := g.spillBytes + bytes, flags := { g.flags with spilled := true } }) h)
          else h
        makeRoom n c cause cls h

/-- A copy starts: the status, the request it is for, its charge, and ACTIVE (R248, R265, R364). -/
def startCopy (i : Nat) (r : StreamReq) (st : StreamSt) (dest : Option (Nat × Nat)) (h : Hw) : Hw :=
  let n := (streamOf h i).slotBytes
  let h := chargeGraph (copyGraph r) (copyClass h r) (bytesCharge n) h
  goActive (setStream i (fun s => { s with st := st, copyFor := some r, dest := dest }) h)

/-- Cores that faulted under the chunk that waits here: its re-run goes to another (R260). -/
def faultedCores (h : Hw) : StreamReq → List Nat
  | .chunk g t => match h.sched.graphs.find? (fun x => x.key == g) with
    | some x => (x.tasks.getD t {}).pieces.filterMap fun p => match p with
      | .rerun c => some c
      | _ => none
    | none => []
  | _ => []

/-- A group of four islands is to power up, one group at a time (R358). -/
def askGroup (n : Nat) (h : Hw) : Hw :=
  if h.power.tripped ∨ h.sched.powering = some n ∨ n ∈ h.sched.powerNext then h
  else if h.sched.powering.isNone then { h with sched := { h.sched with powering := some n } }
  else { h with sched := { h.sched with powerNext := h.sched.powerNext ++ [n] } }

/-- The island of a core is to be powered, with its group. -/
def askIsland (k : Nat) (h : Hw) : Hw := if (coreOf h k).powered then h else askGroup (k / 4) h

/-- A swap-in starts where core store has room, which it takes from the tile cache (R297); none otherwise. -/
def trySwapIn (i : Nat) (r : StreamReq) (h : Hw) : Option Hw :=
  match if h.power.tripped then none else chooseHome h (streamOf h i) (faultedCores h r) with
  | some (c, a) =>
    let h := askIsland c (startCopy i r .swapInBusy (some (c, a)) h)
    some (makeRoom (coreOf h c).tiles.length c (copyGraph r) (copyClass h r) h)
  | none => none

/-- The entry is free again: state held only in core store is abandoned, what waits is dropped, and the words that the
CLOSE completion reads, GEN among them, stay (R251). -/
def freeEntry (i : Nat) (h : Hw) : Hw :=
  setStream i (fun s => { s with
    st := .free, inCs := false, core := 0, state := s.home, reqs := [], copyFor := none, dest := none
    sampled := false, wasBroken := false }) h

/-- Requests that were held behind a CLOSE meet a FREE entry: a slot's is refused with STREAM_FREE, a SWAP task's fails
with NOT_OPEN (R250, R259, R264, log 156). -/
def endHeld (i : Nat) (held : List StreamReq) (h : Hw) : Hw :=
  held.foldl (fun h q => match q with
    | .swapTask _ _ _ => endRequest i q (some (.failStream, .notOpen)) h
    | .swapSlot _ _ _ | .close _ _ => endRequest i q (some (.refusedState, .streamFree)) h
    | _ => h) h

/-- A CLOSE frees the entry and completes, and then what was held behind it. -/
def closeEntry (i : Nat) (r : StreamReq) (h : Hw) : Hw :=
  endHeld i (streamOf h i).reqs (endRequest i r none (freeEntry i h))

/-- One request that is no chunk, taken at a stream that rests, by the table of R248; it has left the queue. -/
def takeRequest (i : Nat) (r : StreamReq) (h : Hw) : Hw :=
  let s := streamOf h i
  match r with
  | .chunk _ _ => h
  | .close _ _ => if s.inCs then startCopy i r .swapOutBusy none h else closeEntry i r h
  | .evict => if s.inCs then startCopy i r .swapOutBusy none h else h
  | .swapTask _ _ swapIn | .swapSlot _ _ swapIn =>
    if swapIn then
      -- a domain that powers down takes no new transfer (R387)
      if s.st = .swappedOut ∧ h.power.tripped then endRequest i r (some (.failDomainOff, .none)) h
      else if s.st = .swappedOut then
        match trySwapIn i r h with
        | some h => h
        | none => endRequest i r none h
      else endRequest i r none h
    else if s.inCs then startCopy i r .swapOutBusy none h
    else endRequest i r none h

/-- The next request that a stream at rest serves: requests go ahead of chunks that have not issued; a swap-in waits while
the stream is BROKEN (R248, R265). -/
def nextRequest (s : Stream) : Option StreamReq :=
  s.reqs.find? fun r => !r.isChunk && (s.st != .broken || r.isOut)

/-- A stream that rests serves what waits; a SWAPPED_OUT stream whose chunk waits swaps in where there is room. -/
def serveStream : Nat → Nat → Hw → Hw
  | 0, _, h => h
  | n + 1, i, h =>
    let s := streamOf h i
    match s.st with
    | .idle | .queued | .swappedOut | .broken =>
      match nextRequest s with
      | some r => serveStream n i (takeRequest i r (setStream i (fun s => { s with reqs := s.reqs.erase r }) h))
      | none =>
        match s.reqs with
        | r :: _ =>
          if s.st = .swappedOut then (trySwapIn i r h).getD h
          else if s.st = .idle then setStream i (fun s => { s with st := .queued }) h
          else h
        | [] => if s.st = .queued then setStream i (fun s => { s with st := .idle }) h else h
    | _ => h

/-- Every stream serves what waits. -/
def serveStreams (h : Hw) : Hw :=
  (List.range h.streams.length).foldl (fun h i =>
    if (streamOf h i).st = .free then h else serveStream ((streamOf h i).reqs.length + 2) i h) h

/-- A request arrives at a stream. -/
def addRequest (i : Nat) (r : StreamReq) (h : Hw) : Hw := setStream i (fun s => { s with reqs := s.reqs ++ [r] }) h

/-! ## Copies (R248, R263, R266, R267) -/

/-- The source of the running copy. -/
def copySource (s : Stream) : Nat := slotOf s s.gen

/-- A copy ends well: its bytes, WHERE, STATE and CORE, and the next status. -/
def copyDone (m : Mems) (i : Nat) (h : Hw) : Hw :=
  let s := streamOf h i
  let bytes := readDev m h (copySource s) s.slotBytes
  match s.st, s.dest with
  | .swapOutBusy, _ =>
    let h := putDev (s.home + s.slotBytes * (s.gen % 2)) bytes h
    setStream i (fun s => { s with inCs := false, core := 0, state := s.home, copyFor := none, st := .swappedOut }) h
  | .swapInBusy, some (c, a) =>
    let h := putDev (a + s.slotBytes * (s.gen % 2)) bytes h
    setStream i (fun s =>
      let s := { s with inCs := true, core := c, state := a, copyFor := none, dest := none }
      { s with st := restStatus s }) h
  | _, _ => h

/-- The island that a copy writes is powered (R358). -/
def copyReady (h : Hw) (s : Stream) : Bool := s.st == .swapOutBusy || s.dest.any fun d => (coreOf h d.1).powered

/-- STREAM_COPY_COMPLETE: the copy ends; with an uncorrectable error the stream is BROKEN and what the copy was for fails
with FAIL_ECC. -/
def copyComplete (m : Mems) (i : Nat) (bad : Bool) (fixed : Nat) (h : Hw) : Hw :=
  let s := streamOf h i
  if (s.st = .swapOutBusy ∨ s.st = .swapInBusy) ∧ copyReady h s then
    let src := copySource s
    let h := corrected (memoryAt src) fixed h
    let req := s.copyFor.getD .evict
    let h := if bad then markBad [src] h else h
    if devBad h src s.slotBytes then
      let h := uncorrected (memoryAt src) (firstBad h src s.slotBytes) h
      let h := setStream i (fun s =>
        { s with st := .broken, inCs := false, core := 0, state := s.home, copyFor := none, dest := none
                 reqs := s.reqs.erase req }) h
      endRequest i req (some (.failEcc, .none)) h
    else
      let h := copyDone m i h
      match req with
      | .close _ _ => closeEntry i req h
      | .chunk _ _ => h
      | r => endRequest i r none h
  else h

/-- An uncorrectable error in a stream's entry of the stream table: the stream is BROKEN, and a copy that runs for it fails
(R328, log 159). -/
def breakEntry (i : Nat) (h : Hw) : Hw :=
  let s := streamOf h i
  if s.st = .free then h
  else
    let h := setStream i (fun s =>
      { s with st := .broken, inCs := false, core := 0, state := s.home, copyFor := none, dest := none }) h
    match s.copyFor with
    | some r => endRequest i r (some (.failEcc, .none))
        (setStream i (fun s => { s with reqs := s.reqs.erase r }) h)
    | none => h

/-! ## Chunks (R252, R253, R259, R262) -/

/-- How GEN_EXACT binds a chunk to the stream's generation (R253): ahead of it, behind it, or bound. -/
inductive GenBind where
  | bound | ahead | behind
  deriving DecidableEq, Repr

def genBind (s : Stream) (d : List Word) : GenBind :=
  if !bit (wordAt d 8) 9 then .bound
  else
    let k := ((wordAt d 9).toNat + 2 ^ 32 - s.gen) % 2 ^ 32
    if k = 0 then .bound else if k < 2 ^ 31 then .ahead else .behind

/-- GEN_WAIT of a chunk in ticks (R254). -/
def genWaitTicks (d : List Word) : Nat :=
  let ms := hi16 (wordAt d 13)
  msTicks (if ms = 0 then 1000 else ms)

/-- A mark at position 0 of a chunk (R258). -/
def markAt0 (m : Mems) (h : Hw) (d : List Word) (ts : List (List Word)) : Bool :=
  match tensorAt ts (hi16 (wordAt d 12)) with
  | some t => bitOf ((rowCodes m h t 0 0).getD 0 0) 0
  | none => false

/-- State elements that a task declares (R259). -/
def declaredState (d : List Word) (ts : List (List Word)) : Nat :=
  let cols (i : Nat) : Nat := match tensorAt ts i with
    | some t => t.cols
    | none => 0
  let b := cols (hi16 (wordAt d 10))
  let heads := fld (wordAt d 13) 0 8
  if bit (wordAt d 8) 8 then heads * (b / max 1 heads) * (cols (lo16 (wordAt d 11)) / max 1 heads) else b

/-- Bytes of the state that a task declares (R259). -/
def stateSize (s : Stream) (d : List Word) (ts : List (List Word)) : Nat := declaredState d ts * (if s.bf16 then 2 else 4)

/-- The checks of R259 as a chunk issues; a re-run starts from zero by the flag that its first run sampled (R262, R267). -/
def chunkFault (m : Mems) (h : Hw) (owner : Nat) (d : List Word) (ts : List (List Word)) (again : Bool) : Option Detail :=
  let s := streamOf h (taskStream d)
  let size := stateSize s d ts
  let flag := if again then s.sampled else s.resetFlag
  if s.st = .free then some .notOpen
  else if owner ≠ s.owner then some .notOwner
  else if s.st = .broken ∧ !flag ∧ !markAt0 m h d ts then some .stateLost
  else if s.chunkLen < fld (wordAt d 8) 10 13 then some .length
  else if (size + 63) / 64 * 64 ≠ s.slotBytes then some .shape
  else none

/-- Items 1 and 2 of R259, for a SWAP task (R264). -/
def swapFault (h : Hw) (owner : Nat) (d : List Word) : Option Detail :=
  let s := streamOf h (taskStream d)
  if s.st = .free then some .notOpen else if owner ≠ s.owner then some .notOwner else none

/-- A chunk issues: RUNNING, RESET_FLAG sampled and cleared, its place in the queue given up (R248, R262). A BROKEN stream
stays BROKEN only where the chunk failed its checks; one that starts afresh runs (R259). A re-run keeps what the first run
sampled. -/
def chunkIssues (i g t : Nat) (again : Bool) (h : Hw) : Hw :=
  setStream i (fun s =>
    let broken := s.st == .broken
    { s with
      st := .running, reqs := s.reqs.erase (.chunk g t), inCs := s.inCs && !broken, core := if broken then 0 else s.core
      wasBroken := if again then s.wasBroken else broken
      sampled := if again then s.sampled else s.resetFlag, resetFlag := if again then s.resetFlag else false }) h

/-- A chunk commits: GEN rises, and the stream rests (R248, R252). -/
def chunkCommits (i : Nat) (h : Hw) : Hw :=
  setStream i (fun s =>
    let s := { s with gen := (s.gen + 1) % 2 ^ 32, sampled := false, wasBroken := false }
    { s with st := if s.st = .broken then .broken else restStatus s }) h

/-- A chunk that had issued fails and is not to be re-run: the status the stream would hold had it not issued, and the flag
it sampled, whether it runs or waits for its re-run (R248, R262). -/
def chunkFails (i : Nat) (h : Hw) : Hw :=
  setStream i (fun s =>
    let broken := s.wasBroken
    let t := { s with resetFlag := s.resetFlag || s.sampled, sampled := false, wasBroken := false }
    if s.st = .running then { t with st := if broken then .broken else restStatus t } else t) h

/-- The stream is still served by a running chunk of this task, or one waits. -/
def dropChunk (g t : Nat) (h : Hw) : Hw :=
  { h with streams := h.streams.map fun s => { s with reqs := s.reqs.erase (.chunk g t) } }

end Sys2Proof.Machine
end

