-- ==== Sys2Proof/Machine/Exchange.lean ====
section
/-! DEFINITION. The sender's side of EXCHANGE: issue, the transfer's frames, its answers and its timeout (R350, R351,
R354). -/

namespace Sys2Proof.Machine

/-- OP, PEER and ROUTE of a descriptor. -/
def exchOp (d : List Word) : Nat := fld (wordAt d 8) 0 2
def exchPeer (d : List Word) : Nat := fld (wordAt d 8) 4 8
def exchRoute (d : List Word) : Nat := fld (wordAt d 8) 2 2

/-- The ring trains or forms: transfers wait (R354). -/
def ringForms (h : Hw) : Bool := h.ring.st == .training || h.ring.st == .forming

/-- An EXCHANGE may issue: not in TRAINING or FORMING (R354), nor while its local range lies in a window that is closed or,
for a PUT, holds a unit of its master (R326, R327). -/
def exchMayIssue (h : Hw) (owner : Nat) (d : List Word) : Bool :=
  !ringForms h &&
    !(exchOp d == 0 && readWaits h owner (addrAt d 9) (wordAt d 13).toNat) &&
    !(exchOp d == 1 && inWindow (addrAt d 9) && !h.ring.winOpen)

/-- TIMEOUT_US in ticks. -/
def exchTicks (h : Hw) (d : List Word) : Nat :=
  let t := (wordAt d 15).toNat
  usTicks (if t = 0 then (h.image.ring.getD { exchTimeout := 1000 }).exchTimeout else t)

/-- The virtual channel of a class (R351). -/
def exchVc (cls : Nat) : Nat := if cls = 0 then 2 else 3

/-- A 48-bit remote address as ADDR_HI and PARAM. -/
def withAddr (a : Nat) (f : Frame) : Frame := { f with addrHi := a / 2 ^ 32 % 2 ^ 16, param := w32 a }

/-- The frames of a transfer in the order of their sending (R351). -/
def exchFrames (m : Mems) (h : Hw) (d : List Word) (cls tag : Nat) : List Frame :=
  let base : Frame := { dst := exchPeer d, vc := exchVc cls, tag := tag }
  let n := (wordAt d 13).toNat
  let remote := addrAt d 11
  match exchOp d with
  | 0 => (frameChunks (readDev m h (addrAt d 9) n)).map fun (o, bs) =>
      withAddr (remote + o) { base with type := 0x30, payload := bs }
  | 1 => (List.range (ceilDiv n 65536)).map fun i =>
      withAddr (remote + 65536 * i)
        { base with type := 0x32, payload := wordsBytes [w32 (min 65536 (n - 65536 * i)), 0, 0, 0] }
  | _ => [{ base with type := 0x34, vc := 0, param := w32 (lo16 (wordAt d 14)) }]

/-- What keeps an EXCHANGE from starting (the first two cases of R354). -/
def exchFault (h : Hw) (d : List Word) : Option (Status × Detail) :=
  if !(h.ring.st == .formed || h.ring.st == .chain) || !h.ring.members.contains (exchPeer d) then
    some (.failLink, .peerAbsent)
  else if (routeTo h (exchRoute d) (exchPeer d)).isNone then some (.failLink, .noRoute)
  else none

/-- A PUT or GET of the owner meets its own memory first (R312, R316, R328); the grants were checked at admission. -/
def exchLocal (h : Hw) (owner : Nat) (d : List Word) : Option (Status × Detail) :=
  let a := addrAt d 9
  let n := (wordAt d 13).toNat
  match exchOp d with
  | 0 => if !granted h owner true false a n then some (.refusedAccess, .accessRuntime)
      else if devBad h a n then some (.failEcc, .none) else none
  | 1 => if !granted h owner false true a n then some (.refusedAccess, .accessRuntime)
      else if devBadPartly h a n then some (.failEcc, .none) else none
  | _ => none

/-- An EXCHANGE issues: it fails at once, or its frames go out in the direction fixed here (R351, R354). -/
def startExchange (m : Mems) (ref : PieceRef) (owner cls : Nat) (d : List Word) (h : Hw) : Hw :=
  match exchFault h d with
  | some f => notice ref (some f) h
  | none =>
    match exchLocal h owner d with
    | some (st, det) =>
      let h := if st = .failEcc then meetError (firstBad h (addrAt d 9) (wordAt d 13).toNat) h
        else countRefusal owner (addrAt d 9) h
      notice ref (some (st, det)) h
    | none =>
      let side := (routeTo h (exchRoute d) (exchPeer d)).getD .east
      let (tag, h) := newTag h
      let h := { h with ring := { h.ring with exch := h.ring.exch ++
        [{ ref := ref, tag := tag, peer := exchPeer d, west := side == .west, op := exchOp d }] } }
      (exchFrames m h d cls tag).foldl (fun h f => originate side f h) h

/-- The transfer that an answer is for: by its tag and the peer that sends it (R336). -/
def exchOf (h : Hw) (f : Frame) : Option Exch := h.ring.exch.find? fun e => e.tag == f.tag && e.peer == f.src

/-- A transfer completes its task. -/
def exchDone (e : Exch) (h : Hw) : Hw :=
  notice e.ref none { h with ring := { h.ring with exch := h.ring.exch.filter fun x => x.tag != e.tag } }

/-- PUT_ACK, or the answer of a DOORBELL (log 44). -/
def putAckEffect (s : Side) (f : Frame) (h : Hw) : Hw :=
  addressed s f (fun h => match exchOf h f with
    | some e => if e.op = 0 then exchDone e h else h
    | none => h) h

/-- The bytes of a GET are all here: the task completes, once the units are back that carry them into the window. -/
def getDone (e : Exch) (h : Hw) : Hw :=
  if hasUnits h e.ref then { h with ring := { h.ring with exch := h.ring.exch.filter fun x => x.tag != e.tag } }
  else exchDone e h

/-- GET_DATA: bytes for the local range, in increasing address order; the last completes the task (R351). -/
def getDataEffect (s : Side) (f : Frame) (h : Hw) : Hw :=
  addressed s f (fun h => match exchOf h f with
    | some e =>
      if e.op = 1 then
        let d := descOf h e.ref
        let n := (wordAt d 13).toNat
        let bs := f.payload.take (n - e.got)
        let a := addrAt d 9 + e.got
        let h := if inWindow a && !windowLone h then queueUnits e.ref (a - windowBase) bs h else writeDev a bs h
        let got := e.got + bs.length
        if n ≤ got then getDone e h
        else { h with ring := { h.ring with exch := h.ring.exch.map fun x =>
          if x.tag = e.tag then { x with got := got } else x } }
      else h
    | none => h) h

/-- The status that an EXCH_NAK carries, and its detail by the case of R354. -/
def nakOf (f : Frame) : Status × Detail :=
  let det := fld f.param 8 16
  match fld f.param 0 8 with
  | 0x11 => (.refusedFormat, .doorbellReject)
  | 0x20 => (.failEcc, .remoteEcc)
  | 0x23 => (.failDomainOff, .none)
  | _ => (.refusedAccess, if det = Detail.code .doorbellRemote then .doorbellRemote else .remoteAccess)

/-- EXCH_NAK fails the sender's task (R352 to R354, R388). -/
def exchNakEffect (s : Side) (f : Frame) (h : Hw) : Hw :=
  addressed s f (fun h => match exchOf h f with
    | some e => failExch (nakOf f).1 (nakOf f).2 e h
    | none => h) h

end Sys2Proof.Machine
end

