-- ==== Sys2Proof/Machine/Sched.lean ====
section
/-! DEFINITION. The scheduler: readiness of tasks, graphs' ends, core stores and tiles, placement, the issue rule, core
probes, and the fixpoint that runs after every cause of R295 (R273 to R279, R283, R294 to R302, R358, R415 to R420). -/

namespace Sys2Proof.Machine

/-! ## Graphs, tasks and pieces -/

/-- Change a task. -/
def modTask (key t : Nat) (f : Task → Task) (h : Hw) : Hw :=
  modGraph key (fun g => { g with tasks := modifyAt t f g.tasks }) h

/-- Change a piece. -/
def modPiece (ref : PieceRef) (f : PieceSt → PieceSt) (h : Hw) : Hw :=
  modTask ref.graph ref.task (fun t => { t with pieces := modifyAt ref.piece f t.pieces }) h

/-- A task by graph and index. -/
def taskOf (h : Hw) (key t : Nat) : Task :=
  match graphOf h key with
  | some g => g.tasks.getD t {}
  | none => {}

/-- Change a graph's flags. -/
def modFlags (key : Nat) (f : GFlags → GFlags) (h : Hw) : Hw := modGraph key (fun g => { g with flags := f g.flags }) h

/-- A piece runs, or waits for the copy after a core fault. -/
def PieceSt.busy : PieceSt → Bool
  | .running _ | .abandoned _ | .rerunning _ _ => true
  | _ => false

/-- A piece is still to issue. -/
def PieceSt.toIssue : PieceSt → Bool
  | .todo | .rerun _ => true
  | _ => false

/-- A piece has completed. -/
def PieceSt.isDone : PieceSt → Bool
  | .done _ _ => true
  | _ => false

/-- A task has a piece at work. -/
def Task.busy (t : Task) : Bool := t.pieces.any PieceSt.busy

/-- A task is over with every piece (R275). -/
def finishTask (key t : Nat) (h : Hw) : Hw :=
  modTask key t (fun x => { x with st := .done, pieces := x.pieces.mapIdx fun i p => if p.isDone then p else .done none i }) h

/-- The ranges of a task's outputs that lie in DRAM. -/
def dramOutputs (h : Hw) (g : Graph) (t : Nat) : List (Nat × Nat) :=
  let d := (g.tasks.getD t {}).desc
  (taskWrites d g.tensors ++ (if taskKind d = kRecur then
    let s := streamOf h (taskStream d)
    if s.st = .free then [] else [(slotOf s (s.gen + 1), s.slotBytes)] else [])).filter fun r =>
      r.2 != 0 && (decide (r.1 + r.2 ≤ reservedEnd) || decide (coreStoreBase ≤ r.1 ∧ r.1 + r.2 ≤ windowBase))

/-- The master of a task's writes (R312). -/
def taskMaster (g : Graph) (d : List Word) : Nat :=
  if occupiesCore (taskKind d) then CORES else if taskKind d = kMark then SCHED else g.owner

/-- A task fails: the graph's first failure rules, no further task of it issues, and what the task may have written is
unspecified (R300, R190). -/
def failTask (key t : Nat) (st : Status) (d : Detail) (h : Hw) : Hw :=
  match graphOf h key with
  | none => h
  | some g =>
    let k := g.tasks.getD t {}
    if k.st = .done ∨ k.st = .failed then h
    else
      -- a refused write changes no byte (R316)
      let outs := if d = .accessRuntime then writableParts h (taskMaster g k.desc) (dramOutputs h g t) else dramOutputs h g t
      let h := if k.st = .issued then freeFill outs h else h
      let h := if k.st = .issued ∧ !occupiesCore (taskKind k.desc) then outs.foldl (fun h r => invalidateTiles r.1 r.2 h) h
        else h
      let h := if k.st = .issued ∧ taskKind k.desc = kRecur then chunkFails (taskStream k.desc) h else h
      let h := (List.range g.tasks.length).foldl (fun h i =>
        if taskKind (g.tasks.getD i {}).desc = kRecur then dropChunk key i h else h) h
      modGraph key (fun g => { g with failure := g.failure.orElse fun _ => some (st, d, t) })
        (modTask key t (fun x => { x with st := .failed }) h)

/-! ## Deadlines (R271, R294, R301) -/

/-- The absolute deadline in thousandths of an elapsed tick (log 45). -/
def deadlineEl (g : Graph) : Option Nat :=
  if hdrDeadline g.hdr = 0 then none else some (1000 * g.startEl + 24576 * hdrDeadline g.hdr)

/-- How late a graph is, in µs rounded up; 0 when in time. One µs is 24.576 ticks. -/
def lateUs (h : Hw) (g : Graph) : Nat :=
  match deadlineEl g with
  | some d => (1000 * h.power.elapsed - d + 24575) / 24576
  | none => 0

/-! ## The end of a graph (R300 to R302) -/

/-- STATUS and DETAIL of a completion. -/
def graphStatus (h : Hw) (g : Graph) : Status × Detail :=
  match g.failure with
  | some (st, d, _) => (st, d)
  | none =>
    if lateUs h g ≠ 0 then (.doneLate, .none)
    else if g.flags.supplyWarn then (.doneSupplyWarn, .none)
    else if g.flags.footprint || g.flags.spilled || g.flags.rerun || g.flags.coreRetired then (.doneDegraded, .none)
    else (.done, .none)

/-- RESULT words of a GRAPH completion. -/
def graphResult (h : Hw) (g : Graph) : List Word :=
  let f := g.flags
  let late := lateUs h g
  let bits := [late != 0, f.footprint, f.spilled, f.rerun, f.coreRetired, f.supplyWarn, f.marginClamped, f.marginRaised,
    f.thermalHeld, f.waitTimedOut, f.checkCached]
  let task := match g.failure with
    | some (_, _, t) => t % 65536 + 65536
    | none => 0
  [w32 ((bits.mapIdx fun i b => b2n b * 2 ^ i).sum), w32 g.escalated, w32 task] ++ w64 g.start ++
    w64 (if g.resident then g.admitAt else 0) ++ w64 h.power.time ++
    [w32 (g.energy / 1000).floor.toNat, w32 (g.spillBytes / 1024), w32 g.reruns, w32 late]

/-- The chunks of a graph leave its streams: a waiting one its place, and one that had issued and can complete no more
fails (R248, R262, R300). -/
def releaseChunks (g : Graph) (h : Hw) : Hw :=
  (List.range g.tasks.length).foldl (fun h t =>
    let x := g.tasks.getD t {}
    if taskKind x.desc = kRecur then
      dropChunk g.key t (if x.st = .issued then chunkFails (taskStream x.desc) h else h)
    else h) h

/-- Tiles of a graph leave the core stores (R297, R330). -/
def dropTiles (key : Nat) (h : Hw) : Hw :=
  { h with sched := { h.sched with cores := h.sched.cores.map fun c =>
      { c with tiles := c.tiles.filter fun t => t.graph != key } } }

/-- A graph ends: its record, or for a cascade graph the news of it, and its arena is released. -/
def endGraph (g : Graph) (h : Hw) : Hw :=
  let (st, d) := graphStatus h g
  let h := releaseChunks g h
  let h := if g.key < 1024 then completeOwned g.pos st d (graphResult h g) h
    else if g.closed then h
    else { h with sched := { h.sched with ended := h.sched.ended ++ [(g.key, g.failure.isNone)] } }
  dropTiles g.key { h with sched := { h.sched with graphs := h.sched.graphs.filter fun x => x.key != g.key } }

/-- A graph is at its end: every task completed, or no piece at work after a failure or a close. -/
def atEnd (g : Graph) : Bool :=
  g.resident && (g.tasks.all (fun t => t.st == .done) || (!g.live && !g.tasks.any Task.busy))

/-- Graphs at their end complete. -/
def endGraphs (h : Hw) : Hw :=
  (h.sched.graphs.filter atEnd).foldl (fun h g => endGraph g h) h

/-! ## Readiness (R253, R275 to R277) -/

/-- The condition of a WAIT (R277). -/
def waitHolds (h : Hw) (g : Graph) (d : List Word) : Bool :=
  let v := dwordAt d 9
  match fld (wordAt d 8) 0 2 with
  | 0 => decide (v ≤ h.power.time)
  | 1 => decide (g.admitAt + v ≤ h.power.time)
  | 2 => match h.drum.latest with
    | some l => decide (v ≤ l)
    | none => false
  | _ => match h.drum.latest with
    | some l => decide (v + (match g.frameL with
        | some f => f + 1
        | none => 0) ≤ l + 1)
    | none => false

/-- A task whose predecessors have completed: what its kind asks (R275). -/
def ripenTask (key t : Nat) (g : Graph) (x : Task) (h : Hw) : Hw :=
  let ready (h : Hw) : Hw := goActive (modTask key t (fun x => { x with st := .ready h.power.elapsed }) h)
  let k := taskKind x.desc
  if k = kJoin then finishTask key t h
  else if k = kWait then if waitHolds h g x.desc then finishTask key t h else h
  else if occupiesCore k && (usableCores h).isEmpty then failTask key t .failCore .noCores h
  else if k = kRecur then
    let i := taskStream x.desc
    if (streamOf h i).st = .free then ready h
    else match genBind (streamOf h i) x.desc with
      | .bound => ready (addRequest i (.chunk key t) h)
      | .behind => failTask key t .failStream .staleGeneration h
      | .ahead => h
  else ready h

/-- A ready chunk that has not issued waits at its stream; where the stream has moved on, or was opened meanwhile, its
binding is judged anew (R248, R253). -/
def rebindChunk (key t : Nat) (x : Task) (h : Hw) : Hw :=
  match x.st with
  | .ready since =>
    let i := taskStream x.desc
    let s := streamOf h i
    if taskKind x.desc ≠ kRecur || s.st == .free then h
    else match genBind s x.desc with
      | .bound => if s.reqs.contains (.chunk key t) then h else addRequest i (.chunk key t) h
      | .behind => failTask key t .failStream .staleGeneration h
      | .ahead => modTask key t (fun x => { x with st := .pred since }) (dropChunk key t h)
  | _ => h

/-- A task moves toward readiness; a ready one that needs a core fails where none is left (R420). -/
def advanceTask (key t : Nat) (h : Hw) : Hw :=
  match graphOf h key with
  | none => h
  | some g =>
    if !g.live then h
    else
      let x := g.tasks.getD t {}
      let predsDone := (taskPreds x.desc).all fun p => (g.tasks.getD p {}).st == .done
      let h := rebindChunk key t x h
      match x.st with
      | .waiting =>
        if predsDone then
          let h := modTask key t (fun x => { x with st := .pred h.power.elapsed }) h
          ripenTask key t g { x with st := .pred h.power.elapsed } h
        else h
      | .pred _ => ripenTask key t g x h
      | .ready _ | .issued =>
        if occupiesCore (taskKind x.desc) && (usableCores h).isEmpty && x.pieces.any (fun p => !p.isDone && !p.busy) then
          failTask key t .failCore .noCores h
        else h
      | _ => h

/-- Tasks that other units have ended. -/
def takeNotices (h : Hw) : Hw :=
  let ns := h.sched.notices
  ns.foldl (fun h n =>
    match n.2.2 with
    | none => finishTask n.1 n.2.1 h
    | some (st, d) =>
      let h := failTask n.1 n.2.1 st d h
      modTask n.1 n.2.1 (fun x => { x with pieces := x.pieces.mapIdx fun i p => if p.isDone then p else .done none i }) h)
    { h with sched := { h.sched with notices := [] } }

/-- One pass: notices, tasks in the order of admission and index, streams, ends. -/
def settlePass (h : Hw) : Hw :=
  let h := takeNotices h
  let h := (h.sched.graphs.filter (·.resident)).foldl (fun h g =>
    (List.range g.tasks.length).foldl (fun h t => advanceTask g.key t h) h) h
  endGraphs (serveStreams h)

/-! ## Tiles (R297) -/

/-- The tiles of resident arenas that ranges touch, with the arena's graph. -/
def arenaTiles (h : Hw) (rs : List (Nat × Nat)) : List (Nat × Nat) :=
  (h.sched.graphs.filter (·.resident)).flatMap fun g =>
    let (a, n) := hdrArena g.hdr
    (rs.flatMap fun r =>
      let lo := max r.1 a
      let hi := min (r.1 + r.2) (a + n)
      if lo < hi then (List.range ((hi - 1) / 65536 - lo / 65536 + 1)).map fun i => ((lo / 65536 + i) * 65536, g.key)
      else []).eraseDups

/-- What a task reads, the chunk's state slots apart. -/
def inputRanges (g : Graph) (t : Nat) : List (Nat × Nat) :=
  (taskReads (g.tasks.getD t {}).desc g.tensors).filter fun r => r.2 != 0

/-- The tiles that a completed piece wrote become dirty on its core, and what it read from no store is held clean there
(R280, R297, log 46). -/
def touchTiles (c : Nat) (ref : PieceRef) (h : Hw) : Hw :=
  match graphOf h ref.graph with
  | none => h
  | some g =>
    let mine := (arenaTiles h ((partWrites (g.tasks.getD ref.task {}).desc g.tensors ref.piece).filter fun r =>
      r.2 != 0)).eraseDups
    let held (b : Nat) : Bool := h.sched.cores.any fun k => k.tiles.any fun t => t.base == b
    let reads := (arenaTiles h (inputRanges g ref.task)).filter fun x => !held x.1
    let el := h.power.elapsed
    let fresh := (reads.map fun x => ({ base := x.1, dirty := false, graph := x.2, used := el } : Tile)) ++
      mine.map fun x => { base := x.1, dirty := true, graph := x.2, used := el }
    let gone (t : Tile) : Bool := mine.any fun x => x.1 == t.base
    let touched (t : Tile) : Tile := if (inputRanges g ref.task).any fun r => tileCover [r] t.base != 0
      then { t with used := el } else t
    let h := { h with sched := { h.sched with cores := h.sched.cores.map fun k =>
      { k with tiles := k.tiles.filter fun t => !gone t } } }
    let h := setCore c (fun k => { k with tiles := k.tiles.map touched ++ fresh }) h
    makeRoom (coreOf h c).tiles.length c (some g.key) g.rankCls h

/-! ## Candidates (R294) -/

/-- A ready piece. -/
structure Cand where
  g : Graph
  t : Nat
  x : Task
  p : Nat
  /-- The core that a re-run must avoid. -/
  notOn : Option Nat
  deriving Repr

def Cand.ref (c : Cand) : PieceRef := { graph := c.g.key, task := c.t, piece := c.p }
def Cand.kind (c : Cand) : Nat := taskKind c.x.desc

/-- A chunk may issue as far as its stream goes (R248). -/
def chunkMayIssue (h : Hw) (key t : Nat) (x : Task) : Bool :=
  let s := streamOf h (taskStream x.desc)
  let first := s.reqs.head? == some (.chunk key t)
  match s.st with
  | .free => true
  | .running => x.st == .issued && !s.reqs.contains (.chunk key t)
  | .queued | .swappedOut | .broken => first
  | _ => false

/-- The ready pieces of one task. -/
def taskCands (h : Hw) (g : Graph) (t : Nat) (x : Task) : List Cand :=
  let k := taskKind x.desc
  let open_ := match x.st with
    | .ready _ | .issued => k != kJoin && k != kWait && (k != kRecur || chunkMayIssue h g.key t x) &&
        (k != kExchange || exchMayIssue h g.owner x.desc)
    | _ => false
  if open_ then
    (x.pieces.mapIdx fun p s => (p, s)).filterMap fun (p, s) => match s with
      | .todo => some { g := g, t := t, x := x, p := p, notOn := none }
      | .rerun c => some { g := g, t := t, x := x, p := p, notOn := some c }
      | _ => none
  else []

/-- The ready pieces of a class. -/
def candidates (h : Hw) (cls : Nat) : List Cand :=
  (h.sched.graphs.filter fun g => g.live && g.rankCls == cls).flatMap fun g =>
    (g.tasks.mapIdx fun t x => taskCands h g t x).flatten

/-- The rank of a piece within its class. -/
def candKey (c : Cand) : List Int :=
  let (none_, dl) : Int × Nat := match deadlineEl c.g with
    | some d => (0, d)
    | none => (1, 0)
  [if c.notOn.isSome then 0 else 1, none_, (dl : Int), (c.g.admitSeq : Int), (c.t : Int), (c.p : Int)]

/-! ## Placement (R296) -/

/-- Cores that a piece may use, powered and free or not. -/
def allowedCores (h : Hw) (c : Cand) : List Nat :=
  let s := streamOf h (taskStream c.x.desc)
  (servingCores h).filter fun k =>
    some k != c.notOn && (c.kind != kRecur || s.st == .free || !s.inCs || s.core == k)

/-- Eligible free cores of a piece; none while a thermal trip holds ARRAY down (R389). -/
def eligibleCores (h : Hw) (c : Cand) : List Nat :=
  if h.power.tripped then []
  else (allowedCores h c).filter fun k => (coreOf h k).powered && (coreOf h k).run.isNone

/-- The core of the same piece of AFFINITY (preference 1). -/
def affinityCore (c : Cand) : Option Nat :=
  let a := taskAffinity c.x.desc
  if a = 0xFFFF then none else
    match (c.g.tasks.getD a {}).pieces[c.p]? with
    | some (.done k _) => k
    | some (.running k) => k
    | some (.rerunning k _) => some k
    | _ => none

/-- Bytes of the tiles in a core's store that cover bytes which a piece reads (preference 2). -/
def tilesHeld (h : Hw) (c : Cand) (k : Nat) : Nat :=
  let rs := inputRanges c.g c.t
  65536 * ((coreOf h k).tiles.filter fun t => tileCover rs t.base != 0).length

/-- The core of a list that the preferences choose for a piece. -/
def preferCore (h : Hw) (c : Cand) (el : List Nat) : Option Nat :=
  match affinityCore c with
  | some k => if el.contains k then some k else best
  | none => best
where
  best : Option Nat := minBy (fun k => [-(tilesHeld h c k : Int), h.sched.temps.getD (k / 2) 0, (k : Int)]) el

/-- The core that a piece takes. -/
def pickCore (h : Hw) (c : Cand) : Option Nat := preferCore h c (eligibleCores h c)

/-- MOVE tasks that run (R320). -/
def movesRunning (h : Hw) : Nat :=
  (h.sched.graphs.flatMap fun g => g.tasks.filter fun x => taskKind x.desc == kMove && x.busy).length

/-- A piece can be placed: it needs no core, or has an eligible free one. -/
def placeable (h : Hw) (c : Cand) : Bool :=
  if occupiesCore c.kind then !(eligibleCores h c).isEmpty
  else c.kind != kMove || decide (movesRunning h < 4)

/-- The first ready piece that can be placed. -/
def firstPlaceable (h : Hw) (cs : List Cand) : Option Cand := minBy candKey (cs.filter (placeable h))

/-- Where a ready piece has no eligible core, the group of four islands of the unpowered core that the preferences choose
for it starts to power up, one group at a time (R296, R358, log 79). -/
def wantPower (h : Hw) (cs : List Cand) : Hw :=
  if h.sched.powering.isSome || h.power.tripped then h
  else
    let off (c : Cand) : List Nat := (allowedCores h c).filter fun k => !(coreOf h k).powered
    let waits (c : Cand) : Bool := occupiesCore c.kind && (eligibleCores h c).isEmpty && !(off c).isEmpty
    match (minBy candKey (cs.filter waits)).bind fun c => preferCore h c (off c) with
    | some k => askGroup (k / 4) h
    | none => h

/-! ## Levels (R243, R360, R475) -/

/-- A level is safer than another, as the level in force judges them, or, while the level changes, as the old or the new
one does: issue goes on at the lower of both voltages' permitted margins (R360). -/
def saferLevel (h : Hw) (e r : Nat) : Bool :=
  let at_ (p : Nat) : Bool := decide (actsAs p e < actsAs p r)
  at_ (levelInForce h) || (match h.power.change with
    | some c => at_ c.old || at_ c.target
    | none => false)

/-- A piece of effective level e needs a raise. -/
def needsRaise (h : Hw) (e : Nat) : Bool := saferLevel h e (railGoal h)

/-- Effective levels of running pieces. -/
def runningLevels (h : Hw) : List Nat :=
  h.sched.cores.filterMap fun c => match c.run with
    | some (.piece _ l) => some l
    | _ => none

/-- Effective levels of ready tasks with pieces that need a core and have not issued, chunks that wait at their stream
among them. -/
def readyLevels (h : Hw) : List Nat :=
  (h.sched.graphs.filter Graph.live).flatMap fun g => g.tasks.filterMap fun x =>
    let ready := match x.st with
      | .ready _ | .issued => x.pieces.any PieceSt.toIssue
      | _ => false
    if ready && occupiesCore (taskKind x.desc) then some (effectiveLevel h g x.desc) else none

/-- The rail may be lowered to e for a piece that issues now (R243). -/
def mayLower (h : Hw) (e : Nat) : Bool :=
  saferLevel h h.power.rail e && h.power.railChange.isNone && h.power.change.isNone && h.power.dip.isNone &&
    (runningLevels h).all (fun l => !saferLevel h l e) && (readyLevels h).all (fun l => !saferLevel h l e) &&
    decide (h.power.railSince + usTicks 100 ≤ h.power.elapsed)

/-! ## Issue (R243, R290, R295, R297) -/

/-- The working set of a piece is reserved, or the piece runs without and sets SPILLED (R297). -/
def reserveSet (c : Cand) (k : Nat) (h : Hw) : Hw :=
  let kib := taskCsKib c.x.desc
  if (eligibleCores h c).all fun j => decide (tileCache h j < 1024 * kib) then
    modFlags c.g.key (fun f => { f with spilled := true }) h
  else
    let h := setCore k (fun x => { x with ws := kib }) h
    makeRoom (coreOf h k).tiles.length k (some c.g.key) c.g.rankCls h

/-- The first eight elements of TH, as an UPDATE_STEP starts (R211). -/
def hyperWords (m : Mems) (h : Hw) (d : List Word) (ts : List (List Word)) : List Word :=
  if taskKind d = kUpdateStep then
    match tensorAt ts (hi16 (wordAt d 11)) with
    | some t => bytesWords (readDev m h (t.rowAt 0 0) 32)
    | none => []
  else []

/-- What every issue records: the charge, the task's start, the dip it runs through. -/
def recordIssue (m : Mems) (c : Cand) (e : Rat) (h : Hw) : Hw :=
  let h := chargeGraph (some c.g.key) c.g.rankCls e h
  let h := if h.power.dip.isSome then modFlags c.g.key (fun f => { f with supplyWarn := true }) h else h
  goActive (modTask c.g.key c.t (fun x =>
    if x.st = .issued then x
    else { x with
      st := .issued, startL := h.drum.latest, issuedEl := h.power.elapsed
      hyper := hyperWords m h x.desc c.g.tensors }) h)

/-- A piece starts on a core. -/
def startOnCore (c : Cand) (k e : Nat) (h : Hw) : Hw :=
  let h := reserveSet c k h
  let h := setCore k (fun x => { x with run := some (.piece c.ref e), replays := 0, clockOff := false }) h
  match c.notOn with
  | some n =>
    modGraph c.g.key (fun g => { g with reruns := g.reruns + 1, flags := { g.flags with rerun := true } })
      (modPiece c.ref (fun _ => .rerunning k n) h)
  | none => modPiece c.ref (fun _ => .running (some k)) h

/-- A piece that fails its task as it issues. -/
def failIssue (c : Cand) (st : Status) (d : Detail) (h : Hw) : Hw :=
  dropChunk c.g.key c.t (failTask c.g.key c.t st d h)

/-- A piece issues, on a core or without one. -/
def issuePiece (m : Mems) (c : Cand) (core : Option Nat) (e : Nat) (charge_ : Rat) (h : Hw) : Hw :=
  let d := c.x.desc
  match core with
  | some k =>
    if c.kind = kRecur then
      let i := taskStream d
      let rests := (streamOf h i).st != .running
      match if rests then chunkFault m h c.g.owner d c.g.tensors (c.x.st == .issued) else none with
      | some det => failIssue c .failStream det h
      | none =>
        let h := if rests then chunkIssues i c.g.key c.t (c.x.st == .issued) h else h
        startOnCore c k e (recordIssue m c charge_ h)
    else startOnCore c k e (recordIssue m c charge_ h)
  | none =>
    if c.kind = kSwap then
      match swapFault h c.g.owner d with
      | some det => failIssue c .failStream det h
      | none =>
        addRequest (taskStream d) (.swapTask c.g.key c.t (bit (wordAt d 8) 8))
          (modPiece c.ref (fun _ => .running none) (recordIssue m c 0 h))
    else
      let h := modPiece c.ref (fun _ => .running none) (recordIssue m c charge_ h)
      if c.kind = kExchange then startExchange m c.ref c.g.owner c.g.rankCls d h else h

/-- What the issue of a SWAP task is tested with: its copy, where it makes one; the charge is made as the copy starts (R265,
R291, log 43). -/
def swapCharge (h : Hw) (d : List Word) : Rat :=
  let s := streamOf h (taskStream d)
  let moves := s.st != .free && (if bit (wordAt d 8) 8 then !s.inCs && s.preferCs else s.inCs)
  if moves then bytesCharge s.slotBytes else 0

/-- The charge of a piece at the rail level that R243 gives it (R290). -/
def candCharge (h : Hw) (c : Cand) (e : Nat) : Rat :=
  if c.kind = kMark then 0
  else if c.kind = kSwap then swapCharge h c.x.desc
  else pieceCharge h c.x.desc (if occupiesCore c.kind && needsRaise h e then e else h.power.rail)

/-- One class's turn in the loop of R295. -/
inductive Turn where
  | issued (h : Hw)
  | next (h : Hw)
  | stop (h : Hw)

/-- The turn of a class. -/
def classTurn (m : Mems) (cls : Nat) (h : Hw) : Turn :=
  let cs := candidates h cls
  let h := wantPower h cs
  match firstPlaceable h cs with
  | none =>
    match minBy candKey (cs.filter fun c => occupiesCore c.kind) with
    | some c =>
      if cls = 0 then
        let e := effectiveLevel h c.g c.x.desc
        .stop (if needsRaise h e then askRail e h else h)
      else .next h
    | none => .next h
  | some c =>
    let onCore := occupiesCore c.kind
    let e := effectiveLevel h c.g c.x.desc
    let q := candCharge h c e
    if !quotaTest h cls q then .next h
    else if !deviceTest h cls q then .stop h
    else if onCore && needsRaise h e then .stop (askRail e h)
    else
      let h := if onCore && mayLower h e then askRail e h else h
      .issued (issuePiece m c (if onCore then pickCore h c else none) e q h)

/-- One round over the classes; during a dip only C0 issues (R295, R385). -/
def issueRound (m : Mems) : List Nat → Hw → Option Hw × Hw
  | [], h => (none, h)
  | cls :: rest, h =>
    match classTurn m cls h with
    | .issued h => (some h, h)
    | .stop h => (none, h)
    | .next h => issueRound m rest h

/-! ## Probes (R415) -/

/-- Probes run in ACTIVE and IDLE outside excursions. -/
def probesRun (h : Hw) : Bool := h.up && h.cascade.exc.isNone && h.power.entry.isNone && !h.power.tripped

/-- A ready piece of the classes would take this core. -/
def coreWanted (h : Hw) (classes : List Nat) (k : Nat) : Bool :=
  classes.any fun cls => (candidates h cls).any fun c => occupiesCore c.kind && pickCore h c == some k

/-- A probe slice starts, once the core's island is powered (R358). -/
def startProbe (k : Nat) (h : Hw) : Hw :=
  if (coreOf h k).powered then
    setCore k (fun x => { x with
      clockOff := false, run := some (.probe x.slice), lastProbe := h.power.time, due := false, overdue := false
      replays := 0 }) h
  else askIsland k h

/-- Cores whose probe is due start it: overdue ones unless a C0 piece would take the core, the others unless any piece
would. -/
def startProbes (overdue : Bool) (h : Hw) : Hw :=
  if probesRun h && h.power.dip.isNone then
    (List.range h.board.enabled).foldl (fun h k =>
      let x := coreOf h k
      let asked := if overdue then x.overdue else x.due || x.overdue
      if asked && x.run.isNone && !x.retiring && !coreWanted h (if overdue then [0] else [0, 1, 2, 3]) k then startProbe k h
      else h) h
  else h

/-! ## After the issue loop -/

/-- Graphs with a ready piece that waits while the thermal factor is below 1 (R302). -/
def noteHeld (h : Hw) : Hw :=
  if thermalFactor h < 1 then
    ((List.range 4).flatMap (candidates h)).foldl (fun h c => modFlags c.g.key (fun f => { f with thermalHeld := true }) h) h
  else h

/-- A retired core's island is gated once nothing is on it (R358, R418); in ACTIVE every clock runs. -/
def gateRetired (h : Hw) : Hw :=
  { h with sched := { h.sched with cores := h.sched.cores.mapIdx fun k x =>
      let x := if h.power.dev = .active then { x with clockOff := false } else x
      if x.retired && x.run.isNone && pairBytes h k == 0 && !x.copying then { x with powered := false } else x } }

/-- The graph whose check is next: by class, then by arrival (R283). A check in progress is paused for a higher class. -/
def pickCheck (h : Hw) : Hw :=
  let waiting := h.sched.graphs.filter fun g => !g.resident
  let cls (key : Nat) : Nat := match graphOf h key with
    | some g => g.rankCls
    | none => 4
  let keep := match h.sched.checking with
    | some k => waiting.any fun g => g.key == k
    | none => false
  match minBy (fun g => [(g.rankCls : Int), (g.arrival : Int)]) waiting with
  | none => { h with sched := { h.sched with checking := none } }
  | some g =>
    if keep && decide (cls (h.sched.checking.getD 0) ≤ g.rankCls) then h
    else { h with sched := { h.sched with checking := some g.key } }

/-! ## The scheduler's run (R295) -/

/-- Settle, then issue one piece, again and again. -/
def scheduleLoop (m : Mems) : Nat → Hw → Hw
  | 0, h => h
  | n + 1, h =>
    let h := settlePass (settlePass h)
    match issueRound m (if h.power.dip.isSome then [0] else [0, 1, 2, 3]) h with
    | (some h, _) => scheduleLoop m n h
    | (none, h) => if h.sched.notices.isEmpty then h else scheduleLoop m n h

/-- A bound on the rounds: each issues a piece or ends a task. -/
def roundBound (h : Hw) : Nat :=
  2 * (h.sched.graphs.map fun g => (g.tasks.map fun t => t.pieces.length + 1).sum).sum +
    2 * h.sched.notices.length + 4

/-- The scheduler runs after whatever R295 names. -/
def schedule (m : Mems) (h : Hw) : Hw :=
  if h.power.ctrlOn && h.up then
    let h := settlePass h
    let h := startProbes true h
    let h := scheduleLoop m (roundBound h) h
    pickCheck (noteLevels (gateRetired (noteHeld (railTurn (startProbes false h)))))
  else takeNotices h

end Sys2Proof.Machine
end

