-- ==== Sys2Proof/Machine/Cascade.lean ====
section
/-! DEFINITION. The wake cascade while the device is awake: its records, its graphs, verdicts, STAY and FALL_BACK, Bell
fires outside sleep, and the run of the scheduler with the cascade (R155 to R164, R371 to R373, R473). -/

namespace Sys2Proof.Machine

/-! ## EVENT_WAKE and the wake record -/

/-- PRIOR's codes (R164). -/
def stateCode : DevState → Nat
  | .active => 0
  | .idle => 1
  | .sleep => 2
  | .deep => 3
  | .off => 4
  | .recovery => 0

/-- The 16 scores as four words (R158). -/
def scoreWords (scores : List Nat) : List Word :=
  bytesWords ((fitTo 16 0 scores).map fun n => BitVec.ofNat 8 n)

/-- RESULT of an EVENT_WAKE (R164, R375). -/
def wakeWords (source tier verdict : Nat) (substituted : Bool) (prior : DevState) (fired latched beat time : Nat)
    (scores : List Nat) : List Word :=
  [w32 (source + 8 * tier + 32 * verdict + 128 * b2n substituted + 256 * stateCode prior),
   w32 (fired % 65536 + 65536 * latched)] ++ w64 beat ++ w64 time ++ scoreWords scores

/-- The report of Bell or of an excursion, which clears LATCHED (R164). -/
def reportWake (d : Detail) (words : Nat → List Word) (h : Hw) : Hw :=
  raiseEvent .eventWake d (words h.bell.latched) { h with bell := { h.bell with latched := 0 } }

/-- A fire outside an excursion, of the class that fired alone (R155, R164). -/
def reportFire (prior : DevState) (f : Fire) (h : Hw) : Hw :=
  reportWake .bellFire
    (fun latched => wakeWords WakeSource.bell.code 0 0 false prior (2 ^ f.cls) latched f.beat f.time f.scores) h

/-- The record of an excursion that has ended (R164). -/
def reportExcursion (e : Excursion) (h : Hw) : Hw :=
  let d := if e.substituted then e.subDetail else if e.source = .rwakeIn then .rwakeWake else .bellWake
  reportWake d (fun latched => wakeWords e.source.code e.top e.verdict e.substituted e.prior e.fired latched e.beat
    e.fireTime e.scores) h

/-- A wake of the host, the alarm or the vehicle, or an aborted entry (R372, R375). -/
def reportHost (d : Detail) (src : WakeSource) (tier : Nat) (prior : DevState) (time : Nat) (h : Hw) : Hw :=
  raiseEvent .eventWake d (wakeWords src.code tier 0 false prior 0 0 0 time []) h

/-- The 16 words of a wake record (R158). -/
def wakeRecord (e : Excursion) (seq latched : Nat) : List Word :=
  fitTo 16 0 ([w32 seq, w32 (e.tier + 4 * stateCode e.prior + 32 * e.source.code), w32 (e.fired % 65536 + 65536 * latched),
    0] ++ w64 e.beat ++ w64 e.fireTime ++ scoreWords e.scores)

/-! ## Graphs of the cascade -/

/-- What a read of header or tables that fails reports: an uncorrectable error, a refused transfer (R316, R328). -/
def noteGraphFault (e : GraphFault) (h : Hw) : Hw :=
  let h := match e.ecc with
    | some a => meetError a h
    | none => h
  match e.refused with
  | some (master, a) => countRefusal master a h
  | none => h

/-- A read of a graph's header or tables from the window waits (R326, R327). -/
def checkWaits (m : Mems) (h : Hw) (owner a : Nat) : Bool :=
  readWaits h owner a 64 ||
    match fetchTable m h owner a 64 with
    | .ok bs =>
      let ws := bytesWords bs
      readWaits h owner (addrAt ws 3) (64 * hdrTasks ws) || readWaits h owner (addrAt ws 5) (64 * hdrTensors ws)
    | .error _ => false

/-- The class under which a graph waits for its check, and the header read for it: C3 where HDR breaks R270, or the read is
refused, which counts, or meets an uncorrectable error, which its own check reports (R283); and where it would wait for the
window (log 157). -/
def rankRead (m : Mems) (owner hdrAddr : Nat) (h : Hw) : Nat × Hw :=
  if hdrAddr % 64 ≠ 0 ∨ readWaits h owner hdrAddr 64 then (3, h)
  else match fetchTable m h owner hdrAddr 64 with
    | .ok bs => (hdrClass (bytesWords bs), h)
    | .error e => (3, noteGraphFault { e with ecc := none } h)

/-- The lowest key that no graph of the tier holds: even for T1, odd for T2. -/
def freeKey (h : Hw) (tier : Nat) : Nat :=
  let key (n : Nat) : Nat := 1024 + (tier - 1) + 2 * n
  let taken (k : Nat) : Bool := h.sched.graphs.any fun g => g.key == k
  key (((List.range (h.sched.graphs.length + 1)).find? fun n => !taken (key n)).getD 0)

/-- Change the excursion in progress. -/
def setExc (e : Option Excursion) (h : Hw) : Hw := { h with cascade := { h.cascade with exc := e } }

/-- The wake record is written and the tier's graph is fetched: it waits for its check like any other (R157, R158). -/
def openCascade (m : Mems) (e : Excursion) (h : Hw) : Hw :=
  let b := bellCfg h
  let seq := if (h.cascade.seq + 1) % 2 ^ 32 = 0 then 1 else (h.cascade.seq + 1) % 2 ^ 32
  let addr := if e.tier = 1 then b.t1Graph else b.t2Graph
  let h := putWords .dram b.cascadeBase (wakeRecord e seq h.bell.latched) h
  let key := freeKey h e.tier
  let (cls, h) := rankRead m SCHED addr h
  let g : Graph :=
    { key := key, owner := SCHED, hdrAddr := addr, start := h.power.time, startEl := h.power.elapsed
      rankCls := cls, arrival := h.sched.arrivals }
  setExc (some { e with graphOpen := true, fetchEl := h.power.elapsed, seq := seq, key := key })
    { h with
      cascade := { h.cascade with seq := seq }
      sched := { h.sched with arrivals := h.sched.arrivals + 1, graphs := h.sched.graphs ++ [g] } }

/-- A verdict that comes about without a graph, or of one: the written verdict, or none where FAIL_VERDICT takes its
place for a reason. -/
abbrev VerdictIn := Option Nat × Detail

/-- What a tier does on entry: a node without a Bell of its own stays, a tier whose graph is not enabled fails, otherwise
the graph is opened (R157, R159). -/
def tierStart (m : Mems) (h : Hw) : Hw × Option VerdictIn :=
  match h.cascade.exc with
  | none => (h, none)
  | some e =>
    let b := bellCfg h
    if !b.enable then (h, some (some 1, .none))
    else if !(if e.tier = 1 then b.t1En else b.t2En) then (h, some (none, .graphFailed))
    else (openCascade m e h, none)

/-- Chunks of a graph that have not issued no longer wait at their streams (R248). -/
def dropWaiting (g : Graph) (h : Hw) : Hw :=
  (List.range g.tasks.length).foldl (fun h t =>
    let x := g.tasks.getD t {}
    if taskKind x.desc = kRecur ∧ x.st ≠ .issued then dropChunk g.key t h else h) h

/-- No task of a cascade graph issues any more: one that still waits for its check is gone, of a resident one the running
pieces finish (R159, R473). -/
def closeCascade (key : Nat) (h : Hw) : Hw :=
  let h := match graphOf h key with
    | some g => dropWaiting g h
    | none => h
  let keep (g : Graph) : Bool := g.key != key || g.resident
  modGraph key (fun g => { g with closed := true })
    { h with sched := { h.sched with graphs := h.sched.graphs.filter keep } }

/-! ## Tiers (R156, R376) -/

/-- Islands of the cores that a tier uses power up, group by group (R358, R376). -/
def powerIslands (h : Hw) : Hw := (servingCores h).foldl (fun h k => askIsland k h) h

/-- At T1 the PCIe link and the ring are held down, the window of a node without a ring stays open, and every island but
core 0's that nothing needs is off (R156, R327). -/
def bringT1 (h : Hw) : Hw :=
  let h := { h with sq := { h.sq with linkUp := false } }
  let h := if ringInUse h then ringDown h else { h with ring := { h.ring with winOpen := !h.ring.failed } }
  let idle (k : Nat) (x : Core) : Bool := k != 0 && x.run.isNone && pairBytes h k == 0 && !x.copying
  let cores := h.sched.cores.mapIdx fun k x => if idle k x then { x with powered := false, tiles := [] } else x
  powerIslands { h with sched := { h.sched with cores := cores } }

/-- At T2 everything is up: the ring trains where it was down, every usable island is powered (R156). -/
def bringT2 (h : Hw) : Hw := powerIslands (if h.ring.st = .down then ringUp h else h)

/-- The rise from T1 to T2: no task of the T1 graph issues any more, the re-run latch clears (R160, R473). -/
def rise (h : Hw) : Hw :=
  match h.cascade.exc with
  | some e =>
    bringT2 (setExc (some { e with tier := 2, top := 2, rerun := false, graphOpen := false }) (closeCascade e.key h))
  | none => h

/-- A pulse on RWAKE_OUT, after which RWAKE_IN is ignored for 100 ms (R163). -/
def pulseOut (h : Hw) : Hw := { h with board := { h.board with rwakeOut := true, rwakeQuiet := true } }

/-! ## The POWER slot of a stay (R373) -/

/-- RESULT of a POWER slot; PLEVEL is stamped when the record is written. -/
def powerWords (p : PowerSlot) (outcome source : Nat) (late : Bool) (time : Nat) : List Word :=
  [w32 (outcome + 4 * stateCode p.target + 32 * source + 256 * b2n late + 512 * b2n p.t1Ok + 1024 * b2n p.t2Ok),
   w32 (min 65535 p.excursions)] ++ w64 p.saveTime ++ w64 time

/-- The POWER slot of the stay completes. -/
def endStay (outcome : Nat) (src : WakeSource) (late : Bool) (time : Nat) (h : Hw) : Hw :=
  match h.power.slot with
  | some p =>
    complete { pos := p.pos, kind := kPower, tag := p.tag, detail := p.detail
               result := powerWords p outcome src.code late time } { h with power := { h.power with slot := none } }
  | none => h

/-- The host's slots are fetched again. -/
def resumeFetch (h : Hw) : Hw := { h with sq := { h.sq with fetchStopped := false } }

/-! ## Entry (R371) -/

/-- Streams whose state is in core store are swapped out (R268). -/
def evictAll (h : Hw) : Hw :=
  let due (s : Stream) : Bool := s.st != .free && (s.inCs || s.st == .swapInBusy) && !s.reqs.contains .evict &&
    s.copyFor != some .evict
  { h with streams := h.streams.map fun s => if due s then { s with reqs := s.reqs ++ [.evict] } else s }

/-- Step 2 of an entry: fetching stops, raw chains stop, a calibration run ends, streams leave core store. -/
def beginEntry (e : Entry) (h : Hw) : Hw :=
  let h := { h with
    sq := { h.sq with fetchStopped := true }
    power := { h.power with entry := some e }
    cascade := { h.cascade with stay := none } }
  evictAll (calAbort (entryRawSlots h))

/-- FALL_BACK: the excursion is reported and the device re-enters its prior state (R160, R371). -/
def fallBack (h : Hw) : Hw :=
  match h.cascade.exc with
  | none => h
  | some e =>
    let h := reportExcursion e (setExc none h)
    let slot := h.power.slot.map fun p => { p with excursions := min 65535 (p.excursions + 1) }
    let keep := match slot with
      | some p => p.keepSense
      | none => true
    beginEntry { target := e.prior, keepSense := keep, tier1 := e.tier == 1 }
      { h with power := { h.power with slot := slot } }

/-- The device stays ACTIVE at the tier: the excursion is reported, and the POWER slot of the stay completes (R160,
R364, R373). -/
def stayAwake (h : Hw) : Hw :=
  match h.cascade.exc with
  | none => h
  | some e =>
    let h := reportExcursion e (setExc none h)
    resumeFetch (endStay 1 e.source e.late e.fireTime
      { h with cascade := { h.cascade with stay := some (e.tier, e.prior) } })

/-! ## Verdicts (R159 to R161, R163) -/

/-- A verdict acts; what it starts may give a verdict at once. -/
def verdictStep (m : Mems) (v : VerdictIn) (h : Hw) : Hw × Option VerdictIn :=
  match h.cascade.exc with
  | none => (h, none)
  | some e =>
    let code := v.1.getD (bellCfg h).failVerdict
    let pulse := code == 3 && !e.pulsed && e.source != .rwakeIn
    let act := if code = 3 ∧ !pulse then 1 else code
    let e' : Excursion := { e with
      verdict := code, substituted := e.substituted || v.1.isNone, subDetail := if v.1.isNone then v.2 else e.subDetail
      graphOpen := false, rerun := false, pulsed := e.pulsed || pulse }
    let h := setExc (some e') h
    let h := if pulse then pulseOut h else h
    if act = 0 then if e.tier = 1 && e.rerun then tierStart m h else (fallBack h, none)
    else if e.tier = 1 ∧ act ≠ 1 then tierStart m (rise h)
    else (stayAwake h, none)

/-- Verdicts act until a graph runs or the excursion is over. -/
def verdictLoop (m : Mems) : Nat → Option VerdictIn → Hw → Hw
  | 0, _, h => h
  | _, none, h => h
  | n + 1, some v, h => let (h, next) := verdictStep m v h; verdictLoop m n next h

/-- A verdict, and all that follows from it: a re-run, a rise and T2's own verdict at most. -/
def verdict (m : Mems) (v : VerdictIn) (h : Hw) : Hw := verdictLoop m 4 (some v) h

/-- A tier begins. -/
def enterTier (m : Mems) (h : Hw) : Hw := let (h, next) := tierStart m h; verdictLoop m 4 next h

/-- SCHED reads the verdict record (R159). -/
def readVerdict (m : Mems) (seq : Nat) (h : Hw) : Hw × VerdictIn :=
  let a := (bellCfg h).cascadeBase + 64
  if hitsBad h .dram a 8 then (uncorrected .dram (firstBad h a 8) h, none, .verdictStale)
  else
    let ws := readWords m h .dram a 2
    if fld (wordAt ws 0) 2 30 = 0 ∧ (wordAt ws 1).toNat = seq then (h, some (fld (wordAt ws 0) 0 2), .none)
    else (h, none, .verdictStale)

/-- An excursion that WAKE_N ended is reported with its graph's verdict, which does not act (R162). -/
def reportOwed (e : Excursion) (v : VerdictIn) (h : Hw) : Hw :=
  reportExcursion { e with
      verdict := v.1.getD (bellCfg h).failVerdict, substituted := e.substituted || v.1.isNone
      subDetail := if v.1.isNone then v.2 else e.subDetail }
    { h with cascade := { h.cascade with owed := h.cascade.owed.filter fun x => x.key != e.key } }

/-- A cascade graph has ended. -/
def graphEnded (m : Mems) (h : Hw) (news : Nat × Bool) : Hw :=
  let read (seq : Nat) (h : Hw) : Hw × VerdictIn :=
    if news.2 then readVerdict m seq h else (h, none, .graphFailed)
  let mine (e : Excursion) : Bool := e.graphOpen && e.key == news.1
  match h.cascade.exc.filter mine with
  | some e => let (h, v) := read e.seq h; verdict m v h
  | none =>
    match h.cascade.owed.find? mine with
    | some e => let (h, v) := read e.seq h; reportOwed e v h
    | none => h

/-- The cascade takes note of the graphs that have ended. -/
def settleCascade (m : Mems) (h : Hw) : Hw :=
  let ns := h.sched.ended
  ns.foldl (graphEnded m) { h with sched := { h.sched with ended := [] } }

/-- The scheduler and the cascade in turn. -/
def scheduleAll (m : Mems) : Nat → Hw → Hw
  | 0, h => { h with sched := { h.sched with ended := [] } }
  | n + 1, h =>
    let h := schedule m h
    if h.sched.ended.isEmpty then h else scheduleAll m n (settleCascade m h)

/-- Run an effect, then the scheduler and the cascade. -/
def runSched (f : Mems → Hw → Hw) (s : State) : Host.Outcome State Fault Refusal :=
  run (fun m h => let h := f m h; scheduleAll m (h.sched.graphs.length + 2) h) s

/-! ## Fires while the device is awake (R155, R160, R419) -/

/-- An excursion starts at a tier, CTRL and MEM being up. -/
def startExcursion (m : Mems) (tier : Nat) (prior : DevState) (src : WakeSource) (late : Bool) (f : Fire) (h : Hw) : Hw :=
  let e : Excursion :=
    { tier := tier, top := tier, prior := prior, source := src, fired := f.fired, beat := f.beat, fireTime := f.time
      scores := f.scores, late := late }
  let h := setExc (some e) { h with
    power := { h.power with dev := .active, entry := none }, cascade := { h.cascade with stay := none } }
  enterTier m (if tier = 1 then bringT1 h else bringT2 h)

/-- The tier that a class wants: with core 0 retired WAKE_T1 acts as WAKE_T2 (R419). -/
def wantedTier (h : Hw) (action : Nat) : Nat := if action = 1 ∧ (coreOf h 0).retired = false then 1 else 2

/-- EVENT_ONLY is counted (R155). -/
def countLatched (k : Nat) (h : Hw) : Hw := { h with bell := { h.bell with latched := setBit h.bell.latched k true } }

/-- A fire within an excursion. -/
def fireInside (m : Mems) (e : Excursion) (k want : Nat) (h : Hw) : Hw :=
  let e := { e with fired := setBit e.fired k true }
  if e.tier = 1 then
    if want = 1 then setExc (some { e with rerun := true }) h else enterTier m (rise (setExc (some e) h))
  else setExc (some e) h

/-- A fire that AON latches during a save: one latch for all (R372). -/
def latchFire (e : Entry) (k : Nat) (f : Fire) (h : Hw) : Hw :=
  let fire := match e.fire with
    | some g => { g with fired := setBit g.fired k true, want := max g.want f.want }
    | none => f
  let latched := if e.latched.any fun x => x.1 == .bell then e.latched else e.latched ++ [(.bell, f.time)]
  { h with power := { h.power with entry := some { e with fire := some fire, latched := latched } } }

/-- ACTION of a class (R166). -/
def actionOf (h : Hw) (k : Nat) : Nat := ((bellCfg h).classes.getD k {}).action

/-- Class k fires now, with the scores of a beat. -/
def bellFire (h : Hw) (beat : Nat) (scores : List Nat) (k : Nat) : Fire :=
  { fired := 2 ^ k, cls := k, beat := beat, time := h.power.time, scores := scores, want := wantedTier h (actionOf h k) }

/-- An entry is left before its save: nothing is swapped out for it any more, and the chains of AUTOSTART start (R86,
R372). -/
def leaveEntry (h : Hw) : Hw :=
  let stays (s : Stream) (r : StreamReq) : Bool := r != .evict || (coreOf h s.core).retired || (coreOf h s.core).retiring
  autostart { h with
    power := { h.power with entry := none }
    streams := h.streams.map fun s => { s with reqs := s.reqs.filter (stays s) } }

/-- A fire acts in a device that is awake, or on its way to sleep (R155, R160, R372). -/
def fireAwake (m : Mems) (f : Fire) (h : Hw) : Hw :=
  let k := f.cls
  let action := actionOf h k
  match h.cascade.exc with
  | some e => if action = 3 then countLatched k h else fireInside m e k f.want h
  | none =>
    match h.power.entry with
    | some e =>
      if action = 3 then countLatched k h
      else if e.saving then latchFire e k f h
      else startExcursion m f.want e.target .bell false f (leaveEntry h)
    | none =>
      match h.cascade.stay with
      | some (1, prior) =>
        if action = 3 then reportFire h.power.dev f h else startExcursion m f.want prior .bell false f h
      | _ => if h.up then reportFire h.power.dev f h else h

/-! ## VERDICT_TIMEOUT and WAKE_N (R159, R162) -/

/-- The instant at which a cascade graph must have completed, in elapsed ticks (R159). -/
def verdictDue (h : Hw) (e : Excursion) : Nat :=
  let b := bellCfg h
  let t := if e.tier = 1 then b.t1Timeout else b.t2Timeout
  e.fetchEl + msTicks (if t = 0 then 100 else t)

/-- VERDICT_TIMEOUT: of the cascade graphs that run, the one whose time is up first has not completed; no task of it issues
any more. -/
def verdictTimeoutEffect (m : Mems) (h : Hw) : Hw :=
  let open_ (e : Excursion) : Bool := e.graphOpen
  let exc := h.cascade.exc.filter open_
  match minBy (fun e => [(verdictDue h e : Int)]) (exc.toList ++ h.cascade.owed) with
  | some e =>
    let h := closeCascade e.key (passUntil (verdictDue h e) h)
    if exc = some e then verdict m (none, .verdictTimeout) h else reportOwed e (none, .verdictTimeout) h
  | none => h

def execVerdictTimeout (s : State) : Host.Outcome State Fault Refusal := runSched verdictTimeoutEffect s

/-- WAKE_N ends an excursion: the device goes to T2 under the host. A running graph completes, and then the excursion is
reported; otherwise at once (R162). -/
def endByWakeN (e : Excursion) (h : Hw) : Hw :=
  let h := setExc none h
  let h := if e.graphOpen then { h with cascade := { h.cascade with owed := h.cascade.owed ++ [e] } } else reportExcursion e h
  resumeFetch (endStay 1 .wakeN false h.power.time (bringT2 h))

end Sys2Proof.Machine
end

