-- ==== Sys2Proof/Machine/Pieces.lean ====
section
/-! DEFINITION. What becomes of pieces: completion with the task's outputs, core faults, re-runs, confirmation and
retirement, probes, waits and their timeouts, islands, the account's slots and the windows (R205, R213, R237 to R241,
R252, R277, R278, R290 to R293, R298, R299, R329, R358, R364, R389, R413 to R420). -/

namespace Sys2Proof.Machine

/-! ## Counters -/

/-- Change the counters of the health pages. -/
def bump (f : Counters → Counters) (h : Hw) : Hw := { h with health := { h.health with cnt := f h.health.cnt } }

/-! ## Retirement (R417, R418, R420) -/

/-- The running chunk of a stream: graph and task. -/
def runningChunk (h : Hw) (i : Nat) : Option (Nat × Nat) :=
  h.sched.graphs.findSome? fun g =>
    (g.tasks.mapIdx fun t x => (t, x)).findSome? fun (t, x) =>
      if taskKind x.desc == kRecur && taskStream x.desc == i && x.st == .issued then some (g.key, t) else none

/-- A running chunk goes back to wait at its stream, at the front, for the rest of its pieces (R260, R267). -/
def chunkBack (i : Nat) (h : Hw) : Hw :=
  match runningChunk h i with
  | some (g, t) => setStream i (fun s =>
      if s.st = .running then { s with reqs := .chunk g t :: s.reqs, st := if s.inCs then .queued else restStatus s } else s) h
  | none => h

/-- The streams whose pair lies in a core's store. -/
def streamsOn (h : Hw) (k : Nat) : List Nat :=
  (List.range h.streams.length).filter fun i =>
    let s := streamOf h i
    s.st != .free && s.inCs && s.core == k

/-- Retirement takes effect: the core takes nothing more, its dirty tiles are written back, its streams are swapped out,
every resident graph carries CORE_RETIRED, and with the last usable core NO_CORES is set. -/
def retireCore (k : Nat) (h : Hw) : Hw :=
  let h := setCore k (fun x =>
    { x with retired := true, retiring := false, tiles := if x.copying then x.tiles else [], ws := 0 }) h
  let h := (streamsOn h k).foldl (fun h i =>
    setStream i (fun s => { s with reqs := .evict :: s.reqs }) (chunkBack i h)) h
  let mark (g : Graph) : Graph := if g.resident then { g with flags := { g.flags with coreRetired := true } } else g
  let h := { h with sched := { h.sched with graphs := h.sched.graphs.map mark } }
  let left := (usableCores h).length
  let h := setCause causeRetired (raiseHealth .coreRetired k 4 left 0 h)
  if left = 0 then setCause causeNoCores (raiseHealth .noCores 0 4 0 0 h) else h

/-- Retirement that was decided takes effect once no piece runs. -/
def retireDue (k : Nat) (h : Hw) : Hw :=
  let x := coreOf h k
  if x.retiring && x.run.isNone then retireCore k h else h

/-- A fault of a core is confirmed, and suspect no more (log 80); the second retires it. -/
def confirmCore (k : Nat) (h : Hw) : Hw :=
  let n := min 2 ((coreOf h k).confirmed + 1)
  let sure (x : Core) : Core := { x with confirmed := n, suspect := x.suspect - 1 }
  let h := raiseHealth .coreConfirmed k 4 n 0 (setCore k sure h)
  if 2 ≤ n && !(coreOf h k).retired then retireDue k (setCore k (fun x => { x with retiring := true }) h) else h

/-! ## A piece leaves its core -/

/-- A core is free again: its working set is released, and the 100 µs of R358 begin. -/
def freeCore (k : Nat) (h : Hw) : Hw :=
  setCore k (fun x => { x with run := none, ws := 0, replays := 0, ended := h.power.elapsed }) h

/-- How many pieces of a task have completed. -/
def doneCount (x : Task) : Nat := (x.pieces.filter PieceSt.isDone).length

/-- A failed task's status for FAIL_CORE counts (R427). -/
def failCore (key t : Nat) (d : Detail) (h : Hw) : Hw :=
  failTask key t .failCore d (bump (fun c => { c with failCores := satAdd 32 c.failCores 1 }) h)

/-! ## Outputs of a task -/

/-- EVENT_SAT (R205, R213). -/
def satEvent (g : Graph) (t : Nat) (d : List Word) (det : Detail) (count elements : Nat) (h : Hw) : Hw :=
  let cascade := decide (1024 ≤ g.key)
  let slot := if cascade then 0 else g.key
  raiseEvent .eventSat det
    ([w32 (t % 65536 + 65536 * slot + 2 ^ 26 * b2n cascade), if cascade then 0 else g.tag,
      w32 (min count (2 ^ 32 - 1))] ++ w64 elements ++ [w32 (taskSatFrac d + 65536 * taskKind d)]) h

/-- The chunk starts from the zero state: the flag it sampled, or a mark at position 0 (R262). -/
def fromZero (m : Mems) (h : Hw) (d : List Word) (ts : List (List Word)) : Bool :=
  (streamOf h (taskStream d)).sampled || markAt0 m h d ts

/-- Everything on which the sign of a NaN of a task may depend: descriptor, tensor records, what the task reads, and,
where partials arrive in a free order, the draw that fixed it (R216, R217, log 26). -/
def signKey (m : Mems) (h : Hw) (g : Graph) (d : List Word) : List Nat :=
  ((d ++ g.tensors.flatten).map fun w => w.toNat) ++
    (taskReads d g.tensors).flatMap (fun r => (readDev m h r.1 r.2).map fun b => b.toNat) ++
    (if taskKind d = kLayer && bit (wordAt d 11) 10 then [h.draws] else [])

/-- The random values of a task's elements, where its ROUND asks for them (R199). -/
def elemDraws (g : Graph) (x : Task) (e : Nat) : Nat :=
  if taskRound x.desc = 2 then drawnValue x.desc g.tensors x.gens e else 0

/-- The free values of the elements of a task: the random value in bits 15 to 0, the sign of a NaN in bit 16. -/
def elemValues (m : Mems) (h : Hw) (g : Graph) (x : Task) : Nat → Nat :=
  let key := signKey m h g x.desc
  fun e => elemDraws g x e + 65536 * b2n (Config.nanSign key e)

/-- What a task of a core's kind computes from the memories as they stand. A RECUR chunk's new state is among the
writes. -/
def taskOut (m : Mems) (h : Hw) (g : Graph) (x : Task) : TaskOut :=
  let d := x.desc
  let rnd := elemValues m h g x
  match taskKind d with
  | 1 => runLayer m h d g.tensors rnd
  | 2 => runAttend m h d g.tensors rnd
  | 3 =>
    let s := streamOf h (taskStream d)
    let state := readDev m h (slotOf s s.gen) (stateSize s d g.tensors)
    match runRecur m h d g.tensors s state (elemDraws g x) with
    | .ok (q, bytes) =>
      { writes := q.writes ++ [(slotOf s (s.gen + 1), bytes)], sat := q.sat, n := q.n }
    | .error det => skewed det
  | 4 => runVector m h d g.tensors rnd
  | 7 => runFeatures m h d x.startL
  | _ => runUpdateStep m h d g.tensors x.hyper rnd

/-- The first uncorrectable error among what a task reads, or rewrites in part (R328). -/
def taskEcc (m : Mems) (h : Hw) (g : Graph) (d : List Word) : Option Nat :=
  let s := streamOf h (taskStream d)
  let slot := if taskKind d = kRecur && s.st != .free && !fromZero m h d g.tensors then [(slotOf s s.gen, stateSize s d g.tensors)]
    else []
  eccMet h (taskReads d g.tensors ++ slot) (taskWrites d g.tensors)

/-- A task fails on an uncorrectable error at an address; in the window's replica the node also copies it anew (R328). -/
def failEccAt (key t a : Nat) (h : Hw) : Hw :=
  failTask key t .failEcc .none (meetError a h)

/-- Bytes to be written, as timing errors that nobody detected have left them (R216, R238; log 162). -/
def slipped (slips : List (Nat × Nat × Byte)) (w : Nat × List Byte) : List Byte :=
  if slips.isEmpty then w.2
  else w.2.mapIdx fun i b => match slips.find? (fun x => x.2.1 == w.1 + i) with
    | some x => x.2.2
    | none => b

/-- The last piece of a task has completed: outputs, EVENT_SAT, commit, or failure. -/
def taskCompletes (m : Mems) (key t : Nat) (h : Hw) : Hw :=
  match graphOf h key with
  | none => h
  | some g =>
    let x := g.tasks.getD t {}
    let d := x.desc
    let out := taskOut m h g x
    let h := { h with draws := h.draws + out.draws }
    let h := match out.refused with
      | some (master, a) => countRefusal master a h
      | none => h
    match out.fail with
    | some (st, det) =>
      -- only FEATURES meets an error here, in the frame ring
      let h := if st = .failEcc then uncorrected .dram (firstBad h (channelsCfg h).frameBase (640 * frameDepth h)) h else h
      failTask key t st det h
    | none =>
      let h := out.writes.foldl (fun h w => putDev w.1 (slipped x.slips w) h) h
      -- a skipped step's conversions may saturate too (R205, R213); its own event goes first (log 154)
      let h := match out.gradBad with
        | some n => satEvent g t d .gradNonfinite n out.n h
        | none => h
      let h := if taskSatFrac d ≠ 0 ∧ taskSatFrac d * out.n < out.sat * 65536 then satEvent g t d .sat out.sat out.n h else h
      let h := if taskKind d = kRecur then chunkCommits (taskStream d) h else h
      modTask key t (fun x => { x with st := .done }) h

/-! ## PIECE_COMPLETE -/

/-- Corrections that a piece met (R175, R307). -/
def noteCorrections (env : PieceEnv) (h : Hw) : Hw :=
  bump (fun c => { c with linkCe := satAdd 32 c.linkCe env.linkFixed })
    (corrected .ctrl env.ctrlFixed (corrected .dram env.dramFixed (corrected .coreStore env.csFixed h)))

/-- A piece takes from its core's rounding generator one value for each element that it rounds (R199). -/
def drawRounding (ref : PieceRef) (k : Nat) (h : Hw) : Hw :=
  match graphOf h ref.graph with
  | none => h
  | some g =>
    let c := coreOf h k
    let n := partDraws (g.tasks.getD ref.task {}).desc g.tensors ref.piece
    if n = 0 then h
    else
      let mark : GenMark := { piece := ref.piece, core := k, seed := c.seed, drawn := c.drawn }
      modTask ref.graph ref.task (fun x => { x with gens := mark :: x.gens })
        (setCore k (fun c => { c with drawn := (c.drawn + n) % (2 ^ 64 - 1) }) h)

/-- Timing errors in a piece on an array that nobody detects; a run of the piece replaces those of an earlier one (R238).
FEATURES passes through no array. -/
def noteSlips (ref : PieceRef) (slips : List (Nat × Byte)) (h : Hw) : Hw :=
  modTask ref.graph ref.task (fun x => if taskKind x.desc = 7 then x else
    { x with slips := slips.map (fun b => (ref.piece, b)) ++ x.slips.filter fun b => b.1 != ref.piece }) h

/-- A piece on a core completes. -/
def corePieceDone (m : Mems) (ref : PieceRef) (k : Nat) (was : Option Nat) (env : PieceEnv) (h : Hw) : Hw :=
  let h := noteSlips ref env.slips (drawRounding ref k (noteCorrections env (markBad env.bad h)))
  let h := touchTiles k ref (freeCore k h)
  let order := doneCount (taskOf h ref.graph ref.task)
  let h := modPiece ref (fun _ => .done (some k) order) h
  let h := match was with
    | some n => confirmCore n h
    | none => h
  let h := retireDue k h
  match graphOf h ref.graph with
  | none => h
  | some g =>
    let x := g.tasks.getD ref.task {}
    if x.st != .issued then h
    else if env.csBad then
      let (a, h) := drawNat h
      let a := coreStoreBase + k * coreStoreSize + a % coreStoreSize
      failEccAt ref.graph ref.task a (markBad [a] h)
    else match taskEcc m h g x.desc with
      | some a => failEccAt ref.graph ref.task a h
      | none => if x.pieces.all PieceSt.isDone then taskCompletes m ref.graph ref.task h else h

/-- The master and range that a MOVE reads or writes in the window meets a closed window, or a unit of the same master on
its way to a line it reads: it waits (R326, R327). -/
def moveWaits (h : Hw) (g : Graph) (ref : PieceRef) (d : List Word) : Bool :=
  let n := (wordAt d 12).toNat
  let src := addrAt d 8
  let dst := addrAt d 10
  (fld (wordAt d 13) 0 2 == 0 && readWaits h g.owner src n) ||
    (inWindow dst && (!h.ring.winOpen || hasUnits h ref))

/-- A MOVE's data has moved: its bytes are written, or go into the window as units (R318 to R327). -/
def movePieceDone (m : Mems) (ref : PieceRef) (g : Graph) (d : List Word) (env : PieceEnv) (h : Hw) : Hw :=
  if moveWaits h g ref d then h
  else
    let h := noteCorrections env (markBad env.bad h)
    match eccMet h (taskReads d g.tensors) (taskWrites d g.tensors) with
    | some a => failEccAt ref.graph ref.task a (modPiece ref (fun _ => .done none 0) h)
    | none =>
      let out := runMove m h g.owner d env.hostData
      match out.fail with
      | some (st, det) =>
        let h := match out.refused with
          | some (master, a) => countRefusal master a h
          | none => h
        failTask ref.graph ref.task st det (modPiece ref (fun _ => .done none 0) h)
      | none =>
        let dst := addrAt d 10
        if inWindow dst && !windowLone h then
          out.writes.foldl (fun h w => queueUnits ref (w.1 - windowBase) w.2 h) h
        else
          let h := out.writes.foldl (fun h w => writeDev w.1 w.2 h) h
          finishTask ref.graph ref.task h

/-- MARK PROGRESS writes and completes (R278). -/
def markPieceDone (ref : PieceRef) (g : Graph) (d : List Word) (env : PieceEnv) (h : Hw) : Hw :=
  if fld (wordAt d 8) 0 4 ≠ 0 then h
  else
    let h := modPiece ref (fun _ => .done none 0) (noteCorrections env (markBad env.bad h))
    match eccMet h [] [(addrAt d 9, 16)] with
    | some a => failEccAt ref.graph ref.task a h
    | none =>
      let out := runProgress h g.tag ref.task d
      match out.fail with
      | some (st, det) =>
        let h := match out.refused with
          | some (master, a) => countRefusal master a h
          | none => h
        failTask ref.graph ref.task st det h
      | none => finishTask ref.graph ref.task
          (out.writes.foldl (fun h w => writeDev w.1 w.2 h) h)

/-- Uncorrectable errors that the scheduler met in CTRL: stream entries become BROKEN, and with any other scheduler state
the node declares itself failed (R328, R342, R422, log 159). -/
def ctrlErrors (env : PieceEnv) (h : Hw) : Hw :=
  let met (h : Hw) : Hw := raiseHealth .eccUncorrected Memory.ctrl.code (memoryClass .ctrl) 0 0
    { h with health := { h.health with cnt := countUncorrected .ctrl h.health.cnt } }
  let h := env.streamBad.foldl (fun h i => if (streamOf h i).st = .free then h else met (breakEntry i h)) h
  if env.schedBad then setCause causeSched (met (failNode h)) else h

/-- PIECE_COMPLETE: a running piece ends. -/
def pieceComplete (m : Mems) (ref : PieceRef) (env : PieceEnv) (h : Hw) : Hw :=
  let h := ctrlErrors env h
  match graphOf h ref.graph with
  | none => h
  | some g =>
    let x := g.tasks.getD ref.task {}
    match x.pieces[ref.piece]? with
    | some (.running (some k)) => corePieceDone m ref k none env h
    | some (.rerunning k n) => corePieceDone m ref k (some n) env h
    | some (.running none) =>
      if taskKind x.desc = kMove then movePieceDone m ref g x.desc env h
      else if taskKind x.desc = kMark then markPieceDone ref g x.desc env h
      else h
    | _ => h

/-! ## Core faults (R298, R299, R413 to R417) -/

/-- CORE_FAULT's PARAM1: task index and slot; a cascade graph's slot is zero. -/
def faultParam (ref : PieceRef) : Nat := ref.task % 65536 + 65536 * (if ref.graph < 1024 then ref.graph else 0)

/-- A core fault: counted and reported; its piece is abandoned, or on its re-run the task fails with FAIL_CORE and both
cores run their next slice as overdue; the copy of R298 starts. -/
def coreFaultEffect (k code : Nat) (h : Hw) : Hw :=
  let x := coreOf h k
  let ref : Option PieceRef := match x.run with
    | some (.piece r _) => some r
    | _ => none
  let p1 := match ref with
    | some r => faultParam r
    | none => 0
  let h := raiseHealth .coreFault k 4 code p1
    (setCore k (fun x => { x with suspect := x.suspect + 1, copying := true }) (freeCore k h))
  let h := match ref with
    | none => h
    | some r =>
      match (taskOf h r.graph r.task).pieces[r.piece]? with
      | some (.rerunning _ n) =>
        let h := modPiece r (fun _ => .done none 0) h
        let due (c : Core) : Core := { c with overdue := true }
        failCore r.graph r.task .none (setCore n due (setCore k due h))
      | _ => modPiece r (fun _ => .abandoned k) h
  retireDue k h

/-- The core runs something that can fault. -/
def coreRuns (h : Hw) (k : Nat) : Bool := (coreOf h k).run.isSome && h.power.ctrlOn

/-- The residue check covers the pieces of a LAYER task with an integer pair (R413). -/
def residueCovers (h : Hw) (ref : PieceRef) : Bool :=
  match graphOf h ref.graph with
  | some g =>
    let d := (g.tasks.getD ref.task {}).desc
    let isInt (i : Nat) : Bool := (tensorAt g.tensors i).any fun t => isIntFmt t.fmt
    taskKind d == kLayer && isInt (lo16 (wordAt d 8)) && isInt (hi16 (wordAt d 8))
  | none => false

/-- CORE_FAULT (R413). -/
def execCoreFault (core : Nat) (check : BlockCheck) (s : State) : Host.Outcome State Fault Refusal :=
  runSched (fun _ h =>
    match (coreOf h core).run with
    | some (.piece r _) =>
      if h.power.ctrlOn && (check != .residue || residueCovers h r) then
        match check with
        | .datapath => coreFaultEffect core 1 (bump (fun c => { c with datapathFails := satAdd 32 c.datapathFails 1 }) h)
        | .residue => coreFaultEffect core 2 (bump (fun c => { c with residueFails := satAdd 32 c.residueFails 1 }) h)
      else h
    | _ => h) s

/-- REPLAY_ABANDON: the eighth consecutive replay of a cycle is itself in error (R237). -/
def execReplayAbandon (core : Nat) (s : State) : Host.Outcome State Fault Refusal :=
  runSched (fun _ h =>
    if coreRuns h core && (coreOf h core).replays == 8 then
      coreFaultEffect core 4 (bump (fun c => { c with replayAbandons := satAdd 32 c.replayAbandons 1 }) h)
    else h) s

/-- SEQUENCER_STALL: no step for 1 ms (R298). -/
def execSequencerStall (core : Nat) (s : State) : Host.Outcome State Fault Refusal :=
  runSched (fun _ h =>
    if coreRuns h core then coreFaultEffect core 5 (bump (fun c => { c with stalls := satAdd 32 c.stalls 1 }) h) else h) s

/-- Both slots of a pair go from a core's store to HOME (R298). -/
def pairHome (m : Mems) (i : Nat) (h : Hw) : Hw :=
  let s := streamOf h i
  let bytes := readDev m h s.state (2 * s.slotBytes)
  setStream i (fun s => { s with inCs := false, core := 0, state := s.home }) (putDev s.home bytes h)

/-- A stream's place after the fault copy: at HOME, at rest, an abandoned chunk first in the queue; BROKEN where its pair
could not be read (R260, R267, R298). A copy that is running goes on. -/
def copyStream (m : Mems) (bad : Nat → Bool) (i : Nat) (h : Hw) : Hw :=
  let s := streamOf h i
  if s.st = .swapOutBusy ∨ s.st = .swapInBusy then h
  else
    let lost := bad s.state || devBad h s.state (2 * s.slotBytes)
    let h := chunkBack i h
    if lost then
      setStream i (fun s => { s with st := .broken, inCs := false, core := 0, state := s.home })
        (uncorrected .coreStore (firstBad h s.state (2 * s.slotBytes)) h)
    else setStream i (fun s => { s with st := restStatus s }) (pairHome m i h)

/-- Lost tiles: their bytes are free, and every unfinished task of the graph that reads them fails with FAIL_ECC (R298). -/
def loseTile (k : Nat) (h : Hw) (base : Nat) : Hw :=
  match (coreOf h k).tiles.find? (fun t => t.dirty && t.base == base) with
  | none => h
  | some t =>
    match graphOf h t.graph with
    | none => h
    | some g =>
      let (a, n) := hdrArena g.hdr
      let lo := max a base
      let h := freeFill [(lo, min (a + n) (base + 65536) - lo)] h
      let needs := (List.range g.tasks.length).filter fun i =>
        let x := g.tasks.getD i {}
        x.st != .done && x.st != .failed && tileCover (inputRanges g i) base != 0
      needs.foldl (fun h i => failTask g.key i .failEcc .none h) (uncorrected .coreStore base h)

/-- Pieces abandoned on a core are ready to run again, where their graph goes on (R299). -/
def releaseAbandoned (k : Nat) (h : Hw) : Hw :=
  let one (live : Bool) (p : PieceSt) : PieceSt :=
    if p = .abandoned k then (if live then .rerun k else .done none 0) else p
  let task (g : Graph) (x : Task) : Task := { x with pieces := x.pieces.map (one (g.live && x.st == .issued)) }
  let graph (g : Graph) : Graph := { g with tasks := g.tasks.map (task g) }
  { h with sched := { h.sched with graphs := h.sched.graphs.map graph } }

/-- CORE_FAULT_COPY_DONE: tiles and slot pairs are at their DRAM addresses, and the abandoned piece's re-run is ready. -/
def copyDoneEffect (m : Mems) (k : Nat) (badTiles : List Nat) (fixed : Nat) (h : Hw) : Hw :=
  if (coreOf h k).copying then
    let h := badTiles.foldl (loseTile k) (corrected .coreStore fixed h)
    let h := (streamsOn h k).foldl (fun h i => copyStream m (fun a => badTiles.contains a) i h) h
    let clean (t : Tile) : Tile := { t with dirty := false }
    let h := setCore k (fun x => { x with copying := false, tiles := if x.retired then [] else x.tiles.map clean }) h
    let reruns := ((h.sched.graphs.flatMap fun g => g.tasks.flatMap (·.pieces)).filter (· == .abandoned k)).length
    releaseAbandoned k (bump (fun c => { c with reruns := satAdd 32 c.reruns reruns }) h)
  else h

def execCoreFaultCopyDone (core : Nat) (badTiles : List Nat) (fixed : Nat) (s : State) : Host.Outcome State Fault Refusal :=
  runSched (fun m h => copyDoneEffect m core badTiles fixed h) s

def execPieceComplete (ref : PieceRef) (env : PieceEnv) (s : State) : Host.Outcome State Fault Refusal :=
  runSched (fun m h => pieceComplete m ref env h) s

/-! ## Replays (R235 to R240) -/

/-- A detected timing error: the cycle is repeated; a ninth replay of one cycle is not made. -/
def replayEffect (k : Nat) (repeated : Bool) (h : Hw) : Hw :=
  let x := coreOf h k
  if !coreRuns h k || (repeated && (x.replays == 0 || decide (8 ≤ x.replays))) then h
  else
    let h := setCore k (fun x =>
      { x with replays := if repeated then x.replays + 1 else 1, replayed := x.replayed + 1 }) h
    if judged h h.power.rail = 0 then bump (fun c => { c with replaysM0 := satAdd 64 c.replaysM0 1 }) h
    else
      let h := bump (fun c => { c with replaysMargin := satAdd 64 c.replaysMargin 1 }) h
      match x.run with
      | some (.piece r _) =>
        let cls := taskClass (taskOf h r.graph r.task).desc
        modGraph r.graph (fun g => { g with rep := modifyAt cls (· + 1) g.rep }) h
      | _ => h

def execShadowReplay (core : Nat) (repeated : Bool) (s : State) : Host.Outcome State Fault Refusal :=
  quiet (replayEffect core repeated) s

/-- A class of a graph at the end of a window (R239, R240). -/
def escalate (cyc : Nat → Nat → Nat) (g : Graph) (cls : Nat) : Graph :=
  let n := cyc g.key cls
  if n ≠ 0 ∧ n < 4096 * g.rep.getD cls 0 then
    let cap := min (g.caps.getD cls 3) (g.hiRail.getD cls 0 - 1)
    { g with caps := modifyAt cls (fun _ => cap) g.caps, escalated := setBit g.escalated cls true
             flags := { g.flags with marginRaised := true } }
  else g

/-- ESCALATION_WINDOW: the window ends on the next multiple of 24,576, or ended at a time write (R239, R382). -/
def windowEffect (cycles : List ClassCycles) (h : Hw) : Hw :=
  if !h.power.ctrlOn then h
  else
    let h := if h.sched.windowCut then { h with sched := { h.sched with windowCut := false } }
      else passToTime ((h.power.time / 24576 + 1) * 24576) h
    let cyc (key cls : Nat) : Nat := ((cycles.filter fun c => c.graph == key && c.cls == cls).map (·.cyc)).sum
    let one (g : Graph) : Graph := if g.resident then (List.range 16).foldl (fun g c => escalate cyc g c) g else g
    let after := h.sched.graphs.map one
    let n := ((h.sched.graphs.flatMap fun g => if g.resident then (List.range 16).filter fun c =>
      decide (cyc g.key c ≠ 0 ∧ cyc g.key c < 4096 * g.rep.getD c 0) else [])).length
    let clear (g : Graph) : Graph := { g with rep := List.replicate 16 0, hiRail := List.replicate 16 0 }
    bump (fun c => { c with escalations := satAdd 32 c.escalations n })
      { h with sched := { h.sched with graphs := after.map clear } }

def execEscalationWindow (cycles : List ClassCycles) (s : State) : Host.Outcome State Fault Refusal :=
  runSched (fun _ h => windowEffect cycles h) s

/-! ## Waits (R253, R277) -/

/-- A task that waits, its graph live: when its predecessors completed. -/
def waitingSince (h : Hw) (ref : PieceRef) (kind : Nat) : Option (Graph × List Word × Nat) :=
  match graphOf h ref.graph with
  | none => none
  | some g =>
    let x := g.tasks.getD ref.task {}
    match x.st with
    | .pred since => if g.live && taskKind x.desc == kind then some (g, x.desc, since) else none
    | _ => none

/-- WAIT_COMPLETE: the condition holds; a condition on time comes about as time reaches it. -/
def waitEffect (ref : PieceRef) (h : Hw) : Hw :=
  match waitingSince h ref kWait with
  | none => h
  | some (g, d, _) =>
    let v := dwordAt d 9
    let h := match fld (wordAt d 8) 0 2 with
      | 0 => passToTime v h
      | 1 => passToTime (g.admitAt + v) h
      | _ => h
    if waitHolds h g d then finishTask ref.graph ref.task h else h

def execWaitComplete (ref : PieceRef) (s : State) : Host.Outcome State Fault Refusal :=
  runSched (fun _ h => waitEffect ref h) s

/-- WAIT_TIMEOUT: TIMEOUT_US after readiness the condition does not hold. -/
def waitTimeoutEffect (ref : PieceRef) (h : Hw) : Hw :=
  match waitingSince h ref kWait with
  | none => h
  | some (g, d, since) =>
    let t := (wordAt d 11).toNat
    if t = 0 then h
    else
      let h := passUntil (since + usTicks t) h
      if waitHolds h g d then finishTask ref.graph ref.task h
      else if bit (wordAt d 8) 2 then
        finishTask ref.graph ref.task (modFlags ref.graph (fun f => { f with waitTimedOut := true }) h)
      else failTask ref.graph ref.task .failTimeout .waitTimeout h

def execWaitTimeout (ref : PieceRef) (s : State) : Host.Outcome State Fault Refusal :=
  runSched (fun _ h => waitTimeoutEffect ref h) s

/-- GEN_WAIT_TIMEOUT: the stream's generation has not come within GEN_WAIT (R253). -/
def genWaitEffect (ref : PieceRef) (h : Hw) : Hw :=
  match waitingSince h ref kRecur with
  | none => h
  | some (_, d, since) => failTask ref.graph ref.task .failStream .genWait (passUntil (since + genWaitTicks d) h)

def execGenWaitTimeout (ref : PieceRef) (s : State) : Host.Outcome State Fault Refusal :=
  runSched (fun _ h => genWaitEffect ref h) s

/-- STREAM_COPY_COMPLETE (R248, R266). -/
def execStreamCopyComplete (stream : Nat) (bad : Bool) (fixed : Nat) (s : State) : Host.Outcome State Fault Refusal :=
  runSched (fun m h => copyComplete m stream bad fixed h) s

/-- EXCH_TIMEOUT: counted from issue, or from readiness while the task waits in TRAINING or FORMING (R354). -/
def exchTimeoutEffect (ref : PieceRef) (h : Hw) : Hw :=
  match graphOf h ref.graph with
  | none => h
  | some g =>
    let x := g.tasks.getD ref.task {}
    if taskKind x.desc ≠ kExchange then h
    else match x.st with
      | .ready since =>
        if g.live && ringForms h then
          failTask ref.graph ref.task .failLink .ringForming (passUntil (since + exchTicks h x.desc) h)
        else h
      | .issued => match h.ring.exch.find? (fun e => e.ref == ref) with
        | some e => failExch .failTimeout .exchTimeout e (passUntil (x.issuedEl + exchTicks h x.desc) h)
        | none => h
      | _ => h

def execExchTimeout (ref : PieceRef) (s : State) : Host.Outcome State Fault Refusal :=
  runSched (fun _ h => exchTimeoutEffect ref h) s

/-! ## Probes (R415 to R417) -/

/-- PROBE_DUE: 100 ms of device time after its last slice began a core is due, a retired one after 10 s. -/
def probeDueEffect (k : Nat) (h : Hw) : Hw :=
  let x := coreOf h k
  if probesRun h && decide (k < h.board.enabled) && !(match x.run with
      | some (.probe _) => true
      | _ => false) then
    setCore k (fun x => { x with due := true })
      (passToTime (x.lastProbe + (if x.retired then 10 * ticksPerSecond else msTicks 100)) h)
  else h

def execProbeDue (core : Nat) (s : State) : Host.Outcome State Fault Refusal := runSched (fun _ h => probeDueEffect core h) s

/-- PROBE_OVERDUE: a core has been due for 1 s. -/
def probeOverdueEffect (k : Nat) (h : Hw) : Hw :=
  let x := coreOf h k
  if probesRun h && decide (k < h.board.enabled) && !x.retired && !(match x.run with
      | some (.probe _) => true
      | _ => false) then
    setCore k (fun x => { x with due := true, overdue := true }) (passToTime (x.lastProbe + msTicks 1100) h)
  else h

def execProbeOverdue (core : Nat) (s : State) : Host.Outcome State Fault Refusal :=
  runSched (fun _ h => probeOverdueEffect core h) s

/-- A probed core's island in IDLE is gated again, or, with a slot pair, keeps power with its clock stopped (R357, R358). -/
def restIsland (k : Nat) (h : Hw) : Hw :=
  let pair := pairBytes h k != 0
  if h.power.dev = .idle then
    setCore k (fun x => if x.copying then x else { x with powered := pair, clockOff := pair, tiles := [] }) h
  else h

/-- PROBE_SLICE_COMPLETE: a mismatch is a core fault and confirmed; a retired core's is logged only. -/
def probeSliceEffect (k : Nat) (matched : Bool) (fixed : Nat) (h : Hw) : Hw :=
  restIsland k (match (coreOf h k).run with
  | some (.probe n) =>
    let retired := (coreOf h k).retired
    let h := setCore k (fun x => { x with slice := (n + 1) % 64 }) (corrected .coreStore fixed
      (bump (fun c => { c with probeSlices := satAdd 64 c.probeSlices 1 }) h))
    if matched then retireDue k (freeCore k h)
    else
      let h := bump (fun c => { c with probeFails := satAdd 32 c.probeFails 1 }) h
      if retired then raiseLog (Detail.code .coreFault) 4 k (3 + 256 * n) (freeCore k h)
      else confirmCore k (coreFaultEffect k (3 + 256 * n) h)
  | _ => h)

def execProbeSliceComplete (core : Nat) (matched : Bool) (fixed : Nat) (s : State) : Host.Outcome State Fault Refusal :=
  runSched (fun _ h => probeSliceEffect core matched fixed h) s

/-! ## Islands and IDLE (R358, R364) -/

/-- An island is powered: its core's rounding generator is seeded from device time and the core number (R199). -/
def powerIsland (k : Nat) (h : Hw) : Hw :=
  if (coreOf h k).powered then h
  else setCore k (fun x => { x with
    powered := true, clockOff := false, ended := h.power.elapsed, seed := h.power.time, drawn := 0 }) h

/-- A core whose probe waits for its island, a retired one among them (R358, R415, R416). -/
def probeWaits (h : Hw) (k : Nat) : Bool := decide (k < h.board.enabled) && ((coreOf h k).due || (coreOf h k).overdue)

/-- The islands of a group that power up: in ACTIVE those of usable cores, and in IDLE and for a retired core only what a
probe waits for; an island that a running swap-in writes is of a usable core (R357, R358). -/
def groupCores (h : Hw) (group : Nat) : List Nat :=
  (List.range 32).filter fun k => k / 4 == group &&
    ((h.power.dev != .idle && (servingCores h).contains k) || probeWaits h k)

/-- ISLAND_READY: a group of four islands is up, and the next one starts. -/
def islandReadyEffect (group : Nat) (h : Hw) : Hw :=
  if h.sched.powering = some group then
    (groupCores h group).foldl (fun h k => powerIsland k h)
      { h with sched := { h.sched with powering := h.sched.powerNext.head?, powerNext := h.sched.powerNext.tail } }
  else h

def execIslandReady (group : Nat) (s : State) : Host.Outcome State Fault Refusal :=
  runSched (fun _ h => islandReadyEffect group h) s

/-- Nothing keeps an island powered. -/
def islandEmpty (h : Hw) (k : Nat) : Bool :=
  let x := coreOf h k
  x.run.isNone && x.tiles.isEmpty && pairBytes h k == 0 && !x.copying

/-- ISLAND_GATE: 100 µs after its last piece ended a free island with neither tile nor pair is gated. -/
def islandGateEffect (k : Nat) (h : Hw) : Hw :=
  let x := coreOf h k
  if h.power.dev == .active && x.powered && islandEmpty h k then
    setCore k (fun x => { x with powered := false }) (passUntil (x.ended + usTicks 100) h)
  else h

def execIslandGate (core : Nat) (s : State) : Host.Outcome State Fault Refusal :=
  runSched (fun _ h => islandGateEffect core h) s

/-- Nothing keeps the device in ACTIVE (R364). -/
def workless (h : Hw) : Bool :=
  h.sched.graphs.isEmpty && h.sq.owned.all (fun o => h.sq.posts.any fun p => p.pos == o.pos) &&
  h.streams.all (fun s => s.st != .swapOutBusy && s.st != .swapInBusy) && h.sched.cores.all (fun c => !c.copying)

/-- IDLE: tiles are dropped, an island with a slot pair keeps power with its clock stopped, every other one is gated. -/
def enterIdle (h : Hw) : Hw :=
  { h with
    power := { h.power with dev := .idle }
    sched := { h.sched with powering := none, powerNext := [], cores := h.sched.cores.mapIdx fun k x =>
      let pair := pairBytes h k != 0
      let probe := x.run.isSome
      { x with tiles := [], powered := x.powered && (pair || probe), clockOff := pair && !probe } } }

/-- IDLE_ENTRY: 1 ms without work, outside an excursion and not held by a STAY (R160, R364). -/
def execIdleEntry (s : State) : Host.Outcome State Fault Refusal :=
  quiet (fun h =>
    if h.power.dev == .active && h.cascade.exc.isNone && h.cascade.stay.isNone && h.power.entry.isNone && workless h then
      enterIdle h
    else h) s

/-! ## The account's slots and the sensors (R290, R292, R293, R389) -/

/-- One EVENT_THERMAL. -/
def thermalEvent (crossing sensor : Nat) (t : Int) (h : Hw) : Hw :=
  raiseEvent .eventThermal .none [w32 (crossing + 4 * sensor), w32 (patternOf 16 t)] h

/-- The crossings that a reading makes, in the order in which a temperature that rises or falls meets the levels (log 81). -/
def crossings (t : Int) (sensor : Nat) (h : Hw) : Hw :=
  match h.image.quotas with
  | none => h
  | some q =>
    let thr : Int := 16 * (q.tThr : Int)
    let stop : Int := 16 * (q.tStop : Int)
    let set (a b : Bool) (h : Hw) : Hw := { h with sched := { h.sched with aboveThr := a, aboveStop := b } }
    let up (h : Hw) : Hw :=
      let h := if !h.sched.aboveThr && decide (thr < t) then thermalEvent 0 sensor t (set true h.sched.aboveStop h) else h
      if !h.sched.aboveStop && decide (stop ≤ t) then thermalEvent 2 sensor t (set h.sched.aboveThr true h) else h
    let down (h : Hw) : Hw :=
      let h := if h.sched.aboveStop && decide (t ≤ stop - 32) then thermalEvent 3 sensor t (set h.sched.aboveThr false h) else h
      if h.sched.aboveThr && decide (t ≤ thr - 32) then thermalEvent 1 sensor t (set false h.sched.aboveStop h) else h
    up (down h)

/-- The pieces that run on cores. -/
def runningPieces (h : Hw) : List PieceRef :=
  h.sched.cores.filterMap fun c => match c.run with
    | some (.piece r _) => some r
    | _ => none

/-- A thermal trip: running pieces are abandoned and their tasks fail; new pieces find no core; ARRAY drains (R387, R389). -/
def tripEffect (h : Hw) : Hw :=
  let h := (runningPieces h).foldl (fun h r =>
    failTask r.graph r.task .failDomainOff .thermalTrip (modPiece r (fun _ => .done none 0) h)) h
  let stop (x : Core) : Core := { x with run := none, ws := 0, replays := 0 }
  let h := { h with sched := { h.sched with cores := h.sched.cores.map stop, powering := none, powerNext := [] } }
  setCause causeTrip (bump (fun c => { c with thermalTrips := satAdd 32 c.thermalTrips 1 })
    { h with power := { h.power with tripped := true, arrayDrain := true } })

/-- The readings of a slot, against the levels of R389. -/
def thermalGuard (t : Int) (sensor : Nat) (h : Hw) : Hw :=
  let h := bump (fun c => { c with tmaxPeak := max c.tmaxPeak t }) h
  let hot := decide (130 * 16 ≤ t)
  let n := if hot then h.sched.hotSlots + 1 else 0
  let h := { h with sched := { h.sched with hotSlots := n } }
  let h := if 2 ≤ n && !h.power.hotClock then
      raiseHealth .thermalClock sensor 8 (patternOf 32 t) 0
        (bump (fun c => { c with thermalClocks := satAdd 32 c.thermalClocks 1 })
          { h with power := { h.power with hotClock := true } })
    else h
  if decide (140 * 16 ≤ t) && !h.power.tripped then tripEffect h else h

/-- Since when Tmax has stayed below a temperature in °C. -/
def coolSince (h : Hw) (c t : Int) (was : Option Nat) : Option Nat :=
  if t < 16 * c then some (was.getD h.power.elapsed) else none

/-- ACCOUNT_SLOT: on the next multiple of 768 a slot begins and the sensors are read. -/
def accountEffect (temps : List Int) (h : Hw) : Hw :=
  if h.up then
    let h := passToTime ((h.power.time / 768 + 1) * 768) h
    let h := { h with sched := { h.sched with account := ({} :: h.sched.account).take 32, temps := temps } }
    match tMax temps with
    | some (t, s) => thermalGuard t s (crossings t s { h with sched := { h.sched with
        below125 := coolSince h 125 t h.sched.below125, below110 := coolSince h 110 t h.sched.below110 } })
    | none => h
  else h

def execAccountSlot (temps : List Int) (s : State) : Host.Outcome State Fault Refusal :=
  runSched (fun _ h => accountEffect temps h) s

/-- THERMAL_CLOCK_END: Tmax has stayed below 125 °C for 1 ms. -/
def clockEndEffect (h : Hw) : Hw :=
  match h.sched.below125 with
  | some since =>
    if h.power.hotClock then
      let h := passUntil (since + msTicks 1) h
      { h with power := { h.power with hotClock := false } }
    else h
  | none => h

def execThermalClockEnd (s : State) : Host.Outcome State Fault Refusal := runSched (fun _ h => clockEndEffect h) s

/-- THERMAL_TRIP_END: Tmax has stayed below 110 °C for 10 ms. -/
def tripEndEffect (h : Hw) : Hw :=
  match h.sched.below110 with
  | some since =>
    if h.power.tripped then
      let h := passUntil (since + msTicks 10) h
      clearCause causeTrip { h with power := { h.power with tripped := false } }
    else h
  | none => h

def execThermalTripEnd (s : State) : Host.Outcome State Fault Refusal := runSched (fun _ h => tripEndEffect h) s

/-- An uncorrectable line that the scrub found fails no task; fresh granules are skipped (R308, R329). -/
def scrubLine (h : Hw) (a : Nat) : Hw :=
  let line := a / 64 * 64
  if isFresh h line then h
  else
    setCause causeEcc (raiseHealth .eccScrub 1 2 (line % 2 ^ 32) (line / 2 ^ 32)
      (bump (fun c => { c with scrubUe := satAdd 32 c.scrubUe 1 }) (markBad [line] h)))

def execDramScrub (fixed : Nat) (badLines : List Nat) (s : State) : Host.Outcome State Fault Refusal :=
  run (fun _ h => if h.up && h.power.memOn then badLines.foldl scrubLine (corrected .dram fixed h) else h) s

/-! ## Rail changes and levels (R243 to R245, R360) -/

/-- The frames of an exchange that began with a voltage write: repeats, and after the last of them the voltage read and the
write of the M0 voltage (R245, R363). -/
def railFrames (reply : AvsReply) (r : RailChange) : List AvsFrame :=
  let first := avsRepeats (.write 0 r.mv) reply.write
  if reply.ack then first
  else first ++ avsRepeats (.read 0) reply.read ++
    (if reply.readMv.isSome then avsRepeats (.write 0 (railMillivolts r.plevel 0)) reply.m0 else [])

/-- RAIL_CHANGE_COMPLETE: 15 µs after its decision, or the write was never acknowledged. -/
def railDone (reply : AvsReply) (h : Hw) : Hw :=
  match h.power.railChange with
  | none => h
  | some r =>
    let h := passUntil (r.since + usTicks 15) h
    let h := { h with power := { h.power with
      railChange := none, railSince := h.power.elapsed, avs := railFrames reply r } }
    let h := if reply.ack then { h with power := { h.power with rail := r.level, railMv := r.mv } }
      else avsGiveUp reply r.plevel h
    -- a slower level's change ends with its own rail write (R360)
    match h.power.change with
    | some c => if c.switched && c.written then
        levelDone c { h with power := { h.power with change := none } } else h
    | none => h
where
  levelDone (c : LevelChange) (h : Hw) : Hw :=
    completeOwned c.pos .done .none [] h

def execRailChangeComplete (reply : AvsReply) (s : State) : Host.Outcome State Fault Refusal :=
  runSched (fun _ h => railDone reply h) s

end Sys2Proof.Machine
end

