-- ==== Sys2Proof/Machine/Slots.lean ====
section
/-! DEFINITION. The GRAPH, BUDGET and STREAM_CTL slots, the check of a graph, and slots of no kind (R34, R249 to R251,
R270, R282 to R289, R302, R389). -/

namespace Sys2Proof.Machine

/-! ## RESULT words -/

/-- RESULT of a GRAPH slot that is refused: LATE and CHECK_CACHED, the task or tensor at fault, START, END and LATE_US
(R302). The deadline is that of a header which was read and follows R271 (log 47). -/
def refusedGraphWords (start : Nat) (index : Option Nat) (cached : Bool) (late : Nat) (h : Hw) : List Word :=
  [w32 (b2n (late != 0) + 1024 * b2n cached), 0, w32 (match index with
    | some i => i % 65536 + 65536
    | none => 0)] ++ w64 start ++ [0, 0] ++ w64 h.power.time ++ [0, 0, 0, w32 late]

/-- An account in µJ, rounded down and limited to 16 bits (R289). -/
def accountField (e : Rat) : Nat := min 0xFFFF (e / 1000).floor.toNat

/-- RESULT of a BUDGET completion (R289). -/
def budgetWords (h : Hw) : List Word :=
  let q (c : Nat) : Nat := h.sched.quotas.getD c 0 % 65536
  let a (c : Nat) : Nat := accountField (classAccount h c)
  let exceeds (c : Nat) : Nat := b2n (decide (1000 * (q c : Rat) < classAccount h c)) * 2 ^ c
  [w32 (q 0 + 65536 * q 1), w32 (q 2 + 65536 * q 3), w32 (a 0 + 65536 * a 1), w32 (a 2 + 65536 * a 3),
   w32 (exceeds 0 + exceeds 1 + exceeds 2 + exceeds 3), w32 (accountField (deviceAccount h))]

/-- The stream that a STREAM_CTL slot names. -/
def slotStream (ws : List Word) : Nat := fld (wordAt ws 4) 0 8

/-- RESULT words that a kind gives every completion (R251, R289, R302), for a slot that R34 refuses. -/
def kindWords (f : Fetched) (h : Hw) : List Word :=
  if slotKind f.words = kGraph then refusedGraphWords h.power.time none false 0 h
  else if slotKind f.words = kBudget then budgetWords h
  else if slotKind f.words = kStreamCtl then streamWords h (slotStream f.words)
  else []

/-- SLOT_UNKNOWN_KIND: a slot that is no kind's, or breaks its kind's form, completes with REFUSED_FORMAT (R34). -/
def execSlotUnknownKind (slot : Slot) (s : State) : Host.Outcome State Fault Refusal :=
  run (withSlotOf kindWords isUnknown slot fun _ f h => complete (f.record .refusedFormat .none (kindWords f h)) h) s

/-! ## GRAPH -/

/-- A GRAPH slot starts: refused in a thermal trip, otherwise it waits for its check (R283, R389). -/
def graphSlot (m : Mems) (f : Fetched) (h : Hw) : Hw :=
  if h.power.tripped then
    complete (f.record .refusedState .thermalTrip (refusedGraphWords h.power.time none false 0 h)) h
  else
    let a := addrAt f.words 4
    let (cls, h) := rankRead m f.master a h
    let g : Graph :=
      { key := f.pos % 1024, pos := f.pos, owner := f.master, tag := f.tag, hdrAddr := a, start := h.power.time
        startEl := h.power.elapsed, rankCls := cls, arrival := h.sched.arrivals }
    { h with sched := { h.sched with arrivals := h.sched.arrivals + 1, graphs := h.sched.graphs ++ [g] } }

def execGraph (slot : Slot) (s : State) : Host.Outcome State Fault Refusal :=
  runSched (withSlotOf kindWords (isKind kGraph) slot graphSlot) s

/-- A graph that passed becomes resident, and the cache takes note of a full check and of one that it served (R282,
R283). -/
def makeResident (cores : List Nat) (p : GraphPass) (g : Graph) (h : Hw) : Hw :=
  let resident := admitGraph cores p g h
  let one (x : Graph) : Graph := if x.key = g.key then resident else x
  { h with sched := { h.sched with
      admissions := h.sched.admissions + 1
      cache := if p.cached || p.full then cacheUse g.hdrAddr p.crc h.sched.cache else h.sched.cache
      graphs := h.sched.graphs.map one } }

/-- GRAPH_CHECK: the check in progress ends, unless a read of its tables waits for the window; a cascade graph's refusal ends it as a failed one (R159, R282). -/
def graphCheckEffect (m : Mems) (fixed : Nat) (h : Hw) : Hw :=
  match h.sched.checking.bind (graphOf h) with
  | none => h
  | some g =>
    if checkWaits m h g.owner g.hdrAddr then h
    else
    let h := corrected .dram fixed h
    let cascade := decide (1024 ≤ g.key)
    let known := if cascade then (if g.key % 2 = 0 then h.cascade.t1Check else h.cascade.t2Check) else none
    let h := { h with sched := { h.sched with checking := none } }
    match checkGraph m h g.hdrAddr g.owner cascade known with
    | .ok p => makeResident (usableCores h) p g h
    | .error e =>
      let h := noteGraphFault e { h with sched := { h.sched with graphs := h.sched.graphs.filter fun x => x.key != g.key } }
      if cascade then
        if g.closed then h else { h with sched := { h.sched with ended := h.sched.ended ++ [(g.key, false)] } }
      else completeOwned g.pos e.status e.detail (refusedGraphWords g.start e.index e.cached (lateUs h { g with hdr := e.hdr }) h) h

def execGraphCheck (fixed : Nat) (s : State) : Host.Outcome State Fault Refusal :=
  runSched (fun m h => graphCheckEffect m fixed h) s

/-! ## BUDGET -/

/-- The quotas that a BUDGET slot names, in order. -/
def newQuotas (ws : List Word) : List Nat :=
  [fld (wordAt ws 5) 0 16, fld (wordAt ws 5) 16 16, fld (wordAt ws 6) 0 16, fld (wordAt ws 6) 16 16]

/-- BUDGET: the checks of R288, then the quotas at once. -/
def budgetSlot (f : Fetched) (h : Hw) : Hw :=
  let set (c : Nat) : Bool := bit (wordAt f.words 4) c
  let q (c : Nat) : Nat := (newQuotas f.words).getD c 0
  let deny (st : Status) (d : Detail) : Hw := complete (f.record st d (budgetWords h)) h
  match h.image.quotas with
  | none => deny .refusedState .quotasInvalid
  | some cfg =>
    if (List.range 4).any fun c => !set c && q c != 0 then deny .refusedFormat .none
    else if (List.range 4).any fun c => set c && decide (cfg.max.getD c 0 < q c) then deny .refusedFormat .quotaMax
    else if set 0 && decide (q 0 < cfg.c0Floor) then deny .refusedBudget .none
    else
      let h := { h with sched := { h.sched with
        quotas := (List.range 4).map fun c => if set c then q c else h.sched.quotas.getD c 0 } }
      doneWith f (budgetWords h) h

def execBudget (slot : Slot) (s : State) : Host.Outcome State Fault Refusal :=
  runSched (withSlotOf kindWords (isKind kBudget) slot fun _ f h => budgetSlot f h) s

/-! ## STREAM_CTL -/

/-- The fields of R249 as the OP asks (check 1 of R250). OWNER_EN has no rule for the other OPs (log 48). -/
def streamFieldsOk (ws : List Word) : Bool :=
  let w := wordAt ws 4
  let op := fld w 8 3
  let owner := fld w 14 4
  let home := addrAt ws 5
  let slot := fld (wordAt ws 7) 0 25
  let chunk := fld (wordAt ws 8) 0 13
  (op == 1 || !bit w 19) &&
  (if op = 0 then
    slot % 64 == 0 && decide (64 ≤ slot) && decide (slot ≤ 0x1000000) && decide (1 ≤ chunk) && decide (chunk ≤ 4096) &&
    home % 64 == 0 && decide (home + 2 * slot ≤ spaceEnd) && (!bit w 12 || decide (slot ≤ 524288)) &&
    (if bit w 18 then !([3, 4, 5, 8].contains owner) && decide (owner < 9) else owner == 0)
  else fld w 11 3 == 0 && owner == 0 && home == 0 && slot == 0 && chunk == 0 && wordAt ws 9 == 0)

/-- A chunk of a live graph waits for a generation of the stream (check 5 of R250). -/
def genWaits (h : Hw) (i : Nat) : Bool :=
  h.sched.graphs.any fun g => g.live && g.tasks.any fun x =>
    taskKind x.desc == kRecur && taskStream x.desc == i && (match x.st with
      | .pred _ => true
      | _ => false)

/-- CLOSE is not possible: the stream is queued, running or busy, or a chunk waits on a generation. -/
def closeBusy (h : Hw) (i : Nat) : Bool :=
  (match (streamOf h i).st with
   | .queued | .running | .swapOutBusy | .swapInBusy => true
   | _ => false) || genWaits h i

/-- The checks of R250, none where they pass. -/
def streamFault (f : Fetched) (h : Hw) : Option (Status × Detail) :=
  let w := wordAt f.words 4
  let op := fld w 8 3
  let s := streamOf h (slotStream f.words)
  let acts := op != 0 && op != 5
  if !streamFieldsOk f.words then some (.refusedFormat, .none)
  else if bit w 18 && f.master != HOST_S then some (.refusedAccess, .none)
  else if op = 0 ∧ s.st ≠ .free then some (.refusedState, .streamOpen)
  else if acts ∧ s.st = .free then some (.refusedState, .streamFree)
  else if acts ∧ f.master ≠ s.owner ∧ f.master ≠ HOST_S then some (.refusedAccess, .notOwner)
  else if op = 1 ∧ closeBusy h (slotStream f.words) then some (.refusedState, .streamBusy)
  else if op = 0 ∧ !granted h CORES true true (addrAt f.words 5) (2 * fld (wordAt f.words 7) 0 25) then
    some (.refusedAccess, .homeAccess)
  else none

/-- A slot that completes at once carries the entry as it then stands (R251). -/
def streamDone (f : Fetched) (h : Hw) : Hw := doneWith f (streamWords h (slotStream f.words)) h

/-- A STREAM_CTL slot: its checks, then its OP. -/
def streamSlot (act : Fetched → Nat → Hw → Hw) (f : Fetched) (h : Hw) : Hw :=
  let i := slotStream f.words
  match streamFault f h with
  | some (st, d) => complete (f.record st d (streamWords h i)) h
  | none => act f i h

/-- A STREAM_CTL command. -/
def runStream (op : Nat) (slot : Slot) (act : Fetched → Nat → Hw → Hw) (s : State) : Host.Outcome State Fault Refusal :=
  runSched (withSlotOf kindWords (isOp kStreamCtl 8 3 op) slot fun _ f h => streamSlot act f h) s

/-- OPEN: the entry is written; WHERE 0 (R248). -/
def openStream (f : Fetched) (i : Nat) (h : Hw) : Hw :=
  let w := wordAt f.words 4
  let home := addrAt f.words 5
  let s : Stream :=
    { st := if bit w 12 then .swappedOut else .idle, resetFlag := bit w 11
      owner := if bit w 18 then fld w 14 4 else f.master
      preferCs := bit w 12, bf16 := bit w 13, gen := (wordAt f.words 9).toNat, state := home, home := home
      slotBytes := fld (wordAt f.words 7) 0 25, chunkLen := fld (wordAt f.words 8) 0 13 }
  streamDone f (setStream i (fun _ => s) h)

def execStreamOpen (slot : Slot) (s : State) : Host.Outcome State Fault Refusal := runStream 0 slot openStream s

/-- CLOSE: at once, or after the committed slot is at HOME; swaps that wait at the stream have no effect any more (R248,
R251). -/
def closeStream (f : Fetched) (i : Nat) (h : Hw) : Hw :=
  let s := streamOf h i
  if bit (wordAt f.words 4) 19 && s.inCs then addRequest i (.close f.pos f.tag) h
  else
    let h := (s.reqs.filter fun r => !r.isChunk).foldl (fun h r => endRequest i r none h) h
    endHeld i (streamOf h i).reqs (streamDone f (freeEntry i h))

def execStreamClose (slot : Slot) (s : State) : Host.Outcome State Fault Refusal := runStream 1 slot closeStream s

/-- RESET: the flag; a BROKEN stream is usable again (R248). -/
def resetStream (f : Fetched) (i : Nat) (h : Hw) : Hw :=
  streamDone f (setStream i (fun s =>
    let s := { s with resetFlag := true }
    if s.st = .broken then
      let s := { s with inCs := false, core := 0, state := s.home }
      { s with st := restStatus s }
    else s) h)

def execStreamReset (slot : Slot) (s : State) : Host.Outcome State Fault Refusal := runStream 2 slot resetStream s

/-- SWAP_OUT and SWAP_IN wait at the stream for their copy, or complete at once (R248, R251). -/
def execStreamSwapOut (slot : Slot) (s : State) : Host.Outcome State Fault Refusal :=
  runStream 3 slot (fun f i h => addRequest i (.swapSlot f.pos f.tag false) h) s

def execStreamSwapIn (slot : Slot) (s : State) : Host.Outcome State Fault Refusal :=
  runStream 4 slot (fun f i h => addRequest i (.swapSlot f.pos f.tag true) h) s

/-- QUERY: the entry (R250, R251). -/
def execStreamQuery (slot : Slot) (s : State) : Host.Outcome State Fault Refusal :=
  runStream 5 slot (fun f _ h => streamDone f h) s

end Sys2Proof.Machine
end

