-- ==== Sys2Proof/Machine/Ring.lean ====
section
/-! DEFINITION. The ring: bypass, training, link loss and retrains, formation, and the node's part as a peer of others'
EXCHANGE (R331 to R348, R352, R353). -/

namespace Sys2Proof.Machine

/-! ## Bypass and training (R333 to R335, R341) -/

/-- The bypass switches are closed (R341); they are open for a ring boot, before there is an image (R355). -/
def bypassClosed (h : Hw) : Bool :=
  !h.power.ctrlOn || atT1 h || !h.board.resetN || h.power.dev == .recovery || h.ring.failed ||
    (!ringInUse h && h.ring.bootBytes.isNone)

/-- The port serves: its node's bypass is open, and in a ring boot it is the WEST one (R341, R355). -/
def portServes (h : Hw) (s : Side) : Bool := !bypassClosed h && (h.ring.bootBytes.isNone || s == .west)

/-- A port is DOWN. Its entry into DOWN counts, and raises LINK_DOWN once for each run of failures (R333, R428). A port
that was DOWN and tried again has not left DOWN (log 161). -/
def portDown (s : Side) (h : Hw) : Hw :=
  let p := portOf h s
  let h := setPort s (fun p => { wiringBad := p.wiringBad, downRaised := true }) h
  if p.fromDown then h
  else
    let h := bump (fun c => match s with
      | .east => { c with downE := satAdd 8 c.downE 1 }
      | .west => { c with downW := satAdd 8 c.downW 1 }) h
    if p.downRaised then h else raiseHealth .linkDown s.code 5 0 0 h

/-- A port goes DOWN: formation starts, in TRAINING only once both are (R344, R346). -/
def portFails (s : Side) (h : Hw) : Hw :=
  let again := (portOf h s).fromDown
  let h := portDown s h
  if again ∨ h.ring.st = .down then h
  else if h.ring.st = .training ∧ !(h.ring.east.st = .down ∧ h.ring.west.st = .down) then h
  else reform h

/-- The lanes that a training chooses of those that pass: the widest width of R332 up to a cap, the first lanes of it. -/
def chooseLanes (cap pass : Nat) : Option (Nat × Nat) :=
  let all (mask : Nat) : Bool := Nat.land pass mask == mask
  ([(8, 0xFF), (4, 0x0F), (4, 0xF0), (2, 0x03), (2, 0x0C), (2, 0x30), (2, 0xC0)] : List (Nat × Nat)).find? fun x =>
    decide (x.1 ≤ cap) && all x.2

/-- What a training with these lanes gives: the widest, or after a SLEEP the saved lanes where they pass (R333). -/
def trainedLanes (p : Port) (t : LaneTest) : Option LaneSet :=
  match p.saved with
  | some l => if Nat.land t.pass l.lanes = l.lanes then some { l with inverted := Nat.land t.inverted l.lanes } else none
  | none => (chooseLanes 8 t.pass).map fun x => { lanes := x.2, inverted := Nat.land t.inverted x.2, width := x.1 }

/-- A port that is up. -/
def linkedPort (l : LaneSet) (p : Port) : Port :=
  { st := .up, width := l.width, lanes := l.lanes, inverted := l.inverted, partner := p.partner, credit := fullCredit
    owed := [0, 0, 0, 0] }

/-- The frame that asks the WEST neighbour for its boot package (R355). -/
def bootReqFrame (h : Hw) : Frame :=
  { type := 0x40, dst := h.ring.west.node.getD 0, vc := 3 }

/-- LINK_UP: the link is up on the lanes that the training chose, at the width that the partner's IDENT named, or too narrow
and held DOWN (R332 to R334). In a ring boot the request goes out; otherwise formation starts (R344, R355). -/
def linkUpEffect (s : Side) (width : Nat) (t : LaneTest) (h : Hw) : Hw :=
  let p := portOf h s
  match trainedLanes p t with
  | some l =>
    if portServes h s && p.st == .training && !p.wiringBad && l.width == width &&
        (p.partner.map (·.width)).getD width == width then
      if width < (ringCfg h).minWidth then portFails s h
      else
        let h := setPort s (linkedPort l) h
        if h.ring.bootBytes.isSome then originate .west (bootReqFrame h) h else reform h
    else h
  | none => h

def execLinkUp (side : Side) (width : Nat) (test : LaneTest) (s : State) : Host.Outcome State Fault Refusal :=
  runSched (fun _ h => linkUpEffect side width test h) s

/-- LINK_TRAIN_TIMEOUT: training starts again, in full where it ran at saved lanes; after the third attempt the port is
DOWN (R333). -/
def trainTimeoutEffect (s : Side) (h : Hw) : Hw :=
  let p := portOf h s
  if portServes h s && p.st == .training then
    if p.saved.isSome then setPort s (fun p => { p with saved := none, partner := none }) h
    else if 3 ≤ p.attempts + 1 then portFails s h
    else setPort s (fun p => { p with attempts := p.attempts + 1, partner := none }) h
  else h

def execLinkTrainTimeout (side : Side) (s : State) : Host.Outcome State Fault Refusal :=
  runSched (fun _ h => trainTimeoutEffect side h) s

/-- LINK_RETRY: a DOWN port trains again; one whose partner does not fit is not used (R331, R333). -/
def execLinkRetry (side : Side) (s : State) : Host.Outcome State Fault Refusal :=
  run (fun _ h =>
    let p := portOf h side
    if portServes h side && p.st == .down && !p.wiringBad then setPort side trainPort h else h) s

/-- LINK_LOSS: a port that was up has lost its link and trains; formation starts (R333, R341). It is DOWN only where that
training fails. -/
def linkLossEffect (s : Side) (h : Hw) : Hw :=
  if portServes h s && (portOf h s).st == .up then reform (setPort s (fun _ => trainPort {}) h) else h

def execLinkLoss (side : Side) (s : State) : Host.Outcome State Fault Refusal :=
  runSched (fun _ h => linkLossEffect side h) s

/-- A retrain that succeeds: what the retry buffer holds is replayed, a narrower width raises LINK_WIDTH and holds
(R335). -/
def retrainDone (s : Side) (l : LaneSet) (h : Hw) : Hw :=
  let old := (portOf h s).width
  let h := bump (fun c => match s with
    | .east => { c with retrainE := satAdd 8 c.retrainE 1 }
    | .west => { c with retrainW := satAdd 8 c.retrainW 1 }) h
  let h := setPort s (fun p => { p with
    retraining := false, attempts := 0, replays := 0, crcWindow := 0
    width := l.width, lanes := l.lanes, inverted := l.inverted
    narrowed := if l.width < old then some l.width else p.narrowed }) h
  let h := { h with sent := h.sent ++ (portOf h s).retry.map fun f => (s, f) }
  let h := pumpHeld (portOf h s).held.length s h
  if l.width < old then raiseHealth .linkWidth s.code 5 l.width old h else h

/-- RETRAIN: with a width that its lanes give it succeeds; without, or narrower than MIN_WIDTH, it fails, and the third
failure in a row takes the link DOWN (R334, R335). -/
def retrainEffect (s : Side) (width : Option Nat) (t : LaneTest) (h : Hw) : Hw :=
  let p := portOf h s
  let failed (h : Hw) : Hw :=
    if 3 ≤ p.attempts + 1 then portFails s h else setPort s (fun p => { p with attempts := p.attempts + 1 }) h
  if portServes h s && p.st == .up && p.retraining then
    match width, chooseLanes (min (width.getD 8) (p.narrowed.getD 8)) t.pass with
    | some _, some (w, lanes) =>
      if w < (ringCfg h).minWidth then failed h
      else retrainDone s { lanes := lanes, inverted := Nat.land t.inverted lanes, width := w } h
    | _, _ => failed h
  else h

def execRetrain (side : Side) (width : Option Nat) (test : LaneTest) (s : State) : Host.Outcome State Fault Refusal :=
  runSched (fun _ h => retrainEffect side width test h) s

/-- PARAM of this node's IDENT: port side, width and role (log 39). -/
def identParam (h : Hw) (s : Side) (width : Nat) : Nat := s.code + 16 * width + 256 * h.board.straps.ringRole

/-- IDENT frames are exchanged: this node's goes out, and the partner's identity, width and role are kept; a partner on the
same side is not used (R331, R333). -/
def identEffect (s : Side) (node : Nat) (theirs : Side) (width role : Nat) (h : Hw) : Hw :=
  if portServes h s && (portOf h s).st == .training then
    let h := sendLink s 0x03 (identParam h s width) h
    if theirs = s then
      let h := raiseHealth .ringWiring s.code 10 0 0 (setPort s (fun _ => { wiringBad := true }) h)
      if h.ring.st = .training ∧ !(h.ring.east.st = .down ∧ h.ring.west.st = .down) then h else reform h
    else setPort s (fun p => { p with partner := some { node := node, width := width, role := role } }) h
  else h

def execIdent (side : Side) (node : Nat) (theirSide : Side) (width : Nat) (role : Nat) (s : State) :
    Host.Outcome State Fault Refusal :=
  runSched (fun _ h => identEffect side node theirSide width role h) s

/-! ## Formation (R342, R344 to R348) -/

/-- The node declares itself failed: its identity is in another node's roll call (R342). -/
def declareFailed (nonce : Nat) (h : Hw) : Hw :=
  setCause causeDupId (raiseHealth .ringDupId 0 10 nonce 0 (failNode h))

/-- A roll call is recorded with its distance and port, and goes on (R344). -/
def recordRoll (s : Side) (f : Frame) (h : Hw) : Hw :=
  let ws := bytesWords f.payload
  let r : RollRec :=
    { origin := f.src, nonce := (wordAt ws 1).toNat, strapHead := bit (wordAt ws 2) 0, hasHost := bit (wordAt ws 2) 1
      hops := f.hops, side := s }
  let others := h.ring.rolls.filter fun x => !(x.origin == r.origin && x.side == s)
  forward s f { h with ring := { h.ring with rolls := others ++ [r] } }

/-- ROLL_CALL: an older epoch is discarded, a newer one adopted; the node's own comes home, or shows that its identity is
taken twice. -/
def rollCallEffect (s : Side) (f : Frame) (h : Hw) : Hw :=
  receive s f (fun h =>
    let ws := bytesWords f.payload
    let epoch := (wordAt ws 0).toNat
    let nonce := (wordAt ws 1).toNat
    if !ringInUse h || decide (epoch < h.ring.epoch) then oweCredit s f h
    else if f.src = h.nodeId then
      let h := oweCredit s f h
      if nonce ≠ h.ring.nonce then declareFailed nonce h
      else if s = .west then { h with ring := { h.ring with returned := true } } else h
    else
      let h := if h.ring.epoch < epoch then startFormation epoch h else h
      recordRoll s f h) h

def execRollCall (side : Side) (frame : Frame) (s : State) : Host.Outcome State Fault Refusal :=
  runSched (fun _ h => rollCallEffect side frame h) s

/-- The members of the formation, this node among them. -/
def memberIds (h : Hw) : List Nat := (h.nodeId :: h.ring.rolls.map (·.origin)).eraseDups

/-- The members that meet a condition on their roll calls; this node by its straps. -/
def membersWith (h : Hw) (f : RollRec → Bool) (self : Bool) : List Nat :=
  (memberIds h).filter fun n => if n = h.nodeId then self else h.ring.rolls.any fun r => r.origin == n && f r

/-- The lowest identity of a list. -/
def lowest : List Nat → Option Nat
  | [] => none
  | n :: ns => some (ns.foldl min n)

/-- The acting head, and whether two members claim it (R345). -/
def actingHead (h : Hw) : Option Nat × Bool :=
  let heads := membersWith h (·.strapHead) h.isHead
  match heads with
  | [] => (lowest (membersWith h (·.hasHost) h.hasHost), false)
  | _ => (lowest heads, decide (2 ≤ heads.length))

/-- A port's width in RING_REFORM. -/
def widthField (p : Port) : Nat := if p.st = .up then p.width else 0

/-- RESULT of RING_REFORM (R347). -/
def reformWords (h : Hw) (state rtt : Nat) : List Word :=
  [w32 (state + 4 * h.ring.head.getD 0 + 1024 * b2n h.ring.head.isSome + 2048 * h.ring.members.length +
     2 ^ 20 * widthField h.ring.east + 2 ^ 24 * widthField h.ring.west), w32 h.ring.epoch, w32 rtt]

/-- The event's log entry carries the first two words as its parameters (log 50). -/
def raiseReform (ws : List Word) (h : Hw) : Hw :=
  { h with raised := h.raised ++
      [{ event := some { status := .eventHealth, detail := .ringReform, result := ws }
         entry := some { code := Detail.code .ringReform, cls := 10, p0 := (wordAt ws 0).toNat, p1 := (wordAt ws 1).toNat } }] }

/-- What a formed ring is held to: the budget, and the members expected (R348, R422). -/
def judgeRing (formed chain : Bool) (rtt : Nat) (h : Hw) : Hw :=
  let cfg := ringCfg h
  let n := h.ring.members.length
  let short := cfg.expectN != 0 && decide (n < cfg.expectN)
  let h := if formed && decide (cfg.rttBudget < rtt) then
      setCause causeOverBudget (raiseHealth .ringOverBudget 0 10 rtt cfg.rttBudget h)
    else if formed then clearCause causeOverBudget h else h
  let h := if short then raiseHealth .ringShort 0 10 n cfg.expectN h else h
  if chain || short then setCause causeBroken h else if formed then clearCause causeBroken h else h

/-- FORMATION_END: the ring is FORMED, a CHAIN, or the node is ALONE; the head is chosen, RING_REFORM is raised, and the
window opens where it may (R327, R345 to R348). -/
def formationEffect (rttNs : Nat) (h : Hw) : Hw :=
  if h.ring.st = .forming then
    let up := h.ring.east.st == .up || h.ring.west.st == .up
    let formed := h.ring.returned && up
    let (head, two) := if up then actingHead h else (none, false)
    let members := if up then memberIds h else [h.nodeId]
    let st : RingSt := if formed then .formed else if up then .chain else .alone
    let rtt := if formed then rttNs % 2 ^ 32 else 0
    let h := { h with ring := { h.ring with st := st, members := members, head := head, rtt := rtt } }
    let h := raiseReform (reformWords h (if formed then 0 else if up then 1 else 2) rtt) h
    let h := if two then raiseHealth .ringTwoHeads 0 10 (head.getD 0) 0 h else h
    let h := judgeRing formed (up && !formed) rtt h
    if !up || (formed && head == some h.nodeId) then
      pumpUnits 64 { h with ring := { h.ring with winOpen := true } }
    else if formed then requestCopy h
    else h
  else h

/-! ## The window's frames -/

/-- WIN_UNIT (R325). -/
def execWinUnit (side : Side) (frame : Frame) (s : State) : Host.Outcome State Fault Refusal :=
  runSched (fun _ h => winUnitEffect side frame h) s

/-- WIN_UNIT_TIMEOUT (R327). -/
def execWinUnitTimeout (s : State) : Host.Outcome State Fault Refusal := runSched (fun _ h => winTimeoutEffect h) s

/-- WIN_COPY_REQ (R327). -/
def execWinCopyReq (side : Side) (frame : Frame) (s : State) : Host.Outcome State Fault Refusal :=
  runSched (fun m h => winCopyReqEffect m side frame h) s

/-- WIN_COPY_DATA (R327). -/
def execWinCopyData (side : Side) (frame : Frame) (s : State) : Host.Outcome State Fault Refusal :=
  runSched (fun _ h => winCopyDataEffect side frame h) s

/-! ## The sender's answers (R351 to R354) -/

/-- PUT_ACK. -/
def execPutAck (side : Side) (frame : Frame) (s : State) : Host.Outcome State Fault Refusal :=
  runSched (fun _ h => putAckEffect side frame h) s

/-- GET_DATA. -/
def execGetData (side : Side) (frame : Frame) (s : State) : Host.Outcome State Fault Refusal :=
  runSched (fun _ h => getDataEffect side frame h) s

/-- EXCH_NAK. -/
def execExchNak (side : Side) (frame : Frame) (s : State) : Host.Outcome State Fault Refusal :=
  runSched (fun _ h => exchNakEffect side frame h) s

/-! ## The peer's side (R352, R353, R388) -/

/-- The 48-bit address of a frame. -/
def frameAddress (f : Frame) : Nat := f.param.toNat + 2 ^ 32 * (f.addrHi % 2 ^ 16)

/-- An answer goes back out of the port its request came in by (log 51). -/
def answer (s : Side) (f g : Frame) (h : Hw) : Hw := originate s { g with dst := f.src, tag := f.tag } h

/-- EXCH_NAK with a status and a detail. -/
def answerNak (s : Side) (f : Frame) (st : Status) (d : Detail) (h : Hw) : Hw :=
  answer s f { type := 0x35, vc := if f.vc = 2 then 2 else 3, param := w32 (st.code + 256 * d.code) } h

/-- Why ring traffic may not reach a range here: MEM is down or the save has begun; the range is no general DRAM, so not
mapped for it, or not granted; an uncorrectable error (R312, R352, R388). Host memory is MOVE's alone (R319). -/
def peerFault (h : Hw) (s : Side) (wr : Bool) (a n : Nat) : Option (Status × Detail) :=
  if !h.power.memOn || h.saving then some (.failDomainOff, .none)
  else if (match targetOf h a n with
    | some .dram | some .window => false
    | _ => true) || !granted h (sideMaster s) (!wr) wr a n then some (.refusedAccess, .remoteAccess)
  else if (if wr then devBadPartly h a n else devBad h a n) then some (.failEcc, .remoteEcc)
  else none

/-- What a refused transfer leaves in the health record. -/
def notePeerFault (s : Side) (a n : Nat) (st : Status) (h : Hw) : Hw :=
  match st with
  | .refusedAccess => countRefusal (sideMaster s) a h
  | .failEcc => uncorrected (memoryAt a) (firstBad h a n) h
  | _ => h

/-- PUT_DATA: bytes are written and the tiles they reach are invalid; the last frame of the PUT is answered with PUT_ACK.
A frame shorter than 256 bytes is the last; that a full one is, the manual does not say how the peer knows (log 49). -/
def putDataEffect (s : Side) (f : Frame) (last : Bool) (h : Hw) : Hw :=
  addressed s f (fun h =>
    let a := frameAddress f
    let n := f.payload.length
    match peerFault h s true a n with
    | some (st, d) => answerNak s f st d (notePeerFault s a n st h)
    | none =>
      let h := writeDev a f.payload h
      if last || decide (n < 256) then answer s f { type := 0x31, vc := f.vc } h else h) h

def execPutData (side : Side) (frame : Frame) (last : Bool) (s : State) : Host.Outcome State Fault Refusal :=
  runSched (fun _ h => putDataEffect side frame last h) s

/-- GET_REQ: the bytes asked go back in frames of 256. -/
def getReqEffect (m : Mems) (s : Side) (f : Frame) (h : Hw) : Hw :=
  addressed s f (fun h =>
    let a := frameAddress f
    let n := (wordAt (bytesWords f.payload) 0).toNat
    match peerFault h s false a n with
    | some (st, d) => answerNak s f st d (notePeerFault s a n st h)
    | none => (frameChunks (readDev m h a n)).foldl (fun h (p : Nat × List Byte) =>
        answer s f { type := 0x33, vc := f.vc, payload := p.2 } h) h) h

def execGetReq (side : Side) (frame : Frame) (s : State) : Host.Outcome State Fault Refusal :=
  runSched (fun m h => getReqEffect m side frame h) s

/-- DOORBELL: the answer to this node's own, or a producer index from the acting head for a hostless member whose ring is
in device DRAM (R353, log 44). -/
def doorbellFrameEffect (s : Side) (f : Frame) (h : Hw) : Hw :=
  addressed s f (fun h =>
    match (exchOf h f).filter (fun e => e.op == 2) with
    | some e => exchDone e h
    | none =>
      if !h.hasHost && h.image.system.sqInDram && h.ring.head == some f.src && h.up then
        let ok := doorbellAccepts h f.param.toNat
        let h := doorbell (sideMaster s) f.param.toNat h
        if ok then answer s f { type := 0x34, vc := 0, param := f.param } h
        else answerNak s f .refusedFormat .doorbellReject h
      else answerNak s f .refusedAccess .doorbellRemote h) h

def execDoorbellFrame (side : Side) (frame : Frame) (s : State) : Host.Outcome State Fault Refusal :=
  runSched (fun _ h => doorbellFrameEffect side frame h) s

end Sys2Proof.Machine
end

