-- ==== Sys2Proof/Machine/Power.lean ====
section
/-! DEFINITION. The POWER slots, the clock's switch, SENSE's power, the cascade pre-check, and the ends of drains (R268,
R359, R360, R369 to R371, R387, R388). -/

namespace Sys2Proof.Machine

/-! ## SENSE goes down and comes up (R69, R76, R116, R144, R150) -/

/-- SENSE powers up: channels settle, trims and Bell's stores are loaded, beats go on from device time. -/
def senseUp (h : Hw) : Hw :=
  let h := { h with drum := { h.drum with
    senseOn := true, channels := (List.range 32).map (powerUpChannel h), copyDiff := 0, timeStep := false
    validOff := false, hvLowSeen := h.board.hvLow, trimmed := 0, spareFor := none, spareSeen := none
    nextBeat := h.power.time / basePeriod h, resetEl := h.power.elapsed, copyCheck := h.power.elapsed } }
  bellLoad (reloadTrims h)

/-- SENSE powers down: channels are OFF, records and blocks not yet published are lost and counted, Bell stops. -/
def senseDown (h : Hw) : Hw :=
  { h with
    drum := { h.drum with
      senseOn := false, channels := h.drum.channels.map powerDownChannel, spareFor := none, spareSeen := none
      holding := [], dropped := satAdd 16 h.drum.dropped h.drum.holding.length }
    raw := { h.raw with chains := h.raw.chains.map discardBlocks }
    bell := { h.bell with due := none } }

/-! ## Checks of the POWER slot (R369, R370) -/

/-- OP of a POWER slot. -/
def powerOp (ws : List Word) : Nat := fld (wordAt ws 4) 0 3

/-- The fields keep to R369. -/
def powerFieldsOk (ws : List Word) : Bool :=
  let w := wordAt ws 4
  let op := powerOp ws
  (op == 1 || op == 2 || !bit w 3) && (if op = 0 then decide (fld w 4 3 ≤ 5) else fld w 4 3 == 0)

/-- Another POWER slot is in progress. -/
def powerBusy (h : Hw) : Bool := h.power.change.isSome || h.power.slot.isSome || h.power.senseDrain.isSome

/-- A STAY at T2 holds the device in ACTIVE until WAKE_N or a POWER slot (R160). -/
def releaseStay (h : Hw) : Hw := if atT1 h then h else { h with cascade := { h.cascade with stay := none } }

/-- Checks 1 and 2, then the OP's own part. -/
def powerChecked (act : Mems → Fetched → Hw → Hw) (m : Mems) (f : Fetched) (h : Hw) : Hw :=
  if !powerFieldsOk f.words then refuse f .refusedFormat .none h
  else if powerBusy h then refuse f .refusedState .powerBusy h
  else act m f (releaseStay h)

/-- A POWER command. -/
def runPower (op : Nat) (slot : Slot) (act : Mems → Fetched → Hw → Hw) (s : State) : Host.Outcome State Fault Refusal :=
  runSched (withSlot (isOp kPower 0 3 op) slot (powerChecked act)) s

/-- OUTCOME APPLIED. PLEVEL is stamped when the record is written. -/
def applied (f : Fetched) (d : Detail) (h : Hw) : Hw := complete (f.record .done d []) h

/-! ## SET_PLEVEL (R360, R370) -/

/-- SET_PLEVEL: nothing while the clock is held; at once for the level in force; otherwise a change begins. -/
def setPlevel (f : Fetched) (h : Hw) : Hw :=
  let p := fld (wordAt f.words 4) 4 3
  if h.power.clockHeld then applied f .clockHeld h
  else if p = h.power.plevel then applied f .none h
  else { h with power := { h.power with change := some { target := p, old := h.power.plevel, pos := f.pos, tag := f.tag } } }

def execPowerSetPlevel (slot : Slot) (s : State) : Host.Outcome State Fault Refusal :=
  runPower 0 slot (fun _ f h => setPlevel f h) s

/-- CLOCK_SWITCH: every island switches to the PLL at the new frequency, and the new level is in force. A faster level
needs its rail first and is then complete; a slower one waits for a rail change in progress, switches and starts its rail
write (R243). Nothing switches in a dip; a clock that R245 has come to hold ends the change (R245, R360, R385). -/
def clockSwitchEffect (h : Hw) : Hw :=
  match h.power.change with
  | none => h
  | some c =>
    let done (d : Detail) (h : Hw) : Hw :=
      completeOwned c.pos .done d [] { h with power := { h.power with change := none } }
    if h.power.clockHeld then done .clockHeld h
    else if c.switched || h.power.dip.isSome || h.power.railChange.isSome then h
    else if c.target < h.power.plevel then
      if c.written then done .none { h with power := { h.power with plevel := c.target } } else h
    else { h with power := { h.power with plevel := c.target, change := some { c with switched := true } } }

def execClockSwitch (s : State) : Host.Outcome State Fault Refusal := runSched (fun _ h => clockSwitchEffect h) s

/-! ## SENSE_OFF and SENSE_ON (R369, R370, R387) -/

/-- SENSE_OFF: a calibration run and the chains end, and SENSE drains. -/
def senseOffEffect (f : Fetched) (h : Hw) : Hw :=
  if !h.senseFitted then refuse f .refusedState .senseOff h
  else
    let h := { h with power := { h.power with senseOff := true } }
    if h.drum.senseOn then
      stopAllChains (failRawSlots (calAbort { h with power := { h.power with senseDrain := some (f.pos, f.tag) } }))
    else applied f .none h

def execPowerSenseOff (slot : Slot) (s : State) : Host.Outcome State Fault Refusal :=
  runPower 4 slot (fun _ f h => senseOffEffect f h) s

/-- SENSE_ON: SENSE is powered where it was not. -/
def senseOnEffect (f : Fetched) (h : Hw) : Hw :=
  if !h.senseFitted then refuse f .refusedState .senseOff h
  else
    let h := { h with power := { h.power with senseOff := false } }
    applied f .none (if h.drum.senseOn then h else senseUp h)

def execPowerSenseOn (slot : Slot) (s : State) : Host.Outcome State Fault Refusal :=
  runPower 5 slot (fun _ f h => senseOnEffect f h) s

/-! ## SLEEP, DEEP and OFF (R370, R371) -/

/-- A graph from a slot is resident, or a slot other than held EVENT_POSTs and this one is owned. -/
def entryBusy (h : Hw) (pos : Nat) : Bool :=
  h.sched.graphs.any (fun g => decide (g.key < 1024)) ||
    h.sq.owned.any fun o => o.pos != pos && !(h.sq.posts.any fun p => p.pos == o.pos)

/-- Check 4 of R370. -/
def entryFault (h : Hw) (target : DevState) (wakeNLow : Bool) (pos : Nat) : Option Detail :=
  let inDram := h.image.system.sqInDram
  if entryBusy h pos then some .busy
  else if wakeNLow then some .wakeNLow
  else if target = .deep ∧ inDram ∧ !inKept h h.image.system.sqBase 131072 then some .sqNotKeep
  else if target = .off ∧ inDram then some .sqNotKept
  else none

/-- A graph that passed lies in segments that DEEP keeps: header, tables and arena (R371). -/
def graphKept (h : Hw) (addr : Nat) (p : GraphPass) : Bool :=
  let (a, n) := hdrArena p.hdr
  inKept h addr 64 && inKept h (addrAt p.hdr 3) (64 * hdrTasks p.hdr) && inKept h (addrAt p.hdr 5) (64 * hdrTensors p.hdr) &&
    inKept h a n

/-- The pre-check of one tier's graph: its CRC where it passes, the detail where it fails, neither where the tier has no
graph. It fails where it would wait for the window (log 157). -/
def preCheck (m : Mems) (h : Hw) (target : DevState) (tier : Nat) : Except Detail (Option Nat) :=
  let b := bellCfg h
  let addr := if tier = 1 then b.t1Graph else b.t2Graph
  if !b.enable || !(if tier = 1 then b.t1En else b.t2En) then .ok none
  else if checkWaits m h SCHED addr then .error .cascadeCheck
  else match checkGraph m h addr SCHED true none with
    | .error _ => .error .cascadeCheck
    | .ok p => if target = .deep ∧ !graphKept h addr p then .error .cascadeNotKept else .ok (some p.crc)

/-- The CRC that a pre-check enters in the cascade check record. -/
def preCrc : Except Detail (Option Nat) → Option Nat
  | .ok c => c
  | .error _ => none

/-- DETAIL of the slot: that of the first graph that failed (R373). -/
def preDetail : Except Detail (Option Nat) → Except Detail (Option Nat) → Detail
  | .error d, _ => d
  | _, .error d => d
  | _, _ => .none

/-- An entry begins: its checks, the pre-check, then step 2 (R371). -/
def enterEffect (target : DevState) (op : Nat) (wakeNLow : Bool) (m : Mems) (f : Fetched) (h : Hw) : Hw :=
  match entryFault h target wakeNLow f.pos with
  | some d => refuse f .refusedState d h
  | none =>
    let keep := bit (wordAt f.words 4) 3
    let c1 := preCheck m h target 1
    let c2 := preCheck m h target 2
    let slot : PowerSlot :=
      { pos := f.pos, tag := f.tag, op := op, target := target, keepSense := keep, t1Ok := (preCrc c1).isSome
        t2Ok := (preCrc c2).isSome, detail := preDetail c1 c2 }
    beginEntry { target := target, keepSense := keep }
      { h with
        power := { h.power with slot := some slot }
        cascade := { h.cascade with t1Check := preCrc c1, t2Check := preCrc c2 } }

def execPowerSleep (slot : Slot) (wakeNLow : Bool) (s : State) : Host.Outcome State Fault Refusal :=
  runPower 1 slot (enterEffect .sleep 1 wakeNLow) s

def execPowerDeep (slot : Slot) (wakeNLow : Bool) (s : State) : Host.Outcome State Fault Refusal :=
  runPower 2 slot (enterEffect .deep 2 wakeNLow) s

def execPowerOff (slot : Slot) (wakeNLow : Bool) (s : State) : Host.Outcome State Fault Refusal :=
  runPower 3 slot (enterEffect .off 3 wakeNLow) s

/-! ## The save begins (R371) -/

/-- Steps 2 to 4 are over: no state in core store and no copy, no calibration run, no graph. -/
def saveReady (h : Hw) : Bool :=
  h.cal.run.isNone && h.sched.graphs.isEmpty && h.streams.all fun s =>
    s.st == .free || (!s.inCs && s.st != .swapOutBusy && s.st != .swapInBusy)

/-- SAVE_BEGINS: the last raw blocks are published, records and events have been written, the PCIe link goes down and the
save begins. -/
def saveBeginsEffect (h : Hw) : Hw :=
  match h.power.entry with
  | some e =>
    if !e.saving && saveReady h then
      let h := finish (shipAll h)
      let slot := h.power.slot.map fun p => if p.saveTime = 0 then { p with saveTime := h.power.time } else p
      { h with
        sq := { h.sq with linkUp := false, cfgKept := some h.sq.cfg }
        sched := { h.sched with cache := [] }
        power := { h.power with entry := some { e with saving := true }, slot := slot } }
    else h
  | none => h

def execSaveBegins (s : State) : Host.Outcome State Fault Refusal := run (fun _ h => saveBeginsEffect h) s

/-! ## DOMAIN_DRAIN_END (R387 to R389) -/

/-- A stream whose state or copy was in the array is lost: BROKEN; a swap-in that was running fails. -/
def arrayDownStream (i : Nat) (h : Hw) : Hw :=
  let s := streamOf h i
  if s.st = .free ∨ !(s.inCs || s.st == .swapInBusy) then h
  else
    let req := s.copyFor
    let broken (s : Stream) : Stream :=
      { s with st := if s.inCs then .broken else .swappedOut, inCs := false, core := 0, state := s.home, copyFor := none
               dest := none, reqs := match req with
                 | some r => s.reqs.erase r
                 | none => s.reqs }
    let h := setStream i broken h
    match req with
    | some r => endRequest i r (some (.failDomainOff, .none)) h
    | none => h

/-- ARRAY goes down: dirty tiles have gone to DRAM within the drain, state in core store is lost. -/
def arrayDown (h : Hw) : Hw :=
  let h := (List.range h.streams.length).foldl (fun h i => arrayDownStream i h) h
  let off (c : Core) : Core := { c with powered := false, clockOff := false, run := none, tiles := [], ws := 0, copying := false }
  { h with
    sched := { h.sched with cores := h.sched.cores.map off, powering := none, powerNext := [] }
    power := { h.power with arrayDrain := false } }

/-- The drain ends and the domain goes down: in a save CTRL and MEM with the ring (steps 5 and 6 of R371), SENSE at
SENSE_OFF, ARRAY at a thermal trip. -/
def drainEffect (h : Hw) : Hw :=
  match h.power.entry, h.power.senseDrain with
  | some e, sense =>
    if e.saving && !e.drained then
      ringDown (if e.target = .sleep then keepLanes { h with power := { h.power with entry := some { e with drained := true } } }
        else { h with power := { h.power with entry := some { e with drained := true } } })
    else others sense h
  | none, sense => others sense h
where
  others (sense : Option (Nat × Word)) (h : Hw) : Hw :=
    match sense with
    | some (pos, _) => completeOwned pos .done .none [] (senseDown { h with power := { h.power with senseDrain := none } })
    | none => if h.power.arrayDrain then arrayDown h else h

def execDomainDrainEnd (s : State) : Host.Outcome State Fault Refusal := runSched (fun _ h => drainEffect h) s

end Sys2Proof.Machine
end

