-- ==== Sys2Proof/Machine/Package.lean ====
section
/-! DEFINITION. Packages, boot records, trim blocks and the resumable swap, and what every update slot and frame is held to
(R390 to R394, R396 to R399, R411). -/

namespace Sys2Proof.Machine

/-! ## Boot records (R394) -/

/-- The states of a boot record, in the order of their codes. -/
inductive BootSt where
  | confirmed | staged | pending | swapping | trial | revertPending | reverting | recoveryPending
  deriving DecidableEq, Repr, Inhabited

/-- STATE. -/
def BootSt.code : BootSt → Nat
  | .confirmed => 0
  | .staged => 1
  | .pending => 2
  | .swapping => 3
  | .trial => 4
  | .revertPending => 5
  | .reverting => 6
  | .recoveryPending => 7

/-- The state of a code below 8. -/
def bootStOf (n : Nat) : BootSt :=
  [BootSt.confirmed, .staged, .pending, .swapping, .trial, .revertPending, .reverting, .recoveryPending].getD n .confirmed

/-- A hash of 12 zero words. -/
def noHash : List Word := List.replicate 12 0

/-- A boot record. -/
structure BootRec where
  seq : Nat := 0
  state : BootSt := .confirmed
  unconf : Nat := 0
  actOpen : Bool := false
  targeted : Bool := false
  agreed : Bool := false
  setUnreadable : Bool := false
  stagingOld : Bool := false
  setKeepEn : Bool := false
  setKeep : Bool := false
  activeHash : List Word := noHash
  stagingHash : List Word := noHash
  actHash : List Word := noHash
  activeBytes : Nat := 0
  stagingBytes : Nat := 0
  deriving DecidableEq, Repr, Inhabited

/-- A record's first 188 bytes, its CRC apart. -/
def recordBody (r : BootRec) : List Byte :=
  wordsBytes ([w32 0x5A39B007, 1, w32 r.seq,
    w32 (r.state.code + 16 * (r.unconf % 4) + 64 * b2n r.actOpen + 128 * b2n r.targeted + 256 * b2n r.agreed +
      512 * b2n r.setUnreadable + 1024 * b2n r.stagingOld + 2048 * b2n r.setKeepEn + 4096 * b2n r.setKeep)] ++
    fitTo 12 0 r.activeHash ++ fitTo 12 0 r.stagingHash ++ fitTo 12 0 r.actHash ++
    [w32 r.activeBytes, w32 r.stagingBytes, 0, 0, 0, 0, 0])

/-- The 192 bytes of a record. -/
def recordBytes (r : BootRec) : List Byte := recordBody r ++ wordsBytes [w32 (crc32 (recordBody r))]

/-- An intact record: MAGIC, FORMAT, CRC, and a STATE below 8. -/
def recordIntact (bs : List Byte) : Bool :=
  let ws := bytesWords bs
  wordAt ws 0 == w32 0x5A39B007 && fld (wordAt ws 1) 0 16 == 1 && decide (fld (wordAt ws 3) 0 4 < 8) &&
    (wordAt ws 47).toNat == crc32 (bs.take 188)

/-- The record that bytes hold. -/
def readRecord (bs : List Byte) : BootRec :=
  let ws := bytesWords bs
  let w := wordAt ws 3
  { seq := (wordAt ws 2).toNat, state := bootStOf (fld w 0 4), unconf := fld w 4 2, actOpen := bit w 6, targeted := bit w 7
    agreed := bit w 8, setUnreadable := bit w 9, stagingOld := bit w 10, setKeepEn := bit w 11, setKeep := bit w 12
    activeHash := (ws.drop 4).take 12, stagingHash := (ws.drop 16).take 12, actHash := (ws.drop 28).take 12
    activeBytes := (wordAt ws 40).toNat, stagingBytes := (wordAt ws 41).toNat }

/-- The ruling record, and whether it lies in BOOT_B; none where neither is intact. -/
def rulingRecord (m : Mems) (h : Hw) : Option (BootRec × Bool) :=
  let a := flashRead m h bootABase 192
  let b := flashRead m h bootBBase 192
  let (x, y) := (readRecord a, readRecord b)
  match recordIntact a, recordIntact b with
  | true, true => some (if laterSeq y.seq x.seq then (y, true) else (x, false))
  | true, false => some (x, false)
  | false, true => some (y, true)
  | false, false => none

/-! ## Packages (R390, R391) -/

/-- One part of a package. -/
structure Part where
  type : Nat
  node : Nat
  anyNode : Bool
  off : Nat
  len : Nat
  hash : List Word
  deriving DecidableEq, Repr

/-- NPARTS of a manifest. -/
def partCount (ws : List Word) : Nat := fld (wordAt ws 3) 0 7

/-- MLEN. -/
def manifestLen (ws : List Word) : Nat := 64 + 64 * partCount ws + 192

/-- PKG_BYTES. -/
def packageLen (ws : List Word) : Nat := (wordAt ws 2).toNat

/-- The largest package. -/
def packageMax : Nat := 0x017FF000

/-- The parts that a manifest lists. -/
def partsOf (ws : List Word) : List Part :=
  (List.range (partCount ws)).map fun p =>
    let w := wordAt ws (16 + 16 * p)
    { type := fld w 0 8, node := fld w 8 8, anyNode := bit w 16, off := (wordAt ws (17 + 16 * p)).toNat
      len := (wordAt ws (18 + 16 * p)).toNat, hash := (ws.drop (20 + 16 * p)).take 12 }

/-- The words of the manifest in a slot of the flash; its header first says how long it is. -/
def manifestAt (m : Mems) (h : Hw) (base : Nat) : List Word :=
  flashWords m h base (manifestLen (flashWords m h base 16) / 4)

/-- The manifest hash (R390). -/
def manifestHash (ws : List Word) : List Word := bytesWords (sha384 ((wordsBytes ws).take (manifestLen ws)))

/-- TARGET names a node. -/
def targetNames (ws : List Word) (n : Nat) : Bool := bit (wordAt ws (8 + n / 32)) (n % 32)

/-- TARGET as a mask over node identities. -/
def targetMask (ws : List Word) : Nat := leNat (wordsBytes (((ws.drop 8).take 8)))

/-- The part of a type that serves a node: its own before one for any node (R391). -/
def servingPart (parts : List Part) (type node : Nat) : Option Part :=
  (parts.find? fun p => p.type == type && !p.anyNode && p.node == node).orElse fun _ =>
    parts.find? fun p => p.type == type && p.anyNode

/-! ## The checks of a package (R392) -/

/-- A BELL_MODEL part lies wholly inside the image part that it accompanies. -/
def accompanies (b i : Part) : Bool :=
  b.type == 6 && i.type == 4 && b.node == i.node && b.anyNode == i.anyNode && decide (i.off ≤ b.off) &&
    decide (b.off + b.len ≤ i.off + i.len)

/-- No two parts overlap, but a BELL_MODEL with its image. -/
def partsApart : List Part → Bool
  | [] => true
  | p :: ps => ps.all (fun q => !overlaps (p.off, p.len) (q.off, q.len) || accompanies p q || accompanies q p) && partsApart ps

/-- The range of the model blob of an image part whose BELL section has ENABLE set, in the package. -/
def bellRange (pkg : List Byte) (i : Part) : Option (Nat × Nat) :=
  let img := (pkg.drop i.off).take i.len
  match (directory (bytesWords (img.take 288))).find? (fun e => e.type == 5) with
  | some e => if bit (wordAt (bytesWords ((img.drop e.off).take 4)) 0) 0 then some (i.off + e.off + 128, e.len - 128) else none
  | none => none

/-- Part types and their counts (R391). -/
def partCountsOk (pkg : List Byte) (ws : List Word) (parts : List Part) : Bool :=
  let of (t : Nat) : List Part := parts.filter fun p => p.type == t
  let images := of 4
  let served (n : Nat) : Bool :=
    let own := images.filter fun p => !p.anyNode && p.node == n
    own.length == 1 || (own.isEmpty && (images.filter (·.anyNode)).length == 1)
  let bells := images.filter fun i => (bellRange pkg i).isSome
  [1, 2, 3].all (fun t => (of t).length == 1 && (of t).all (·.anyNode)) && !images.isEmpty &&
  (List.range 256).all (fun n => !targetNames ws n || served n) && (of 5).all (fun p => p.len == 1188) &&
  (of 6).length == bells.length &&
  bells.all (fun i => ((of 6).filter fun b => accompanies b i && bellRange pkg i == some (b.off, b.len)).length == 1) &&
  parts.all fun p => decide (1 ≤ p.type) && decide (p.type ≤ 6)

/-- The manifest's own fields and the places of its parts. -/
def manifestOk (ws : List Word) : Bool :=
  let n := partCount ws
  let len := packageLen ws
  wordAt ws 0 == w32 0x5A394D46 && fld (wordAt ws 1) 0 16 == 1 && len % 64 == 0 && decide (1 ≤ len) &&
  decide (len ≤ packageMax) && decide (4 ≤ n) && decide (n ≤ 64) &&
  fieldsZero ws [(1, 16, 16), (3, 7, 25), (4, 1, 31)] && fld (wordAt ws 5) 0 16 != 0 &&
  ((ws.drop 8).take 8).any (· != 0) &&
  (List.range n).all (fun p => fieldsZero ws [(16 + 16 * p, 17, 15), (19 + 16 * p, 0, 32)]) &&
  (partsOf ws).all fun p => p.off % 64 == 0 && p.len != 0 && decide (manifestLen ws ≤ p.off) && decide (p.off + p.len ≤ len)

/-- The checks of a package in a slot, in their order: none where it passes, otherwise the failing detail. -/
def packageFault (m : Mems) (h : Hw) (base : Nat) : Option Detail :=
  let ws := manifestAt m h base
  if !manifestOk ws then some .manifest
  else
    let pkg := flashRead m h base (packageLen ws)
    let parts := partsOf ws
    let mb := wordsBytes ws
    let n := manifestLen ws
    let key := (mb.drop (n - 192)).take 96
    let bytes (p : Part) : List Byte := (pkg.drop p.off).take p.len
    if !partsApart parts || !partCountsOk pkg ws parts then some .manifest
    else if sha384 key != h.board.keyHash || !ecdsaOk key ((mb.drop (n - 96)).take 96) (sha384 (mb.take (n - 192))) then
      some .signature
    else if parts.any fun p => bytesWords (sha384 (bytes p)) != p.hash then some .partHash
    else if parts.any fun p => p.type == 4 && (checkedImage h true (bytes p)).isNone then some .image
    else none

/-- The image of a slot that serves this node and passes R22. -/
def slotImage (m : Mems) (h : Hw) (base : Nat) : Option (List Byte) :=
  let ws := manifestAt m h base
  if wordAt ws 0 = w32 0x5A394D46 then
    (servingPart (partsOf ws) 4 h.nodeId).bind fun p => checkedImage h false (flashRead m h (base + p.off) p.len)
  else none

/-- The record in force: the ruling one, or CONFIRMED with ACTIVE as it is found (R394). -/
def bootRec (m : Mems) (h : Hw) : BootRec :=
  match rulingRecord m h with
  | some (r, _) => r
  | none =>
    let ws := manifestAt m h activeBase
    if manifestOk ws then { activeHash := manifestHash ws, activeBytes := packageLen ws } else {}

/-! ## Writing records, and EVENT_UPDATE (R394, R411) -/

/-- EVENT_UPDATE of this node. -/
def raiseUpdate (d : Detail) (r : BootRec) (h : Hw) : Hw :=
  raiseEvent .eventUpdate d
    ([w32 (r.state.code + 16 * (r.unconf % 4) + 64 * h.nodeId)] ++ fitTo 12 0 r.activeHash ++
      fitTo 12 0 (if r.actOpen then r.actHash else noHash)) h

/-- A boot record is written to the sector that does not hold the ruling one, with the next SEQ. Where the read-back fails
twice the previous record keeps ruling; the sector's bytes are free but for a MAGIC that is not there (log 55). -/
def writeRec (ok : Bool) (m : Mems) (r : BootRec) (h : Hw) : Hw :=
  let (seq, a) := match rulingRecord m h with
    | some (x, inB) => ((x.seq + 1) % 2 ^ 32, if inB then bootABase else bootBBase)
    | none => (0, bootABase)
  let r := { r with seq := seq }
  let h := flashErase a 4096 h
  if ok then flashProgram a (recordBytes r) h
  else
    let (bs, h) := freeBytes 188 h
    raiseUpdate .bootRecordFail (bootRec m h) (flashProgram (a + 4) bs h)

/-! ## Trim blocks (R393) -/

/-- The trim block of a package staged for this node: its DEFAULT_TRIM part, or ACTIVE's block; in a recovery only an
intact one is copied (R410). -/
def stageTrims (intactOnly : Bool) (m : Mems) (h : Hw) : Hw :=
  let part := servingPart (partsOf (manifestAt m h stagingBase)) 5 h.nodeId
  let old := flashRead m h (activeBase + trimOffset) 4096
  let h := flashErase (stagingBase + trimOffset) 4096 h
  match part with
  | some p =>
    let t := flashRead m h (stagingBase + p.off) (min p.len 1188)
    flashProgram (stagingBase + trimOffset) (t ++ wordsBytes [w32 (crc32 t)]) h
  | none =>
    let good := leNat ((old.drop 1188).take 4) == crc32 (old.take 1188)
    if intactOnly && !good then h else flashProgram (stagingBase + trimOffset) old h

/-! ## The swap (R397, R398) -/

/-- n of R397. -/
def swapCount (r : BootRec) : Nat := (max r.activeBytes r.stagingBytes + 65535) / 65536

/-- Offset and size of a unit in its slot, the trim block being the last. -/
def swapUnit (nunits u : Nat) : Nat × Nat := if u + 1 < nunits then (65536 * u, 65536) else (trimOffset, 4096)

/-- Three words and their CRC: an entry of the swap log. -/
def logEntry (ws : List Word) : List Byte := wordsBytes (ws ++ [w32 (crc32 (wordsBytes ws))])

/-- The swap log's header. -/
def swapHeader (kind nunits : Nat) (tag : Word) : List Byte := logEntry [w32 0x5A395A9C, w32 (kind + 65536 * nunits), tag]

/-- The first wholly erased position of the log, in entries. -/
def swapPosition (m : Mems) (h : Hw) : Nat :=
  ((List.range 4096).find? fun i => (flashRead m h (swapLogBase + 16 * i) 16).all (· == 0xFF)).getD 4096

/-- Source, target and size of the step with an ORD. -/
def stepRanges (nunits ord : Nat) : Nat × Nat × Nat :=
  let (off, n) := swapUnit nunits (ord / 3)
  match ord % 3 with
  | 0 => (activeBase + off, scratchBase, n)
  | 1 => (stagingBase + off, activeBase + off, n)
  | _ => (scratchBase, stagingBase + off, n)

/-- The copy of a step; SWAP_SCRATCH is erased whole. -/
def swapCopy (m : Mems) (nunits ord : Nat) (h : Hw) : Hw :=
  let (src, dst, n) := stepRanges nunits ord
  let h := if ord % 3 = 0 then flashErase scratchBase 65536 h else h
  flashProgram dst (flashRead m h src n) h

/-- The log entry of a step. -/
def stepEntry (ord : Nat) : List Byte := logEntry [w32 (ord / 3 + 65536 * (ord % 3 + 1)), w32 ord, 0]

/-- Bytes of a step's entry go to the first erased position. -/
def logStep (m : Mems) (entry : List Byte) (h : Hw) : Hw := flashProgram (swapLogBase + 16 * swapPosition m h) entry h

/-- One step of a unit, and its entry once it has been verified. -/
def swapStep (m : Mems) (nunits : Nat) (h : Hw) (ord : Nat) : Hw := logStep m (stepEntry ord) (swapCopy m nunits ord h)

/-- How the part of a swap that one boot runs ends. -/
inductive SwapEnd where
  | done
  /-- A read-back failed twice: RECOVERY with SWAP_FAIL. -/
  | failed
  /-- The supplies failed: R407. -/
  | dark
  deriving DecidableEq, Repr

/-- The step at which a swap stops: its target holds free bytes where it was cut short or did not read back; an entry cut
short keeps the bytes before its CRC at most. -/
def stopStep (m : Mems) (nunits ord : Nat) (why : SwapCause) (h : Hw) : Hw × SwapEnd :=
  match why with
  | .cutEntry n => (logStep m ((stepEntry ord).take (min n 12)) (swapCopy m nunits ord h), .dark)
  | _ =>
    let (_, dst, n) := stepRanges nunits ord
    let (bs, h) := freeBytes n h
    (flashProgram dst bs h, if why = .readBack then .failed else .dark)

/-- The steps from ORD `next` on, as far as the swap comes. -/
def runSwap (stop : Option SwapStop) (m : Mems) (nunits next : Nat) (h : Hw) : Hw × SwapEnd :=
  let steps := (List.range (3 * nunits)).drop next
  match stop with
  | none => (steps.foldl (swapStep m nunits) h, .done)
  | some x =>
    let h := (steps.take x.steps).foldl (swapStep m nunits) h
    match steps[x.steps]? with
    | some ord => stopStep m nunits ord x.why h
    | none => (h, .done)

/-- A valid header of the log: KIND, NUNITS and ACT_TAG. -/
def readHeader (m : Mems) (h : Hw) : Option (Nat × Nat × Word) :=
  let ws := flashWords m h swapLogBase 4
  let kind := fld (wordAt ws 1) 0 2
  if wordAt ws 0 = w32 0x5A395A9C ∧ kind ≠ 0 ∧ (wordAt ws 3).toNat = crc32 (wordsBytes (ws.take 3)) then
    some (kind, fld (wordAt ws 1) 16 16, wordAt ws 2)
  else none

/-- The ORD at which a swap resumes: one after the highest of the entries whose CRC and ORD agree. -/
def resumeAt (m : Mems) (h : Hw) : Nat :=
  ((List.range 4095).map fun i =>
    let ws := flashWords m h (swapLogBase + 16 * (i + 1)) 4
    let u := fld (wordAt ws 0) 0 16
    let step := fld (wordAt ws 0) 16 2
    let ord := (wordAt ws 1).toNat
    if step ≠ 0 ∧ ord = 3 * u + step - 1 ∧ (wordAt ws 3).toNat = crc32 (wordsBytes (ws.take 3)) then ord + 1
    else 0).foldl max 0

/-- The record after a swap: the packages have changed places. -/
def exchanged (r : BootRec) : BootRec :=
  { r with activeHash := r.stagingHash, stagingHash := r.activeHash, activeBytes := r.stagingBytes
           stagingBytes := r.activeBytes, setUnreadable := false }

/-- The record that a completed swap leaves, by KIND (R396). -/
def swapDone (ok : Bool) (m : Mems) (kind : Nat) (h : Hw) : Hw :=
  let r := exchanged (bootRec m h)
  if kind = 1 then writeRec ok m { r with state := .trial, unconf := 1, stagingOld := true } h
  else if kind = 2 then
    let r := { r with state := .confirmed, stagingOld := false }
    raiseUpdate .reverted r (writeRec ok m r h)
  else writeRec ok m { r with state := .confirmed, stagingOld := true } h

/-- The steps from an ORD on, and the record of a swap that is complete. -/
def finishSwap (ok : Bool) (stop : Option SwapStop) (m : Mems) (kind nunits next : Nat) (h : Hw) : Hw × SwapEnd :=
  let (h, e) := runSwap stop m nunits next h
  (if e = .done then swapDone ok m kind h else h, e)

/-- A swap begins: the log is erased, its header written, the record turns to SWAPPING or REVERTING, and the steps run.
Where the supplies fail before the record turns, the log holds free bytes without a MAGIC. -/
def beginSwap (ok : Bool) (stop : Option SwapStop) (m : Mems) (kind : Nat) (r : BootRec) (h : Hw) : Hw × SwapEnd :=
  let nunits := swapCount r + 1
  let h := flashErase swapLogBase 65536 h
  if stop.map (·.why) = some .cutHeader then
    let (bs, h) := freeBytes 12 h
    (flashProgram (swapLogBase + 4) bs h, .dark)
  else
    let h := flashProgram swapLogBase (swapHeader kind nunits (wordAt r.stagingHash 0)) h
    finishSwap ok stop m kind nunits 0 (writeRec ok m { r with state := if kind = 2 then .reverting else .swapping } h)

/-- A swap resumes at a boot in SWAPPING or REVERTING. -/
def resumeSwap (ok : Bool) (stop : Option SwapStop) (m : Mems) (r : BootRec) (h : Hw) : Hw × SwapEnd :=
  match readHeader m h with
  | some (kind, nunits, tag) =>
    if tag = wordAt r.stagingHash 0 then finishSwap ok stop m kind nunits (resumeAt m h) h else (h, .failed)
  | none => (h, .failed)

/-! ## Vehicle inputs and the head (R399) -/

/-- Checks 2 to 4 of R399. -/
def inputFault (h : Hw) (vbatMin : Nat) : Option Detail :=
  if h.board.motion then some .motion
  else if h.board.updLock then some .updLock
  else if vbatBelow h vbatMin then some .vbatLow
  else none

/-- Standalone or ALONE: the node is its own ring. -/
def soleNode (h : Hw) : Bool := h.standalone || h.ring.st == .alone

/-- Check 1: the acting head of a FORMED ring, or a node by itself. -/
def mayUpdate (h : Hw) : Bool := soleNode h || (h.ring.st == .formed && h.ring.head == some h.nodeId)

/-- The checks of R399, `all` of them or the first alone. -/
def updateFault (all : Bool) (h : Hw) : Option Detail :=
  if !mayUpdate h then some .notHead else if all then inputFault h h.image.system.vbatMin else none

end Sys2Proof.Machine
end

