-- ==== Sys2Proof/Machine/Settings.lean ====
section
/-! DEFINITION. The settings area, the adapted Bell model it stores, and BELL_COMMIT (R169, R170, R405, R406). -/

namespace Sys2Proof.Machine

/-! ## Settings records (R405) -/

/-- One entry of a settings record. -/
structure SetEntry where
  type : Nat
  tag  : Word
  data : List Byte
  deriving DecidableEq, Repr

/-- An intact settings record. -/
structure SetRec where
  format : Nat
  seq    : Nat
  entries : List SetEntry
  deriving DecidableEq, Repr

/-- A number of bytes with its padding to whole words. -/
def padded (n : Nat) : Nat := (n + 3) / 4 * 4

/-- The entries that bytes hold, one after the other. -/
def readEntries : Nat → List Byte → List SetEntry
  | 0, _ => []
  | n + 1, bs =>
    let ws := bytesWords (bs.take 16)
    let len := (wordAt ws 1).toNat
    { type := fld (wordAt ws 0) 0 8, tag := wordAt ws 2, data := (bs.drop 16).take len } ::
      readEntries n (bs.drop (16 + padded len))

/-- The bytes of an entry. -/
def entryBytes (e : SetEntry) : List Byte :=
  wordsBytes [w32 e.type, w32 e.data.length, e.tag, 0] ++ e.data ++ List.replicate (padded e.data.length - e.data.length) 0

/-- The bytes of a record. -/
def settingsBytes (writer : List Word) (r : SetRec) : List Byte :=
  let entries := r.entries.flatMap entryBytes
  let head : List Word := [w32 0x5A395E77, w32 r.format, w32 r.seq, w32 (132 + entries.length)] ++ fitTo 12 0 writer ++
    [w32 r.entries.length] ++ List.replicate 15 0
  let body := wordsBytes head ++ entries
  body ++ wordsBytes [w32 (crc32 body)]

/-- The start of an area; true names SETTINGS_B. -/
def settingsBase (inB : Bool) : Nat := if inB then settingsBBase else settingsABase

/-- The record in an area, where it is intact. -/
def settingsAt (m : Mems) (h : Hw) (inB : Bool) : Option SetRec :=
  let ws := flashWords m h (settingsBase inB) 32
  let len := (wordAt ws 3).toNat
  let format := fld (wordAt ws 1) 0 16
  if wordAt ws 0 = w32 0x5A395E77 ∧ format ≠ 0 ∧ len % 4 = 0 ∧ 128 ≤ len ∧ len ≤ settingsSize then
    let bs := flashRead m h (settingsBase inB) len
    if leNat (bs.drop (len - 4)) = crc32 (bs.take (len - 4)) then
      some { format := format, seq := (wordAt ws 2).toNat
             entries := readEntries (fld (wordAt ws 16) 0 8) ((bs.take (len - 4)).drop 128) }
    else none
  else none

/-- The newest intact record whose FORMAT meets a condition, and whether it lies in SETTINGS_B. -/
def newestSettings (m : Mems) (h : Hw) (p : Nat → Bool) : Option (SetRec × Bool) :=
  match (settingsAt m h false).filter (fun r => p r.format), (settingsAt m h true).filter (fun r => p r.format) with
  | some a, some b => some (if laterSeq b.seq a.seq then (b, true) else (a, false))
  | some a, none => some (a, false)
  | none, some b => some (b, true)
  | none, none => none

/-- SET_FMT and SET_MIGRATE_MIN of ACTIVE's manifest. -/
def setFormats (m : Mems) (h : Hw) : Nat × Nat :=
  let w := wordAt (manifestAt m h activeBase) 5
  (fld w 0 16, fld w 16 16)

/-- The record of the firmware in ACTIVE. -/
def ownSettings (m : Mems) (h : Hw) : Option (SetRec × Bool) :=
  let fmt := (setFormats m h).1
  newestSettings m h fun f => f == fmt

/-- A record is erased, programmed and compared. What an area whose comparison failed twice holds is free, but not intact
(log 55). -/
def writeSettings (ok : Bool) (m : Mems) (inB : Bool) (r : SetRec) (h : Hw) : Hw :=
  let bs := settingsBytes (bootRec m h).activeHash r
  let h := flashErase (settingsBase inB) settingsSize h
  if ok then flashProgram (settingsBase inB) bs h
  else
    let (free, h) := freeBytes (bs.length - 4) h
    flashProgram (settingsBase inB + 4) free h

/-! ## Selection at a boot (R406) -/

/-- The settings that the firmware in ACTIVE uses, its migration, and what the boot record keeps of it. A migrated record
keeps its entries, under the next SEQ (log 56). -/
def selectSettings (ok : Bool) (m : Mems) (h : Hw) : List SetEntry × Hw :=
  let (fmt, least) := setFormats m h
  let r := bootRec m h
  let keep (inB : Bool) (r : BootRec) : BootRec :=
    { r with setKeep := inB, setKeepEn := r.setKeepEn || r.state == .trial }
  let save (r' : BootRec) (h : Hw) : Hw := if r' = r then h else writeRec ok m r' h
  match ownSettings m h with
  | some (x, _) => (x.entries, h)
  | none =>
    match newestSettings m h (fun f => least != 0 && decide (least ≤ f) && decide (f < fmt)) with
    | some (x, inB) =>
      let h := writeSettings ok m (!inB) { x with format := fmt, seq := (x.seq + 1) % 2 ^ 32 } h
      (x.entries, save (keep inB r) h)
    | none =>
      match newestSettings m h (fun _ => true) with
      | some (_, inB) =>
        let r' := keep inB { r with setUnreadable := true }
        ([], save r' (raiseUpdate .settingsUnreadable r' h))
      | none => ([], h)

/-! ## The adapted Bell model (R169, R170) -/

/-- The tag of the image's model. -/
def modelTag (h : Hw) : Word := wordAt (bytesWords ((sha384 (bellCfg h).blob).take 4)) 0

/-- The stored adapted model, where the image lets Bell use it. -/
def adaptedModel (h : Hw) (es : List SetEntry) : Option (List Byte) :=
  if (bellCfg h).allowAdapt then
    (es.find? fun e => e.type == 1 && e.tag == modelTag h).map (·.data)
  else none

/-- A boot's model: the stored adaptation, or the image's (R170). -/
def chooseModel (es : List SetEntry) (h : Hw) : Hw :=
  { h with bell := { h.bell with blob := (adaptedModel h es).getD (bellCfg h).blob, next := none } }

/-- The area that stores go to: not the kept one under SET_KEEP_EN, otherwise not that of the newest record of the
firmware in ACTIVE; SETTINGS_A where there is none (log 57). -/
def storeArea (m : Mems) (h : Hw) : Bool :=
  let r := bootRec m h
  if r.setKeepEn then !r.setKeep
  else match ownSettings m h with
    | some (_, inB) => !inB
    | none => false

/-- The settings with an adapted model, or without one, are stored. -/
def storeModel (ok : Bool) (m : Mems) (model : Option SetEntry) (h : Hw) : Hw :=
  let own := ownSettings m h
  let (seq, old) := match own with
    | some (x, _) => ((x.seq + 1) % 2 ^ 32, x.entries)
    | none => (0, [])
  let rest := old.filter fun e => e.type != 1
  writeSettings ok m (storeArea m h)
    { format := (setFormats m h).1, seq := seq, entries := rest ++ model.toList } h

/-- The words that an adapted model may not change: 0 to 3, and all of a layer but MULT and SHIFT. -/
def sameModelShape (old new : List Byte) : Bool :=
  let n := 4 + 4 * fld (wordAt (bytesWords (old.take 8)) 1) 0 5
  let a := bytesWords (old.take (4 * n))
  let b := bytesWords (new.take (4 * n))
  (List.range n).all fun i => wordAt a i == wordAt b i || (decide (4 ≤ i) && i % 4 == 3)

/-- Why a blob is refused, by PARAM0 of R424. -/
def commitFault (h : Hw) (blob : List Byte) : Option Nat :=
  let b := bellCfg h
  if !b.allowAdapt || !bellRuns h then some 1
  else if !sameModelShape h.bell.blob blob then some 2
  else if !blobOk blob (b.hist + 1) (bellWidth b.chMask b.tapMask b.usePeak b.useXing) then some 3
  else none

/-- Bell turns to a model at its next beat, or the store has failed. A commit or a discard that leaves the model in force
as it is is no change of model and clears no history, which R150 and R169 leave open (DESIGN CHOICE, log 58). -/
def afterStore (ok : Bool) (blob : List Byte) (h : Hw) : Hw :=
  if ok then { h with bell := { h.bell with next := if blob = h.bell.blob then none else some blob } }
  else raiseHealth .bellStoreFail 0 0 0 0 h

/-- A blob is stored, tagged with the image's model, or refused. -/
def commitModel (ok : Bool) (m : Mems) (blob : List Byte) (h : Hw) : Hw :=
  match commitFault h blob with
  | some p => raiseHealth .bellCommitRefused 0 0 p 0 h
  | none => afterStore ok blob (storeModel ok m (some { type := 1, tag := modelTag h, data := blob }) h)

/-- Address zero: the stored adaptation is discarded and Bell returns to the image's model (log 58). -/
def discardModel (ok : Bool) (m : Mems) (h : Hw) : Hw :=
  match ownSettings m h with
  | some (x, _) =>
    if x.entries.any fun e => e.type == 1 then afterStore ok (bellCfg h).blob (storeModel ok m none h) else h
  | none => h

/-- A blob's memory: general DRAM or the window, granted to LOADER (R312, R316). -/
def loaderReads (h : Hw) (a n : Nat) : Bool :=
  match targetOf h a n with
  | some .dram | some .window => granted h LOADER true false a n
  | _ => false

/-- A running MARK with CODE BELL_COMMIT, and when it was issued. -/
def runningCommit (h : Hw) (ref : PieceRef) : Option (List Word × Nat) :=
  match graphOf h ref.graph with
  | none => none
  | some g =>
    let x := g.tasks.getD ref.task {}
    match x.pieces[ref.piece]? with
    | some (.running none) => if taskKind x.desc = kMark ∧ fld (wordAt x.desc 8) 0 4 = 1 then some (x.desc, x.issuedEl) else none
    | _ => none

/-- BELL_COMMIT_STORED: LOADER reads the blob under its own identity, stores or refuses it, and the task completes. It
takes its turn (R395), and waits where the blob lies in a closed window (R327). A read that the access tables refuse or that meets an uncorrectable error fails the task (R312, R316, R328). -/
def bellCommitEffect (ref : PieceRef) (verified : Bool) (fixed : Nat) (m : Mems) (h : Hw) : Hw :=
  match runningCommit h ref with
  | none => h
  | some (d, came) =>
    let a := addrAt d 9
    let n := h.bell.blob.length
    if !loaderTurn came h || readWaits h LOADER a n then h
    else
    let h := corrected (memoryAt a) fixed h
    let h := modPiece ref (fun _ => .done none 0) h
    let done (h : Hw) : Hw := finishTask ref.graph ref.task h
    let bare : Bool := !(bellCfg h).allowAdapt || !bellRuns h
    if a = 0 then done (discardModel verified m h)
    else if bare then done (commitModel verified m [] h)
    else if !loaderReads h a n then failTask ref.graph ref.task .refusedAccess .accessRuntime (countRefusal LOADER a h)
    else if devBad h a n then failEccAt ref.graph ref.task (firstBad h a n) h
    else done (commitModel verified m (readDev m h a n) h)

def execBellCommitStored (ref : PieceRef) (verified : Bool) (fixed : Nat) (s : State) : Host.Outcome State Fault Refusal :=
  runSched (fun m h => bellCommitEffect ref verified fixed m h) s

end Sys2Proof.Machine
end

