-- ==== Sys2Proof/Machine/Agree.lean ====
section
/-! DEFINITION. Agreement after an activation, verdicts, confirmation and the end of an activation: this node's own part,
and what the acting head sends (R396, R401, R403, R404). -/

namespace Sys2Proof.Machine

/-! ## ROLL_CTL frames (R401) -/

/-- A ROLL_CTL frame with its masks. -/
def rollCtl (op subject reason : Nat) (hash : List Word) (a b c : Nat) : Frame :=
  { type := 0x51, vc := 0, param := w32 (op + 16 * subject + 4096 * reason)
    payload := wordsBytes (fitTo 12 0 hash ++ maskWords a ++ maskWords b ++ maskWords c) }

/-- HASH and the masks of a frame. -/
def ctlHash (f : Frame) : List Word := fitTo 12 0 ((bytesWords f.payload).take 12)
def ctlMask (k : Nat) (f : Frame) : Nat := leNat (wordsBytes (fitTo 8 0 (((bytesWords f.payload).drop (12 + 8 * k)).take 8)))

/-- A ROLL_CTL frame goes one hop EAST. -/
def sendEast (f : Frame) (h : Hw) : Hw := originate .east { f with dst := h.ring.east.node.getD 0 } h

/-- The acting head of a formation. -/
def actsAsHead (h : Hw) : Bool := h.ring.head == some h.nodeId

/-- A mask with this node's bit set where a condition holds. -/
def withOwnBit (h : Hw) (n : Nat) (b : Bool) : Nat := if b then setBit n h.nodeId true else n

/-! ## This node's own record (R396, R403) -/

/-- The node takes part in the activation of a hash. -/
def openFor (r : BootRec) (hash : List Word) : Bool := r.actOpen && r.actHash == hash

/-- MASK_A of AGREE: TRIAL on the package. -/
def inTrial (r : BootRec) (hash : List Word) : Bool := r.state == .trial && r.activeHash == hash

/-- MASK_B of AGREE: the activation failed here. -/
def failedFor (r : BootRec) (hash : List Word) : Bool :=
  r.state == .revertPending || r.state == .reverting ||
    (r.state == .confirmed && r.actOpen && r.activeHash != hash)

/-- A record is written where it has changed. -/
def saveRec (ok : Bool) (m : Mems) (r' : BootRec) (h : Hw) : Hw :=
  if r' = bootRec m h then h else writeRec ok m r' h

/-- A PASS verdict: AGREED on each node that takes part (log 59). -/
def applyPass (ok : Bool) (m : Mems) (hash : List Word) (h : Hw) : Hw :=
  let r := bootRec m h
  if openFor r hash then saveRec ok m { r with agreed := true } h else h

/-- A REVERT verdict: PENDING is cancelled; TRIAL goes to REVERT_PENDING, and the node restarts where its vehicle inputs
permit (log 60). -/
def applyRevert (ok : Bool) (m : Mems) (hash : List Word) (h : Hw) : Hw :=
  let r := bootRec m h
  if !openFor r hash then h
  else if r.state = .pending then saveRec ok m { r with state := .confirmed } h
  else if r.state = .trial then
    let h := saveRec ok m { r with state := .revertPending } h
    if (inputFault h h.image.system.vbatMin).isNone then { h with update := { h.update with restart := true } } else h
  else h

/-- CONFIRM: a node in TRIAL on the package is CONFIRMED. -/
def applyConfirm (ok : Bool) (m : Mems) (hash : List Word) (h : Hw) : Hw :=
  let r := bootRec m h
  if inTrial r hash then
    saveRec ok m { r with
      state := .confirmed, actOpen := false, agreed := false, unconf := 0, setKeepEn := false, actHash := noHash } h
  else h

/-- CLOSE: the activation is over for a node that takes part in it. -/
def applyClose (ok : Bool) (m : Mems) (hash : List Word) (h : Hw) : Hw :=
  let r := bootRec m h
  if openFor r hash then saveRec ok m { r with actOpen := false, actHash := noHash } h else h

/-! ## The head (R403, R404) -/

/-- The manifest of the package with a hash, where ACTIVE or STAGING holds it. -/
def manifestOf (m : Mems) (h : Hw) (hash : List Word) : Option (List Word) :=
  let r := bootRec m h
  if r.stagingHash = hash then some (manifestAt m h stagingBase)
  else if r.activeHash = hash then some (manifestAt m h activeBase)
  else none

/-- The nodes that an activation names; all of them where the head no longer holds its manifest (log 61). -/
def targetsOf (m : Mems) (h : Hw) (hash : List Word) : Nat :=
  match manifestOf m h hash with
  | some ws => targetMask ws
  | none => 2 ^ 256 - 1

/-- AUTO_CONFIRM of the activation's manifest. -/
def autoConfirm (m : Mems) (h : Hw) (hash : List Word) : Bool :=
  match manifestOf m h hash with
  | some ws => bit (wordAt ws 4) 0
  | none => false

/-- Every bit of x is set in y. -/
def subMask (x y : Nat) : Bool := Nat.land x y == x

/-- CLOSE goes round, and acts on the head itself. -/
def sendClose (ok : Bool) (m : Mems) (hash : List Word) (h : Hw) : Hw :=
  let acted := openFor (bootRec m h) hash
  let h := applyClose ok m hash h
  let h := { h with update := { h.update with confHash := [], confMask := 0 } }
  if soleNode h then h else sendEast (rollCtl 9 0 0 hash (withOwnBit h 0 acted) 0 0) h

/-- What is confirmed so far is known; when no targeted node remains open the head sends CLOSE (log 62). -/
def noteConfirmed (ok : Bool) (m : Mems) (hash : List Word) (mask : Nat) (h : Hw) : Hw :=
  let old := if h.update.confHash = hash then h.update.confMask else 0
  let all := Nat.lor old mask
  if subMask (targetsOf m h hash) all then sendClose ok m hash h
  else { h with update := { h.update with confHash := hash, confMask := all } }

/-- CONFIRM begins: the head itself, then round the ring. -/
def sendConfirm (ok : Bool) (m : Mems) (hash : List Word) (h : Hw) : Hw :=
  let acted := inTrial (bootRec m h) hash
  let h := applyConfirm ok m hash h
  let mask := withOwnBit h 0 acted
  if soleNode h then noteConfirmed ok m hash mask h
  else
    let old := if h.update.confHash = hash then h.update.confMask else 0
    let h := { h with update := { h.update with confHash := hash, confMask := Nat.lor old mask } }
    sendEast (rollCtl 8 0 0 hash mask 0 0) h

/-- A verdict of the head: the event, the head's own part, and the frame. -/
def giveVerdict (ok : Bool) (m : Mems) (pass_ : Bool) (hash : List Word) (h : Hw) : Hw :=
  let h := if pass_ then applyPass ok m hash h else applyRevert ok m hash h
  let h := raiseUpdate (if pass_ then .agreePass else .agreeFail) (bootRec m h) h
  let h := { h with update := { h.update with verdictOpen := true } }
  if soleNode h then h else sendEast (rollCtl 7 0 (b2n (!pass_)) hash (withOwnBit h 0 true) 0 0) h

/-- A sole node still has work of an activation to do. -/
def unsettled (r : BootRec) : Bool :=
  [BootSt.pending, .swapping, .trial, .revertPending, .reverting].contains r.state

/-- The ring is formed for agreement: a FORMED ring, or a standalone node (log 60). -/
def ringWhole (h : Hw) : Bool := h.standalone || h.ring.st == .formed

/-- AGREE_WAIT has run out. -/
def agreeWaitOver (h : Hw) : Bool :=
  match h.update.agreeFrom with
  | some e => decide (e + 600 * ticksPerSecond ≤ h.power.elapsed)
  | none => false

/-- The head judges what AGREE brought back (R403). `settled`: no node of TARGET is in a state between CONFIRMED or STAGED
and the end of the activation. -/
def judgeAgreement (ok settled : Bool) (m : Mems) (hash : List Word) (a b c : Nat) (h : Hw) : Hw :=
  let t := targetsOf m h hash
  let h :=
    if Nat.land b t != 0 then giveVerdict ok m false hash h
    else if subMask t a then
      let auto := autoConfirm m h hash && Nat.land c t == 0
      let h := giveVerdict ok m true hash h
      if auto then sendConfirm ok m hash h else h
    else if agreeWaitOver h || !ringWhole h then giveVerdict ok m false hash h
    else h
  if settled then sendClose ok m hash h else h

/-- The head's later confirmation of nodes that a CONFIRM missed: those that AGREE finds in TRIAL (R404). -/
def judgeConfirmed (ok : Bool) (m : Mems) (hash : List Word) (a : Nat) (h : Hw) : Hw :=
  if Nat.land a (targetsOf m h hash) != 0 then sendConfirm ok m hash h else noteConfirmed ok m hash 0 h

/-- AGREE with the head's own bits. -/
def agreeMasks (m : Mems) (h : Hw) (hash : List Word) (a b c : Nat) : Nat × Nat × Nat :=
  let r := bootRec m h
  (withOwnBit h a (inTrial r hash), withOwnBit h b (failedFor r hash), withOwnBit h c r.setUnreadable)

/-- The hash of the activation that the head pursues, and whether it is still to be agreed. -/
def agreementHash (m : Mems) (h : Hw) : Option (List Word × Bool) :=
  let r := bootRec m h
  if r.actOpen then some (r.actHash, true)
  else if !h.update.confHash.isEmpty then some (h.update.confHash, false)
  else none

/-- What the head does with the masks of an AGREE that is complete. -/
def agreeDone (ok settled : Bool) (m : Mems) (a b c : Nat) (h : Hw) : Hw :=
  match agreementHash m h with
  | some (hash, true) => judgeAgreement ok settled m hash a b c h
  | some (hash, false) => judgeConfirmed ok m hash a h
  | none => h

/-- The acting head runs agreement: a FORMED ring sends AGREE round; a node by itself, and the head of a CHAIN, to which no
frame returns, judges by its own bits (R403, log 60). -/
def runAgreement (ok : Bool) (m : Mems) (h : Hw) : Hw :=
  let head := soleNode h || actsAsHead h
  match agreementHash m h with
  | some (hash, _) =>
    if head then
      let h := { h with update := { h.update with
        verdictOpen := false, agreeFrom := h.update.agreeFrom.orElse fun _ => some h.power.elapsed } }
      let (a, b, c) := agreeMasks m h hash 0 0 0
      if h.ring.st = .formed ∧ !soleNode h then sendEast (rollCtl 6 0 0 hash a b c) h
      else agreeDone ok (soleNode h && !unsettled (bootRec m h)) m a b c h
    else h
  | none => h

/-- AGREEMENT_TIMER: 10 s after a VERDICT, while ACT_OPEN stays set, the head runs agreement again. -/
def agreementTimerEffect (ok : Bool) (m : Mems) (h : Hw) : Hw :=
  if h.up && h.update.verdictOpen then
    let h := { h with update := { h.update with verdictOpen := false } }
    if (bootRec m h).actOpen then runAgreement ok m h else h
  else h

def execAgreementTimer (env : RollEnv) (s : State) : Host.Outcome State Fault Refusal :=
  runSched (fun m h => agreementTimerEffect env.flashOk m h) s

end Sys2Proof.Machine
end

