-- ==== Sys2Proof/Machine/Log.lean ====
section
/-! DEFINITION. The health log in the flash: its entries, LOADER's search at a boot, and HEALTH_LOG_WRITE (R429, R430). -/

namespace Sys2Proof.Machine

/-! ## Entries (R429) -/

/-- The first seven words of an entry. -/
def entryWords (e : LogEntry) : List Word :=
  [w32 e.seq, w32 (e.code % 65536 + 65536 * (e.cls % 16) + 2 ^ 20 * (e.subject % 256))] ++ w64 e.time ++
    [w32 e.p0, w32 e.p1, w32 (e.repeats % 65536 + 65536 * e.bootNo)]

/-- The 32 bytes of an entry. -/
def healthBytes (e : LogEntry) : List Byte :=
  let bs := wordsBytes (entryWords e)
  bs ++ wordsBytes [w32 (crc32 bs)]

/-- The flash address of a position. -/
def logAddr (i : Nat) : Nat := logBase + 32 * i

/-- The bytes at a position. -/
def logBytes (m : Mems) (h : Hw) (i : Nat) : List Byte := flashRead m h (logAddr i) 32

/-- An intact entry: its CRC is right and its SEQ is one. -/
def entryIntact (bs : List Byte) : Bool :=
  let ws := bytesWords bs
  (wordAt ws 7).toNat == crc32 (bs.take 28) && wordAt ws 0 != w32 0xFFFFFFFF

/-- The positions that hold anything: those of cells of the flash and of writes of this command. -/
def logUsed (m : Mems) (h : Hw) : List Nat :=
  let cells := (m.flash.filter fun c => decide (logBase ≤ c.1)).map fun c => (c.1 - logBase) / 32
  let news := h.writes.flatMap fun w =>
    if w.space = .flash ∧ logBase ≤ w.addr then
      (List.range ((w.bytes.length + 31) / 32)).map fun k => (w.addr - logBase) / 32 + k
    else []
  (cells ++ news).eraseDups

/-- SEQ and position of every intact entry. -/
def logEntriesOf (m : Mems) (h : Hw) : List (Nat × Nat) :=
  (logUsed m h).filterMap fun i =>
    let bs := logBytes m h i
    if entryIntact bs then some (leNat (bs.take 4), i) else none

/-- The entry of a list that no other is later than. -/
def latestEntry : List (Nat × Nat) → Option (Nat × Nat)
  | [] => none
  | e :: es => some (es.foldl (fun x y => if laterSeq y.1 x.1 then y else x) e)

/-- The entry of a list that every other is later than. -/
def earliestEntry : List (Nat × Nat) → Option (Nat × Nat)
  | [] => none
  | e :: es => some (es.foldl (fun x y => if laterSeq x.1 y.1 then y else x) e)

/-- The next position, round the area. -/
def nextPos (i : Nat) : Nat := (i + 1) % logEntries

/-- The first position from i on at which writing can go on: an erased one, or the first of a sector, which is erased
before it is entered. -/
def writePos (m : Mems) (h : Hw) : Nat → Nat → Nat
  | 0, i => i
  | n + 1, i =>
    if i % 128 = 0 ∨ (logBytes m h i).all (· == 0xFF) then i else writePos m h n (nextPos i)

/-- The SEQ after one; 0xFFFF_FFFF is not an entry. -/
def nextSeq (n : Nat) : Nat := if 0xFFFFFFFF ≤ n + 1 then 0 else n + 1

/-- LOADER finds the log's end at a boot (R430). -/
def findLog (m : Mems) (h : Hw) : Hw :=
  let es := logEntriesOf m h
  match latestEntry es, earliestEntry es with
  | some (seq, i), some (old, _) =>
    let ws := bytesWords (logBytes m h i)
    { h with health := { h.health with
        logNext := nextSeq seq, logOldest := old, logPos := writePos m h 128 (nextPos i)
        boots := fld (wordAt ws 6) 16 16 + b2n (fld (wordAt ws 1) 0 16 == 0x0300) } }
  | _, _ => { h with health := { h.health with logNext := 0, logOldest := 0, logPos := 0, boots := 0 } }

/-! ## HEALTH_LOG_WRITE (R430) -/

/-- One entry is programmed; the sector that it opens is erased first. -/
def programEntry (h : Hw) (e : LogEntry) : Hw :=
  let i := h.health.logPos
  let h := if i % 128 = 0 then flashErase (logAddr i) 4096 h else h
  flashProgram (logAddr i) (healthBytes e) { h with health := { h.health with logPos := nextPos i } }

/-- LOADER programs the buffered entries whose turn has come (R395) in SEQ order; a LOG_LOST that is owed is raised once
there is room. -/
def logWriteEffect (m : Mems) (h : Hw) : Hw :=
  let due := h.health.buffer.takeWhile fun e => loaderTurn e.since { h with health := { h.health with buffer := [] } }
  if h.power.ctrlOn && !h.saving && !due.isEmpty then
    let h := due.foldl programEntry { h with health := { h.health with buffer := h.health.buffer.drop due.length } }
    let oldest := match earliestEntry (logEntriesOf m h) with
      | some (seq, _) => seq
      | none => h.health.logNext
    let h := { h with health := { h.health with logOldest := oldest } }
    if h.health.lostOwed then
      raiseHealth .logLost 0 0 h.health.logLost 0 { h with health := { h.health with lostOwed := false } }
    else h
  else h

def execHealthLogWrite (s : State) : Host.Outcome State Fault Refusal := run logWriteEffect s

end Sys2Proof.Machine
end

