-- ==== Sys2Proof/Machine/Boot.lean ====
section
/-! DEFINITION. Boots: strap sampling, what a full boot and a fresh boot clear and keep, the boot-record state machine, the
boot from flash and from the ring, and RECOVERY (R13 to R19, R22, R26, R355, R357, R364, R367, R368, R380, R396, R408,
R409). -/

namespace Sys2Proof.Machine

/-! ## Straps (R13, R15, R16, R18) -/

/-- The level of a pin voltage. -/
def strapLevel (mv : Nat) : Nat := if mv < 40 then 0 else min 15 ((mv - 40) / 80 + 1)

/-- The level of a pin from its conversions, or none where all three differ. -/
def pinLevel (s : StrapSample) : Option Nat :=
  let a := strapLevel s.a
  let b := strapLevel s.b
  let c := strapLevel s.c
  if a = b then some a else if c = a ∨ c = b then some c else none

/-- The straps' latched levels; the level of an unstable pin is free (log 63). -/
def latchLevels : List (Option Nat) → Hw → List Nat × Hw
  | [], h => ([], h)
  | some n :: ps, h => let (ns, h) := latchLevels ps h; (n :: ns, h)
  | none :: ps, h =>
    let (k, h) := drawNat h
    let (ns, h) := latchLevels ps h
    (k % 16 :: ns, h)

/-- Levels in the pins' order. -/
def strapsOf (ns : List Nat) : Straps :=
  { nodeHi := ns.getD 0 0, nodeLo := ns.getD 1 0, ringRole := ns.getD 2 0, hostCfg := ns.getD 3 0, bootSel := ns.getD 4 0
    pwrClass := ns.getD 5 0, senseCfg := ns.getD 6 0 }

/-- The pins whose conversions all differ, as a mask. -/
def unstableMask (ps : List (Option Nat)) : Nat := ps.foldr (fun p n => 2 * n + b2n p.isNone) 0

/-- The pins are sampled and latched. -/
def sampleStraps (ss : List StrapSample) (h : Hw) : Hw :=
  let ps := (fitTo 7 {} ss).map pinLevel
  let (ns, h) := latchLevels ps h
  { h with board := { h.board with straps := strapsOf ns, unstable := unstableMask ps, strapsLatched := true } }

/-- A level that is valid on every strap but the node identity's (R16). -/
def validLevel (n : Nat) : Bool := n == 0 || n == 7 || n == 15

/-- R18's conflicts. -/
def strapConflict (s : Straps) : Bool :=
  (s.bootSel == 7 && s.ringRole != 7) || (s.hostCfg == 15 && (s.ringRole == 0 || s.ringRole == 15))

/-- Why the latched straps lead to RECOVERY, in the order of R18, whether this boot or an earlier one sampled them
(R386). The level of an unstable pin counts for STRAP_UNSTABLE alone (DESIGN CHOICE, log 63). -/
def strapCause (b : Board) : Option Cause :=
  let s := b.straps
  let bad (p : Nat × Nat) : Bool := !validLevel p.2 && !bitOf b.unstable p.1
  if [(2, s.ringRole), (3, s.hostCfg), (4, s.bootSel), (5, s.pwrClass), (6, s.senseCfg)].any bad then some .strapInvalid
  else if b.unstable != 0 then some .strapUnstable
  else if strapConflict s then some .strapConflict
  else none

/-! ## Domains go off (R364, R386) -/

/-- Every domain except AON is off, and what they and the retention SRAM hold is gone, but what AON keeps: device time, the
alarm, the WAKE_FAIL latch, the STUCK marks, and the health record's last causes. -/
def domainsOff (h : Hw) : Hw :=
  { h with
    image := {}, sq := {}, drum := {}, raw := {}, bell := {}
    cal := { trims := h.cal.trims, keptDone := h.cal.keptDone, keptQuietValid := h.cal.keptQuietValid
             keptQuiet := h.cal.keptQuiet, stuck := h.cal.stuck }
    cascade := {}, sched := {}, streams := [], ring := {}, update := {}, rvy := {}
    power :=
      { time := h.power.time, elapsed := h.power.elapsed, alarm := h.power.alarm, wakeFail := h.power.wakeFail }
    health := { h.health with
      causes := if h.power.wakeFail.isSome then 2 ^ causeWakeFail else 0
      cnt := {}, storm := [], buffer := [], logLost := 0, lostOwed := false, badUnits := []
      written := [] } }

/-! ## RECOVERY (R18, R26, R357, R408, R409) -/

/-- RECOVERY is entered: every domain except AON goes off, the cause is kept, FAULT_N is asserted for any cause but
BOOT_SEL, and XSPI_RESET_N is pulsed. -/
def enterRecovery (c : Cause) (h : Hw) : Hw :=
  let causes := h.health.causes
  let buffer := h.health.buffer
  let h := domainsOff h
  let h := { h with
    power := { h.power with dev := .recovery, cause := some c }
    rvy := { opening := true }
    health := { h.health with causes := causes, buffer := buffer, lastRecovery := c.code } }
  let h := if c = .bootSel then h else setCause causeRecovery h
  raiseLog (0x0200 + c.code) 0 0 0 h

/-! ## The boot record at a boot (R396) -/

/-- The image in ACTIVE passes R22. -/
def activeOk (m : Mems) (h : Hw) : Bool := (slotImage m h activeBase).isSome

/-- The vehicle inputs permit a swap: the three tests of R399, with VBAT_UPD_MIN of ACTIVE's image; without a valid image
they do not (log 64). -/
def permitting (m : Mems) (h : Hw) : Bool :=
  match slotImage m h activeBase with
  | some img =>
    match (sectionOf img (directory (bytesWords (img.take 288))) 1).bind parseSystem with
    | some sys => (inputFault h sys.vbatMin).isNone
    | none => false
  | none => false

/-- The package in STAGING passes R392. -/
def stagingOk (m : Mems) (h : Hw) : Bool := (packageFault m h stagingBase).isNone

/-- A package whose image no longer passes gives way to the one it replaced. -/
def corruptStep (ok : Bool) (stop : Option SwapStop) (m : Mems) (h : Hw) : Hw × SwapEnd :=
  let r := bootRec m h
  let state := r.state == .confirmed || r.state == .staged || r.state == .trial
  if state && r.stagingOld && !activeOk m h && stagingOk m h then
    beginSwap ok stop m 2 r (raiseUpdate .activeCorrupt { r with state := .reverting } h)
  else (h, .done)

/-- PENDING at a boot. -/
def pendingStep (ok permit : Bool) (stop : Option SwapStop) (m : Mems) (r : BootRec) (h : Hw) : Hw × SwapEnd :=
  if !permit then (raiseUpdate .swapDeferred r h, .done)
  else if stagingOk m h then beginSwap ok stop m 1 r h
  else (writeRec ok m { r with state := .confirmed, stagingHash := noHash } h, .done)

/-- TRIAL at a boot. -/
def trialStep (ok permit : Bool) (stop : Option SwapStop) (m : Mems) (r : BootRec) (h : Hw) : Hw × SwapEnd :=
  if r.unconf < 3 then (writeRec ok m { r with unconf := r.unconf + 1 } h, .done)
  else if permit then beginSwap ok stop m 2 r (raiseUpdate .unconfirmed { r with state := .reverting } h)
  else (h, .done)

/-- RECOVERY_PENDING at a full boot: the package found in STAGING is installed or rejected (R410). -/
def recoveryStep (ok : Bool) (stop : Option SwapStop) (m : Mems) (r : BootRec) (h : Hw) : Hw × SwapEnd :=
  if stagingOk m h then
    let r := { r with stagingHash := manifestHash (manifestAt m h stagingBase) }
    beginSwap ok stop m 3 r (stageTrims true m h)
  else
    let r := { r with state := .confirmed, stagingHash := noHash }
    (raiseUpdate .recoveryRejected r (writeRec ok m r h), .done)

/-- The record's own row. -/
def recordStep (full ok : Bool) (stop : Option SwapStop) (m : Mems) (h : Hw) : Hw × SwapEnd :=
  let r := bootRec m h
  let permit := full && permitting m h
  match r.state with
  | .confirmed | .staged => (h, .done)
  | .pending => pendingStep ok permit stop m r h
  | .swapping | .reverting => resumeSwap ok stop m r h
  | .trial => trialStep ok permit stop m r h
  | .revertPending => if permit then beginSwap ok stop m 2 r h else (h, .done)
  | .recoveryPending => if full then recoveryStep ok stop m r h else (h, .done)

/-- The boot record's part of a boot: a corrupt ACTIVE first, the record's row, and once more a corrupt ACTIVE, as a swap
may leave it. A fresh boot starts no swap. -/
def bootRecords (full ok : Bool) (stop : Option SwapStop) (m : Mems) (h : Hw) : Hw × SwapEnd :=
  let corrupt (p : Hw × SwapEnd) : Hw × SwapEnd := if full ∧ p.2 = .done then corruptStep ok stop m p.1 else p
  let fresh := (rulingRecord m h).isNone && (packageFault m h activeBase).isNone
  let h := if fresh then writeRec ok m (bootRec m h) h else h
  let was := bootRec m h
  let p := corrupt (h, .done)
  let p := if p.2 = .done ∧ bootRec m p.1 = was then recordStep full ok stop m p.1 else p
  corrupt p

/-! ## The node starts (R27, R143, R170, R288, R368) -/

/-- Log entries for the sections found invalid (R430). -/
def logConfigFaults (h : Hw) : Hw :=
  (List.range 7).foldl (fun h n => if bitOf h.image.configFaults n then raiseLog (0x0100 + n) 9 0 0 h else h) h

/-- The scheduler after a boot: empty, with its quotas at INIT; a fresh boot keeps retired cores, fault counts and the
thermal state (R367). -/
def freshSched (h : Hw) : Hw :=
  let keep (k : Nat) : Core :=
    let c := coreOf h k
    { suspect := c.suspect, confirmed := c.confirmed, retired := c.retired, lastProbe := h.power.time }
  { h with sched :=
      { cores := (List.range 32).map keep, quotas := (quotasCfg h).init, aboveThr := h.sched.aboveThr
        aboveStop := h.sched.aboveStop } }

/-- The raw chains after a boot: stopped, RESPONSE selected (R123). -/
def freshRaw (h : Hw) : Hw :=
  { h with raw := { chains := (List.range 8).map fun n => { selected := (rawCfg h n).response } } }

/-- The DRAM PHY comes up with its saved training, or trains: what that finds the manual does not say, a free value (R366,
R376). -/
def phyUp (h : Hw) : Hw :=
  match h.power.phy with
  | some _ => h
  | none =>
    let (n, h) := drawNat h
    { h with power := { h.power with phy := some n } }

/-- CTRL and MEM are up, the rail at M0 of the level in force; the configuration space is the saved one (R359, R366,
R376). -/
def domainsUp (h : Hw) : Hw :=
  let h := phyUp h
  { h with
    sq := { h.sq with cfg := h.sq.cfgKept.getD {} }
    power := { h.power with
      ctrlOn := true, memOn := true, dev := .idle, rail := 0, railMv := railMillivolts (levelInForce h) 0
      railSince := h.power.elapsed, railChange := none, railNext := none, change := none, ctrlMv := 750
      avs := bootFrames (railMillivolts (levelInForce h) 0) } }

/-- The accepted image is in force: settings, Bell's model, trims and the scheduler follow. A model other than the one that
runs clears Bell's histories (R150). -/
def startImage (fresh ok : Bool) (m : Mems) (img : List Byte) (h : Hw) : Hw :=
  let h := logConfigFaults { h with image := imageOf h img }
  let (es, h) := selectSettings ok m h
  let old := h.bell.blob
  let h := chooseModel es h
  let h := if h.bell.blob = old then h else bellClear h
  let (n, h) := drawNat h
  let h := loadCalRecord (fresh && !h.cal.trims.isEmpty) m h
  let h := freshRaw (freshSched (domainsUp h))
  { h with
    ring := { h.ring with nonce := n % 2 ^ 32 }
    drum := { h.drum with latest := none, accessRaised := false } }

/-- SENSE comes up where Drumhead is in use, SENSE_OFF is not in force and it is not on already (R357). -/
def senseAtBoot (h : Hw) : Hw := if h.senseFitted && !h.power.senseOff && !h.drum.senseOn then senseUp h else h

/-- The memories after a full boot: every granule is fresh, the window zero (R308, R327). -/
def wipeAll (h : Hw) : Hw := { h with wipe := some {}, health := { h.health with badUnits := [], written := [] } }

/-! ## VDD_AON is lost (R368, R386, R441) -/

/-- AON after its power-on reset: no latch, an empty retention SRAM, device time zero; pins, fuses and the flash are the
board's. -/
def aonReset (h : Hw) : Hw :=
  let h := domainsOff h
  { h with
    cal := {}, health := {}
    power := { elapsed := h.power.elapsed }
    board := inputsOff { h.board with
      straps := {}, unstable := 0, strapsLatched := false, resetHeld := false, railLow := none, rwakeOut := false, rwakeQuiet := false } }
where
  /-- The vehicle-input block without VDD_AON reports what R21 says; VSENSE_HV itself stays. -/
  inputsOff (b : Board) : Board := { inputsAbsent b with hvPresent := b.hvPresent }

/-- VDD_AON_LOSS: the device is off, and device time, the retention SRAM and every latch are lost. -/
def aonLoss (h : Hw) : Hw :=
  if h.board.aonOn then wipeAll { aonReset h with board := { (aonReset h).board with aonOn := false } } else h

/-- A standalone node's ring is itself: it runs agreement at its boot (R403, log 60). -/
def agreeAtBoot (ok : Bool) (m : Mems) (h : Hw) : Hw := if h.standalone then runAgreement ok m h else h

/-- A full boot's last steps: SENSE, the ring, the chains. -/
def fullBootDone (ok : Bool) (m : Mems) (ring : Hw → Hw) (h : Hw) : Hw :=
  agreeAtBoot ok m (autostart (ring (wipeAll (senseAtBoot h))))

/-! ## Full boots (R364, R368) -/

/-- The node asks its WEST neighbour for a boot package: CTRL is on, the WEST port trains (R355). -/
def startRingBoot (h : Hw) : Hw :=
  { h with
    power := { h.power with ctrlOn := true }
    ring := { h.ring with bootBytes := some [], west := trainPort {} } }

/-- The boot from the flash. -/
def flashBoot (ok : Bool) (stop : Option SwapStop) (m : Mems) (h : Hw) : Hw :=
  match bootRecords true ok stop m h with
  | (h, .failed) => enterRecovery .swapFail h
  | (h, .dark) => aonLoss h
  | (h, .done) =>
    match slotImage m h activeBase with
    | some img => fullBootDone ok m ringUp (startImage false ok m img h)
    | none => enterRecovery .imageInvalid h

/-- What a full boot clears (R368), and its BOOT entry. `edge`: it follows a rising edge of RESET_N, which clears STUCK
marks. -/
def clearForBoot (edge : Bool) (last : Nat) (rail : Option Rail) (m : Mems) (h : Hw) : Hw :=
  let h := findLog m (domainsOff h)
  raiseLog 0x0300 0 0 last { h with
    cal := { h.cal with stuck := if edge then 0 else h.cal.stuck }
    board := { h.board with resetHeld := false, railLow := none }
    health := { h.health with lastBoot := last, bootTime := h.power.time, resetRail := if rail.isSome then rail else h.health.resetRail } }

/-- Why a full boot ends in RECOVERY before the flash is read (R18, R363, R380); none of them leaves the boot to go on.
Where a latched WAKE_FAIL and the straps each name a cause, WAKE_FAIL is recorded: R18 and R380 give no order (DESIGN
CHOICE, log 146). -/
def earlyCause (edge : Bool) (straps : Option Cause) (avsAck : Bool) (h : Hw) : Option Cause :=
  if edge && h.power.wakeFail.isSome then some .wakeFail
  else match straps with
    | some c => some c
    | none => if h.board.straps.bootSel = 15 then some .bootSel else if avsAck then none else some .avsFail

/-- A full boot: straps sampled or still latched, what it clears, and then the flash, the ring or RECOVERY. -/
def fullBoot (edge sample : Bool) (last : Nat) (rail : Option Rail) (env : BootEnv) (m : Mems) (h : Hw) : Hw :=
  let sample := sample || !h.board.strapsLatched
  let h := if sample then sampleStraps env.straps h else h
  let cause := strapCause h.board
  let h := clearForBoot edge last rail m h
  let early := earlyCause edge cause (bootAcked env.avs) h
  let h := if early = some .avsFail then setCause causeAvs h else h
  let h := if edge ∧ h.power.wakeFail.isSome then clearCause causeWakeFail { h with power := { h.power with wakeFail := none } }
    else h
  match early with
  | some c => enterRecovery c (wipeAll h)
  | none => if h.board.straps.bootSel = 7 then startRingBoot (wipeAll h) else flashBoot env.flashOk env.swap m h

/-! ## Fresh boots (R367, R377, R378) -/

/-- The ranges of general DRAM that DEEP keeps (R310). -/
def keptRanges (h : Hw) : List (Nat × Nat) :=
  ((List.range 8).filter (bitOf h.image.access.deepKeep)).map fun k =>
    (k * segmentSize, if k = 7 then dramEnd - 7 * segmentSize else segmentSize)

/-- DRAM outside kept ranges, core stores and the window lose what they hold. -/
def loseMems (kept : List (Nat × Nat)) (h : Hw) : Hw :=
  let inKept (u : Nat) : Bool := kept.any fun r => decide (r.1 ≤ u) && decide (u < r.1 + r.2)
  { h with
    wipe := some { keep := kept }
    health := { h.health with
      badUnits := h.health.badUnits.filter inKept, written := h.health.written.filter fun g => inKept (65536 * g) } }

/-- What a fresh boot does not keep, and its BOOT entry. -/
def clearForFresh (last : Nat) (m : Mems) (h : Hw) : Hw :=
  let h := { h with
    streams := [], ring := { failed := h.ring.failed }, update := {}
    cascade := { t1Check := h.cascade.t1Check, t2Check := h.cascade.t2Check } }
  let buffer := h.health.buffer
  let next := h.health.logNext
  let boots := h.health.boots
  let h := findLog m h
  let h := if buffer.isEmpty then h
    else { h with health := { h.health with logNext := next, boots := boots, buffer := buffer } }
  raiseLog 0x0300 0 0 last { h with health := { h.health with lastBoot := last, bootTime := h.power.time } }

/-- SENSE at a fresh boot: back on where it was on before the stay. -/
def senseAtFresh (h : Hw) : Hw :=
  let h := if h.power.senseBack then senseAtBoot h else h
  { h with power := { h.power with senseBack := false } }

/-- A fresh boot from the flash; the node ends in RECOVERY, or with CTRL and MEM up. -/
def freshFlash (ok : Bool) (m : Mems) (h : Hw) : Hw :=
  match bootRecords false ok none m h with
  | (h, .failed) => enterRecovery .swapFail h
  | (h, .dark) => h
  | (h, .done) =>
    match slotImage m h activeBase with
    | some img => senseAtFresh (startImage true ok m img h)
    | none => enterRecovery .imageInvalid h

end Sys2Proof.Machine
end

