-- ==== Sys2Proof/Machine/Wake.lean ====
section
/-! DEFINITION. Wake events in every device state: aborts, latches and their replay, wakes from SLEEP, DEEP and OFF, failed
wakes, Bell's scores and the end of an entry (R154, R155, R163, R369, R371 to R379, R383). -/

namespace Sys2Proof.Machine

/-! ## Reports (R164, R372, R375) -/

/-- DETAIL of a wake by the host, the alarm or the vehicle. -/
def wakeDetail : WakeSource → Detail
  | .wakeN => .hostWake
  | .rtc => .rtcAlarm
  | .vwake => .vehicleWake
  | .rwakeIn => .rwakeWake
  | .bell => .bellFire

/-- A latched event that does not act raises its own EVENT_WAKE. -/
def reportOnly (c : WakeCtx) (h : Hw) : Hw :=
  match c.source with
  | .bell => reportFire c.prior c.fire h
  | s => reportHost (wakeDetail s) s 0 c.prior c.time h

/-- An event in ACTIVE or IDLE (R374): WAKE_N ends an excursion, or what its STAY left at T1; the alarm and the vehicle are
reported; a pulse is forwarded only; a fire acts by R155. -/
def actAwake (m : Mems) (c : WakeCtx) (h : Hw) : Hw :=
  match c.source with
  | .wakeN =>
    match h.cascade.exc with
    | some e => endByWakeN e h
    | none =>
      let awake := { h with cascade := { h.cascade with stay := none } }
      if atT1 h then bringT2 awake else awake
  | .rtc | .vwake => reportHost (wakeDetail c.source) c.source 0 h.power.dev c.time h
  | .bell => fireAwake m c.fire h
  | .rwakeIn => h

/-! ## A wake's own effect, CTRL and MEM being up (R376, R378) -/

/-- The device is awake: its chains start, SENSE's held records are stored. -/
def awake (c : WakeCtx) (h : Hw) : Hw := autostart (flushHolding c.heldBad { h with power := { h.power with dev := .active } })

/-- The wake: an excursion, or the host's. -/
def wakeActs (m : Mems) (c : WakeCtx) (h : Hw) : Hw :=
  match c.source with
  | .bell => startExcursion m c.fire.want c.prior .bell c.late c.fire (awake c h)
  | .rwakeIn => startExcursion m 2 c.prior .rwakeIn c.late { time := c.time } (awake c h)
  | s =>
    let h := reportHost (wakeDetail s) s 2 c.prior c.time (awake c (bringT2 h))
    resumeFetch (endStay 1 s c.late c.time h)

/-- A pending event takes its turn. -/
def wakeTurn (m : Mems) (h : Hw) (c : WakeCtx) : Hw :=
  match c.mode with
  | .wakes => wakeActs m c h
  | .acts => actAwake m c h
  | .reports => reportOnly c h

/-- The pending events in turn. -/
def wakeTurns (m : Mems) (cs : List WakeCtx) (h : Hw) : Hw := cs.foldl (wakeTurn m) h

/-! ## Wakes (R376 to R378) -/

/-- A fresh boot with what DRAM keeps, and then the events that wait for it; on a node that boots from the ring they wait
for its package. -/
def freshWake (ok : Bool) (last : Nat) (kept : List (Nat × Nat)) (cs : List WakeCtx) (m : Mems) (h : Hw) : Hw :=
  let h := loseMems kept (clearForFresh last m h)
  if h.board.straps.bootSel = 7 then startRingBoot { h with power := { h.power with wakes := cs } }
  else
    let h := freshFlash ok m h
    if h.power.dev = .recovery then h else wakeTurns (wipeMems h.wipe m) cs h

/-- CTRL's part of a wake from SLEEP: what the stay turned off comes back. -/
def sleepUp (h : Hw) : Hw :=
  let h := domainsUp h
  senseAtFresh h

/-- The retention SRAM is bad: the wake goes on as a fresh boot that keeps no DRAM (R377). -/
def retentionLost (ok : Bool) (cs : List WakeCtx) (m : Mems) (h : Hw) : Hw :=
  let h := { h with cal := { h.cal with trims := [] } }
  let h := raiseHealth .retentionEcc Memory.retention.code 1 0 0
    { h with health := { h.health with cnt := countUncorrected .retention h.health.cnt } }
  freshWake ok 5 [] cs m h

/-- The device wakes from the state it is in. -/
def wakeFrom (env : WakeEnv) (cs : List WakeCtx) (m : Mems) (h : Hw) : Hw :=
  match h.power.dev with
  | .sleep =>
    let h := corrected .retention env.retentionFixed h
    if env.retentionBad then retentionLost env.flashOk cs m h else wakeTurns m cs (sleepUp h)
  | .deep => freshWake env.flashOk 3 (keptRanges h) cs m h
  | _ => freshWake env.flashOk 4 [] cs m h

/-! ## Where an event arrives (R372, R374, R379) -/

/-- The device is in a stay: SLEEP or DEEP, or OFF by a POWER slot. -/
def asleep (h : Hw) : Bool :=
  h.board.aonOn && h.board.resetN && h.board.railLow.isNone && h.power.entry.isNone && h.ring.bootBytes.isNone &&
    (h.power.dev == .sleep || h.power.dev == .deep || (h.power.dev == .off && h.power.slot.isSome))

/-- A source wakes from the state: in OFF, Bell is off and a pulse is forwarded only. -/
def wakesFrom (h : Hw) (s : WakeSource) : Bool := h.power.dev != .off || (s != .bell && s != .rwakeIn)

/-- A wake event is counted in the WAKE_FAIL latch. -/
def countWake (why : WakeFailure) (n : Nat) (h : Hw) : Hw :=
  { h with power := { h.power with wakeFail := some (why, satAdd 16 n 1) } }

/-- An entry is abandoned before its save (R372). -/
def abortEntry (e : Entry) (c : WakeCtx) (h : Hw) : Hw :=
  let h := leaveEntry h
  let h := if e.tier1 then bringT2 h else h
  resumeFetch (endStay 2 c.source false c.time (reportHost .entryAbort c.source 0 .active c.time h))

/-- AON latches an event during a save, once for each source. -/
def latchEvent (e : Entry) (c : WakeCtx) (h : Hw) : Hw :=
  let known (x : WakeSource × Nat) : Bool := x.1 == c.source
  if e.latched.any known then h
  else { h with power := { h.power with entry := some { e with latched := e.latched ++ [(c.source, c.time)] } } }

/-- An event during an entry. -/
def duringEntry (m : Mems) (e : Entry) (c : WakeCtx) (h : Hw) : Hw :=
  if e.saving then latchEvent e c h
  else match c.source with
    | .rwakeIn => startExcursion m 2 e.target .rwakeIn false { time := c.time } (leaveEntry h)
    | .bell => h
    | _ => abortEntry e c h

/-- A wake event from any source but Bell, with the device time that its reports carry. -/
def wakeEvent (source : WakeSource) (time : Nat) (env : WakeEnv) (m : Mems) (h : Hw) : Hw :=
  let c : WakeCtx := { source := source, time := time, prior := h.power.dev, heldBad := env.heldBad }
  if asleep h then
    if !wakesFrom h source then h
    else match h.power.wakeFail with
      | some (why, n) => countWake why n h
      | none => wakeFrom env [c] m h
  else match h.power.entry with
    | some e => duringEntry m e c h
    | none =>
      if !h.power.wakes.isEmpty then
        { h with power := { h.power with wakes := h.power.wakes ++ [{ c with mode := .acts }] } }
      else if h.up then actAwake m c h
      else h

/-! ## The sources (R163, R374, R383) -/

/-- WAKE_N_ACCEPT: WAKE_N has been low for 10 µs. -/
def execWakeNAccept (env : WakeEnv) (s : State) : Host.Outcome State Fault Refusal :=
  runSched (fun m h => if h.board.resetN then wakeEvent .wakeN h.power.time env m h else h) s

/-- VWAKE_ACCEPT: a rising edge of VWAKE is accepted (R20). -/
def execVwakeAccept (env : WakeEnv) (s : State) : Host.Outcome State Fault Refusal :=
  runSched (fun m h =>
    if inputsPowered h then wakeEvent .vwake h.power.time env m { h with board := { h.board with vwake := true } }
    else h) s

/-- The alarm's instant in ticks. -/
def alarmTicks (v : Nat) : Nat := 24000 * v

/-- RTC_ALARM: device time reaches the alarm, which is then removed. -/
def rtcEffect (env : WakeEnv) (m : Mems) (h : Hw) : Hw :=
  match h.power.alarm with
  | some v =>
    if h.board.aonOn then
      let h := passToTime (alarmTicks v) h
      wakeEvent .rtc h.power.time env m { h with power := { h.power with alarm := none } }
    else h
  | none => h

def execRtcAlarm (env : WakeEnv) (s : State) : Host.Outcome State Fault Refusal := runSched (rtcEffect env) s

/-- Device time of the edge whose pulse is accepted now: 50 µs to 52 µs ago, a free value within that bound (R158, R470, log
126). -/
def rwakeEdge (h : Hw) : Nat × Hw :=
  let (k, h) := drawNat h
  ((h.power.time + 2 ^ 64 - (usTicks 50 + k % 49)) % 2 ^ 64, h)

/-- RWAKE_IN_ACCEPT: outside its quiet time the node forwards the pulse, and acts on it in SLEEP, DEEP and an entry. While
VDD_AON is absent the package bypass joins RWAKE_IN to RWAKE_OUT, which follows it (R163). -/
def rwakeEffect (env : WakeEnv) (m : Mems) (h : Hw) : Hw :=
  if !h.board.aonOn then { h with board := { h.board with rwakeOut := true } }
  else if h.board.rwakeQuiet then h
  else let (t, h) := rwakeEdge h; wakeEvent .rwakeIn t env m (pulseOut h)

def execRwakeInAccept (env : WakeEnv) (s : State) : Host.Outcome State Fault Refusal := runSched (rwakeEffect env) s

/-! ## A wake that fails (R379) -/

/-- What the source's acceptance leaves, whether or not the wake succeeds. -/
def acceptSource (source : WakeSource) (h : Hw) : Hw :=
  match source with
  | .vwake => { h with board := { h.board with vwake := true } }
  | .rwakeIn => pulseOut h
  | .rtc =>
    let h := passToTime ((h.power.alarm.map alarmTicks).getD 0) h
    { h with power := { h.power with alarm := none } }
  | _ => h

/-- WAKE_FAIL: the wake fails in its first steps; the device stays as it was, the latch is set with its detail, FAULT_N is
asserted and the recovery port is to open. A later event is counted. -/
def wakeFailEffect (source : WakeSource) (why : WakeFailure) (h : Hw) : Hw :=
  if asleep h && wakesFrom h source && (source != .rtc || h.power.alarm.isSome) &&
      (source != .vwake || inputsPowered h) && (source != .rwakeIn || !h.board.rwakeQuiet) then
    let h := acceptSource source h
    match h.power.wakeFail with
    | some (first, n) => countWake first n h
    | none => setCause causeWakeFail
        { h with power := { h.power with wakeFail := some (why, 0) }, rvy := { h.rvy with opening := true } }
  else h

def execWakeFail (source : WakeSource) (why : WakeFailure) (s : State) : Host.Outcome State Fault Refusal :=
  run (fun _ h => wakeFailEffect source why h) s

/-! ## Bell (R152, R154, R155, R328) -/

/-- A class fires, in whatever state the device is; during a wake in progress it waits for the state reached (R155, R372). -/
def fireAny (env : WakeEnv) (m : Mems) (beat : Nat) (scores : List Nat) (h : Hw) (k : Nat) : Hw :=
  let f := bellFire h beat scores k
  let c : WakeCtx := { source := .bell, time := f.time, fire := f, prior := h.power.dev, heldBad := env.heldBad }
  if asleep h then
    if actionOf h k = 3 then countLatched k h
    else match h.power.wakeFail with
      | some (why, n) => countWake why n h
      | none => wakeFrom env [c] m h
  else if !h.power.wakes.isEmpty then { h with power := { h.power with wakes := h.power.wakes ++ [{ c with mode := .acts }] } }
  else fireAwake m f h

/-- An uncorrectable error in Bell's stores stops inference until they are loaded again. -/
def bellError (h : Hw) : Hw :=
  let h := if h.bell.dead then h else { h with
    bell := { h.bell with dead := true }
    health := { h.health with cnt := countUncorrected .bell h.health.cnt } }
  if h.bell.eccRaised then h
  else raiseHealth .bellEcc Memory.bell.code 1 0 0 { h with bell := { h.bell with eccRaised := true } }

/-- BELL_SCORES: the due beat's scores come in 10 ms after the beat at the latest; classes that fire act in increasing
order. -/
def bellScoresEffect (eccBad : Bool) (env : WakeEnv) (m : Mems) (h : Hw) : Hw :=
  match h.bell.due with
  | some b =>
    if bellRuns h then
      let h := corrected .bell env.bellFixed h
      let h := if eccBad then bellError h else h
      let scores := if h.bell.dead || !b.infer then none else some (bellScores16 h.bell.blob h.bell.rows.reverse)
      let (h, fired) := bellDecide scores h
      fired.foldl (fireAny env m b.beat (scores.getD [])) h
    else h
  | none => h

def execBellScores (eccBad : Bool) (env : WakeEnv) (s : State) : Host.Outcome State Fault Refusal :=
  runSched (bellScoresEffect eccBad env) s

/-! ## ENTRY_COMPLETE (R371, R372) -/

/-- What the cores keep through a stay. -/
def coreAsleep (c : Core) : Core :=
  { suspect := c.suspect, confirmed := c.confirmed, retired := c.retired, slice := c.slice, lastProbe := c.lastProbe
    due := c.due, overdue := c.overdue }

/-- SENSE at the end of an entry: off in OFF, and where the slot did not keep it. -/
def senseAsleep (e : Entry) (h : Hw) : Hw :=
  let off := e.target == .off || !e.keepSense
  let back := off && (h.drum.senseOn || h.power.senseBack)
  let h := if off && h.drum.senseOn then senseDown h else h
  { h with power := { h.power with senseBack := back } }

/-- The headers open: what no rule saves is lost (R357, R366). -/
def fallAsleep (e : Entry) (h : Hw) : Hw :=
  let h := senseAsleep e h
  let kept : List (Nat × Nat) := match e.target with
    | .sleep => [(0, reservedEnd), (windowBase, windowSize)]
    | .deep => keptRanges h
    | _ => []
  let h := loseMems kept h
  { h with
    wipe := some { keep := kept, window := e.target == .sleep }
    sched :=
      { arrivals := h.sched.arrivals, admissions := h.sched.admissions, cores := h.sched.cores.map coreAsleep
        quotas := h.sched.quotas, aboveThr := h.sched.aboveThr, aboveStop := h.sched.aboveStop }
    power := { h.power with
      dev := e.target, entry := none, ctrlOn := false, memOn := false, railMv := 500, railChange := none, railNext := none
      change := none, dip := none, phy := if e.target = .sleep then h.power.phy else none } }

/-- The order in which latched sources are replayed. -/
def replayOrder : List WakeSource := [.wakeN, .vwake, .rtc, .rwakeIn, .bell]

/-- The events that an entry has latched, the one that is replayed first; one that does not wake from the state reached
does nothing by itself (log 65). -/
def replayed (e : Entry) (h : Hw) : List WakeCtx :=
  let ctx (s : WakeSource) : Option WakeCtx := (e.latched.find? fun x => x.1 == s).map fun x =>
    { source := s, time := x.2, late := true, fire := e.fire.getD {}, prior := e.target }
  match (replayOrder.filter (wakesFrom h)).findSome? ctx with
  | some c =>
    let rest := (replayOrder.filter fun s => s != c.source).filterMap ctx
    c :: rest.map fun x => { x with mode := .reports }
  | none => []

/-- ENTRY_COMPLETE: step 10, and the replay of a latched wake. -/
def entryCompleteEffect (env : WakeEnv) (m : Mems) (h : Hw) : Hw :=
  match h.power.entry with
  | some e =>
    if e.saving && e.drained then
      let h := fallAsleep e h
      match replayed e h, h.power.wakeFail with
      | [], _ => h
      | cs, some (why, n) => countWake why (n + cs.length - 1) h
      | cs, none => wakeFrom env (cs.map fun c => { c with heldBad := env.heldBad }) (wipeMems h.wipe m) h
    else h
  | none => h

def execEntryComplete (env : WakeEnv) (s : State) : Host.Outcome State Fault Refusal :=
  runSched (entryCompleteEffect env) s

end Sys2Proof.Machine
end

