-- ==== Sys2Proof/Machine/Supply.lean ====
section
/-! DEFINITION. Power-on, RESET_N, supply resets and dips, PERST_N and the PCIe link (R364, R365, R368, R384 to R386, R440,
R441, R465). -/

namespace Sys2Proof.Machine

/-! ## VDD_AON (R368, R386, R441) -/

def execVddAonLoss (s : State) : Host.Outcome State Fault Refusal := run (fun _ h => aonLoss h) s

/-- AON_POWER_ON: VDD_AON comes up. Where RESET_N is high already, its rise is held until the rails are good (R441). -/
def aonPowerOnEffect (h : Hw) : Hw :=
  if h.board.aonOn then h
  else
    let h := aonReset h
    { h with board := { h.board with
        aonOn := true, resetHeld := h.board.resetN, railLow := if h.board.resetN then some .aon else none } }

def execAonPowerOn (s : State) : Host.Outcome State Fault Refusal := run (fun _ h => aonPowerOnEffect h) s

/-! ## RESET_N (R364, R441) -/

/-- RESET_N_RISE: the straps are sampled and a full boot runs; held while a rail is below its reset level. -/
def resetRiseEffect (env : BootEnv) (m : Mems) (h : Hw) : Hw :=
  if h.board.resetN then h
  else
    let h := { h with board := { h.board with resetN := true } }
    if !h.board.aonOn then h
    else if h.board.railLow.isSome then { h with board := { h.board with resetHeld := true } }
    else fullBoot true true (b2n h.board.strapsLatched) none env m h

def execResetNRise (env : BootEnv) (s : State) : Host.Outcome State Fault Refusal := runSched (resetRiseEffect env) s

/-- RESET_HOLD_END: every rail has been above its warning level for 1 ms. -/
def holdEndEffect (env : BootEnv) (m : Mems) (h : Hw) : Hw :=
  if h.board.resetHeld && h.board.aonOn && h.board.resetN then fullBoot true true 2 h.board.railLow env m h else h

def execResetHoldEnd (env : BootEnv) (s : State) : Host.Outcome State Fault Refusal := runSched (holdEndEffect env) s

/-- RESET_N_FALL: every domain except AON goes off. -/
def resetFallEffect (h : Hw) : Hw :=
  if h.board.resetN then
    let h := if h.board.aonOn then wipeAll (domainsOff h) else h
    { h with board := { h.board with resetN := false, resetHeld := false } }
  else h

def execResetNFall (s : State) : Host.Outcome State Fault Refusal := run (fun _ h => resetFallEffect h) s

/-! ## The monitors (R384, R459) -/

/-- The highest voltage in mV that may count as below a rail's warning level: VDD_ARRAY is held to what is commanded, while
it changes to the lower of the old and the new value. -/
def warningTop (h : Hw) : Rail → Nat
  | .array => (match h.power.railChange with
    | some r => min r.mv h.power.railMv
    | none => h.power.railMv) - 32
  | .ctrl => 710
  | .aon => 750
  | .vio => 1690

/-- The lowest and highest voltage in mV at which a rail's reset level may lie. -/
def resetBand : Rail → Nat × Nat
  | .array => (435, 465)
  | .ctrl => (635, 665)
  | .aon => (665, 695)
  | .vio => (1535, 1565)

/-- A rail at a voltage may cause a dip: below its warning level and not below its reset level. -/
def mayDip (h : Hw) (rail : Rail) (mv : Nat) : Bool := decide (mv < warningTop h rail) && decide ((resetBand rail).1 ≤ mv)

/-- A rail at a voltage may lie below its reset level. -/
def mayReset (rail : Rail) (mv : Nat) : Bool := decide (mv < (resetBand rail).2)

/-! ## Supply resets (R386) -/

/-- SUPPLY_RESET: a rail falls below its reset level. In OFF it only stands in the way of a boot (R364, R441). -/
def supplyResetEffect (rail : Rail) (h : Hw) : Hw :=
  if rail = .aon then aonLoss h
  else if !h.board.aonOn then h
  else
    let low (h : Hw) : Hw := { h with board := { h.board with railLow := some rail } }
    if h.power.dev != .off || h.power.ctrlOn then
      let h := wipeAll (domainsOff h)
      low { h with health := { h.health with resetRail := some rail } }
    else low h

def execSupplyReset (rail : Rail) (mv : Nat) (s : State) : Host.Outcome State Fault Refusal :=
  run (fun _ h => if mayReset rail mv then supplyResetEffect rail h else h) s

/-- SUPPLY_RESET_REBOOT: all rails have been above their warning levels for 1 ms: a full boot without resampling; where
RESET_N is low, or a stay in OFF has not been left, no boot is due. -/
def rebootEffect (env : BootEnv) (m : Mems) (h : Hw) : Hw :=
  if h.board.aonOn && h.board.railLow.isSome && !h.board.resetHeld then
    if h.board.resetN && h.power.slot.isNone then fullBoot false false 2 h.board.railLow env m h
    else { h with board := { h.board with railLow := none } }
  else h

def execSupplyResetReboot (env : BootEnv) (s : State) : Host.Outcome State Fault Refusal := runSched (rebootEffect env) s

/-- ACTIVATION_RESTART: a full boot without resampling. LAST_BOOT has no code for it: a free value (log 66). -/
def activationEffect (env : BootEnv) (m : Mems) (h : Hw) : Hw :=
  if h.up && h.update.restart then
    let (k, h) := drawNat h
    fullBoot false false (k % 16) none env m h
  else h

def execActivationRestart (env : BootEnv) (s : State) : Host.Outcome State Fault Refusal := runSched (activationEffect env) s

/-! ## Dips (R385) -/

/-- Graphs with a running piece are marked; a piece that only waits for its core's copy does not run (R301). -/
def warnRunning (h : Hw) : Hw :=
  let runs (x : Task) : Bool := x.pieces.any fun p => match p with
    | .running _ | .rerunning .. => true
    | _ => false
  let warn (g : Graph) : Graph :=
    if g.tasks.any runs then { g with flags := { g.flags with supplyWarn := true } } else g
  { h with sched := { h.sched with graphs := h.sched.graphs.map warn } }

/-- SUPPLY_DIP: every island runs at 300 MHz and only C0 issues; in SLEEP, DEEP and OFF the dip only counts. -/
def dipEffect (rail : Rail) (h : Hw) : Hw :=
  let count (h : Hw) : Hw := bump (fun c => { c with dips := satAdd 16 c.dips 1 }) h
  if !h.board.aonOn then h
  else match h.power.dev with
    | .active | .idle =>
      if h.power.dip.isSome then h
      else warnRunning (count { h with power := { h.power with dip := some (rail, h.power.elapsed) } })
    | .sleep | .deep | .off => count h
    | .recovery => h

def execSupplyDip (rail : Rail) (mv : Nat) (s : State) : Host.Outcome State Fault Refusal :=
  runSched (fun _ h => if mayDip h rail mv then dipEffect rail h else h) s

/-- DIP_END: the prior level is restored 200 µs after the rails have come back; SUPPLY_WARN names the rail and the length
in µs. -/
def dipEndEffect (h : Hw) : Hw :=
  match h.power.dip with
  | some (rail, since) =>
    let h := passUntil (since + usTicks 200) h
    let us := (h.power.elapsed - since) * 1000 / 24576
    raiseHealth .supplyWarn rail.code 7 us 0 (warnRunning { h with power := { h.power with dip := none } })
  | none => h

def execDipEnd (s : State) : Host.Outcome State Fault Refusal := runSched (fun _ h => dipEndEffect h) s

/-! ## The PCIe port (R365, R465) -/

/-- A running MOVE to or from a host window. -/
def hostMoves (h : Hw) : List PieceRef :=
  h.sched.graphs.flatMap fun g =>
    (List.range g.tasks.length).filterMap fun t =>
      let x := g.tasks.getD t {}
      let src := fld (wordAt x.desc 13) 0 2 == 0 && inHostWindow (addrAt x.desc 8)
      if x.st = .issued ∧ taskKind x.desc = kMove ∧ (src || inHostWindow (addrAt x.desc 10)) = true then
        some { graph := g.key, task := t, piece := 0 }
      else none

/-- The link goes down: MOVEs to and from the host fail. -/
def linkFalls (h : Hw) : Hw :=
  if h.sq.linkUp then
    (hostMoves h).foldl (fun h r => failTask r.graph r.task .failLink .pcieDown (modPiece r (fun _ => .done none 0) h))
      { h with sq := { h.sq with linkUp := false } }
  else h

def execPcieLinkDown (s : State) : Host.Outcome State Fault Refusal := runSched (fun _ h => linkFalls h) s

/-- The port may train: a host is strapped, PERST_N is high, CTRL serves at T2 or outside an excursion. -/
def pcieMayTrain (h : Hw) : Bool := h.hasHost && h.board.perstN && h.up && !atT1 h && !h.saving

/-- PCIE_LINK_UP: held records are written as the command ends. The first link after a wake comes up with the saved
configuration space, width and equalisation (R366, R376); after that the host's are in force. -/
def pcieLinkUpEffect (cfg : PcieCfg) (h : Hw) : Hw :=
  if pcieMayTrain h then
    { h with sq := { h.sq with linkUp := true, cfg := if h.sq.cfgKept.isSome then h.sq.cfg else cfg, cfgKept := none } }
  else h

def execPcieLinkUp (cfg : PcieCfg) (s : State) : Host.Outcome State Fault Refusal :=
  runSched (fun _ h => pcieLinkUpEffect cfg h) s

/-- PERST_N_ASSERT: the port and both functions' configuration space are reset, and nothing else. -/
def execPerstNAssert (s : State) : Host.Outcome State Fault Refusal :=
  runSched (fun _ h =>
    let h := linkFalls { h with board := { h.board with perstN := false } }
    { h with sq := { h.sq with cfg := {}, cfgKept := none } }) s

/-- PERST_N_RISE: the port may train again. -/
def execPerstNRise (s : State) : Host.Outcome State Fault Refusal :=
  quiet (fun h => { h with board := { h.board with perstN := true } }) s

end Sys2Proof.Machine
end

