-- ==== Sys2Proof/Machine/Time.lean ====
section
/-! DEFINITION. Device time: the TIME slots, the BEAT pin and the alarm's setting (R68, R107, R108, R381 to R383, R466). -/

namespace Sys2Proof.Machine

/-! ## Fields and results (R381, R382) -/

/-- OP of a TIME slot. -/
def timeOp (ws : List Word) : Nat := fld (wordAt ws 4) 0 3

/-- ON_BEAT, VALUE and BEAT_WAIT keep to the table. -/
def timeFieldsOk (ws : List Word) : Bool :=
  let op := timeOp ws
  let onBeat := bit (wordAt ws 4) 3
  (!onBeat || op == 1 || op == 2) && ((op != 0 && op != 4) || dwordAt ws 5 == 0) && (onBeat || fld (wordAt ws 7) 0 16 == 0)

/-- RESULT of a TIME slot (log 67). -/
def timeWords (before after : Nat) (h : Hw) : List Word :=
  w64 before ++ w64 after ++ w64 (h.power.alarm.getD 0) ++ [w32 (b2n h.power.alarm.isSome)]

/-! ## A write of device time (R68, R107, R382) -/

/-- The new device time of a SET or STEP; none where a STEP would go below zero. -/
def newTime (step : Bool) (value now : Nat) : Option Nat :=
  if step then
    let t : Int := (now : Int) + signedOf 64 value
    if t < 0 then none else some (t.toNat % 2 ^ 64)
  else some value

/-- Device time is written: integrators, chains and a calibration's measurement beat restart; the account's slot and the
escalation window end. -/
def writeTime (t : Nat) (h : Hw) : Hw :=
  let h := { h with power := { h.power with time := t } }
  let h := if h.drum.senseOn then calTimeWrite (retimeWaits (resetRunning (edgeFrom t) true (drumTimeWrite h))) else h
  { h with sched := { h.sched with account := (({} : AcctSlot) :: h.sched.account).take 32, windowCut := true } }

/-- A SET or STEP applies, and its slot completes. -/
def applyTime (f : TimeWait) (h : Hw) : Hw :=
  let before := h.power.time
  let record (st : Status) (ws : List Word) : Record :=
    { pos := f.pos, kind := kTime, status := st, tag := f.tag, result := ws }
  match newTime f.step f.value before with
  | some t =>
    let h := writeTime t h
    complete (record .done (timeWords before t h)) h
  | none => complete (record .refusedFormat []) h

/-! ## The device-time copy (R42) -/

/-- The instant of the next check: every 65,536 ticks from the load at SENSE's power-up (DESIGN CHOICE, log 147). -/
def copyCheckDue (h : Hw) : Nat :=
  let n := (h.power.elapsed - h.drum.copyCheck + 65535) / 65536
  h.drum.copyCheck + 65536 * max 1 n

/-- TIME_COPY_CHECK: at the next check's instant a difference of more than one tick reloads the copy, raises TIME_DRIFT,
resets the chains and spoils a calibration's open measurement beat (R42, R72, R107, R129). -/
def timeCopyEffect (diff : Int) (h : Hw) : Hw :=
  if h.drum.senseOn then
    let due := copyCheckDue h
    let h := passUntil due h
    let h := { h with drum := { h.drum with copyCheck := due } }
    if 1 < diff.natAbs then
      let h := { h with
        drum := { h.drum with copyDiff := 0, timeStep := true }
        health := { h.health with cnt := { h.health.cnt with timeDrifts := satAdd 16 h.health.cnt.timeDrifts 1 } } }
      raiseHealth .timeDrift 0 0 (patternOf 32 diff) 0 (calReload (resetRunning (edgeFrom h.power.time) true h))
    else { h with drum := { h.drum with copyDiff := diff } }
  else h

def execTimeCopyCheck (diff : Int) (s : State) : Host.Outcome State Fault Refusal :=
  run (fun _ h => timeCopyEffect diff h) s

/-! ## The slots -/

/-- A TIME command. -/
def runTime (op : Nat) (slot : Slot) (act : Fetched → Hw → Hw) (s : State) : Host.Outcome State Fault Refusal :=
  runSched (withSlot (isOp kTime 0 3 op) slot fun _ f h =>
    if timeFieldsOk f.words then act f h else refuse f .refusedFormat .none h) s

/-- TIME_READ. -/
def execTimeRead (slot : Slot) (s : State) : Host.Outcome State Fault Refusal :=
  runTime 0 slot (fun f h => doneWith f (timeWords h.power.time h.power.time h) h) s

/-- SET and STEP: at once, or at the next rising edge of BEAT. -/
def askTime (step : Bool) (f : Fetched) (h : Hw) : Hw :=
  let ms := fld (wordAt f.words 7) 0 16
  let w : TimeWait :=
    { pos := f.pos, tag := f.tag, step := step, value := dwordAt f.words 5, since := h.power.elapsed
      waitMs := if ms = 0 then 1000 else ms }
  if bit (wordAt f.words 4) 3 then { h with power := { h.power with timeWaits := h.power.timeWaits ++ [w] } }
  else applyTime w h

/-- TIME_SET. -/
def execTimeSet (slot : Slot) (s : State) : Host.Outcome State Fault Refusal := runTime 1 slot (askTime false) s

/-- TIME_STEP. -/
def execTimeStep (slot : Slot) (s : State) : Host.Outcome State Fault Refusal := runTime 2 slot (askTime true) s

/-- The alarm is replaced or removed; one that is reached already fires by the RTC_ALARM that follows (log 67). -/
def setAlarm (a : Option Nat) (f : Fetched) (h : Hw) : Hw :=
  let h := { h with power := { h.power with alarm := a } }
  doneWith f (timeWords h.power.time h.power.time h) h

/-- TIME_ALARM_SET. -/
def execTimeAlarmSet (slot : Slot) (s : State) : Host.Outcome State Fault Refusal :=
  runTime 3 slot (fun f h => setAlarm (some (dwordAt f.words 5)) f h) s

/-- TIME_ALARM_CLEAR. -/
def execTimeAlarmClear (slot : Slot) (s : State) : Host.Outcome State Fault Refusal := runTime 4 slot (setAlarm none) s

/-! ## BEAT (R107, R108, R381, R466) -/

/-- The instant at which a waiting write gives up, in elapsed ticks. -/
def timeWaitDue (w : TimeWait) : Nat := w.since + msTicks w.waitMs

/-- TIME_BEAT_TIMEOUT: the write that gives up first has seen no edge; time is unchanged. -/
def timeBeatEffect (h : Hw) : Hw :=
  match minBy (fun w => [(timeWaitDue w : Int)]) h.power.timeWaits with
  | some w =>
    let h := passUntil (timeWaitDue w) h
    let h := { h with power := { h.power with timeWaits := h.power.timeWaits.erase w } }
    complete { pos := w.pos, kind := kTime, status := .failTimeout, tag := w.tag, detail := .beatTimeout
               result := timeWords h.power.time h.power.time h } h
  | none => h

def execTimeBeatTimeout (s : State) : Host.Outcome State Fault Refusal := runSched (fun _ h => timeBeatEffect h) s

/-- BEAT_EDGE: running chains reset where BEAT_PIN_EN is set; waiting writes apply. -/
def beatEdgeEffect (h : Hw) : Hw :=
  if h.board.aonOn && h.board.resetN then
    let pinEn := match h.image.raw with
      | some r => r.beatPinEn
      | none => false
    let ws := h.power.timeWaits
    let noWrite := ws.all fun w => (newTime w.step w.value h.power.time).isNone
    let h := if pinEn && h.drum.senseOn && noWrite then resetRunning (edgeFrom h.power.time) false h else h
    ws.foldl (fun h w => applyTime w h) { h with power := { h.power with timeWaits := [] } }
  else h

def execBeatEdge (s : State) : Host.Outcome State Fault Refusal := runSched (fun _ h => beatEdgeEffect h) s

end Sys2Proof.Machine
end

