-- ==== Sys2Proof/Machine/Update.lean ====
section
/-! DEFINITION. The update slots: UPDATE_CHUNK, UPDATE_ACTIVATE and UPDATE_CONFIRM (R395, R396, R399, R400, R402, R404). -/

namespace Sys2Proof.Machine

/-! ## Results (R400) -/

/-- The nodes that this node knows to hold the package staged. -/
def stagedMask (m : Mems) (h : Hw) : Nat := withOwnBit h h.update.staged ((bootRec m h).state == .staged)

/-- RESULT of an UPDATE_CHUNK slot: bytes accepted for DATA and DISCARD, the mask, the head's STAGING_HASH. -/
def chunkResult (m : Mems) (roll : Bool) (h : Hw) : List Word :=
  chunkWords (if roll then 0 else h.update.download.accepted) 0 (stagedMask m h) (bootRec m h).stagingHash

/-- An UPDATE_CHUNK slot completes. -/
def endChunk (m : Mems) (f : Fetched) (st : Status) (d : Detail) (h : Hw) : Hw :=
  complete (f.record st d (chunkResult m (fld (wordAt f.words 4) 0 2 == 1) h)) h

/-- An UPDATE_CHUNK command: the checks of R399, then those of the OP (log 68). -/
def runChunk (op : Nat) (slot : Slot) (act : Mems → Fetched → Hw → Hw) (s : State) : Host.Outcome State Fault Refusal :=
  runSched (fun m h => withSlotOf (fun f h => chunkResult m (fld (wordAt f.words 4) 0 2 == 1) h)
    (isOp kUpdateChunk 0 2 op) slot (fun m f h =>
      match updateFault true h with
      | some d => endChunk m f .refusedState d h
      | none => act m f h) m h) s

/-! ## DATA (R400) -/

/-- OFFSET, SRC and BYTES of a DATA slot. -/
def dataOffset (ws : List Word) : Nat := (wordAt ws 5).toNat
def dataSource (ws : List Word) : Nat := addrAt ws 6
def dataBytes (ws : List Word) : Nat := (wordAt ws 8).toNat

/-- The fields of a DATA slot keep to the table. -/
def dataFieldsOk (ws : List Word) : Bool :=
  dataOffset ws % 64 == 0 && dataSource ws % 64 == 0 && decide (64 ≤ dataBytes ws) && decide (dataBytes ws ≤ 1048576) &&
    dataBytes ws % 64 == 0

/-- STAGING may not be written: an activation is open, or STAGING holds what an activation needs (log 69). -/
def stagingHeld (r : BootRec) : Bool := r.actOpen || (r.state != .confirmed && r.state != .staged)

/-- A chunk that repeats the last accepted one; the first of a package that is staged starts anew (log 69). -/
def repeatsLast (r : BootRec) (d : Download) (ws : List Word) : Bool :=
  d.lastBytes != 0 && dataOffset ws == d.lastOff && dataBytes ws == d.lastBytes && (dataOffset ws != 0 || r.state != .staged)

/-- A chunk that neither starts a download nor follows what has been accepted. -/
def outOfOrder (r : BootRec) (d : Download) (ws : List Word) : Bool :=
  dataOffset ws != 0 && (d.accepted == 0 || dataOffset ws != d.accepted || r.state == .staged)

/-- STAGING is cleared (R396). -/
def clearStaging (ok : Bool) (m : Mems) (h : Hw) : Hw :=
  let r := bootRec m h
  let h := saveRec ok m { r with state := .confirmed, stagingHash := noHash, stagingBytes := 0, stagingOld := false } h
  { h with update := { h.update with
      download := {}, staged := 0, rollHash := if h.update.role = .none then h.update.rollHash else [] } }

/-- A chunk is accepted: it waits for LOADER (R395). -/
def acceptChunk (f : Fetched) (data : List Byte) (h : Hw) : Hw :=
  let off := dataOffset f.words
  { h with update := { h.update with
      download := { accepted := off + data.length, lastOff := off, lastBytes := data.length }
      jobs := h.update.jobs ++ [.chunk h.power.elapsed f.pos f.tag off data] } }

/-- Why the chunk cannot be read, under the slot's master, as a MOVE's source (R316, R328, R465). -/
def sourceFault (h : Hw) (master a n : Nat) : Option (Status × Detail) :=
  if !moveRangeOk h (a, n) || !granted h master true false a n then some (.refusedAccess, .chunkAccess)
  else if inHostWindow a && !h.sq.linkUp then some (.failLink, .pcieDown)
  else if devBad h a n then some (.failEcc, .none)
  else none

/-- UPDATE_CHUNK DATA. -/
def chunkData (hostData : List Byte) (ok : Bool) (m : Mems) (f : Fetched) (h : Hw) : Hw :=
  let ws := f.words
  let r := bootRec m h
  let a := dataSource ws
  let n := dataBytes ws
  if !dataFieldsOk ws then endChunk m f .refusedFormat .none h
  else if stagingHeld r then endChunk m f .refusedState .activationOpen h
  else if repeatsLast r h.update.download ws then endChunk m f .done .none h
  else if outOfOrder r h.update.download ws then endChunk m f .refusedFormat .chunkOrder h
  else match sourceFault h f.master a n with
    | some (st, d) =>
      let h := match st with
        | .refusedAccess => countRefusal f.master a h
        | .failEcc => uncorrected (memoryAt a) (firstBad h a n) h
        | _ => h
      endChunk m f st d h
    | none =>
      let data := if inHostWindow a then fitTo n 0 hostData else readDev m h a n
      if dataOffset ws = 0 then
        if packageMax < packageLen (bytesWords (data.take 12)) then endChunk m f .refusedTooLarge .none h
        else acceptChunk f data (clearStaging ok m h)
      else acceptChunk f data h

def execUpdateChunkData (slot : Slot) (hostData : List Byte) (env : RollEnv) (s : State) :
    Host.Outcome State Fault Refusal :=
  runChunk 0 slot (chunkData hostData env.flashOk) s

/-- OFFSET and BYTES of the other OPs are zero. -/
def otherFieldsOk (ws : List Word) : Bool := wordAt ws 5 == 0 && wordAt ws 8 == 0

/-- UPDATE_CHUNK DISCARD. -/
def chunkDiscard (ok : Bool) (m : Mems) (f : Fetched) (h : Hw) : Hw :=
  if !otherFieldsOk f.words then endChunk m f .refusedFormat .none h
  else if stagingHeld (bootRec m h) then endChunk m f .refusedState .activationOpen h
  else endChunk m f .done .none (clearStaging ok m h)

def execUpdateChunkDiscard (slot : Slot) (env : RollEnv) (s : State) : Host.Outcome State Fault Refusal :=
  runChunk 2 slot (chunkDiscard env.flashOk) s

/-! ## ROLL (R400, R401) -/

/-- OFFER goes to the EAST neighbour, with the nodes that hold the package so far (log 70). -/
def sendOffer (mask : Nat) (h : Hw) : Hw := sendEast (rollCtl 0 0 0 h.update.rollHash mask 0 0) h

/-- UPDATE_CHUNK ROLL: a node by itself has rolled already; otherwise the roll begins. A second roll is refused while one
runs (log 69). -/
def chunkRoll (m : Mems) (f : Fetched) (h : Hw) : Hw :=
  let r := bootRec m h
  if !otherFieldsOk f.words then endChunk m f .refusedFormat .none h
  else if r.state != .staged then endChunk m f .refusedState .notStaged h
  else if h.update.rollSlot.isSome then endChunk m f .refusedState .none h
  else if soleNode h then
    endChunk m f .done .none { h with update := { h.update with staged := setBit 0 h.nodeId true } }
  else
    sendOffer (setBit 0 h.nodeId true) { h with update := { h.update with
      role := .sending, rollHash := r.stagingHash, rollSlot := some (f.pos, f.tag), staged := setBit 0 h.nodeId true } }

def execUpdateChunkRoll (slot : Slot) (s : State) : Host.Outcome State Fault Refusal := runChunk 1 slot chunkRoll s

/-! ## UPDATE_ACTIVATE (R402) -/

/-- RESULT of UPDATE_ACTIVATE and UPDATE_CONFIRM: the mask in words 7 to 14. -/
def maskResult (mask : Nat) : List Word := [0, 0] ++ maskWords mask

/-- The members of the node's ring as a mask. -/
def memberMask (h : Hw) : Nat := if soleNode h then setBit 0 h.nodeId true else maskOf h.ring.members

/-- The checks of R402 that the head makes by itself. -/
def activateFault (m : Mems) (h : Hw) : Option Detail :=
  let r := bootRec m h
  let t := targetMask (manifestAt m h stagingBase)
  if r.state != .staged then some .notStaged
  else if !subMask t (memberMask h) || !subMask t h.update.staged then some .notStaged
  else if bitOf t h.nodeId && h.update.ringBooted then some .ringBooted
  else if r.actOpen then some .activationOpen
  else none

/-- The node is marked for an activation: PENDING where TARGET names it, otherwise it only takes part (R396). -/
def markNode (ok restart : Bool) (m : Mems) (hash : List Word) (h : Hw) : Hw :=
  let r := bootRec m h
  let targeted := r.state == .staged && r.stagingHash == hash && targetNames (manifestAt m h stagingBase) h.nodeId
  let r' := { r with
    state := if targeted then .pending else r.state, actOpen := true, targeted := targeted, agreed := false, actHash := hash }
  let h := saveRec ok m r' h
  { h with update := { h.update with
      restart := h.update.restart || (restart && targeted), agreeFrom := none, confHash := [], confMask := 0 } }

/-- UPDATE_ACTIVATE: the head is marked when the frame has come round; a node by itself at once (log 71). -/
def activateEffect (ok : Bool) (m : Mems) (f : Fetched) (h : Hw) : Hw :=
  let restart := bit (wordAt f.words 4) 0
  match (updateFault true h).orElse fun _ => activateFault m h with
  | some d => complete (f.record .refusedState d (maskResult 0)) h
  | none =>
    let hash := (bootRec m h).stagingHash
    if soleNode h then
      complete (f.record .done .none (maskResult (setBit 0 h.nodeId true))) (markNode ok restart m hash h)
    else
      sendEast (rollCtl 5 0 0 hash 0 0 0)
        { h with update := { h.update with actSlot := some (f.pos, f.tag, restart), rollHash := hash } }

def execUpdateActivate (slot : Slot) (env : RollEnv) (s : State) : Host.Outcome State Fault Refusal :=
  runSched (withSlotOf (fun _ _ => maskResult 0) (isKind kUpdateActivate) slot (activateEffect env.flashOk)) s

/-! ## UPDATE_CONFIRM (R404) -/

/-- UPDATE_CONFIRM: the head confirms itself and sends CONFIRM round; a node by itself is done at once. -/
def confirmEffect (ok : Bool) (m : Mems) (f : Fetched) (h : Hw) : Hw :=
  let r := bootRec m h
  match updateFault false h with
  | some d => complete (f.record .refusedState d (maskResult 0)) h
  | none =>
    if !(r.actOpen && r.agreed) then complete (f.record .refusedState .notAgreed (maskResult 0)) h
    else
      let own := withOwnBit h 0 (inTrial r r.actHash)
      if soleNode h then complete (f.record .done .none (maskResult own)) (sendConfirm ok m r.actHash h)
      else sendConfirm ok m r.actHash { h with update := { h.update with confSlot := some (f.pos, f.tag) } }

def execUpdateConfirm (slot : Slot) (env : RollEnv) (s : State) : Host.Outcome State Fault Refusal :=
  runSched (withSlotOf (fun _ _ => maskResult 0) (isKind kUpdateConfirm) slot (confirmEffect env.flashOk)) s

end Sys2Proof.Machine
end

