-- ==== Sys2Proof/Machine/Roll.lean ====
section
/-! DEFINITION. The ring boot, the end of a formation, the roll's frames and those of an activation, and LOADER's flash work
(R355, R392, R395, R396, R401 to R404). A node acts on a frame of ROLL_CTL or ROLL_DATA and sends the next itself. -/

namespace Sys2Proof.Machine

/-! ## FORMATION_END (R346, R403, R404) -/

/-- RING_MIXED: a FORMED ring holds targeted nodes with differing ACTIVE_HASH, and no activation is open; the acting head
raises it. -/
def noteMixed (mixed : Bool) (m : Mems) (h : Hw) : Hw :=
  let r := bootRec m h
  if mixed && h.ring.st == .formed && actsAsHead h && !r.actOpen then raiseUpdate .ringMixed r h else h

def execFormationEnd (rttNs : Nat) (env : RollEnv) (s : State) : Host.Outcome State Fault Refusal :=
  runSched (fun m h =>
    if h.ring.st = .forming then runAgreement env.flashOk m (noteMixed env.mixed m (formationEffect rttNs h)) else h) s

/-! ## The ring boot (R355) -/

/-- The package that this node booted from: the one it took over the ring, or ACTIVE's. -/
def bootPackage (m : Mems) (h : Hw) : List Byte :=
  if h.update.ringBooted then h.ring.bootPkg else flashRead m h activeBase (packageLen (flashWords m h activeBase 3))

/-- A package in frames of 256 bytes: PARAM is the offset (R401; of BOOT_DATA log 72). -/
def sendPackage (type : Nat) (bytes : List Byte) (h : Hw) : Hw :=
  (frameChunks bytes).foldl (fun h (p : Nat × List Byte) =>
    originate .east { type := type, dst := h.ring.east.node.getD 0, vc := 3, param := w32 p.1, payload := p.2 } h) h

/-- BOOT_REQ from the EAST neighbour is answered in any ring state. -/
def bootReqEffect (s : Side) (f : Frame) (m : Mems) (h : Hw) : Hw :=
  if h.up then receive s f (consumed s f fun h => sendPackage 0x41 (bootPackage m h) h) h else h

def execBootReq (side : Side) (frame : Frame) (s : State) : Host.Outcome State Fault Refusal :=
  runSched (bootReqEffect side frame) s

/-- The image that a boot package holds for this node, if R22 accepts it. -/
def packageImage (h : Hw) (bytes : List Byte) : Option (List Byte) :=
  let head := bytesWords (bytes.take 64)
  if wordAt head 0 = w32 0x5A394D46 then
    (servingPart (partsOf (bytesWords (bytes.take (manifestLen head)))) 4 h.nodeId).bind fun p =>
      checkedImage h false ((bytes.drop p.off).take p.len)
  else none

/-- The ring after a ring boot: WEST stays up, EAST trains, and the node joins. -/
def joinRing (h : Hw) : Hw :=
  if ringInUse h then reform { h with ring := { h.ring with east := trainPort {} } }
  else ringUp h

/-- The whole package has come: the node boots from it, or goes to RECOVERY. -/
def ringBootDone (m : Mems) (bytes : List Byte) (h : Hw) : Hw :=
  match packageImage h bytes with
  | none => enterRecovery .ringBootFail h
  | some img =>
    let h := { h with
      ring := { h.ring with bootBytes := none, bootPkg := bytes }, update := { h.update with ringBooted := true } }
    let wakes := h.power.wakes
    let h := startImage (!wakes.isEmpty) true m img h
    if wakes.isEmpty then fullBootDone true m joinRing h
    else
      let h := senseAtFresh { h with power := { h.power with wakes := [] } }
      let h := if ringInUse h then joinRing h else h
      wakeTurns (wipeMems h.wipe m) wakes h

/-- BOOT_DATA: the bytes are taken in; the last of them ends the ring boot. -/
def bootDataEffect (s : Side) (f : Frame) (m : Mems) (h : Hw) : Hw :=
  match h.ring.bootBytes with
  | some bs => receive s f (consumed s f fun h =>
      let all := bs ++ f.payload
      let len := packageLen (bytesWords (all.take 12))
      if 12 ≤ all.length ∧ len ≤ all.length then ringBootDone m (all.take len) h
      else { h with ring := { h.ring with bootBytes := some all } }) h
  | none => h

def execBootData (side : Side) (frame : Frame) (s : State) : Host.Outcome State Fault Refusal :=
  runSched (bootDataEffect side frame) s

/-- RING_BOOT_TIMEOUT: nothing has answered within 2 s. -/
def execRingBootTimeout (s : State) : Host.Outcome State Fault Refusal :=
  runSched (fun _ h => if h.ring.bootBytes.isSome then enterRecovery .ringBootFail h else h) s

/-! ## Frames of the roll (R401) -/

/-- A frame of update traffic is taken by a running node. -/
def takes (s : Side) (f : Frame) (act : Hw → Hw) (h : Hw) : Hw :=
  if h.up then receive s f (consumed s f act) h else h

/-- A ROLL_CTL frame goes one hop WEST. -/
def sendWest (f : Frame) (h : Hw) : Hw := originate .west { f with dst := h.ring.west.node.getD 0 } h

/-- REASON of the vehicle inputs. -/
def inputReason : Detail → Nat
  | .motion => 1
  | .updLock => 2
  | _ => 3

/-- REFUSE with this node as SUBJECT. -/
def sendRefuse (reason : Nat) (hash : List Word) (h : Hw) : Hw := sendWest (rollCtl 3 h.nodeId reason hash 0 0 0) h

/-- A state whose STAGING may be overwritten, and from which an activation may start. -/
def restful (st : BootSt) : Bool := st == .confirmed || st == .staged

/-- Why a receiver refuses: checks 2 to 4 of R399, ACT_OPEN, and a STAGING that is needed (log 69). -/
def storeReason (m : Mems) (h : Hw) : Option Nat :=
  let r := bootRec m h
  match inputFault h h.image.system.vbatMin with
  | some d => some (inputReason d)
  | none => if r.actOpen then some 5 else if restful r.state then none else some 4

/-- The roll goes on from a node that holds the package: STAGED to a head that comes next, OFFER to any other (steps 1
and 6). -/
def passOn (m : Mems) (h : Hw) : Hw :=
  let mask := stagedMask m h
  if h.ring.east.node == h.ring.head then
    sendEast (rollCtl 4 0 0 h.update.rollHash mask 0 0) { h with update := { h.update with role := .none } }
  else sendOffer mask { h with update := { h.update with role := .sending } }

/-- OFFER at a receiver (step 2). -/
def offerEffect (f : Frame) (m : Mems) (h : Hw) : Hw :=
  let hash := ctlHash f
  match storeReason m h with
  | some n => sendRefuse n hash h
  | none =>
    let h := { h with update := { h.update with rollHash := hash, staged := ctlMask 0 f } }
    let r := bootRec m h
    if r.state = .staged ∧ r.stagingHash = hash then passOn m (sendWest (rollCtl 1 0 0 hash 0 0 0) h)
    else sendWest (rollCtl 2 0 0 hash 0 0 0) { h with update := { h.update with role := .receiving 0 } }

def execRollOffer (side : Side) (frame : Frame) (s : State) : Host.Outcome State Fault Refusal :=
  runSched (fun m h => takes side frame (offerEffect frame m) h) s

/-- This node has offered the package that an answer concerns. -/
def offered (f : Frame) (h : Hw) : Bool := h.update.role == .sending && h.update.rollHash == ctlHash f

/-- HAVE: the hop is done; the receiver has become the sender. -/
def haveEffect (f : Frame) (h : Hw) : Hw :=
  if offered f h then { h with update := { h.update with role := .none } } else h

def execRollHave (side : Side) (frame : Frame) (s : State) : Host.Outcome State Fault Refusal :=
  runSched (fun _ h => takes side frame (haveEffect frame) h) s

/-- NEED: the package goes out of STAGING (step 3). -/
def needEffect (f : Frame) (m : Mems) (h : Hw) : Hw :=
  if offered f h then
    sendPackage 0x50 (flashRead m h stagingBase (bootRec m h).stagingBytes)
      { h with update := { h.update with role := .none } }
  else h

def execRollNeed (side : Side) (frame : Frame) (s : State) : Host.Outcome State Fault Refusal :=
  runSched (fun m h => takes side frame (needEffect frame m) h) s

/-- STAGING is about to be overwritten by a roll (R396, R407). -/
def openStaging (m : Mems) (h : Hw) : Hw :=
  let u := h.update
  let h := clearStaging true m h
  { h with update := { h.update with role := u.role, rollHash := u.rollHash, staged := u.staged } }

/-- ROLL_DATA at a receiver: STAGING is programmed as the data arrives, in order; with the last byte LOADER is to check
(step 4). -/
def rollDataEffect (f : Frame) (ok : Bool) (m : Mems) (h : Hw) : Hw :=
  match h.update.role with
  | .receiving got =>
    if f.param.toNat = got ∧ got + f.payload.length ≤ packageMax then
      if !ok then sendRefuse 7 h.update.rollHash { h with update := { h.update with role := .none } }
      else
        let h := if got = 0 then openStaging m h else h
        let h := flashProgram (stagingBase + got) f.payload h
        let now := got + f.payload.length
        let len := packageLen (flashWords m h stagingBase 3)
        let done := decide (12 ≤ now) && (decide (len ≤ now) || decide (packageMax < len))
        { h with update := { h.update with
            role := .receiving now
            jobs := if done then h.update.jobs ++ [.rollStage h.power.elapsed h.update.rollHash] else h.update.jobs } }
    else h
  | _ => h

def execRollData (side : Side) (frame : Frame) (env : RollEnv) (s : State) : Host.Outcome State Fault Refusal :=
  runSched (fun m h => takes side frame (rollDataEffect frame env.flashOk m) h) s

/-- DETAIL of a slot that a REFUSE ends (log 73). -/
def reasonDetail (activation : Bool) (n : Nat) : Detail :=
  match n with
  | 1 => .motion
  | 2 => .updLock
  | 3 => .vbatLow
  | 4 => if activation then .ringBooted else .none
  | 5 => .activationOpen
  | _ => .none

/-- REFUSE at the head ends the activation, with a CLOSE, or the roll; any other node sends it on, its own part over. -/
def refuseEffect (f : Frame) (ok : Bool) (m : Mems) (h : Hw) : Hw :=
  let n := fld f.param 12 4
  let subject := fld f.param 4 8 + 256
  if h.update.actSlot.isSome then
    sendClose ok m (ctlHash f) (endRound .refusedState (reasonDetail true n) subject h)
  else if h.update.rollSlot.isSome then endRoll .refusedState (reasonDetail false n) subject h
  else if actsAsHead h then h
  else sendWest (rollCtl 3 (fld f.param 4 8) n (ctlHash f) 0 0 0) { h with update := { h.update with role := .none } }

def execRollRefuse (side : Side) (frame : Frame) (env : RollEnv) (s : State) : Host.Outcome State Fault Refusal :=
  runSched (fun m h => takes side frame (refuseEffect frame env.flashOk m) h) s

/-- STAGED at the head ends the roll; any other node sends it on. -/
def stagedEffect (f : Frame) (m : Mems) (h : Hw) : Hw :=
  let mask := ctlMask 0 f
  if actsAsHead h then
    if h.update.rollSlot.isSome && h.update.rollHash == ctlHash f then
      endRoll .done .none 0 { h with update := { h.update with staged := mask } }
    else h
  else sendEast (rollCtl 4 0 0 (ctlHash f) (withOwnBit h mask ((bootRec m h).stagingHash == ctlHash f)) 0 0) h

def execRollStaged (side : Side) (frame : Frame) (s : State) : Host.Outcome State Fault Refusal :=
  runSched (fun m h => takes side frame (stagedEffect frame m) h) s

/-- ROLL_TIMEOUT: 10 s without progress at a hop end the roll. -/
def rollTimeoutEffect (h : Hw) : Hw :=
  if h.update.role != .none || h.update.rollSlot.isSome then endRoll .failTimeout .rollTimeout 0 h else h

def execRollTimeout (s : State) : Host.Outcome State Fault Refusal := runSched (fun _ h => rollTimeoutEffect h) s

/-! ## Frames that go round (R402 to R404) -/

/-- Why a member refuses ACTIVATE. -/
def markReason (hash : List Word) (m : Mems) (h : Hw) : Option Nat :=
  let r := bootRec m h
  let targeted := r.stagingHash == hash && targetNames (manifestAt m h stagingBase) h.nodeId
  match inputFault h h.image.system.vbatMin with
  | some d => some (inputReason d)
  | none => if r.actOpen then some 5 else if !restful r.state || (targeted && h.update.ringBooted) then some 4 else none

/-- ACTIVATE at a member, and back at the head, whose slot completes (log 71). -/
def rollActivateEffect (f : Frame) (env : RollEnv) (m : Mems) (h : Hw) : Hw :=
  let hash := ctlHash f
  if actsAsHead h then
    match h.update.actSlot with
    | some (pos, tag, restart) =>
      let h := markNode env.flashOk restart m hash h
      complete { pos := pos, kind := kUpdateActivate, tag := tag, result := maskResult (withOwnBit h (ctlMask 0 f) true) }
        { h with update := { h.update with actSlot := none } }
    | none => h
  else match markReason hash m h with
    | some n => sendRefuse n hash h
    | none =>
      sendEast (rollCtl 5 0 0 hash (withOwnBit h (ctlMask 0 f) true) 0 0) (markNode env.flashOk env.restart m hash h)

def execRollActivate (side : Side) (frame : Frame) (env : RollEnv) (s : State) : Host.Outcome State Fault Refusal :=
  runSched (fun m h => takes side frame (rollActivateEffect frame env m) h) s

/-- AGREE at a member, and back at the head, which judges. -/
def rollAgreeEffect (f : Frame) (env : RollEnv) (m : Mems) (h : Hw) : Hw :=
  let hash := ctlHash f
  let (a, b, c) := (ctlMask 0 f, ctlMask 1 f, ctlMask 2 f)
  if actsAsHead h then
    if (agreementHash m h).map (·.1) = some hash then agreeDone env.flashOk env.settled m a b c h else h
  else
    let (a, b, c) := agreeMasks m h hash a b c
    sendEast (rollCtl 6 0 0 hash a b c) h

def execRollAgree (side : Side) (frame : Frame) (env : RollEnv) (s : State) : Host.Outcome State Fault Refusal :=
  runSched (fun m h => takes side frame (rollAgreeEffect frame env m) h) s

/-- VERDICT at a member; the head removes its own. -/
def rollVerdictEffect (f : Frame) (env : RollEnv) (m : Mems) (h : Hw) : Hw :=
  let hash := ctlHash f
  let reason := fld f.param 12 4
  if actsAsHead h then h
  else
    let acted := openFor (bootRec m h) hash
    let h := if reason = 0 then applyPass env.flashOk m hash h else applyRevert env.flashOk m hash h
    sendEast (rollCtl 7 0 reason hash (withOwnBit h (ctlMask 0 f) acted) 0 0) h

def execRollVerdict (side : Side) (frame : Frame) (env : RollEnv) (s : State) : Host.Outcome State Fault Refusal :=
  runSched (fun m h => takes side frame (rollVerdictEffect frame env m) h) s

/-- CONFIRM at a member, and back at the head, whose slot completes. -/
def rollConfirmEffect (f : Frame) (env : RollEnv) (m : Mems) (h : Hw) : Hw :=
  let hash := ctlHash f
  let mask := ctlMask 0 f
  if actsAsHead h then
    let h := match h.update.confSlot with
      | some (pos, tag) =>
        complete { pos := pos, kind := kUpdateConfirm, tag := tag, result := maskResult mask }
          { h with update := { h.update with confSlot := none } }
      | none => h
    noteConfirmed env.flashOk m hash mask h
  else
    let acted := inTrial (bootRec m h) hash
    sendEast (rollCtl 8 0 0 hash (withOwnBit h mask acted) 0 0) (applyConfirm env.flashOk m hash h)

def execRollConfirm (side : Side) (frame : Frame) (env : RollEnv) (s : State) : Host.Outcome State Fault Refusal :=
  runSched (fun m h => takes side frame (rollConfirmEffect frame env m) h) s

/-- CLOSE at a member; the head removes its own. -/
def rollCloseEffect (f : Frame) (env : RollEnv) (m : Mems) (h : Hw) : Hw :=
  let hash := ctlHash f
  if actsAsHead h then h
  else
    let acted := openFor (bootRec m h) hash
    sendEast (rollCtl 9 0 0 hash (withOwnBit h (ctlMask 0 f) acted) 0 0) (applyClose env.flashOk m hash h)

def execRollClose (side : Side) (frame : Frame) (env : RollEnv) (s : State) : Host.Outcome State Fault Refusal :=
  runSched (fun m h => takes side frame (rollCloseEffect frame env m) h) s

/-! ## LOADER's flash work (R395, R400) -/

/-- The package in STAGING has passed: STAGED in the record. -/
def recordStaged (ok : Bool) (m : Mems) (h : Hw) : Hw :=
  let ws := manifestAt m h stagingBase
  writeRec ok m { bootRec m h with
    state := .staged, stagingHash := manifestHash ws, stagingBytes := packageLen ws, stagingOld := false } h

/-- An UPDATE_CHUNK slot's record. -/
def chunkRecord (pos : Nat) (tag : Word) (st : Status) (d : Detail) (accepted : Nat) (m : Mems) (h : Hw) : Record :=
  { pos := pos, kind := kUpdateChunk, status := st, tag := tag, detail := d
    result := chunkWords accepted 0 (stagedMask m h) (bootRec m h).stagingHash }

/-- A chunk is programmed; the one that reaches PKG_BYTES completes after R392. A failed package is discarded. -/
def chunkWork (pos : Nat) (tag : Word) (off : Nat) (data : List Byte) (ok : Bool) (m : Mems) (h : Hw) : Hw :=
  let accepted := h.update.download.accepted
  let head := if off = 0 then bytesWords (data.take 12) else flashWords m h stagingBase 3
  let len := min packageMax (packageLen head)
  let h := flashProgram (stagingBase + off) (data.take (len - off)) h
  if off + data.length < len then complete (chunkRecord pos tag .done .none accepted m h) h
  else match packageFault m h stagingBase with
    | some d =>
      let h := { h with update := { h.update with download := {} } }
      complete (chunkRecord pos tag .refusedFormat d accepted m h) h
    | none =>
      let h := recordStaged ok m (stageTrims false m h)
      complete (chunkRecord pos tag .done .none accepted m h) h

/-- A receiver's trim block is written, its package checked and marked; the receiver becomes the sender (steps 4 and 5). -/
def rollStageWork (hash : List Word) (ok : Bool) (m : Mems) (h : Hw) : Hw :=
  let active := match h.update.role with
    | .receiving _ => true
    | _ => false
  let refuse (n : Nat) (h : Hw) : Hw :=
    if active then sendRefuse n hash { h with update := { h.update with role := .none } } else h
  if !ok then refuse 7 h
  else
    let h := stageTrims false m h
    if (packageFault m h stagingBase).isSome || manifestHash (manifestAt m h stagingBase) != hash then refuse 6 h
    else
      let h := recordStaged true m h
      if active then passOn m h else h

/-- LOADER_FLASH_WORK_DONE: the oldest item of flash work is done. A chunk that does not read back stays at the head of the
queue; where the last chunk's package has passed, `ok` speaks of its boot record (log 74). -/
def flashWorkEffect (ok : Bool) (m : Mems) (h : Hw) : Hw :=
  match h.update.jobs with
  | [] => h
  | j :: js =>
    if !h.up || !loaderTurn (jobCame j) h then h
    else
      let rest := { h with update := { h.update with jobs := js } }
      match j with
      | .chunk _ pos tag off data =>
        let last := decide (packageLen (if off = 0 then bytesWords (data.take 12) else flashWords m h stagingBase 3) ≤
          off + data.length)
        if ok || last then chunkWork pos tag off data ok m rest else h
      | .rollStage _ hash => rollStageWork hash ok m rest

def execLoaderFlashWorkDone (ok : Bool) (s : State) : Host.Outcome State Fault Refusal :=
  runSched (fun m h => flashWorkEffect ok m h) s

end Sys2Proof.Machine
end

