-- ==== Sys2Proof/Machine/Recovery.lean ====
section
/-! DEFINITION. The recovery port (R408 to R410): an SPI target that reaches the flash in RECOVERY, and reads it while
WAKE_FAIL is latched. -/

namespace Sys2Proof.Machine

/-! ## The port -/

/-- RECOVERY_PORT_OPEN: 1 ms after XSPI_RESET_N the flash is back in 1S-1S-1S and the port opens. -/
def portOpenEffect (h : Hw) : Hw :=
  if h.rvy.opening && h.board.aonOn then { h with rvy := { isOpen := true } } else h

def execRecoveryPortOpen (s : State) : Host.Outcome State Fault Refusal := quiet portOpenEffect s

/-- The port takes every command. -/
def portFull (h : Hw) : Bool := h.rvy.isOpen && h.power.dev == .recovery

/-- The port is open, at least to be read. -/
def portRead (h : Hw) : Bool := h.rvy.isOpen && (h.power.dev == .recovery || h.power.wakeFail.isSome)

/-- Bytes go out on RVY_MISO. -/
def portOut (bs : List Byte) (h : Hw) : Hw := { h with rvy := { h.rvy with out := bs } }

/-- A write in the flash may have ended by the time of a transaction: how long it takes is the flash's own, a free value
(log 75). WEL ends with the write. -/
def settleFlash (h : Hw) : Hw :=
  if h.rvy.busy then
    let (n, h) := drawNat h
    if n % 2 = 0 then { h with rvy := { h.rvy with busy := false, wel := false } } else h
  else h

/-- A transaction on the port; nothing comes out where it is not open. -/
def portTurn (may : Hw → Bool) (act : Hw → Hw) (h : Hw) : Hw :=
  let h := portOut [] h
  if may h then act (settleFlash h) else h

/-! ## IDENT and STATUS -/

/-- DETAIL of a latched WAKE_FAIL. -/
def wakeFailCode : WakeFailure → Nat
  | .avsFail => 1
  | .refFail => 2

/-- The words of IDENT (R409). -/
def identWords (h : Hw) : List Word :=
  let rvy := h.power.dev == .recovery
  let cause := if rvy then (h.power.cause.map Cause.code).getD 0 else 0
  let latch : Nat := match h.power.wakeFail with
    | some (why, n) => (if rvy then 0 else wakeFailCode why) + 65536 * n
    | none => 0
  [w32 0x5A390EC0, w32 ((if rvy then 1 else 2) + 256 * cause + 65536 * h.nodeId + 2 ^ 24 * h.board.romRev), w32 latch,
    w32 (h.board.flashId % 2 ^ 24), 0, 0, 0, 0]

def execRvyIdent (s : State) : Host.Outcome State Fault Refusal :=
  quiet (portTurn portRead fun h => portOut (wordsBytes (identWords h)) h) s

/-- The STATUS byte. -/
def statusByte (h : Hw) : Nat :=
  b2n h.rvy.busy + 2 * b2n h.rvy.wel + 4 * b2n h.rvy.windowErr + 128 * b2n (h.power.dev == .recovery)

/-- STATUS: the byte, and WINDOW_ERR is clear after it. -/
def statusEffect (h : Hw) : Hw :=
  { h with rvy := { h.rvy with out := [BitVec.ofNat 8 (statusByte h)], windowErr := false } }

def execRvyStatus (s : State) : Host.Outcome State Fault Refusal := quiet (portTurn portRead statusEffect) s

/-! ## READ -/

/-- READ: bytes for as long as RVY_CS_N stays low. What a flash in the middle of a write answers, and what lies beyond its
end, no rule states: free bytes (log 75). -/
def portReadEffect (m : Mems) (a n : Nat) (h : Hw) : Hw :=
  if h.rvy.busy then
    let (bs, h) := freeBytes n h
    portOut bs h
  else
    let inside := min n (flashSize - a)
    let (bs, h) := freeBytes (n - inside) h
    portOut (flashRead m h a inside ++ bs) h

def execRvyRead (addr : Word) (count : Nat) (s : State) : Host.Outcome State Fault Refusal :=
  run (fun m h => portTurn portRead (portReadEffect m addr.toNat count) h) s

/-! ## Erase and program -/

/-- WREN; a flash in the middle of a write does not take it (log 75). -/
def wrenEffect (h : Hw) : Hw := if h.rvy.busy then h else { h with rvy := { h.rvy with wel := true } }

def execRvyWren (s : State) : Host.Outcome State Fault Refusal := quiet (portTurn portFull wrenEffect) s

/-- Every byte of a range lies in the writable window. -/
def inRvyWindow (a n : Nat) : Bool :=
  decide (a + n ≤ 0x00002000) || (decide (0x01810000 ≤ a) && decide (a + n ≤ 0x0300F000))

/-- A command that may pass to the flash does so, or it is dropped with WINDOW_ERR; the flash acts on it with WEL set and
no write in progress (log 75). -/
def flashCommand (passes : Bool) (act : Hw → Hw) (h : Hw) : Hw :=
  if !passes then { h with rvy := { h.rvy with windowErr := true } }
  else if h.rvy.wel && !h.rvy.busy then act { h with rvy := { h.rvy with busy := true } }
  else h

/-- An erase; an address that is not aligned is none of the table's commands and is dropped (log 76). -/
def eraseEffect (a n : Nat) (h : Hw) : Hw := flashCommand (a % n == 0 && inRvyWindow a n) (flashErase a n) h

def execRvyErase4k (addr : Word) (s : State) : Host.Outcome State Fault Refusal :=
  run (fun _ h => portTurn portFull (eraseEffect addr.toNat 4096) h) s

def execRvyErase64k (addr : Word) (s : State) : Host.Outcome State Fault Refusal :=
  run (fun _ h => portTurn portFull (eraseEffect addr.toNat 65536) h) s

/-- Bytes programmed over what the flash holds: a program only clears bits (log 75). -/
def programmed (old new : List Byte) : List Byte := List.zipWith (fun x y => x &&& y) old new

/-- PROGRAM of 1 to 256 bytes within one page; any other is dropped (log 76). -/
def programEffect (m : Mems) (a : Nat) (data : List Byte) (h : Hw) : Hw :=
  let n := data.length
  let fits := decide (1 ≤ n) && decide (a % 256 + n ≤ 256)
  flashCommand (fits && inRvyWindow a n) (fun h => flashProgram a (programmed (flashRead m h a n) data) h) h

def execRvyProgram (addr : Word) (data : List Byte) (s : State) : Host.Outcome State Fault Refusal :=
  run (fun m h => portTurn portFull (programEffect m addr.toNat data) h) s

/-- Any other opcode is ignored. -/
def execRvyUnknownOpcode (_opcode : Byte) (s : State) : Host.Outcome State Fault Refusal := quiet (portOut []) s

end Sys2Proof.Machine
end

