-- ==== Sys2Proof/Machine/Health.lean ====
section
/-! DEFINITION. HEALTH_READ: the health pages, the log's copy and the acknowledgement of causes (R425 to R428, R476). -/

namespace Sys2Proof.Machine

/-- A HEALTH_READ command. -/
def runHealth (op : Nat) (slot : Slot) (act : Mems → Fetched → Hw → Hw) (s : State) : Host.Outcome State Fault Refusal :=
  runSched (withSlot (isOp kHealthRead 0 2 op) slot act) s

/-- The fields that an OP does not use are zero (R425): PAGE of word 4, ACK_MASK, DEST_LO. -/
def healthFieldsOk (ws : List Word) : Bool :=
  let op := fld (wordAt ws 4) 0 2
  (if op = 0 then fld (wordAt ws 4) 2 2 != 3 else fld (wordAt ws 4) 2 2 == 0) && (op == 2 || wordAt ws 5 == 0) &&
    (op == 1 || wordAt ws 6 == 0)

/-! ## Pages (R426 to R428) -/

/-- A mask over the cores. -/
def coreMask (h : Hw) (f : Core → Bool) : Nat :=
  ((List.range 32).map fun c => if f (coreOf h c) then 2 ^ c else 0).sum

/-- Two bits of each core. -/
def corePairs (h : Hw) (f : Core → Nat) : Nat := ((List.range 32).map fun c => f (coreOf h c) * 4 ^ c).sum

/-- Page 0, SUMMARY. -/
def summaryPage (m : Mems) (h : Hw) : List Word :=
  let l := h.health
  [w32 (h.board.enabled + 64 * (usableCores h).length + 4096 * h.nodeId + 2 ^ 20 * l.lastBoot + 2 ^ 24 * l.lastRecovery),
    w32 (l.causes + 65536 * h.image.configFaults), w32 (coreMask h (·.retired)), w32 (h.cal.stuck % 2 ^ 32),
    w32 (b2n (bitOf h.cal.stuck 32) + 2 * b2n h.power.marginsOff + 4 * b2n h.power.clockHeld)] ++
  w64 h.image.serial ++ w64 l.bootTime ++ [w32 l.logNext, w32 l.logOldest, w32 l.logLost] ++
  fitTo 12 0 (bootRec m h).activeHash

/-- Page 1, CORES. -/
def coresPage (tmax : Nat) (h : Hw) : List Word :=
  let c := h.health.cnt
  w64 (corePairs h fun k => min 2 k.confirmed) ++ w64 (corePairs h fun k => min 3 k.suspect) ++
  [w32 (coreMask h (·.overdue))] ++ w64 c.probeSlices ++
  [w32 c.probeFails, w32 c.datapathFails, w32 c.residueFails, w32 c.replayAbandons, w32 c.stalls, w32 c.reruns,
    w32 c.failCores] ++
  w64 c.replaysM0 ++ w64 c.replaysMargin ++ [w32 c.escalations, w32 tmax, w32 c.thermalClocks, w32 c.thermalTrips]

/-- REFUSALS of master 2k and 2k + 1. -/
def refusalWord (c : Counters) (k : Nat) : Word := w32 (c.refusals.getD (2 * k) 0 + 65536 * c.refusals.getD (2 * k + 1) 0)

/-- Page 2, MEMORY_LINKS. -/
def linksPage (h : Hw) : List Word :=
  let c := h.health.cnt
  [w32 c.csCe, w32 c.csUe, w32 c.dramCe, w32 c.dramUe, w32 c.linkCe, w32 c.scrubUe, w32 c.otherCe, w32 c.otherUe,
    w32 c.refusedAddr, w32 (c.refusedAddr / 2 ^ 32 % 65536 + 65536 * (c.refusedMaster % 16) + 2 ^ 20 * b2n c.refusedValid)] ++
  (List.range 8).map (refusalWord c) ++
  [w32 (c.crcE % 65536 + 65536 * c.crcW), w32 (c.retrainE + 256 * c.retrainW + 65536 * c.downE + 2 ^ 24 * c.downW),
    w32 c.stomped, w32 (c.badType % 65536 + 65536 * c.barrierCrc), w32 (c.timeDrifts % 65536 + 65536 * c.dips),
    w32 (c.doorbellRejects % 65536 + 65536 * c.eventsLost), w32 c.biasBeats, w32 c.hvLowBeats]

/-- TMAX_PEAK; before the first reading of a boot no rule states it: a free value (log 77). -/
def tmaxField (h : Hw) : Nat × Hw :=
  if h.health.cnt.tmaxPeak = -32768 then
    let (n, h) := drawNat h
    (n % 65536, h)
  else (patternOf 16 h.health.cnt.tmaxPeak, h)

/-- HEALTH_READ PAGE. -/
def pageEffect (m : Mems) (f : Fetched) (h : Hw) : Hw :=
  if !healthFieldsOk f.words then refuse f .refusedFormat .none h
  else match fld (wordAt f.words 4) 2 2 with
    | 0 => doneWith f (summaryPage m h) h
    | 1 =>
      let (t, h) := tmaxField h
      doneWith f (coresPage t h) h
    | _ => doneWith f (linksPage h) h

def execHealthReadPage (slot : Slot) (s : State) : Host.Outcome State Fault Refusal := runHealth 0 slot pageEffect s

/-! ## LOG (R425, R476) -/

/-- A SEQ that is another or later than it (R143). -/
def fromSeq (first n : Nat) : Bool := n == first || laterSeq n first

/-- Entries in SEQ order. -/
def insertSeq (e : Nat × List Byte) : List (Nat × List Byte) → List (Nat × List Byte)
  | [] => [e]
  | x :: xs => if laterSeq x.1 e.1 then e :: x :: xs else x :: insertSeq e xs

/-- SEQ and bytes of the log's entries from a SEQ on: those programmed, torn ones skipped, and those still in the buffer
(log 78). -/
def entriesFrom (m : Mems) (h : Hw) (first : Nat) : List (Nat × List Byte) :=
  let stored := (logEntriesOf m h).map fun e => (e.1, logBytes m h e.2)
  let waiting := h.health.buffer.map fun e => (e.seq, healthBytes e)
  ((stored ++ waiting).filter fun e => fromSeq first e.1).foldl (fun l e => insertSeq e l) []

/-- Why the entries cannot be written: DEST is checked as a MOVE's destination, over COUNT entries (log 78). -/
def logFault (h : Hw) (master a n : Nat) : Option (Status × Detail) :=
  if !moveRangeOk h (a, n) || !granted h master false true a n then some (.refusedAccess, .logAccess)
  else if inHostWindow a && !h.sq.linkUp then some (.failLink, .pcieDown)
  else if devBadPartly h a n then some (.failEcc, .none)
  else none

/-- Bytes written at a MOVE's destination; in a window that has peers they go round as units (log 78). -/
def writeLog (master a : Nat) (bs : List Byte) (h : Hw) : Hw :=
  if inHostWindow a || decide (a < windowBase) || (windowLone h && h.ring.winOpen) then writeDev a bs h
  else queueUnits { graph := slotUnits master } (a - windowBase) bs h

/-- HEALTH_READ LOG. -/
def logReadEffect (m : Mems) (f : Fetched) (h : Hw) : Hw :=
  let ws := f.words
  let a := addrAt ws 6
  let count := fld (wordAt ws 9) 0 13
  if !healthFieldsOk ws || a % 64 != 0 || count == 0 || decide (4096 < count) then refuse f .refusedFormat .none h
  else match logFault h f.master a (32 * count) with
    | some (st, d) =>
      let h := match st with
        | .refusedAccess => countRefusal f.master a h
        | .failEcc => uncorrected (memoryAt a) (firstBad h a (32 * count)) h
        | _ => h
      refuse f st d h
    | none =>
      let es := (entriesFrom m h (wordAt ws 8).toNat).take count
      let h := if es.isEmpty then h else writeLog f.master a (es.flatMap (·.2)) h
      doneWith f [w32 es.length, w32 ((es.head?.map (·.1)).getD 0), w32 h.health.logNext, w32 h.health.logOldest] h

def execHealthReadLog (slot : Slot) (s : State) : Host.Outcome State Fault Refusal := runHealth 1 slot logReadEffect s

/-! ## ACK (R422, R425) -/

/-- HEALTH_READ ACK. -/
def ackEffect (f : Fetched) (h : Hw) : Hw :=
  if !healthFieldsOk f.words then refuse f .refusedFormat .none h
  else
    let mask := fld (wordAt f.words 5) 0 16
    let causes := causesAfterAck h.health.causes mask
    doneWith f [w32 (causes + 65536 * notAck mask)] { h with health := { h.health with causes := causes } }

def execHealthReadAck (slot : Slot) (s : State) : Host.Outcome State Fault Refusal := runHealth 2 slot (fun _ => ackEffect) s

end Sys2Proof.Machine
end

