-- ==== Sys2Proof/Machine/Dispatch.lean ====
section
/-! DEFINITION. One arm per command: a direct call of its meaning. -/

namespace Sys2Proof.Machine

open Sys2Proof

def exec (i : Instr) (s : State) : Host.Outcome State Fault Refusal :=
  match i with
  | .aonPowerOn => Sys2Proof.Machine.execAonPowerOn s
  | .vddAonLoss => Sys2Proof.Machine.execVddAonLoss s
  | .resetNRise env => Sys2Proof.Machine.execResetNRise env s
  | .resetHoldEnd env => Sys2Proof.Machine.execResetHoldEnd env s
  | .resetNFall => Sys2Proof.Machine.execResetNFall s
  | .supplyReset rail mv => Sys2Proof.Machine.execSupplyReset rail mv s
  | .supplyResetReboot env => Sys2Proof.Machine.execSupplyResetReboot env s
  | .supplyDip rail mv => Sys2Proof.Machine.execSupplyDip rail mv s
  | .dipEnd => Sys2Proof.Machine.execDipEnd s
  | .perstNAssert => Sys2Proof.Machine.execPerstNAssert s
  | .perstNRise => Sys2Proof.Machine.execPerstNRise s
  | .motionChange level => Sys2Proof.Machine.execMotionChange level s
  | .updLockChange level => Sys2Proof.Machine.execUpdLockChange level s
  | .vwakeAccept env => Sys2Proof.Machine.execVwakeAccept env s
  | .vbatSenseConversion code => Sys2Proof.Machine.execVbatSenseConversion code s
  | .vsenseHvLoss => Sys2Proof.Machine.execVsenseHvLoss s
  | .vsenseHvLow mv => Sys2Proof.Machine.execVsenseHvLow mv s
  | .vsenseHvRestored mv => Sys2Proof.Machine.execVsenseHvRestored mv s
  | .doorbellWrite fn value => Sys2Proof.Machine.execDoorbellWrite fn value s
  | .bar0IgnoredWrite fn offset value => Sys2Proof.Machine.execBar0IgnoredWrite fn offset value s
  | .slotUnknownKind slot => Sys2Proof.Machine.execSlotUnknownKind slot s
  | .graph slot => Sys2Proof.Machine.execGraph slot s
  | .graphCheck fixed => Sys2Proof.Machine.execGraphCheck fixed s
  | .budget slot => Sys2Proof.Machine.execBudget slot s
  | .powerSetPlevel slot => Sys2Proof.Machine.execPowerSetPlevel slot s
  | .powerSleep slot wakeNLow => Sys2Proof.Machine.execPowerSleep slot wakeNLow s
  | .powerDeep slot wakeNLow => Sys2Proof.Machine.execPowerDeep slot wakeNLow s
  | .powerOff slot wakeNLow => Sys2Proof.Machine.execPowerOff slot wakeNLow s
  | .powerSenseOff slot => Sys2Proof.Machine.execPowerSenseOff slot s
  | .powerSenseOn slot => Sys2Proof.Machine.execPowerSenseOn slot s
  | .domainDrainEnd => Sys2Proof.Machine.execDomainDrainEnd s
  | .entryComplete env => Sys2Proof.Machine.execEntryComplete env s
  | .updateChunkData slot hostData env => Sys2Proof.Machine.execUpdateChunkData slot hostData env s
  | .updateChunkRoll slot => Sys2Proof.Machine.execUpdateChunkRoll slot s
  | .updateChunkDiscard slot env => Sys2Proof.Machine.execUpdateChunkDiscard slot env s
  | .updateActivate slot env => Sys2Proof.Machine.execUpdateActivate slot env s
  | .updateConfirm slot env => Sys2Proof.Machine.execUpdateConfirm slot env s
  | .eventPost slot => Sys2Proof.Machine.execEventPost slot s
  | .calibrate slot => Sys2Proof.Machine.execCalibrate slot s
  | .streamOpen slot => Sys2Proof.Machine.execStreamOpen slot s
  | .streamClose slot => Sys2Proof.Machine.execStreamClose slot s
  | .streamReset slot => Sys2Proof.Machine.execStreamReset slot s
  | .streamSwapOut slot => Sys2Proof.Machine.execStreamSwapOut slot s
  | .streamSwapIn slot => Sys2Proof.Machine.execStreamSwapIn slot s
  | .streamQuery slot => Sys2Proof.Machine.execStreamQuery slot s
  | .healthReadPage slot => Sys2Proof.Machine.execHealthReadPage slot s
  | .healthReadLog slot => Sys2Proof.Machine.execHealthReadLog slot s
  | .healthReadAck slot => Sys2Proof.Machine.execHealthReadAck slot s
  | .syncSync slot => Sys2Proof.Machine.execSyncSync slot s
  | .syncStart slot => Sys2Proof.Machine.execSyncStart slot s
  | .syncStop slot => Sys2Proof.Machine.execSyncStop slot s
  | .syncSelect slot => Sys2Proof.Machine.execSyncSelect slot s
  | .timeRead slot => Sys2Proof.Machine.execTimeRead slot s
  | .timeSet slot => Sys2Proof.Machine.execTimeSet slot s
  | .timeStep slot => Sys2Proof.Machine.execTimeStep slot s
  | .timeAlarmSet slot => Sys2Proof.Machine.execTimeAlarmSet slot s
  | .timeAlarmClear slot => Sys2Proof.Machine.execTimeAlarmClear slot s
  | .timeBeatTimeout => Sys2Proof.Machine.execTimeBeatTimeout s
  | .beatBoundary samples barrierOk => Sys2Proof.Machine.execBeatBoundary samples barrierOk s
  | .timeCopyCheck diff => Sys2Proof.Machine.execTimeCopyCheck diff s
  | .channelSettled channel => Sys2Proof.Machine.execChannelSettled channel s
  | .halfbandSample chain bits => Sys2Proof.Machine.execHalfbandSample chain bits s
  | .spikeQuietReturn chain => Sys2Proof.Machine.execSpikeQuietReturn chain s
  | .rawFilterSample chain => Sys2Proof.Machine.execRawFilterSample chain s
  | .fadeEnd chain => Sys2Proof.Machine.execFadeEnd chain s
  | .muffleEnd chain => Sys2Proof.Machine.execMuffleEnd chain s
  | .thresholdRise chain => Sys2Proof.Machine.execThresholdRise chain s
  | .thresholdFall chain => Sys2Proof.Machine.execThresholdFall chain s
  | .rawBlockClose chain barrierOk => Sys2Proof.Machine.execRawBlockClose chain barrierOk s
  | .chainReset chain => Sys2Proof.Machine.execChainReset chain s
  | .beatEdge => Sys2Proof.Machine.execBeatEdge s
  | .measurementBeat sample => Sys2Proof.Machine.execMeasurementBeat sample s
  | .channelStuck => Sys2Proof.Machine.execChannelStuck s
  | .calPhaseSettled => Sys2Proof.Machine.execCalPhaseSettled s
  | .calTakeover => Sys2Proof.Machine.execCalTakeover s
  | .calHandback => Sys2Proof.Machine.execCalHandback s
  | .calTimeout => Sys2Proof.Machine.execCalTimeout s
  | .calRevertEnd => Sys2Proof.Machine.execCalRevertEnd s
  | .calStore verify1 verify2 cut => Sys2Proof.Machine.execCalStore verify1 verify2 cut s
  | .bellScores eccBad env => Sys2Proof.Machine.execBellScores eccBad env s
  | .verdictTimeout => Sys2Proof.Machine.execVerdictTimeout s
  | .rwakeInAccept env => Sys2Proof.Machine.execRwakeInAccept env s
  | .rwakeOutPulseEnd => Sys2Proof.Machine.execRwakeOutPulseEnd s
  | .rwakeQuietEnd => Sys2Proof.Machine.execRwakeQuietEnd s
  | .wakeNAccept env => Sys2Proof.Machine.execWakeNAccept env s
  | .rtcAlarm env => Sys2Proof.Machine.execRtcAlarm env s
  | .wakeFail source why => Sys2Proof.Machine.execWakeFail source why s
  | .idleEntry => Sys2Proof.Machine.execIdleEntry s
  | .islandGate core => Sys2Proof.Machine.execIslandGate core s
  | .railChangeComplete reply => Sys2Proof.Machine.execRailChangeComplete reply s
  | .accountSlot temps => Sys2Proof.Machine.execAccountSlot temps s
  | .thermalClockEnd => Sys2Proof.Machine.execThermalClockEnd s
  | .thermalTripEnd => Sys2Proof.Machine.execThermalTripEnd s
  | .escalationWindow cycles => Sys2Proof.Machine.execEscalationWindow cycles s
  | .pieceComplete ref env => Sys2Proof.Machine.execPieceComplete ref env s
  | .bellCommitStored ref verified fixed => Sys2Proof.Machine.execBellCommitStored ref verified fixed s
  | .waitComplete ref => Sys2Proof.Machine.execWaitComplete ref s
  | .waitTimeout ref => Sys2Proof.Machine.execWaitTimeout ref s
  | .genWaitTimeout ref => Sys2Proof.Machine.execGenWaitTimeout ref s
  | .streamCopyComplete stream bad fixed => Sys2Proof.Machine.execStreamCopyComplete stream bad fixed s
  | .shadowReplay core repeated => Sys2Proof.Machine.execShadowReplay core repeated s
  | .replayAbandon core => Sys2Proof.Machine.execReplayAbandon core s
  | .sequencerStall core => Sys2Proof.Machine.execSequencerStall core s
  | .coreFault core check => Sys2Proof.Machine.execCoreFault core check s
  | .coreFaultCopyDone core badTiles fixed => Sys2Proof.Machine.execCoreFaultCopyDone core badTiles fixed s
  | .probeOverdue core => Sys2Proof.Machine.execProbeOverdue core s
  | .probeSliceComplete core matched fixed => Sys2Proof.Machine.execProbeSliceComplete core matched fixed s
  | .dramScrub fixed badLines => Sys2Proof.Machine.execDramScrub fixed badLines s
  | .healthLogWrite => Sys2Proof.Machine.execHealthLogWrite s
  | .linkUp side width test => Sys2Proof.Machine.execLinkUp side width test s
  | .linkTrainTimeout side => Sys2Proof.Machine.execLinkTrainTimeout side s
  | .linkRetry side => Sys2Proof.Machine.execLinkRetry side s
  | .retrain side width test => Sys2Proof.Machine.execRetrain side width test s
  | .frameCrcFail side inverted copy => Sys2Proof.Machine.execFrameCrcFail side inverted copy s
  | .linkAckTimer side => Sys2Proof.Machine.execLinkAckTimer side s
  | .linkAck side frame => Sys2Proof.Machine.execLinkAck side frame s
  | .linkNak side frame => Sys2Proof.Machine.execLinkNak side frame s
  | .ident side node theirSide width role => Sys2Proof.Machine.execIdent side node theirSide width role s
  | .unknownFrame side frame => Sys2Proof.Machine.execUnknownFrame side frame s
  | .rollCall side frame => Sys2Proof.Machine.execRollCall side frame s
  | .formationEnd rttNs env => Sys2Proof.Machine.execFormationEnd rttNs env s
  | .agreementTimer env => Sys2Proof.Machine.execAgreementTimer env s
  | .winUnit side frame => Sys2Proof.Machine.execWinUnit side frame s
  | .winUnitTimeout => Sys2Proof.Machine.execWinUnitTimeout s
  | .winCopyReq side frame => Sys2Proof.Machine.execWinCopyReq side frame s
  | .winCopyData side frame => Sys2Proof.Machine.execWinCopyData side frame s
  | .putData side frame last => Sys2Proof.Machine.execPutData side frame last s
  | .putAck side frame => Sys2Proof.Machine.execPutAck side frame s
  | .getReq side frame => Sys2Proof.Machine.execGetReq side frame s
  | .getData side frame => Sys2Proof.Machine.execGetData side frame s
  | .doorbellFrame side frame => Sys2Proof.Machine.execDoorbellFrame side frame s
  | .exchNak side frame => Sys2Proof.Machine.execExchNak side frame s
  | .exchTimeout ref => Sys2Proof.Machine.execExchTimeout ref s
  | .bootReq side frame => Sys2Proof.Machine.execBootReq side frame s
  | .bootData side frame => Sys2Proof.Machine.execBootData side frame s
  | .ringBootTimeout => Sys2Proof.Machine.execRingBootTimeout s
  | .rollData side frame env => Sys2Proof.Machine.execRollData side frame env s
  | .rollOffer side frame => Sys2Proof.Machine.execRollOffer side frame s
  | .rollHave side frame => Sys2Proof.Machine.execRollHave side frame s
  | .rollNeed side frame => Sys2Proof.Machine.execRollNeed side frame s
  | .rollRefuse side frame env => Sys2Proof.Machine.execRollRefuse side frame env s
  | .rollStaged side frame => Sys2Proof.Machine.execRollStaged side frame s
  | .rollActivate side frame env => Sys2Proof.Machine.execRollActivate side frame env s
  | .rollAgree side frame env => Sys2Proof.Machine.execRollAgree side frame env s
  | .rollVerdict side frame env => Sys2Proof.Machine.execRollVerdict side frame env s
  | .rollConfirm side frame env => Sys2Proof.Machine.execRollConfirm side frame env s
  | .rollClose side frame env => Sys2Proof.Machine.execRollClose side frame env s
  | .rollTimeout => Sys2Proof.Machine.execRollTimeout s
  | .activationRestart env => Sys2Proof.Machine.execActivationRestart env s
  | .rvyIdent => Sys2Proof.Machine.execRvyIdent s
  | .rvyStatus => Sys2Proof.Machine.execRvyStatus s
  | .rvyRead addr count => Sys2Proof.Machine.execRvyRead addr count s
  | .rvyWren => Sys2Proof.Machine.execRvyWren s
  | .rvyErase4k addr => Sys2Proof.Machine.execRvyErase4k addr s
  | .rvyErase64k addr => Sys2Proof.Machine.execRvyErase64k addr s
  | .rvyProgram addr data => Sys2Proof.Machine.execRvyProgram addr data s
  | .rvyUnknownOpcode opcode => Sys2Proof.Machine.execRvyUnknownOpcode opcode s
  | .linkLoss side => Sys2Proof.Machine.execLinkLoss side s
  | .pcieLinkUp cfg => Sys2Proof.Machine.execPcieLinkUp cfg s
  | .pcieLinkDown => Sys2Proof.Machine.execPcieLinkDown s
  | .probeDue core => Sys2Proof.Machine.execProbeDue core s
  | .islandReady group => Sys2Proof.Machine.execIslandReady group s
  | .clockSwitch => Sys2Proof.Machine.execClockSwitch s
  | .saveBegins => Sys2Proof.Machine.execSaveBegins s
  | .loaderFlashWorkDone ok => Sys2Proof.Machine.execLoaderFlashWorkDone ok s
  | .recoveryPortOpen => Sys2Proof.Machine.execRecoveryPortOpen s

end Sys2Proof.Machine
end

