-- ==== Sys2Proof/Machine/Step.lean ====
section
/-! DEFINITION. One step of the block: the command at the front of the queue runs; on an empty queue one tick of the
24.576 MHz clock passes. -/

namespace Sys2Proof.Machine

/-- One step. With a command at the front of the queue: its effect on the state with the queue's rest. With an empty
queue: one tick of the 24.576 MHz clock (R41, log 1), in which nothing else happens. -/
def step (s : State) : Host.Outcome State Fault Refusal :=
  match s.pending with
  | [] => .next (tick s)
  | c :: rest => exec c { s with pending := rest }

/-- The state with the command that a table word spells at the front of the queue; the table gives no row bits, so the
state is unchanged for every word. -/
def State.withFetchWord (s : State) (nbits w : Nat) : State :=
  match decodeTableWord nbits w with
  | some c => { s with pending := c :: s.pending }
  | none => s

end Sys2Proof.Machine
end

