-- ==== Sys2Proof/Machine/Masks.lean ====
section
/-! DEFINITION. The masks that every conforming raw path meets (R90, R91, R99). The coefficients themselves are free
(R92): Config.firCoef and Config.kernel are the numbers of one chip, and RomConforms and KernelConforms are what the
manual says of them. Frequencies are in kHz. -/

namespace Sys2Proof.Machine

/-! ## The response ROM (R90, R91) -/

/-- One row of R90's table: the passband, and the stopbands as edges and rejection in dB. -/
structure RomMask where
  passLo : Rat := 0
  passHi : Rat
  /-- Stopbands [lo, hi]; the highest frequency of the 96 kHz input is 48 kHz. -/
  stops : List (Rat × Rat × Rat) := []
  deriving DecidableEq, Repr

/-- A low-pass row: rejection of 80 dB from its stopband edge. -/
def lowPass (hi stop : Rat) : RomMask := { passHi := hi, stops := [(stop, 48, 80)] }

/-- A high-pass row. -/
def highPass (lo stop : Rat) : RomMask := { passLo := lo, passHi := 20, stops := [(0, stop, 80), (24, 48, 80)] }

/-- R90's table for the responses with a flat passband. -/
def romMasks : List (Nat × RomMask) :=
  [(0, lowPass 20 24), (1, lowPass 20 (2205 / 100)), (2, lowPass (145 / 10) 16), (3, lowPass (105 / 10) 12),
   (4, lowPass (65 / 10) 8), (5, lowPass (45 / 10) 6), (6, lowPass (34 / 10) (49 / 10)), (7, lowPass 2 (35 / 10)),
   (8, lowPass 1 (25 / 10)), (9, lowPass (4 / 10) (17 / 10)), (10, highPass 2 (5 / 10)), (11, highPass (25 / 10) 1),
   (12, highPass (35 / 10) 2), (13, highPass (55 / 10) 4), (14, highPass (95 / 10) 8),
   (15, { passLo := 4 / 10, passHi := 34 / 10, stops := [(0, 15 / 1000, 30), (49 / 10, 48, 80)] }),
   (16, { passLo := 5 / 10, passHi := 18 / 10, stops := [(0, 11 / 100, 30), (31 / 10, 48, 80)] }),
   (17, { passLo := 15 / 10, passHi := 6, stops := [(0, 2 / 10, 80), (75 / 10, 48, 80)] }),
   (18, { passLo := 3, passHi := 8, stops := [(0, 15 / 10, 80), (95 / 10, 48, 80)] }),
   (19, { passLo := 8 / 10, passHi := 20, stops := [(24, 48, 80)] })]

/-- An amplitude lies within d dB of another. -/
def WithinDb (d a b : ℝ) : Prop := b * (10 : ℝ) ^ (-d / 20) ≤ a ∧ a ≤ b * (10 : ℝ) ^ (d / 20)

/-- An amplitude lies at least d dB below unity. -/
def DownDb (d a : ℝ) : Prop := a ≤ (10 : ℝ) ^ (-d / 20)

/-- P holds of the amplitude of a response at a frequency: the symmetric filter's, about tap 191 at 96 kHz. -/
def GainAt (resp : Nat) (f : ℝ) (P : ℝ → Prop) : Prop :=
  P |(firTap resp 191 : ℝ) + 2 * ∑ k ∈ Finset.range 191, (firTap resp (192 + k) : ℝ) * Real.cos (2 * Real.pi * f * (k + 1) / 96)|

/-- P holds of the A-weighting of IEC 61672-1 at f kHz, unity at 1 kHz (PRESUMED: the standard's formula, log 15). -/
def AWeightAt (f : ℝ) (P : ℝ → Prop) : Prop :=
  ∀ w : ℝ → ℝ, (∀ x, w x = 12194 ^ 2 * x ^ 4 /
      ((x ^ 2 + 206 ^ 2 / 100) * Real.sqrt ((x ^ 2 + 1077 ^ 2 / 100) * (x ^ 2 + 7379 ^ 2 / 100)) * (x ^ 2 + 12194 ^ 2))) →
    P (w (1000 * f) / w 1000)

/-- A response follows the A-weighting up to an edge: unity at 1 kHz, within 0.5 dB from 250 Hz and within 2 dB from 100 Hz,
and at least 80 dB down from the stopband edge (R90, R91). -/
def AWeighted (resp : Nat) (top stop : ℝ) : Prop :=
  GainAt resp 1 (· = 1) ∧
  (∀ f, 1 / 4 ≤ f → f ≤ top → GainAt resp f fun a => AWeightAt f fun w => WithinDb (1 / 2) a w) ∧
  (∀ f, 1 / 10 ≤ f → f ≤ 1 / 4 → GainAt resp f fun a => AWeightAt f fun w => WithinDb 2 a w) ∧
  ∀ f, stop ≤ f → f ≤ 48 → GainAt resp f (DownDb 80)

/-- The chip's response ROM meets R90 and R91: unity at the passband's centre (DESIGN CHOICE: the middle of its edges, log
15), 0.05 dB over the passband, the stated rejections; DCB is 3 dB down at 0.2 kHz. -/
def RomConforms : Prop :=
  (∀ r m, (r, m) ∈ romMasks →
    GainAt r (((m.passLo + m.passHi) / 2 : Rat) : ℝ) (· = 1) ∧
    (∀ f : ℝ, (m.passLo : ℝ) ≤ f → f ≤ (m.passHi : ℝ) → GainAt r f fun a => WithinDb (1 / 20) a 1) ∧
    ∀ s ∈ m.stops, ∀ f : ℝ, (s.1 : ℝ) ≤ f → f ≤ (s.2.1 : ℝ) → GainAt r f (DownDb (s.2.2 : ℝ))) ∧
  GainAt 19 (1 / 5) (fun a => WithinDb (1 / 20) a ((10 : ℝ) ^ (-(3 : ℝ) / 20))) ∧
  AWeighted 20 16 24 ∧ AWeighted 21 (45 / 10) 6

/-! ## The resampler (R99) -/

/-- The interpolated coefficient c(m) of R98 for a delta d. -/
def kernelCoef (d m : Nat) : Rat :=
  (((1024 - d % 1024 : Nat) : Rat) * kernelTap (d / 1024) m + ((d % 1024 : Nat) : Rat) * kernelTap (d / 1024 + 1) m) / 1024

/-- P holds of the real and imaginary part of the response at f kHz for a delta d, the delay of 3 + d / 65536 filter samples
taken out. -/
def PhaseGain (f : ℝ) (d : Nat) (P : ℝ → ℝ → Prop) : Prop :=
  let angle (m : Nat) : ℝ := 2 * Real.pi * f / 48 * (3 + (d : ℝ) / 65536 - m)
  P (∑ m ∈ Finset.range 8, (kernelCoef d m : ℝ) * Real.cos (angle m))
    (∑ m ∈ Finset.range 8, (kernelCoef d m : ℝ) * Real.sin (angle m))

/-- Over the deltas that occur, a resampler's gain departs from unity by at most `dev` dB up to f kHz, and two deltas differ by
products at least `down` dB down (R99; DESIGN CHOICE for what counts as an alias product, log 15). -/
def KernelMeets (top dev down : ℝ) (ds : Nat → Prop) : Prop :=
  ∀ f : ℝ, 0 ≤ f → f ≤ top → ∀ d, ds d → PhaseGain f d fun a b =>
    WithinDb dev (Real.sqrt (a ^ 2 + b ^ 2)) 1 ∧
    ∀ e, ds e → PhaseGain f e fun a' b' => DownDb down (Real.sqrt ((a - a') ^ 2 + (b - b') ^ 2))

/-- The chip's kernel meets R99: the bands 10.5 and 14.5 kHz at every phase, 20 kHz at the deltas of the ratio 147/160; the
ratio 1.0 is exact as kernelAt is written. -/
def KernelConforms : Prop :=
  KernelMeets (105 / 10) (1 / 10) 80 (· < 65536) ∧ KernelMeets (145 / 10) (1 / 2) 60 (· < 65536) ∧
  KernelMeets 20 1 50 fun d => ∃ a < 147, d = a * 65536 / 147

end Sys2Proof.Machine
end

