-- ==== Sys2Proof/Machine/Pins.lean ====
section
/-! DEFINITION. The signal pins: their direction, domain and reference ground, the state of each while RESET_N is low, and
the levels that the block drives (R436, R467, R471). -/

namespace Sys2Proof.Machine

/-- The signal pins of R436, a bus or a group of one kind as one. -/
inductive Pin where
  | ain | micBias | motion | updLock | vwake | vbatSense | straps | resetN | perstN | wakeN | beat | faultN | rwakeIn | rwakeOut
  | avsClk | avsMdata | avsSdata | rvySck | rvyMosi | rvyCsN | rvyMiso | xspiClk | xspiCsN | xspiIo | xspiDqs | xspiResetN
  | lanes | pcieTx | pcieRx | ref100 | xo32 | feedback | tck | tms | tdi | tdo | trstN | testEn
  deriving DecidableEq, Repr

/-- Where a pin's level comes from. -/
inductive PinDir where
  | input | pullUp | pullDown | analogueIn | analogueOut | output | openDrain | both | link
  deriving DecidableEq, Repr

/-- A pin's domain. -/
inductive PinDomain where
  | sense | vehicleInputs | aon | ctrl | none
  deriving DecidableEq, Repr

/-- A pin while RESET_N is low. -/
inductive PinState where
  | low | high | hiZ | off | ignored | sampled | accepted | driven10uA | bypass | oscillating | tap | unstated
  deriving DecidableEq, Repr

/-- The direction of a pin. -/
def Pin.dir : Pin → PinDir
  | .ain | .vbatSense | .straps => .analogueIn
  | .micBias => .analogueOut
  | .motion | .updLock | .vwake | .perstN | .beat | .rwakeIn | .rvySck | .rvyMosi | .xspiDqs | .tck | .tms | .tdi | .trstN
  | .testEn => .pullDown
  | .wakeN | .avsSdata | .rvyCsN => .pullUp
  | .resetN | .ref100 => .input
  | .faultN => .openDrain
  | .rwakeOut | .avsClk | .avsMdata | .rvyMiso | .xspiClk | .xspiCsN | .xspiResetN | .feedback | .tdo => .output
  | .xspiIo => .both
  | .lanes | .pcieTx | .pcieRx | .xo32 => .link

/-- The domain of a pin. -/
def Pin.domain : Pin → PinDomain
  | .ain | .micBias => .sense
  | .motion | .updLock | .vwake | .vbatSense => .vehicleInputs
  | .perstN | .lanes | .pcieTx | .pcieRx => .ctrl
  | .feedback => .none
  | .straps | .resetN | .wakeN | .beat | .faultN | .rwakeIn | .rwakeOut | .avsClk | .avsMdata | .avsSdata | .rvySck | .rvyMosi
  | .rvyCsN | .rvyMiso | .xspiClk | .xspiCsN | .xspiIo | .xspiDqs | .xspiResetN | .ref100 | .xo32 | .tck | .tms | .tdi | .tdo
  | .trstN | .testEn => .aon

/-- A pin that refers to SGND; every other one refers to VSS. -/
def Pin.sgnd (p : Pin) : Bool := p.domain == .sense || p.domain == .vehicleInputs

/-- A fail-safe pin may be driven while VIO_1V8 is absent. -/
def Pin.failSafe (p : Pin) : Bool := [Pin.resetN, .perstN, .wakeN, .faultN, .rwakeIn, .rwakeOut].contains p

/-- The state of a pin while RESET_N is low, with VDD_AON and VIO_1V8 within limits. -/
def Pin.inReset : Pin → PinState
  | .ain | .faultN | .rvyMiso | .xspiIo | .xspiDqs | .tdo => .hiZ
  | .micBias | .pcieTx | .pcieRx | .ref100 | .trstN | .testEn => .off
  | .motion | .updLock | .vwake | .vbatSense => .sampled
  | .straps => .driven10uA
  | .resetN => .unstated
  | .perstN | .wakeN | .beat | .avsSdata | .rvySck | .rvyMosi | .rvyCsN | .tck | .tms | .tdi => .ignored
  | .rwakeIn => .accepted
  | .rwakeOut | .avsClk | .xspiClk | .xspiResetN => .low
  | .avsMdata | .xspiCsN => .high
  | .lanes => .bypass
  | .xo32 => .oscillating
  | .feedback => .tap

/-- FAULT_N as AON drives it: low, or high-impedance (R422, R471). -/
def faultPin (h : Hw) : PinState := if faultLow h then .low else .hiZ

/-- RWAKE_OUT as it is driven; a pulse is forwarded in any device state (R163, R467). -/
def rwakePin (h : Hw) : PinState := if h.board.rwakeOut then .high else .low

end Sys2Proof.Machine
end

