-- ==== Sys2Proof/Safety.lean ====
section
/-! DEFINITION. The terms in which statements speak of a run: what a command answers, when nothing else is at work, which
slot a command takes, what a completion record and a reported event are, and the invariants of a state between two
commands. -/

namespace Sys2Proof.Machine

/-! ## What a command answers -/

/-- The command answers a next state, and that state has a property. -/
def Answers (c : Instr) (s : State) (p : State → Prop) : Prop := ∃ t, exec c s = .next t ∧ p t

/-! ## Invariants between two commands -/

/-- Between two commands every outbox is empty (log 8). -/
abbrev Settled (s : State) : Prop :=
  s.hw.writes = [] ∧ s.hw.wipe = none ∧ s.hw.raised = [] ∧ s.hw.records = []

/-- The event queue holds at most the 64 events of R38. -/
abbrev QueueFits (s : State) : Prop := s.hw.sq.queue.length ≤ 64

/-! ## Nothing else at work -/

/-- No excursion is in progress, and none is still to be reported. -/
abbrev NoExcursion (s : State) : Prop := s.hw.cascade.exc = none ∧ s.hw.cascade.owed = []

/-- No EVENT_POST is held and no record waits for the ring, so that a command's own records and events are all that its
end handles (R38, R465). -/
abbrev NothingHeld (s : State) : Prop :=
  Settled s ∧ s.hw.sq.posts = [] ∧ s.hw.sq.heldRecords = []

/-- A graph that only waits for its check: nothing of it is resident (R283). -/
abbrev Waits (g : Graph) : Prop := g.resident = false ∧ g.hiRail = [] ∧ g.tasks = []

/-- No resident graph, no waiting request of a stream, no entry and no excursion: the scheduler has nothing to issue or to
end. -/
abbrev NoWork (s : State) : Prop :=
  NothingHeld s ∧ NoExcursion s ∧ (∀ g ∈ s.hw.sched.graphs, Waits g) ∧ s.hw.sched.notices = [] ∧ s.hw.sched.ended = [] ∧
    s.hw.power.entry = none ∧ ∀ x ∈ s.hw.streams, x.reqs = [] ∧ x.st ≠ .queued

/-- No work, and room in the event queue for what a command reports. -/
abbrev AtRest (s : State) : Prop := NoWork s ∧ s.hw.sq.queue.length ≤ 32

/-- An excursion is in progress whose graph waits for its check, and nothing else is at work. -/
abbrev OneExcursion (s : State) (e : Excursion) : Prop :=
  NothingHeld s ∧ s.hw.sq.queue.length ≤ 32 ∧ s.hw.cascade.exc = some e ∧ s.hw.cascade.owed = [] ∧ e.graphOpen ∧
    (∀ g ∈ s.hw.sched.graphs, Waits g) ∧ s.hw.sched.notices = [] ∧ s.hw.sched.ended = [] ∧ s.hw.power.entry = none ∧
    ∀ x ∈ s.hw.streams, x.reqs = [] ∧ x.st ≠ .queued

/-- The only graph is resident and live and has one task, of one kind; nothing else is at work, and its slot's record can be
written. -/
abbrev OneTask (s : State) (g : Graph) (x : Task) (kind : Nat) (o : Owned) : Prop :=
  NothingHeld s ∧ s.hw.sq.queue.length ≤ 32 ∧ NoExcursion s ∧ s.hw.power.entry = none ∧ s.hw.up ∧ s.hw.writesRecords ∧
    s.hw.sched.graphs = [g] ∧ s.hw.sched.notices = [] ∧ s.hw.sched.ended = [] ∧
    (∀ y ∈ s.hw.streams, y.reqs = [] ∧ y.st ≠ .queued) ∧ g.live ∧ g.key < 1024 ∧ g.tasks = [x] ∧
    taskKind x.desc = kind ∧ s.hw.sq.owned.find? (fun y => y.pos == g.pos) = some o

/-! ## Slots -/

/-- The next slot that the Z9 fetches is f: its index, its master and its words, met without an error. -/
abbrev Fetches (s : State) (slot : Slot) (f : Fetched) : Prop :=
  (nextSlot s.hw).map (fun o => (o.pos, o.master)) = some (f.pos, f.master) ∧
    slotWords s.mem s.hw f.pos slot = f.words ∧
    (s.hw.image.system.sqInDram = true → slot.bad = false ∧ slot.fixed = 0 ∧ hitsBad s.hw .dram (slotAddr s.hw f.pos) 128 = false)

/-- It is a slot of one kind that passes the checks of R34. -/
abbrev Accepts (s : State) (slot : Slot) (f : Fetched) (kind : Nat) : Prop :=
  Fetches s slot f ∧ slotKind f.words = kind ∧ slotFormatOk f.words = true ∧ slotPermitted s.hw kind f.master = true

/-- It is a slot of one kind whose OP, in the given bits of word 4, has a value. -/
abbrev AcceptsOp (s : State) (slot : Slot) (f : Fetched) (kind lo len op : Nat) : Prop :=
  Accepts s slot f kind ∧ fld (wordAt f.words 4) lo len = op

/-! ## Records and events -/

/-- The space that holds the submission ring. -/
def ringSpace (h : Hw) : Space := if h.image.system.sqInDram then .dram else .host

/-- The 128 bytes of the slot at an index, as the memories hold them. -/
def slotBytes (s : State) (pos : Nat) : List Byte :=
  memReadN ((ringSpace s.hw).fill.getD 0) (s.mem.of (ringSpace s.hw)) (slotAddr s.hw pos) 128

/-- The slot of a record holds it, stamped with the device time (R35), and is the host's again. -/
def Completes (t : State) (r : Record) : Prop :=
  slotBytes t r.pos = wordsBytes ((stampLevel t.hw r).words t.hw.power.time) ∧ ∀ o ∈ t.hw.sq.owned, o.pos ≠ r.pos

/-- An event with a status and a detail waits in the event queue (R38). -/
def Reports (t : State) (st : Status) (d : Detail) : Prop := ∃ e ∈ t.hw.sq.queue, e.status = st ∧ e.detail = d

/-- A graph is gone, and its slot holds its completion record, with a status and a detail. -/
def GraphEnds (t : State) (g : Graph) (o : Owned) (e : Status × Detail) : Prop :=
  t.hw.sched.graphs = [] ∧
    ∃ w, Completes t { pos := g.pos, kind := o.kind, status := e.1, tag := o.tag, detail := e.2, result := w }

/-- There is room for what a command reports: no EVENT_POST is held, and at most 32 of the 64 places are taken. -/
abbrev RoomToReport (s : State) : Prop := NothingHeld s ∧ s.hw.sq.queue.length ≤ 32

/-! ## The ring -/

/-- A frame is the next that its port takes: the port carries frames and the LSEQ follows the last good one (R340). -/
abbrev Next (s : State) (side : Side) (f : Frame) : Prop :=
  (portOf s.hw side).carries ∧ f.lseq = ((portOf s.hw side).rxSeq + 1) % 4096

/-! ## Memory -/

/-- One byte of a space as it reads now. -/
def byteAt (s : State) (sp : Space) (a : Nat) : Option Byte := memRead sp.fill (s.mem.of sp) a

/-- n bytes of a space as they read now. -/
def bytesAt (s : State) (sp : Space) (a n : Nat) : List Byte := memReadN (sp.fill.getD 0) (s.mem.of sp) a n

/-- Every byte of every memory reads as before. -/
def SameMemory (s t : State) : Prop := ∀ sp a, byteAt t sp a = byteAt s sp a

/-- Every byte reads as before, but for n bytes of one space from an address upward. -/
def WritesOnly (s t : State) (sp : Space) (a n : Nat) : Prop :=
  ∀ sp' b, (sp' ≠ sp ∨ b < a ∨ a + n ≤ b) → byteAt t sp' b = byteAt s sp' b

/-- The slot of a record holds it, and every byte outside that slot reads as before. -/
def Finishes (s t : State) (r : Record) : Prop :=
  Completes t r ∧ WritesOnly s t (ringSpace s.hw) (slotAddr s.hw r.pos) 128

/-- A port that takes another frame of up to 256 bytes at once: nothing is held, and credit and the retry buffer have room
(R338 to R340). -/
abbrev Ready (s : State) (side : Side) : Prop :=
  (portOf s.hw side).carries ∧ (portOf s.hw side).held = [] ∧ (∀ i < 8, 17 ≤ (portOf s.hw side).credit.getD i 0) ∧
    ((portOf s.hw side).retry.map fun x => 16 * frameUnits x).sum + 272 ≤ 16384

/-- A frame goes out of a port, but for its LSEQ and the hops and bits that the port gives it. -/
def Sends (t : State) (side : Side) (f : Frame) : Prop :=
  ∃ g, (side, g) ∈ t.hw.sent ∧ g.type = f.type ∧ g.dst = f.dst ∧ g.src = t.hw.nodeId ∧ g.tag = f.tag ∧
    g.param = f.param ∧ g.payload = f.payload

/-- Frames that a port keeps for a replay or holds for credit. -/
def queuedFrames (s : State) (side : Side) : Nat := (portOf s.hw side).retry.length + (portOf s.hw side).held.length

/-- A new boot record stands in the sector that did not hold the ruling one, under the next SEQ, and the flash is the same
elsewhere; where the record does not change, nothing is written (R394). -/
def Records (s t : State) (r : BootRec) : Prop :=
  let at_ (a seq : Nat) : Prop :=
    bytesAt t .flash a 192 = recordBytes { r with seq := seq } ∧
    ∀ b, b < a ∨ a + 4096 ≤ b → byteAt t .flash b = byteAt s .flash b
  if r = bootRec s.mem s.hw then ∀ b, byteAt t .flash b = byteAt s .flash b
  else match rulingRecord s.mem s.hw with
    | some (x, inB) => at_ (if inB then bootABase else bootBBase) ((x.seq + 1) % 2 ^ 32)
    | none => at_ bootABase 0
/-! ## Frames -/

/-- The portions of the state that a frame speaks of. The ring's indices and the link are `slots`; what it owns, holds and
reports is `events`; the log's buffer and positions and the units known bad are `log`; the rest of Health, but for the count
of lost events, is `health`. -/
inductive Portion where
  | memory | board | image | slots | events | drum | raw | cal | bell | cascade | sched | streams | ring | power | update
  | rvy | health | log
  deriving DecidableEq, Repr

/-- The hardware with the named portions, the outboxes, the frames sent and the count of free values made constant. -/
def blank (ps : List Portion) (h : Hw) : Hw :=
  { board := if ps.elem .board then {} else h.board
    image := if ps.elem .image then {} else h.image
    sq :=
      { producer := if ps.elem .slots then 0 else h.sq.producer
        fetch := if ps.elem .slots then 0 else h.sq.fetch
        linkUp := if ps.elem .slots then false else h.sq.linkUp
        cfg := if ps.elem .slots then {} else h.sq.cfg
        cfgKept := if ps.elem .slots then none else h.sq.cfgKept
        fetchStopped := if ps.elem .slots then false else h.sq.fetchStopped
        owned := if ps.elem .events then [] else h.sq.owned
        posts := if ps.elem .events then [] else h.sq.posts
        queue := if ps.elem .events then [] else h.sq.queue
        lost := if ps.elem .events then 0 else h.sq.lost
        heldRecords := if ps.elem .events then [] else h.sq.heldRecords }
    drum := if ps.elem .drum then {} else h.drum
    raw := if ps.elem .raw then {} else h.raw
    cal := if ps.elem .cal then {} else h.cal
    bell := if ps.elem .bell then {} else h.bell
    cascade := if ps.elem .cascade then {} else h.cascade
    sched := if ps.elem .sched then {} else h.sched
    streams := if ps.elem .streams then [] else h.streams
    ring := if ps.elem .ring then {} else h.ring
    power := if ps.elem .power then {} else h.power
    update := if ps.elem .update then {} else h.update
    rvy := if ps.elem .rvy then {} else h.rvy
    health :=
      { causes := if ps.elem .health then 0 else h.health.causes
        lastBoot := if ps.elem .health then 0 else h.health.lastBoot
        lastRecovery := if ps.elem .health then 0 else h.health.lastRecovery
        bootTime := if ps.elem .health then 0 else h.health.bootTime
        resetRail := if ps.elem .health then none else h.health.resetRail
        cnt := if ps.elem .health then {} else { h.health.cnt with eventsLost := 0 }
        storm := if ps.elem .health then [] else h.health.storm
        stormWin := if ps.elem .health then 0 else h.health.stormWin
        buffer := if ps.elem .log then [] else h.health.buffer
        logNext := if ps.elem .log then 0 else h.health.logNext
        logOldest := if ps.elem .log then 0 else h.health.logOldest
        logLost := if ps.elem .log then 0 else h.health.logLost
        lostOwed := if ps.elem .log then false else h.health.lostOwed
        boots := if ps.elem .log then 0 else h.health.boots
        logPos := if ps.elem .log then 0 else h.health.logPos
        badUnits := if ps.elem .log then [] else h.health.badUnits
        written := if ps.elem .log then [] else h.health.written } }

/-- Every portion but those named is the same in two states. -/
def OnlyChanges (ps : List Portion) (s t : State) : Prop :=
  blank ps t.hw = blank ps s.hw ∧ (Portion.memory ∈ ps ∨ t.mem = s.mem) ∧ t.pending = s.pending

/-- What reports and records may change at any command's end: the event queue, the log and the slots in memory. -/
abbrev reporting : List Portion := [.memory, .events, .log]

/-- What the scheduler may change behind a command. -/
abbrev scheduling : List Portion := [.sched, .streams, .ring, .power, .health]

/-- What it may change where it has no work: cores that are probed or gated, and the rail. -/
abbrev resting : List Portion := [.sched, .power]

end Sys2Proof.Machine
end

