-- ==== Sys2Proof/Certificates/Slice0/Obligations.lean ====
section
/-! DEFINITION. The statements for the provers, each about the model's own step and commands. -/

open Sys2Proof
open Sys2Proof.Machine

/-- A step runs the command at the front of the queue on the queue's rest; on an empty queue one tick passes (the
model's choice, log 1). -/
def Obligations.StepRunsTheFrontCommand : Prop :=
  (∀ (c : Instr) (s : State), step { s with pending := c :: s.pending } = exec c s) ∧
  ∀ s : State, s.pending = [] → step s = .next (tick s)

/-- Every command answers a next state, in every state, and leaves the queue to the step. -/
def Obligations.EveryCommandAnswers : Prop :=
  ∀ (c : Instr) (s : State), Answers c s fun t => t.pending = s.pending

/-- Every step keeps each memory in canonical form: addresses strictly rising, no entry equal to what an unlisted
address reads as. -/
def Obligations.StepKeepsMemoriesCanonical : Prop :=
  ∀ s t : State, s.mem.wf → step s = .next t → t.mem.wf

/-- Every step leaves every outbox empty (log 8). No step lets the event queue hold more than the 64 events of R38. -/
def Obligations.StepKeepsWhatIsReportedBounded : Prop :=
  (∀ s t : State, Settled s → step s = .next t → Settled t) ∧
  (∀ s t : State, QueueFits s → step s = .next t → QueueFits t)

/-- What reset leaves: the device is OFF with CTRL, MEM and SENSE down (R364), RESET_N is held low (R440), device time
counts from zero, no cause of FAULT_N, no WAKE_FAIL latch and no STUCK mark stands (R368), no slot is owned. The state
right after the power-on of VDD_AON meets the invariants that every step keeps. -/
def Obligations.ResetLeavesTheDeviceOff : Prop :=
  (let h := State.reset.hw
  h.power.dev = .off ∧ h.power.ctrlOn = false ∧ h.power.memOn = false ∧ h.drum.senseOn = false ∧
    h.board.resetN = false ∧ h.power.time = 0 ∧ h.health.causes = 0 ∧ h.power.wakeFail = none ∧ h.cal.stuck = 0 ∧
    h.sq.owned = [] ∧ h.sq.posts = [] ∧ h.sq.queue = [] ∧ h.power.alarm = none ∧ h.update.jobs = []) ∧
  (State.reset.mem.wf ∧ Settled State.reset ∧ QueueFits State.reset ∧ State.reset.pending = [])

/-- Accepted levels of MOTION and UPD_LOCK and conversions of VBAT_SENSE reach their registers while VSENSE_HV and
VDD_AON are present, and nothing else changes; without them nothing does (R20). RWAKE_OUT falls, RWAKE_IN is heeded
again, PERST_N is seen high (R163, R465), and a write to any other offset of BAR0 is ignored (R29). VSENSE_HV below its
threshold moves LIVE and SETTLING channels to HV_LOW and marks the beat; its loss makes the inputs report what R21 says
as well; its return restarts settling (R21, R69, R72). A calibration's trims and the spare may follow; no other unit
changes. A voltage that no part's threshold admits is no such crossing and changes nothing (R459, log 4). -/
def Obligations.InputPinsReachTheirRegisters : Prop :=
  (let board (s : State) (b : Board) : State := { s with hw := { s.hw with sent := [], board := b } }
  (∀ (s : State) (l : Bool),
    exec (.motionChange l) s = .next (board s
      (if s.hw.board.hvPresent ∧ s.hw.board.aonOn then { s.hw.board with motion := l } else s.hw.board))) ∧
  (∀ (s : State) (l : Bool),
    exec (.updLockChange l) s = .next (board s
      (if s.hw.board.hvPresent ∧ s.hw.board.aonOn then { s.hw.board with updLock := l } else s.hw.board))) ∧
  (∀ (s : State) (v : BitVec 10),
    exec (.vbatSenseConversion v) s = .next (board s
      (if s.hw.board.hvPresent ∧ s.hw.board.aonOn then { s.hw.board with vbat := (v.toNat :: s.hw.board.vbat).take 8 }
      else s.hw.board))) ∧
  (∀ s : State, exec .rwakeOutPulseEnd s = .next (board s { s.hw.board with rwakeOut := false })) ∧
  (∀ s : State, exec .rwakeQuietEnd s = .next (board s { s.hw.board with rwakeQuiet := false })) ∧
  (∀ s : State, exec .perstNRise s = .next (board s { s.hw.board with perstN := true })) ∧
  ∀ (s : State) (fn : Fn) (o : BitVec 12) (v : Word), exec (.bar0IgnoredWrite fn o v) s = .next (board s s.hw.board)) ∧
  ((∀ (s : State) (mv : Nat),
    (mv < 5700 → Answers (.vsenseHvLow mv) s fun t =>
      t.hw.board = { s.hw.board with hvLow := true } ∧ t.hw.drum.hvLowSeen = true ∧
      t.hw.drum.channels = s.hw.drum.channels.map hvFallChannel ∧
      OnlyChanges (reporting ++ [Portion.board, Portion.drum, Portion.cal]) s t) ∧
    (5700 ≤ mv → Answers (.vsenseHvLow mv) s (OnlyChanges reporting s))) ∧
  (∀ s : State, Answers .vsenseHvLoss s fun t =>
    t.hw.board = { s.hw.board with
      hvPresent := false, hvLow := true, motion := true, updLock := true, vwake := false, vbat := [] } ∧
    t.hw.drum.hvLowSeen = true ∧ t.hw.drum.channels = s.hw.drum.channels.map hvFallChannel ∧
    OnlyChanges (reporting ++ [Portion.board, Portion.drum, Portion.cal]) s t) ∧
  ∀ (s : State) (mv : Nat),
    (5550 < mv → Answers (.vsenseHvRestored mv) s fun t =>
      t.hw.board = { s.hw.board with hvLow := false, hvPresent := true } ∧
      t.hw.drum = { s.hw.drum with channels := s.hw.drum.channels.map (hvRiseChannel s.hw.power.elapsed) } ∧
      OnlyChanges (reporting ++ [Portion.board, Portion.drum]) s t) ∧
    (mv ≤ 5550 → Answers (.vsenseHvRestored mv) s (OnlyChanges reporting s)))

/-- R30 for a write from a host function while the doorbell is seen: V is accepted when (V − P) mod 65,536 is no greater
than 1024 − ((P − O) mod 65,536), and then P is V; otherwise the whole write is ignored and DOORBELL_REJECT is raised
and counted. A write with bits [31:16] set is ignored too (R29). A doorbell write that is not seen, CTRL being off, the
link down or no host strapped, changes nothing (R40). -/
def Obligations.DoorbellJudgesTheProducerIndex : Prop :=
  (∀ (s : State) (fn : Fn) (v : Word), doorbellSeen s.hw → RoomToReport s →
    let p := s.hw.sq.producer
    let o := match s.hw.sq.owned with
      | [] => p
      | x :: _ => x.pos
    let n := (v.toNat + 65536 - p) % 65536
    let accepted := v.toNat < 65536 ∧ n ≤ 1024 - (p + 65536 - o) % 65536
    Answers (.doorbellWrite fn v) s fun t =>
      OnlyChanges (reporting ++ [Portion.slots, Portion.health]) s t ∧
      (accepted → t.hw.sq.producer = v.toNat ∧
        t.hw.sq.owned = s.hw.sq.owned ++ newlyOwned p (fnMaster fn) n ∧ t.hw.health.cnt = s.hw.health.cnt ∧
        t.mem = s.mem ∧ (v.toNat = p → t.hw.sq = s.hw.sq)) ∧
      (¬accepted → t.hw.sq.producer = p ∧ t.hw.sq.owned = s.hw.sq.owned ∧ t.mem = s.mem ∧
        t.hw.health.cnt.doorbellRejects = min (s.hw.health.cnt.doorbellRejects + 1) 65535 ∧
        Reports t .eventHealth .doorbellReject)) ∧
  (∀ (s : State) (fn : Fn) (v : Word), doorbellSeen s.hw = false → NothingHeld s → s.hw.sq.queue = [] →
    exec (.doorbellWrite fn v) s = .next { s with hw := { s.hw with sent := [] } })

/-- An EVENT_POST slot is held with its mask; a waiting event that it accepts becomes its record (R37, R38). R39: while
128 or fewer slots are free, an EVENT_POST that is the oldest owned slot completes with DONE and no event; and after a
doorbell write or an EVENT_POST no such slot is left held while records can be delivered. -/
def Obligations.EventPostsAreHeldTakenOrReleased : Prop :=
  ((∀ (s : State) (slot : Slot) (f : Fetched), Accepts s slot f kEventPost → Settled s → s.hw.sq.heldRecords = [] →
    s.hw.sq.queue = [] → 128 < freeSlots s.hw →
    Answers (.eventPost slot) s fun t =>
      t.hw.sq.posts = s.hw.sq.posts ++ [{ pos := f.pos, mask := fld (wordAt f.words 4) 0 7, tag := wordAt f.words 1 }] ∧
      t.hw.sq.fetch = (s.hw.sq.fetch + 1) % 65536 ∧ t.mem = s.mem ∧ OnlyChanges [.slots, .events] s t) ∧
  (∀ (s : State) (slot : Slot) (f : Fetched) (e : Event), Accepts s slot f kEventPost → NothingHeld s →
    s.hw.power.entry = none → s.hw.sq.queue = [e] → accepts (fld (wordAt f.words 4) 0 7) e.status →
    Answers (.eventPost slot) s fun t =>
      Completes t { pos := f.pos, kind := kEventPost, status := e.status, tag := wordAt f.words 1, detail := e.detail
                    lost := s.hw.sq.lost, result := e.result } ∧
      t.hw.sq.queue = [] ∧ t.hw.sq.posts = [] ∧ t.hw.sq.lost = 0)) ∧
  ((∀ (s : State) (slot : Slot) (f : Fetched), Accepts s slot f kEventPost → NothingHeld s → s.hw.power.entry = none →
    s.hw.sq.queue = [] → (s.hw.sq.owned.head?).map (·.pos) = some f.pos → freeSlots s.hw ≤ 128 →
    Answers (.eventPost slot) s fun t =>
      Completes t { pos := f.pos, kind := kEventPost, status := .done, tag := wordAt f.words 1 } ∧ t.hw.sq.posts = []) ∧
  ∀ (s t : State) (c : Instr), (∃ fn v, c = .doorbellWrite fn v) ∨ (∃ slot, c = .eventPost slot) →
    exec c s = .next t → t.hw.power.ctrlOn = true → t.hw.saving = false → freeSlots t.hw ≤ 128 →
    ∀ p ∈ t.hw.sq.posts, (t.hw.sq.owned.head?).map (·.pos) ≠ some p.pos)

/-- What SLOT_UNKNOWN_KIND does: a slot whose KIND is no code of R33, that breaks check 1 of R34, or whose OP has no row
of its own, completes with REFUSED_FORMAT and its kind's RESULT words, and the next slot is fetched; check 2 stands
before the OP. On the kinds whose refusals carry no RESULT: a slot whose master lacks the kind's permission completes
with REFUSED_ACCESS (R33, R34). A slot whose fetch from DRAM meets an uncorrectable error completes with FAIL_ECC and
reports it, its KIND and TAG being free values (R328, log 13). -/
def Obligations.BrokenSlotsAreRefused : Prop :=
  (∀ (s : State) (slot : Slot) (f : Fetched), Fetches s slot f → isUnknown f.words → RoomToReport s →
    s.hw.power.entry = none →
    let ends (st : Status) : Prop := Answers (.slotUnknownKind slot) s fun t =>
      Finishes s t (f.record st .none (kindWords f s.hw)) ∧ t.hw.sq.fetch = (s.hw.sq.fetch + 1) % 65536 ∧
      OnlyChanges (reporting ++ [Portion.slots, Portion.power]) s t
    ((slotFormatOk f.words → slotPermitted s.hw (slotKind f.words) f.master) → ends .refusedFormat) ∧
    (slotFormatOk f.words → slotPermitted s.hw (slotKind f.words) f.master = false → ends .refusedAccess)) ∧
  (∀ (s : State) (slot : Slot) (f : Fetched), Fetches s slot f → slotKind f.words = kEventPost → slotFormatOk f.words →
    slotPermitted s.hw kEventPost f.master = false → RoomToReport s → s.hw.power.entry = none →
    Answers (.eventPost slot) s fun t => Completes t (f.record .refusedAccess .none []) ∧ t.hw.sq.posts = []) ∧
  (∀ (s : State) (slot : Slot) (f : Fetched), Fetches s slot f → slotKind f.words = kCalibrate → slotFormatOk f.words →
    slotPermitted s.hw kCalibrate f.master = false → RoomToReport s → s.hw.power.entry = none →
    Answers (.calibrate slot) s fun t =>
      Completes t (f.record .refusedAccess .none []) ∧ OnlyChanges (reporting ++ [Portion.slots, Portion.power]) s t) ∧
  ∀ (s : State) (slot : Slot) (o : Owned), nextSlot s.hw = some o → s.hw.image.system.sqInDram →
    hitsBad s.hw .dram (slotAddr s.hw o.pos) 128 → RoomToReport s → s.hw.power.entry = none →
    Answers (.eventPost slot) s fun t =>
      (∃ k tag, k < 256 ∧ Completes t { pos := o.pos, kind := k, status := .failEcc, tag := tag }) ∧
      Reports t .eventHealth .eccUncorrected ∧ t.hw.sq.fetch = (s.hw.sq.fetch + 1) % 65536 ∧ t.hw.sq.posts = []

/-- A BUDGET slot that passes R288 replaces every quota it names at once and completes with the words of R289; every
other quota stays. A BUDGET slot that R288 refuses completes with the check's code, in the order of its checks, and no
quota changes. -/
def Obligations.BudgetSlotsReplaceQuotasOrAreRefused : Prop :=
  (∀ (s : State) (slot : Slot) (f : Fetched) (cfg : QuotasSec),
    Accepts s slot f kBudget → s.hw.image.quotas = some cfg → AtRest s →
    let set (c : Nat) : Bool := bit (wordAt f.words 4) c
    let q (c : Nat) : Nat := (newQuotas f.words).getD c 0
    (∀ c < 4, set c = false → q c = 0) → (∀ c < 4, set c → q c ≤ cfg.max.getD c 0) → (set 0 → cfg.c0Floor ≤ q 0) →
    let quotas := (List.range 4).map fun c => if set c then q c else s.hw.sched.quotas.getD c 0
    Answers (.budget slot) s fun t =>
      t.hw.sched.quotas = quotas ∧
      Finishes s t (f.record .done .none (budgetWords { s.hw with sched := { s.hw.sched with quotas := quotas } })) ∧
      OnlyChanges (reporting ++ resting ++ [Portion.slots]) s t) ∧
  (∀ (s : State) (slot : Slot) (f : Fetched), Accepts s slot f kBudget → AtRest s →
    let set (c : Nat) : Bool := bit (wordAt f.words 4) c
    let q (c : Nat) : Nat := (newQuotas f.words).getD c 0
    let refused (st : Status) (d : Detail) : Prop :=
      Answers (.budget slot) s fun t =>
        t.hw.sched.quotas = s.hw.sched.quotas ∧ Finishes s t (f.record st d (budgetWords s.hw))
    (s.hw.image.quotas = none → refused .refusedState .quotasInvalid) ∧
    ∀ cfg, s.hw.image.quotas = some cfg →
      ((∃ c < 4, set c = false ∧ q c ≠ 0) → refused .refusedFormat .none) ∧
      ((∀ c < 4, set c = false → q c = 0) →
        ((∃ c < 4, set c ∧ cfg.max.getD c 0 < q c) → refused .refusedFormat .quotaMax) ∧
        ((∀ c < 4, set c → q c ≤ cfg.max.getD c 0) → set 0 → q 0 < cfg.c0Floor → refused .refusedBudget .none)))

/-- A GRAPH slot outside a thermal trip waits for its check, in the order of arrival, and some waiting graph is under
check (R283); in a thermal trip it is refused (R389). The check of a graph ends: one that passes is admitted and enters
the check cache, which drops what was keyed by the same header address and keeps at most 16 entries; one that is refused
completes with the check's code, how late it is and whether the cache served it, leaves, and leaves the cache unchanged.
A check whose tables lie behind a closed window waits (R282, R283, R302, R327). -/
def Obligations.GraphSlotsWaitAndAreChecked : Prop :=
  (∀ (s : State) (slot : Slot) (f : Fetched), Accepts s slot f kGraph → AtRest s →
    (s.hw.power.tripped = false →
      Answers (.graph slot) s fun t =>
        (∃ g, t.hw.sched.graphs = s.hw.sched.graphs ++ [g] ∧ Waits g ∧ g.key = f.pos % 1024 ∧ g.pos = f.pos ∧
          g.owner = f.master ∧ g.tag = wordAt f.words 1 ∧ g.hdrAddr = addrAt f.words 4 ∧ g.start = s.hw.power.time ∧
          g.arrival = s.hw.sched.arrivals) ∧
        (∃ g ∈ t.hw.sched.graphs, t.hw.sched.checking = some g.key) ∧ t.mem = s.mem ∧
        OnlyChanges (reporting ++ resting ++ [Portion.slots, Portion.health]) s t) ∧
    (s.hw.power.tripped → Answers (.graph slot) s fun t =>
      t.hw.sched.graphs = s.hw.sched.graphs ∧
      Finishes s t (f.record .refusedState .thermalTrip (refusedGraphWords s.hw.power.time none false 0 s.hw)))) ∧
  (∀ (s : State) (k : Nat) (g : Graph) (fixed : Nat), s.hw.sched.checking = some k → graphOf s.hw k = some g →
    g.key < 1024 → NoExcursion s →
    let h := corrected .dram fixed { s.hw with sent := [] }
    let checked := checkGraph s.mem { h with sched := { h.sched with checking := none } } g.hdrAddr g.owner false none
    let waits := checkWaits s.mem s.hw g.owner g.hdrAddr
    (∀ p, waits = false → checked = .ok p → Answers (.graphCheck fixed) s fun t =>
      t.hw.sched.admissions = s.hw.sched.admissions + 1 ∧
      t.hw.sched.cache = ((g.hdrAddr, p.crc) :: s.hw.sched.cache.filter fun e => e.1 != g.hdrAddr).take 16 ∧
      OnlyChanges (reporting ++ scheduling) s t) ∧
    (∀ e o, waits = false → checked = .error e → AtRest s → s.hw.writesRecords →
      s.hw.sq.owned.find? (fun x => x.pos == g.pos) = some o → Answers (.graphCheck fixed) s fun t =>
        t.hw.sched.graphs = s.hw.sched.graphs.filter (fun x => x.key != g.key) ∧
        t.hw.sched.admissions = s.hw.sched.admissions ∧ t.hw.sched.cache = s.hw.sched.cache ∧
        Finishes s t { pos := g.pos, kind := o.kind, status := e.status, tag := o.tag, detail := e.detail
                       result := refusedGraphWords g.start e.index e.cached (lateUs s.hw { g with hdr := e.hdr }) s.hw } ∧
        OnlyChanges (reporting ++ resting ++ [Portion.health, Portion.ring]) s t) ∧
    (waits → AtRest s → Answers (.graphCheck fixed) s fun t =>
      t.hw.sched.graphs = s.hw.sched.graphs ∧ t.mem = s.mem ∧ OnlyChanges (reporting ++ resting) s t))

/-- OPEN, RESET and QUERY complete at once with the entry as it stands, and CLOSE does where nothing is flushed from
core store: OPEN writes the entry, RESET sets RESET_FLAG and makes a BROKEN stream usable, CLOSE frees the entry (R248
to R251). No other entry changes. A swap or a CLOSE with FLUSH starts its copy where the table of R248 has one, and
completes at once with DONE where it has none: a SWAP_OUT of state in core store and a flushing CLOSE go to
SWAP_OUT_BUSY, a SWAP_IN of a SWAPPED_OUT stream for which core store has room goes to SWAP_IN_BUSY. A SWAP_IN during a
thermal trip fails with FAIL_DOMAIN_OFF (R387); a swap waits while the stream runs or copies, and a SWAP_IN while it is
BROKEN. The checks of R250 refuse in their order, shown from check 2 on, each where those before it pass, with the entry
in RESULT and no entry changed. -/
def Obligations.StreamSlotsActOrAreRefused : Prop :=
  (∀ (s : State) (slot : Slot) (f : Fetched), AtRest s → streamFault f s.hw = none →
    let w := wordAt f.words 4
    let i := slotStream f.words
    let x := streamOf s.hw i
    let becomes (y : Stream) (t : State) : Prop :=
      streamOf t.hw i = y ∧ (∀ j < 256, j ≠ i → streamOf t.hw j = streamOf s.hw j) ∧
      Finishes s t (f.record .done .none (streamWords t.hw i)) ∧ OnlyChanges (reporting ++ resting ++ [Portion.slots, Portion.streams]) s t
    (AcceptsOp s slot f kStreamCtl 8 3 0 →
      Answers (.streamOpen slot) s (becomes
        { st := if bit w 12 then .swappedOut else .idle, resetFlag := bit w 11
          owner := if bit w 18 then fld w 14 4 else f.master, preferCs := bit w 12, bf16 := bit w 13
          gen := (wordAt f.words 9).toNat, state := addrAt f.words 5, home := addrAt f.words 5
          slotBytes := fld (wordAt f.words 7) 0 25, chunkLen := fld (wordAt f.words 8) 0 13 })) ∧
    (AcceptsOp s slot f kStreamCtl 8 3 2 →
      Answers (.streamReset slot) s (becomes (if x.st = .broken then
        { x with st := if x.preferCs then .swappedOut else .idle, resetFlag := true, inCs := false, core := 0, state := x.home }
        else { x with resetFlag := true }))) ∧
    (AcceptsOp s slot f kStreamCtl 8 3 5 → Answers (.streamQuery slot) s fun t =>
      t.hw.streams = s.hw.streams ∧ Finishes s t (f.record .done .none (streamWords s.hw i)) ∧
      OnlyChanges (reporting ++ resting ++ [Portion.slots]) s t) ∧
    (AcceptsOp s slot f kStreamCtl 8 3 1 → (bit w 19 = false ∨ x.inCs = false) →
      Answers (.streamClose slot) s (becomes
        { x with st := .free, inCs := false, core := 0, state := x.home, copyFor := none, dest := none, sampled := false
                 wasBroken := false }))) ∧
  (∀ (s : State) (slot : Slot) (f : Fetched), AtRest s → streamFault f s.hw = none → s.hw.streams.length ≤ 256 →
    let i := slotStream f.words
    let x := streamOf s.hw i
    let tag := wordAt f.words 1
    let starts (y : Stream) (t : State) : Prop :=
      streamOf t.hw i = y ∧ (∀ j < 256, j ≠ i → streamOf t.hw j = streamOf s.hw j) ∧ t.mem = s.mem ∧
      OnlyChanges (reporting ++ resting ++ [Portion.slots, Portion.streams]) s t
    let atOnce (t : State) : Prop :=
      (∀ j < 256, streamOf t.hw j = streamOf s.hw j) ∧ Finishes s t (f.record .done .none (streamWords s.hw i))
    (AcceptsOp s slot f kStreamCtl 8 3 3 →
      (x.st = .idle → x.inCs → Answers (.streamSwapOut slot) s
        (starts { x with st := .swapOutBusy, copyFor := some (.swapSlot f.pos tag false), dest := none })) ∧
      (x.inCs = false → x.st = .idle ∨ x.st = .swappedOut ∨ x.st = .broken → Answers (.streamSwapOut slot) s atOnce) ∧
      (x.st = .running ∨ x.st = .swapOutBusy ∨ x.st = .swapInBusy →
        Answers (.streamSwapOut slot) s (starts { x with reqs := [.swapSlot f.pos tag false] }))) ∧
    (AcceptsOp s slot f kStreamCtl 8 3 4 →
      (∀ c a, x.st = .swappedOut → s.hw.power.tripped = false → chooseHome s.hw x [] = some (c, a) →
        Answers (.streamSwapIn slot) s
          (starts { x with st := .swapInBusy, copyFor := some (.swapSlot f.pos tag true), dest := some (c, a) })) ∧
      (x.st = .swappedOut → s.hw.power.tripped = false → chooseHome s.hw x [] = none →
        Answers (.streamSwapIn slot) s atOnce) ∧
      (x.st = .swappedOut → s.hw.power.tripped → Answers (.streamSwapIn slot) s fun t =>
        (∀ j < 256, streamOf t.hw j = streamOf s.hw j) ∧ Finishes s t (f.record .failDomainOff .none (streamWords s.hw i))) ∧
      (x.st = .idle → Answers (.streamSwapIn slot) s atOnce) ∧
      (x.st = .running ∨ x.st = .swapOutBusy ∨ x.st = .swapInBusy ∨ x.st = .broken →
        Answers (.streamSwapIn slot) s (starts { x with reqs := [.swapSlot f.pos tag true] }))) ∧
    (AcceptsOp s slot f kStreamCtl 8 3 1 → bit (wordAt f.words 4) 19 → x.inCs → x.st = .idle →
      Answers (.streamClose slot) s
        (starts { x with st := .swapOutBusy, copyFor := some (.close f.pos tag), dest := none }))) ∧
  (∀ (s : State) (slot : Slot) (f : Fetched), AtRest s → streamFieldsOk f.words →
    let w := wordAt f.words 4
    let i := slotStream f.words
    let x := streamOf s.hw i
    let entitled := f.master = x.owner ∨ f.master = HOST_S
    let refused (c : Instr) (st : Status) (d : Detail) : Prop :=
      Answers c s fun t => t.hw.streams = s.hw.streams ∧ Finishes s t (f.record st d (streamWords s.hw i))
    (AcceptsOp s slot f kStreamCtl 8 3 0 →
      (bit w 18 → f.master ≠ HOST_S → refused (.streamOpen slot) .refusedAccess .none) ∧
      ((bit w 18 → f.master = HOST_S) → x.st ≠ .free → refused (.streamOpen slot) .refusedState .streamOpen) ∧
      ((bit w 18 → f.master = HOST_S) → x.st = .free →
        granted s.hw CORES true true (addrAt f.words 5) (2 * fld (wordAt f.words 7) 0 25) = false →
        refused (.streamOpen slot) .refusedAccess .homeAccess)) ∧
    (bit w 18 = false → x.st = .free →
      (AcceptsOp s slot f kStreamCtl 8 3 1 → refused (.streamClose slot) .refusedState .streamFree) ∧
      (AcceptsOp s slot f kStreamCtl 8 3 2 → refused (.streamReset slot) .refusedState .streamFree) ∧
      (AcceptsOp s slot f kStreamCtl 8 3 3 → refused (.streamSwapOut slot) .refusedState .streamFree) ∧
      (AcceptsOp s slot f kStreamCtl 8 3 4 → refused (.streamSwapIn slot) .refusedState .streamFree)) ∧
    (bit w 18 = false → x.st ≠ .free → ¬ entitled →
      (AcceptsOp s slot f kStreamCtl 8 3 1 → refused (.streamClose slot) .refusedAccess .notOwner) ∧
      (AcceptsOp s slot f kStreamCtl 8 3 2 → refused (.streamReset slot) .refusedAccess .notOwner)) ∧
    (bit w 18 = false → entitled → x.st = .running ∨ x.st = .swapOutBusy ∨ x.st = .swapInBusy →
      AcceptsOp s slot f kStreamCtl 8 3 1 → refused (.streamClose slot) .refusedState .streamBusy))

/-- A stream's copy ends: out of core store it leaves the committed slot at HOME and the stream SWAPPED_OUT, into core
store it leaves it at the chosen place and the stream there; the slot that asked for it completes with the entry. An
uncorrectable error makes the stream BROKEN, and that slot fails with FAIL_ECC (R248, R251, R266). -/
def Obligations.StreamCopiesEnd : Prop :=
  ∀ (s : State) (i pos fixed : Nat) (tag : Word) (swapIn : Bool) (o : Owned), AtRest s → i < 256 → s.hw.writesRecords →
    let x := streamOf s.hw i
    let src := copySource x
    let bytes := readDev s.mem { s.hw with sent := [] } src x.slotBytes
    x.copyFor = some (.swapSlot pos tag swapIn) → s.hw.sq.owned.find? (fun o => o.pos == pos) = some o →
    let ends (bad : Bool) (st : Status) (y : Stream) : Prop := Answers (.streamCopyComplete i bad fixed) s fun t =>
      streamOf t.hw i = y ∧ (∀ j < 256, j ≠ i → streamOf t.hw j = streamOf s.hw j) ∧
      Completes t { pos := pos, kind := o.kind, status := st, tag := o.tag, result := streamWords t.hw i } ∧
      OnlyChanges (reporting ++ resting ++ [Portion.streams, Portion.health]) s t
    let broken : Stream := { x with st := .broken, inCs := false, core := 0, state := x.home, copyFor := none, dest := none }
    (x.st = .swapOutBusy → devBad s.hw src x.slotBytes = false →
      ends false .done { x with st := .swappedOut, inCs := false, core := 0, state := x.home, copyFor := none } ∧
      (s.hw.image.system.sqInDram = false → x.home + 2 * x.slotBytes ≤ dramEnd →
        Answers (.streamCopyComplete i false fixed) s fun t =>
          bytesAt t .dram (x.home + x.slotBytes * (x.gen % 2)) x.slotBytes = bytes)) ∧
    (∀ c a, x.st = .swapInBusy → x.dest = some (c, a) → (coreOf s.hw c).powered → devBad s.hw src x.slotBytes = false →
      ends false .done
        { x with st := .idle, inCs := true, core := c, state := a, copyFor := none, dest := none }) ∧
    (copyReady s.hw x → x.st = .swapOutBusy ∨ x.st = .swapInBusy → devBad (markBad [src] s.hw) src x.slotBytes →
      ends true .failEcc broken)

/-- POWER slots are checked first for the fields of R369 and then for a POWER slot in progress; both refusals change
nothing else (R370). SLEEP, DEEP and OFF are refused with BUSY, WAKE_N_LOW, SQ_NOT_KEEP or SQ_NOT_KEPT in that order; a
POWER slot that passes the first two checks ends a STAY at T2 (R160). -/
def Obligations.PowerSlotsAreRefusedInOrder : Prop :=
  ∀ (s : State) (slot : Slot) (f : Fetched) (low : Bool), AtRest s →
    let refusedWith (cascade : Cascade) (c : Instr) (st : Status) (d : Detail) : Prop := Answers c s fun t =>
      Finishes s t (f.record st d []) ∧ t.hw.cascade = cascade ∧
      OnlyChanges (reporting ++ resting ++ [Portion.slots, Portion.cascade]) s t
    let refused := refusedWith (releaseStay s.hw).cascade
    let each (st : Status) (d : Detail) : Prop :=
      (AcceptsOp s slot f kPower 0 3 0 → refusedWith s.hw.cascade (.powerSetPlevel slot) st d) ∧
      (AcceptsOp s slot f kPower 0 3 1 → refusedWith s.hw.cascade (.powerSleep slot low) st d) ∧
      (AcceptsOp s slot f kPower 0 3 2 → refusedWith s.hw.cascade (.powerDeep slot low) st d) ∧
      (AcceptsOp s slot f kPower 0 3 3 → refusedWith s.hw.cascade (.powerOff slot low) st d) ∧
      (AcceptsOp s slot f kPower 0 3 4 → refusedWith s.hw.cascade (.powerSenseOff slot) st d) ∧
      (AcceptsOp s slot f kPower 0 3 5 → refusedWith s.hw.cascade (.powerSenseOn slot) st d)
    let inDram := s.hw.image.system.sqInDram
    (powerFieldsOk f.words = false → each .refusedFormat .none) ∧
    (powerFieldsOk f.words → powerBusy s.hw → each .refusedState .powerBusy) ∧
    (powerFieldsOk f.words → powerBusy s.hw = false →
      (entryBusy s.hw f.pos →
        (AcceptsOp s slot f kPower 0 3 1 → refused (.powerSleep slot low) .refusedState .busy) ∧
        (AcceptsOp s slot f kPower 0 3 2 → refused (.powerDeep slot low) .refusedState .busy) ∧
        (AcceptsOp s slot f kPower 0 3 3 → refused (.powerOff slot low) .refusedState .busy)) ∧
      (entryBusy s.hw f.pos = false →
        (AcceptsOp s slot f kPower 0 3 1 → refused (.powerSleep slot true) .refusedState .wakeNLow) ∧
        (AcceptsOp s slot f kPower 0 3 2 → refused (.powerDeep slot true) .refusedState .wakeNLow) ∧
        (AcceptsOp s slot f kPower 0 3 3 → refused (.powerOff slot true) .refusedState .wakeNLow) ∧
        (AcceptsOp s slot f kPower 0 3 2 → inDram → inKept s.hw s.hw.image.system.sqBase 131072 = false →
          refused (.powerDeep slot false) .refusedState .sqNotKeep) ∧
        (AcceptsOp s slot f kPower 0 3 3 → inDram → refused (.powerOff slot false) .refusedState .sqNotKept)))

/-- SET_PLEVEL completes at once with CLOCK_HELD while the clock is held, and at once for the level in force; otherwise
a change to the level begins, and the level stays until the clock switches (R360, R370). The clock switches: to a slower
level at once, before its rail; to a faster one once its rail is reached, which completes the slot; not in a dip, nor
while a rail change runs; and where the clock has come to be held the change ends with CLOCK_HELD (R243, R245, R360,
R385). -/
def Obligations.LevelsChangeWithTheirClock : Prop :=
  (∀ (s : State) (slot : Slot) (f : Fetched), AcceptsOp s slot f kPower 0 3 0 → powerFieldsOk f.words →
    powerBusy s.hw = false → AtRest s →
    let p := fld (wordAt f.words 4) 4 3
    let atOnce (d : Detail) : Prop := Answers (.powerSetPlevel slot) s fun t =>
      t.hw.power.plevel = s.hw.power.plevel ∧ t.hw.power.change = none ∧ Finishes s t (f.record .done d [])
    (s.hw.power.clockHeld → atOnce .clockHeld) ∧
    (s.hw.power.clockHeld = false → p = s.hw.power.plevel → atOnce .none) ∧
    (s.hw.power.clockHeld = false → p ≠ s.hw.power.plevel → Answers (.powerSetPlevel slot) s fun t =>
      (∃ c, t.hw.power.change = some c ∧ c.target = p ∧ c.old = s.hw.power.plevel ∧ c.pos = f.pos ∧
        c.tag = wordAt f.words 1 ∧ c.switched = false) ∧
      t.hw.power.plevel = s.hw.power.plevel ∧ t.mem = s.mem ∧
      OnlyChanges (reporting ++ resting ++ [Portion.slots, Portion.cascade]) s t)) ∧
  (∀ (s : State) (c : LevelChange) (o : Owned), s.hw.power.change = some c → AtRest s → s.hw.writesRecords →
    s.hw.sq.owned.find? (fun x => x.pos == c.pos) = some o →
    let record (d : Detail) : Record := { pos := c.pos, kind := o.kind, status := .done, tag := o.tag, detail := d }
    (s.hw.power.clockHeld → Answers .clockSwitch s fun t =>
      t.hw.power.change = none ∧ t.hw.power.plevel = s.hw.power.plevel ∧ Finishes s t (record .clockHeld)) ∧
    (s.hw.power.clockHeld = false → c.switched = false → s.hw.power.dip = none → s.hw.power.railChange = none →
      (s.hw.power.plevel ≤ c.target → Answers .clockSwitch s fun t =>
        t.hw.power.plevel = c.target ∧ (∃ d, t.hw.power.change = some d ∧ d.switched ∧ d.target = c.target) ∧
        t.mem = s.mem ∧ OnlyChanges (reporting ++ resting) s t) ∧
      (c.target < s.hw.power.plevel → c.written → Answers .clockSwitch s fun t =>
        t.hw.power.plevel = c.target ∧ t.hw.power.change = none ∧ Finishes s t (record .none) ∧
        OnlyChanges (reporting ++ resting) s t)) ∧
    (s.hw.power.clockHeld = false → s.hw.power.dip.isSome ∨ s.hw.power.railChange.isSome → Answers .clockSwitch s fun t =>
      t.hw.power.plevel = s.hw.power.plevel ∧ t.hw.power.change = some c ∧ t.mem = s.mem ∧
      OnlyChanges (reporting ++ resting) s t))

/-- SENSE_OFF on a powered SENSE begins its drain, stops every chain and ends a calibration run, whose slot completes
with ABORTED where nothing is to be stored; the drain's end takes every channel but a STUCK one to OFF, loses the frames
that are held and completes the slot. SENSE_ON powers SENSE: each channel starts from its state at power-up and the kept
trims are loaded. Neither is accepted where SENSE is not fitted (R69, R137, R140, R144, R369, R370, R387). -/
def Obligations.SenseGoesOffAndOn : Prop :=
  (∀ (s : State) (slot : Slot) (f : Fetched), AcceptsOp s slot f kPower 0 3 4 → powerFieldsOk f.words →
    powerBusy s.hw = false → AtRest s →
    (s.hw.senseFitted = false → Answers (.powerSenseOff slot) s fun t =>
      t.hw.power.senseOff = s.hw.power.senseOff ∧ t.hw.drum.senseOn = s.hw.drum.senseOn ∧
      Finishes s t (f.record .refusedState .senseOff [])) ∧
    (s.hw.senseFitted → s.hw.drum.senseOn = false → Answers (.powerSenseOff slot) s fun t =>
      t.hw.power.senseOff = true ∧ t.hw.drum.senseOn = false ∧ Finishes s t (f.record .done .none []) ∧
      OnlyChanges (reporting ++ resting ++ [Portion.slots, Portion.cascade]) s t) ∧
    (s.hw.senseFitted → s.hw.drum.senseOn → Answers (.powerSenseOff slot) s fun t =>
      let rawIdle := s.hw.raw.waits = [] ∧ ∀ c ∈ s.hw.raw.chains, c.resetSlot = none ∧ c.stopSlots = []
      t.hw.power.senseOff = true ∧ t.hw.power.senseDrain = some (f.pos, wordAt f.words 1) ∧ t.hw.drum.senseOn = true ∧
      t.hw.raw.chains = s.hw.raw.chains.map stopChain ∧ t.hw.raw.waits = [] ∧
      (∀ r, t.hw.cal.run = some r → r.phase = .store) ∧
      (∀ r o, rawIdle → s.hw.cal.run = some r → r.phase ≠ .store → r.doneMask = 0 ∨ r.noStore →
        s.hw.sq.owned.find? (fun x => x.pos == r.slot) = some o → r.slot ≠ f.pos →
        t.hw.cal.run = none ∧ Finishes s t { pos := r.slot, kind := o.kind, status := .done, tag := o.tag
                                             result := calResult { r with aborted := true, skippedMask := leftOver r } none }) ∧
      (rawIdle → s.hw.cal.run = none → t.mem = s.mem ∧ t.hw.cal = s.hw.cal ∧ t.hw.drum = s.hw.drum) ∧
      OnlyChanges (reporting ++ resting ++ [Portion.slots, Portion.drum, Portion.raw, Portion.cal, Portion.cascade]) s t)) ∧
  (∀ (s : State) (pos : Nat) (tag : Word) (o : Owned), s.hw.power.senseDrain = some (pos, tag) → AtRest s →
    s.hw.writesRecords → s.hw.sq.owned.find? (fun x => x.pos == pos) = some o → Answers .domainDrainEnd s fun t =>
      t.hw.power.senseDrain = none ∧ t.hw.drum.senseOn = false ∧
      t.hw.drum.channels = s.hw.drum.channels.map powerDownChannel ∧ t.hw.drum.holding = [] ∧ t.hw.bell.due = none ∧
      Finishes s t { pos := pos, kind := o.kind, status := .done, tag := o.tag } ∧
      OnlyChanges (reporting ++ resting ++ [Portion.drum, Portion.raw, Portion.bell]) s t) ∧
  (∀ (s : State) (slot : Slot) (f : Fetched), AcceptsOp s slot f kPower 0 3 5 → powerFieldsOk f.words →
    powerBusy s.hw = false → AtRest s →
    (s.hw.senseFitted = false → Answers (.powerSenseOn slot) s fun t =>
      t.hw.power.senseOff = s.hw.power.senseOff ∧ t.hw.drum.senseOn = s.hw.drum.senseOn ∧
      Finishes s t (f.record .refusedState .senseOff [])) ∧
    (s.hw.senseFitted → Answers (.powerSenseOn slot) s fun t =>
      t.hw.power.senseOff = false ∧ t.hw.drum.senseOn = true ∧ Finishes s t (f.record .done .none []) ∧
      (s.hw.drum.senseOn = false → t.hw.drum.channels = (List.range 32).map (powerUpChannel s.hw) ∧
        t.hw.cal = (reloadTrims s.hw).cal) ∧
      (s.hw.drum.senseOn → t.hw.drum = s.hw.drum ∧ t.hw.cal = s.hw.cal ∧ t.hw.bell = s.hw.bell) ∧
      OnlyChanges (reporting ++ resting ++
        [Portion.slots, Portion.drum, Portion.cal, Portion.bell, Portion.cascade]) s t))

/-- SLEEP, DEEP and OFF begin their entry: the slot waits for the end of the stay with the results of the cascade pre-
check, fetching and the chains stop, a calibration run ends, and a stream at rest in core store starts its way out
(R268, R371). An entry goes on: its save begins once no graph, calibration run, copy or state in core store is left, and
takes the PCIe link down and empties the check cache; the drain takes the ring down, a SLEEP keeping its lanes; and its
end takes CTRL, MEM and, unless it is kept, SENSE down and leaves the device in the target state (R283, R366, R371). -/
def Obligations.EntriesGoToTheirState : Prop :=
  (∀ (s : State) (slot : Slot) (f : Fetched), powerFieldsOk f.words → powerBusy s.hw = false → AtRest s →
    entryBusy s.hw f.pos = false →
    let keep := bit (wordAt f.words 4) 3
    let rawApart := (∀ w ∈ s.hw.raw.waits, w.pos ≠ f.pos) ∧
      ∀ c ∈ s.hw.raw.chains, c.resetSlot ≠ some f.pos ∧ ¬ f.pos ∈ c.stopSlots
    let begins (c : Instr) (target : DevState) (op : Nat) : Prop :=
      let c1 := preCheck s.mem s.hw target 1
      let c2 := preCheck s.mem s.hw target 2
      Answers c s fun t =>
        t.hw.power.entry = some { target := target, keepSense := keep } ∧
        t.hw.power.slot = some { pos := f.pos, tag := wordAt f.words 1, op := op, target := target, keepSense := keep
                                 t1Ok := (preCrc c1).isSome, t2Ok := (preCrc c2).isSome, detail := preDetail c1 c2 } ∧
        t.hw.cascade = { s.hw.cascade with t1Check := preCrc c1, t2Check := preCrc c2, stay := none } ∧
        t.hw.sq.fetchStopped = true ∧ t.hw.raw.chains = s.hw.raw.chains.map stopChain ∧
        (∀ r, t.hw.cal.run = some r → r.phase = .store) ∧
        (∀ i < 256, let x := streamOf s.hw i
          (x.st = .idle → x.inCs → x.copyFor ≠ some .evict →
            streamOf t.hw i = { x with st := .swapOutBusy, copyFor := some .evict, dest := none }) ∧
          (x.inCs = false → x.st ≠ .swapInBusy → streamOf t.hw i = x)) ∧
        (rawApart → s.hw.cal.run = none →
          t.mem = s.mem ∧ OnlyChanges (reporting ++ resting ++ [Portion.slots, Portion.raw, Portion.streams, Portion.cascade]) s t) ∧
        OnlyChanges (reporting ++ resting ++
          [Portion.slots, Portion.drum, Portion.raw, Portion.cal, Portion.streams, Portion.cascade]) s t
    let inDram := s.hw.image.system.sqInDram
    (AcceptsOp s slot f kPower 0 3 1 → begins (.powerSleep slot false) .sleep 1) ∧
    (AcceptsOp s slot f kPower 0 3 2 → (inDram → inKept s.hw s.hw.image.system.sqBase 131072) →
      begins (.powerDeep slot false) .deep 2) ∧
    (AcceptsOp s slot f kPower 0 3 3 → inDram = false → begins (.powerOff slot false) .off 3)) ∧
  ((∀ (s : State) (e : Entry), s.hw.power.entry = some e → e.saving = false → saveReady s.hw → Settled s →
    Answers .saveBegins s fun t =>
      t.hw.power.entry = some { e with saving := true } ∧ t.hw.sq.linkUp = false ∧ t.hw.sq.cfgKept = some s.hw.sq.cfg ∧
      t.hw.sched.cache = [] ∧ OnlyChanges (reporting ++ [Portion.slots, Portion.raw, Portion.sched, Portion.power, Portion.health]) s t) ∧
  (∀ (s : State) (e : Entry), s.hw.power.entry = some e → e.saving → e.drained = false → NoExcursion s → Settled s →
    Answers .domainDrainEnd s fun t =>
      t.hw.power.entry = some { e with drained := true } ∧ t.hw.ring.st = .down ∧ t.hw.ring.members = [] ∧
      t.hw.ring.winOpen = false ∧
      (e.target = .sleep → t.hw.ring.keptEast = (portLanes s.hw.ring.east).orElse (fun _ => s.hw.ring.keptEast) ∧
        t.hw.ring.keptWest = (portLanes s.hw.ring.west).orElse fun _ => s.hw.ring.keptWest) ∧
      OnlyChanges (reporting ++ scheduling ++ [Portion.update]) s t) ∧
  ∀ (s : State) (e : Entry) (env : WakeEnv), s.hw.power.entry = some e → e.saving → e.drained → e.latched = [] →
    NoExcursion s → Settled s →
    let senseOff := e.target = .off ∨ e.keepSense = false
    Answers (.entryComplete env) s fun t =>
      t.hw.power.dev = e.target ∧ t.hw.power.entry = none ∧ t.hw.power.ctrlOn = false ∧ t.hw.power.memOn = false ∧
      t.hw.sched.graphs = [] ∧ t.hw.sched.quotas = s.hw.sched.quotas ∧ t.hw.power.slot = s.hw.power.slot ∧
      (senseOff → t.hw.drum.senseOn = false ∧ t.hw.power.senseBack = (s.hw.drum.senseOn || s.hw.power.senseBack)) ∧
      (¬senseOff → t.hw.drum = s.hw.drum) ∧
      (∀ a, byteAt t .coreStore a = some 0) ∧ (∀ a, byteAt t .flash a = byteAt s .flash a) ∧
      (e.target = .sleep → (∀ a, byteAt t .window a = byteAt s .window a) ∧
        ∀ a < reservedEnd, byteAt t .dram a = byteAt s .dram a) ∧
      (e.target = .off → ∀ a, byteAt t .dram a = some 0) ∧
      (e.target = .deep → ∀ a, byteAt t .dram a =
        if (keptRanges s.hw).any (fun r => decide (r.1 ≤ a) && decide (a < r.1 + r.2)) then byteAt s .dram a else some 0) ∧
      OnlyChanges (reporting ++ [Portion.drum, Portion.raw, Portion.bell, Portion.sched, Portion.power]) s t)

/-- WAKE_N in SLEEP wakes the device under the host: CTRL and MEM are up, the device is ACTIVE, slots are fetched again,
the wake is reported with HOST_WAKE, and the POWER slot of the stay completes, or its record waits for the link (R373 to
R376, R465). A wake that fails, from any source that wakes from the state, leaves the device in its state: the latch
holds its detail, FAULT_N's WAKE_FAIL bit is set and the recovery port is to open; a later failure is only counted in
the latch. The source's own acceptance stands (R163, R379, R383, R422). -/
def Obligations.WakesFromSleepAndTheirFailures : Prop :=
  (∀ (s : State) (env : WakeEnv) (p : PowerSlot), asleep s.hw → s.hw.power.dev = .sleep → s.hw.power.wakeFail = none →
    env.retentionBad = false → s.hw.power.slot = some p → AtRest s →
    let r : Record := { pos := p.pos, kind := kPower, tag := p.tag, detail := p.detail
                        result := powerWords p 1 WakeSource.wakeN.code false s.hw.power.time }
    Answers (.wakeNAccept env) s fun t =>
      t.hw.power.dev = .active ∧ t.hw.power.ctrlOn = true ∧ t.hw.power.memOn = true ∧ t.hw.power.slot = none ∧
      t.hw.sq.fetchStopped = false ∧ t.hw.power.rail = 0 ∧ Reports t .eventWake .hostWake ∧
      (if s.hw.image.system.sqInDram then Completes t r
        else if s.hw.sq.linkUp then Completes t r else t.hw.sq.heldRecords = [r])) ∧
  (∀ (s : State) (source : WakeSource) (why : WakeFailure), asleep s.hw → wakesFrom s.hw source →
    (source = .rtc → s.hw.power.alarm.isSome) → (source = .vwake → inputsPowered s.hw) →
    (source = .rwakeIn → s.hw.board.rwakeQuiet = false) → NothingHeld s → s.hw.sq.queue = [] →
    let a := acceptSource source s.hw
    (s.hw.power.wakeFail = none → Answers (.wakeFail source why) s fun t =>
      t.hw.power = { a.power with wakeFail := some (why, 0) } ∧ t.hw.board = a.board ∧
      t.hw.health.causes = setBit s.hw.health.causes causeWakeFail true ∧ t.hw.rvy = { s.hw.rvy with opening := true } ∧
      t.mem = s.mem ∧ OnlyChanges [.power, .health, .rvy, .board] s t) ∧
    ∀ first n, s.hw.power.wakeFail = some (first, n) → Answers (.wakeFail source why) s fun t =>
      t.hw.power = { a.power with wakeFail := some (first, min (n + 1) 65535) } ∧ t.hw.board = a.board ∧ t.mem = s.mem ∧
      OnlyChanges [.power, .board] s t)

/-- Wake events in a device that is awake: WAKE_N ends what a STAY left and, but at T1, changes nothing else; VWAKE and
the alarm are reported; the alarm is then gone; a pulse on RWAKE_IN outside its quiet time is forwarded, and one within
it is ignored (R20, R160, R163, R374, R383). -/
def Obligations.WakeEventsInAnAwakeDevice : Prop :=
  ∀ (s : State) (env : WakeEnv), s.hw.up → s.hw.board.aonOn → s.hw.power.wakes = [] → s.hw.board.resetN → AtRest s →
    (Answers (.wakeNAccept env) s fun t =>
      t.hw.power.dev = s.hw.power.dev ∧ t.hw.cascade = { s.hw.cascade with stay := none } ∧
      (atT1 s.hw = false → t.mem = s.mem ∧ OnlyChanges (reporting ++ resting ++ [Portion.cascade]) s t)) ∧
    (inputsPowered s.hw → Answers (.vwakeAccept env) s fun t =>
      t.hw.board = { s.hw.board with vwake := true } ∧ Reports t .eventWake .vehicleWake ∧ t.mem = s.mem ∧
      OnlyChanges (reporting ++ resting ++ [Portion.board]) s t) ∧
    (∀ v, s.hw.power.alarm = some v → s.hw.power.time ≤ 24000 * v → 24000 * v < 2 ^ 64 →
      Answers (.rtcAlarm env) s fun t =>
        t.hw.power.alarm = none ∧ t.hw.power.time = 24000 * v ∧ Reports t .eventWake .rtcAlarm ∧ t.mem = s.mem ∧
        OnlyChanges (reporting ++ resting) s t) ∧
    (s.hw.board.rwakeQuiet = false → Answers (.rwakeInAccept env) s fun t =>
      t.hw.board = { s.hw.board with rwakeOut := true, rwakeQuiet := true } ∧ t.mem = s.mem ∧
      OnlyChanges (reporting ++ resting ++ [Portion.board]) s t) ∧
    (s.hw.board.rwakeQuiet → Answers (.rwakeInAccept env) s fun t =>
      t.hw.board = s.hw.board ∧ t.mem = s.mem ∧ OnlyChanges (reporting ++ resting) s t)

/-- RWAKE_IN in SLEEP starts an excursion at T2 on a node whose Bell and T2 graph are enabled: the device is ACTIVE, the
pulse is forwarded, the wake record is in DRAM at CASCADE_BASE with the time of the accepted edge, 50 µs to 52 µs
earlier, and the graph is fetched (R156 to R158, R163, R376, R470). A cascade graph that has not given its verdict in
time is closed and FAIL_VERDICT takes its place, with VERDICT_TIMEOUT as the detail of the excursion's report: STAY
leaves the device ACTIVE at the tier and completes the stay's slot, and at T2 every other verdict but FALL_BACK stays;
FALL_BACK begins the entry into the prior state, but for a re-run that is due (R159 to R161). WAKE_N ends an excursion:
the device stays ACTIVE under the host, its slots are fetched again, and the excursion is reported when its graph
completes (R162). -/
def Obligations.ExcursionsStartAndEnd : Prop :=
  (∀ (s : State) (env : WakeEnv) (b : BellSec), asleep s.hw → s.hw.power.dev = .sleep → s.hw.power.wakeFail = none →
    s.hw.board.rwakeQuiet = false → env.retentionBad = false → AtRest s → s.hw.image.bell = some b → b.enable → b.t2En →
    let seq := if (s.hw.cascade.seq + 1) % 2 ^ 32 = 0 then 1 else (s.hw.cascade.seq + 1) % 2 ^ 32
    Answers (.rwakeInAccept env) s fun t =>
      t.hw.power.dev = .active ∧ t.hw.power.ctrlOn = true ∧ t.hw.power.memOn = true ∧
      t.hw.board.rwakeOut = true ∧ t.hw.board.rwakeQuiet = true ∧ t.hw.cascade.seq = seq ∧
      ∃ n k, 1229 ≤ n ∧ n ≤ 1277 ∧
        let e : Excursion := { tier := 2, prior := .sleep, source := .rwakeIn, top := 2
                               fireTime := (s.hw.power.time + 2 ^ 64 - n) % 2 ^ 64 }
        t.hw.cascade.exc = some { e with seq := seq, key := k, graphOpen := true, fetchEl := s.hw.power.elapsed } ∧
        (∃ g ∈ t.hw.sched.graphs, g.key = k ∧ g.owner = SCHED ∧ g.hdrAddr = b.t2Graph) ∧
        bytesAt t .dram b.cascadeBase 64 = wordsBytes (wakeRecord e seq s.hw.bell.latched)) ∧
  (∀ (s : State) (e : Excursion), OneExcursion s e →
    let due := verdictDue s.hw e
    let gone (t : State) : Prop := t.hw.cascade.exc = none ∧ Reports t .eventWake .verdictTimeout ∧
      (s.hw.board.aonOn → s.hw.power.elapsed ≤ due → t.hw.power.elapsed = due) ∧
      ∀ g ∈ t.hw.sched.graphs, g.key ≠ e.key
    ((bellCfg s.hw).failVerdict = 1 ∨ (bellCfg s.hw).failVerdict ≠ 0 ∧ e.tier ≠ 1 → Answers .verdictTimeout s fun t =>
      gone t ∧ t.hw.cascade.stay = some (e.tier, e.prior) ∧ t.hw.power.slot = none ∧ t.hw.sq.fetchStopped = false ∧
      t.hw.power.dev = s.hw.power.dev) ∧
    ((bellCfg s.hw).failVerdict = 0 → ¬(e.tier = 1 ∧ e.rerun) → Answers .verdictTimeout s fun t =>
      gone t ∧ t.hw.sq.fetchStopped = true ∧ t.hw.raw.chains = s.hw.raw.chains.map stopChain ∧
      (s.hw.cal.run = none → s.hw.raw.waits = [] → (∀ c ∈ s.hw.raw.chains, c.resetSlot = none ∧ c.stopSlots = []) →
        t.mem = s.mem) ∧
      ∃ n, t.hw.power.entry = some n ∧ n.target = e.prior ∧ n.saving = false ∧ n.tier1 = (e.tier == 1))) ∧
  (∀ (s : State) (e : Excursion) (env : WakeEnv), OneExcursion s e → s.hw.up → s.hw.board.resetN → s.hw.power.wakes = [] →
    Answers (.wakeNAccept env) s fun t =>
      t.hw.cascade.exc = none ∧ t.hw.cascade.owed = [e] ∧ t.hw.power.slot = none ∧ t.hw.sq.fetchStopped = false ∧
      t.hw.power.dev = s.hw.power.dev)

/-- The scores of a due Bell beat, outside excursions and entries in a device that is awake: a class fires when the
count of its over-threshold beats rises from K − 1 to K, and each class that fires is reported; a score equal to THR is
not over, and an uncorrectable error in Bell's stores stops inference and is raised once (R154, R155, R328). -/
def Obligations.BellScoresFireTheirClasses : Prop :=
  ∀ (s : State) (eccBad : Bool) (env : WakeEnv) (b : BellBeat), s.hw.bell.due = some b → bellRuns s.hw → s.hw.up →
    (∀ p, s.hw.cascade.stay ≠ some (1, p)) → s.hw.power.wakes = [] → AtRest s →
    let dead := s.hw.bell.dead || eccBad
    let score (k : Nat) : Nat := (bellScores16 s.hw.bell.blob s.hw.bell.rows.reverse).getD k 0
    let cls (k : Nat) : BellClass := (bellCfg s.hw).classes.getD k {}
    let hit (k : Nat) : Bool := !dead && b.infer && decide ((cls k).thr < score k)
    let old (k : Nat) : List Bool := s.hw.bell.overBits.getD k []
    let fires (k : Nat) : Prop := (cls k).action ≠ 0 ∧ overCount (old k) (cls k).n + 1 = (cls k).k ∧
      overCount (hit k :: old k) (cls k).n = (cls k).k
    Answers (.bellScores eccBad env) s fun t =>
      t.hw.bell.due = none ∧ t.hw.bell.dead = dead ∧
      t.hw.bell.overBits = (List.range 16).map (fun k => (hit k :: old k).take 16) ∧
      (∀ k < 16, fires k → ∃ x ∈ t.hw.sq.queue, x.status = .eventWake ∧ x.detail = .bellFire ∧
        fld (wordAt x.result 1) 0 16 = 2 ^ k) ∧
      (eccBad → s.hw.bell.eccRaised = false → Reports t .eventHealth .bellEcc) ∧ t.mem = s.mem ∧
      OnlyChanges (reporting ++ resting ++ [Portion.bell, Portion.health]) s t

/-- R477. With a quota of zero no charge passes the quota test, whatever the account, and the class's turn issues no
piece. -/
def Obligations.ZeroQuotaAdmitsNothing : Prop :=
  ∀ (m : Mems) (cls : Nat) (h : Hw), h.sched.quotas.getD cls 0 = 0 →
    (∀ e, quotaTest h cls e = false) ∧ ∀ h', classTurn m cls h ≠ .issued h'

/-- A rail change ends 15 µs after its decision at its level and voltage. A write that was never acknowledged disables
the margins and leaves the rail at M0: with AVS_MARGIN where the voltage can be read and the M0 write is acknowledged,
otherwise with the clock held, FAULT_N's AVS bit and AVS_MARGIN_FAIL (R244, R245). The write that ends a slower level's
change completes its slot; where another rail change ends after the clock has switched, the change's own write starts
and the change goes on (R243, R360). -/
def Obligations.RailChangesEnd : Prop :=
  (∀ (s : State) (r : RailChange) (reply : AvsReply), s.hw.power.railChange = some r → s.hw.power.change = none →
    s.hw.power.railNext = none → AtRest s → s.hw.board.aonOn → s.hw.power.elapsed ≤ r.since + usTicks 15 →
    Answers (.railChangeComplete reply) s fun t =>
      t.hw.power.railChange = none ∧ t.hw.power.elapsed = r.since + usTicks 15 ∧
      t.hw.power.railSince = r.since + usTicks 15 ∧ t.mem = s.mem ∧
      (reply.ack → t.hw.power.rail = r.level ∧ t.hw.power.railMv = r.mv ∧
        t.hw.power.marginsOff = s.hw.power.marginsOff ∧ OnlyChanges (reporting ++ resting) s t) ∧
      (reply.ack = false → t.hw.power.rail = 0 ∧ t.hw.power.marginsOff = true ∧
        OnlyChanges (reporting ++ resting ++ [Portion.health]) s t ∧
        (reply.readMv.isSome → Reports t .eventHealth .avsMargin) ∧
        (reply.readMv.isSome → reply.m0Ack → t.hw.power.railMv = railMillivolts r.plevel 0 ∧
          t.hw.power.clockHeld = s.hw.power.clockHeld) ∧
        (reply.readMv = none ∨ reply.m0Ack = false → t.hw.power.clockHeld = true ∧
          t.hw.health.causes = setBit s.hw.health.causes causeAvs true ∧ Reports t .eventHealth .avsMarginFail))) ∧
  (∀ (s : State) (r : RailChange) (c : LevelChange) (reply : AvsReply), s.hw.power.railChange = some r →
    s.hw.power.change = some c → c.switched → reply.ack → AtRest s →
    (∀ o, c.written → s.hw.writesRecords → s.hw.sq.owned.find? (fun x => x.pos == c.pos) = some o →
      Answers (.railChangeComplete reply) s fun t =>
        t.hw.power.change = none ∧ t.hw.power.rail = r.level ∧ t.hw.power.railMv = r.mv ∧
        Finishes s t { pos := c.pos, kind := o.kind, status := .done, tag := o.tag } ∧
        OnlyChanges (reporting ++ resting) s t) ∧
    (c.written = false → s.hw.up → s.hw.power.dip = none → Answers (.railChangeComplete reply) s fun t =>
      t.hw.power.change = some { c with written := true } ∧ t.hw.power.rail = r.level ∧
      (∃ q, t.hw.power.railChange = some q ∧ q.level = r.level ∧ q.plevel = c.target ∧
        q.mv = railMillivolts c.target r.level) ∧ t.mem = s.mem ∧ OnlyChanges resting s t))

/-- A rail below its warning level and not below its reset level counts as a dip in ACTIVE and IDLE, and P5 is the level
in force from then on; in SLEEP, DEEP and OFF it only counts; within a dip, above the warning level and in RECOVERY
nothing changes. A dip ends at the earliest 200 µs after it began: the prior level is in force again, and SUPPLY_WARN
names the rail and the length in µs (R384, R385). -/
def Obligations.DipsForceTheSlowClock : Prop :=
  (∀ (s : State) (rail : Rail) (mv : Nat), s.hw.board.aonOn → NoExcursion s →
    let counted := min (s.hw.health.cnt.dips + 1) 65535
    let awake := s.hw.power.dev = .active ∨ s.hw.power.dev = .idle
    let asleep := s.hw.power.dev = .sleep ∨ s.hw.power.dev = .deep ∨ s.hw.power.dev = .off
    let same (t : State) : Prop := t.hw.power.dip = s.hw.power.dip ∧ OnlyChanges (reporting ++ scheduling) s t
    (mayDip s.hw rail mv → awake → s.hw.power.dip = none → Answers (.supplyDip rail mv) s fun t =>
      t.hw.power.dip = some (rail, s.hw.power.elapsed) ∧ levelInForce t.hw = 5 ∧ t.hw.power.plevel = s.hw.power.plevel ∧
      t.hw.health.cnt.dips = counted ∧ OnlyChanges (reporting ++ scheduling) s t) ∧
    (awake → s.hw.power.dip.isSome → Answers (.supplyDip rail mv) s fun t =>
      same t ∧ levelInForce t.hw = 5 ∧ t.hw.health.cnt.dips = s.hw.health.cnt.dips) ∧
    (mayDip s.hw rail mv → asleep → Answers (.supplyDip rail mv) s fun t =>
      same t ∧ t.hw.health.cnt.dips = counted) ∧
    (mayDip s.hw rail mv = false ∨ s.hw.power.dev = .recovery → Answers (.supplyDip rail mv) s fun t =>
      same t ∧ t.hw.health.cnt.dips = s.hw.health.cnt.dips)) ∧
  ∀ (s : State) (rail : Rail) (since : Nat), s.hw.power.dip = some (rail, since) → s.hw.board.aonOn → AtRest s →
    s.hw.power.elapsed ≤ since + usTicks 200 → Answers .dipEnd s fun t =>
      t.hw.power.dip = none ∧ t.hw.power.elapsed = since + usTicks 200 ∧ t.hw.power.plevel = s.hw.power.plevel ∧
      (s.hw.power.hotClock = false → s.hw.power.clockHeld = false → levelInForce t.hw = s.hw.power.plevel) ∧
      (∃ e ∈ t.hw.sq.queue, e.status = .eventHealth ∧ e.detail = .supplyWarn ∧
        e.result.take 2 = [w32 (rail.code + 256 * 7), w32 200]) ∧
      t.mem = s.mem ∧ OnlyChanges (reporting ++ resting) s t

/-- An account slot begins on the next multiple of 768 ticks with an empty slot in front of at most 31 others and the
new readings (R290, R292). A second slot in a row at 130 °C or more holds the clock with THERMAL_CLOCK, 140 °C trips the
array and sets FAULT_N's THERMAL_TRIP bit, and Tmax above T_THR for the first time raises EVENT_THERMAL (R293, R389).
The thermal clock hold ends once Tmax has stayed below 125 °C for 1 ms and the trip once it has stayed below 110 °C for
10 ms, which clears FAULT_N's bit; where the last reading was at or above them neither does. The drain of a trip takes
every core's island and tiles away (R387, R389). -/
def Obligations.AccountSlotsJudgeTemperatures : Prop :=
  (∀ (s : State) (temps : List Int) (tm : Int) (n : Nat), s.hw.up → s.hw.board.aonOn → AtRest s → tMax temps = some (tm, n) →
    s.hw.power.time + 768 < 2 ^ 64 →
    Answers (.accountSlot temps) s fun t =>
      t.hw.sched.temps = temps ∧ t.hw.sched.account = ({} :: s.hw.sched.account).take 32 ∧
      t.hw.power.time = (s.hw.power.time / 768 + 1) * 768 ∧ t.hw.health.cnt.tmaxPeak = max s.hw.health.cnt.tmaxPeak tm ∧
      t.mem = s.mem ∧ OnlyChanges (reporting ++ resting ++ [Portion.health]) s t ∧
      (tm < 130 * 16 → t.hw.sched.hotSlots = 0 ∧ t.hw.power.hotClock = s.hw.power.hotClock) ∧
      (130 * 16 ≤ tm → t.hw.sched.hotSlots = s.hw.sched.hotSlots + 1) ∧
      (130 * 16 ≤ tm → 1 ≤ s.hw.sched.hotSlots → s.hw.power.hotClock = false →
        t.hw.power.hotClock = true ∧ Reports t .eventHealth .thermalClock ∧
        t.hw.health.cnt.thermalClocks = min (s.hw.health.cnt.thermalClocks + 1) (2 ^ 32 - 1)) ∧
      (140 * 16 ≤ tm → s.hw.power.tripped = false → t.hw.power.tripped = true ∧ t.hw.power.arrayDrain = true ∧
        bitOf t.hw.health.causes causeTrip = true ∧
        t.hw.health.cnt.thermalTrips = min (s.hw.health.cnt.thermalTrips + 1) (2 ^ 32 - 1)) ∧
      (tm < 140 * 16 → t.hw.power.tripped = s.hw.power.tripped) ∧
      ∀ q, s.hw.image.quotas = some q →
        (s.hw.sched.aboveThr = false → 16 * (q.tThr : Int) < tm →
          t.hw.sched.aboveThr = true ∧ ∃ x ∈ t.hw.sq.queue, x.status = .eventThermal ∧
            x.result = [w32 (4 * n), w32 (patternOf 16 tm)]) ∧
        (s.hw.sched.aboveThr = false → tm ≤ 16 * (q.tThr : Int) → t.hw.sched.aboveThr = false)) ∧
  (∀ s : State, AtRest s → s.hw.board.aonOn →
    (∀ since, s.hw.sched.below125 = some since → s.hw.power.hotClock → Answers .thermalClockEnd s fun t =>
      t.hw.power.hotClock = false ∧ t.hw.power.elapsed = max s.hw.power.elapsed (since + msTicks 1) ∧
      t.mem = s.mem ∧ OnlyChanges (reporting ++ resting) s t) ∧
    (s.hw.sched.below125 = none ∨ s.hw.power.hotClock = false → Answers .thermalClockEnd s fun t =>
      t.hw.power.hotClock = s.hw.power.hotClock ∧ t.hw.power.elapsed = s.hw.power.elapsed) ∧
    (∀ since, s.hw.sched.below110 = some since → s.hw.power.tripped → Answers .thermalTripEnd s fun t =>
      t.hw.power.tripped = false ∧ t.hw.power.elapsed = max s.hw.power.elapsed (since + msTicks 10) ∧
      t.hw.health.causes = setBit s.hw.health.causes causeTrip false ∧ t.mem = s.mem ∧
      OnlyChanges (reporting ++ resting ++ [Portion.health]) s t) ∧
    (s.hw.sched.below110 = none ∨ s.hw.power.tripped = false → Answers .thermalTripEnd s fun t =>
      t.hw.power.tripped = s.hw.power.tripped ∧ t.hw.health.causes = s.hw.health.causes) ∧
    (s.hw.power.senseDrain = none → s.hw.power.arrayDrain → s.hw.power.tripped →
      (∀ x ∈ s.hw.streams, x.inCs = false ∧ x.st ≠ .swapInBusy) → Answers .domainDrainEnd s fun t =>
        t.hw.power.arrayDrain = false ∧ (∀ c ∈ t.hw.sched.cores, c.powered = false ∧ c.tiles = [] ∧ c.run = none) ∧
        t.mem = s.mem ∧ OnlyChanges (reporting ++ resting) s t))

/-- A device without work goes from ACTIVE to IDLE: tiles are dropped, an island with a stream's pair keeps its power
with its clock stopped, every other one that does not probe is gated; with work nothing changes. In ACTIVE an empty
island is gated 100 µs after its last piece. When a group of islands is ready those of its usable cores are powered,
their rounding generators seeded from device time, and the next group that was asked for starts (R199, R358, R364). -/
def Obligations.IslandsAndIdle : Prop :=
  (∀ s : State, s.hw.power.dev = .active → NoExcursion s → s.hw.cascade.stay = none → s.hw.power.entry = none →
    workless s.hw → Answers .idleEntry s fun t =>
      t.hw.power = { s.hw.power with dev := .idle } ∧ t.hw.sched.powering = none ∧ t.hw.sched.powerNext = [] ∧
      (∀ k < s.hw.sched.cores.length, let x := coreOf s.hw k
        coreOf t.hw k = { x with
          tiles := [], powered := x.powered && (pairBytes s.hw k != 0 || x.run.isSome)
          clockOff := pairBytes s.hw k != 0 && !x.run.isSome }) ∧
      t.mem = s.mem ∧ OnlyChanges [.power, .sched] s t) ∧
  (∀ s : State, workless s.hw = false → exec .idleEntry s = .next { s with hw := { s.hw with sent := [] } }) ∧
  (∀ (s : State) (k : Nat), AtRest s → (∀ c ∈ s.hw.sched.cores, c.due = false ∧ c.overdue = false) →
    s.hw.power.dev = .active → (coreOf s.hw k).powered → islandEmpty s.hw k → s.hw.board.aonOn → k < 32 →
    s.hw.power.elapsed ≤ (coreOf s.hw k).ended + usTicks 100 → Answers (.islandGate k) s fun t =>
      (coreOf t.hw k).powered = false ∧ t.hw.power.elapsed = (coreOf s.hw k).ended + usTicks 100 ∧ t.mem = s.mem ∧
      OnlyChanges (reporting ++ resting) s t) ∧
  ∀ (s : State) (n : Nat), AtRest s → (∀ c ∈ s.hw.sched.cores, c.due = false ∧ c.overdue = false) → s.hw.up →
    s.hw.sched.powering = some n → Answers (.islandReady n) s fun t =>
      (∀ k ∈ groupCores s.hw n, k < s.hw.sched.cores.length → (coreOf t.hw k).powered = true ∧
        ((coreOf s.hw k).powered = false → (coreOf t.hw k).seed = s.hw.power.time ∧ (coreOf t.hw k).drawn = 0)) ∧
      t.hw.sched.powering = s.hw.sched.powerNext.head? ∧ t.mem = s.mem ∧ OnlyChanges (reporting ++ resting) s t

/-- A core is due 100 ms of device time after its last slice began, and overdue 1 s later; due and free, it runs its
next slice at once where no piece would take it and its island is powered; otherwise its group of islands starts to
power up. A slice that matches counts and frees the core; one that does not is a core fault, confirmed at once, and a
second one retires the core with FAULT_N's bit; a retired core's is no fault any more (R358, R415 to R418). -/
def Obligations.ProbesRunAndJudge : Prop :=
  ∀ (s : State) (k : Nat), AtRest s → probesRun s.hw → k < s.hw.board.enabled → k < 32 → s.hw.board.aonOn →
    s.hw.power.dip = none →
    let x := coreOf s.hw k
    let starts (at_ : Nat) (t : State) : Prop :=
      (coreOf t.hw k).run = some (.probe x.slice) ∧ (coreOf t.hw k).lastProbe = at_ ∧ t.hw.power.time = at_ ∧
      (coreOf t.hw k).due = false ∧ t.mem = s.mem ∧ OnlyChanges (reporting ++ resting) s t
    let probed (t : State) : Prop :=
      (coreOf t.hw k).slice = ((match x.run with
        | some (.probe n) => n
        | _ => 0) + 1) % 64 ∧ t.hw.health.cnt.probeSlices = min (s.hw.health.cnt.probeSlices + 1) (2 ^ 64 - 1)
    (x.run = none → x.retiring = false → x.retired = false → x.powered →
      (s.hw.power.time ≤ x.lastProbe + msTicks 100 → x.lastProbe + msTicks 100 < 2 ^ 64 →
        Answers (.probeDue k) s (starts (x.lastProbe + msTicks 100))) ∧
      (s.hw.power.time ≤ x.lastProbe + msTicks 1100 → x.lastProbe + msTicks 1100 < 2 ^ 64 →
        Answers (.probeOverdue k) s (starts (x.lastProbe + msTicks 1100)))) ∧
    (x.run = none → x.retiring = false → x.retired = false → x.powered = false → s.hw.sched.powering = none →
      k < s.hw.sched.cores.length → (∀ c ∈ s.hw.sched.cores, c.due = false ∧ c.overdue = false) →
      Answers (.probeDue k) s fun t => t.hw.sched.powering = some (k / 4) ∧ (coreOf t.hw k).due = true ∧
        (coreOf t.hw k).run = none ∧ t.mem = s.mem ∧ OnlyChanges (reporting ++ resting) s t) ∧
    ∀ n fixed, x.run = some (.probe n) → x.retiring = false →
      Answers (.probeSliceComplete k true fixed) s (fun t => probed t ∧ t.hw.health.cnt.probeFails = s.hw.health.cnt.probeFails ∧
        (coreOf t.hw k).confirmed = x.confirmed ∧ t.mem = s.mem ∧ OnlyChanges (reporting ++ resting ++ [Portion.health]) s t) ∧
      (x.retired → Answers (.probeSliceComplete k false fixed) s fun t =>
        probed t ∧ t.hw.health.cnt.probeFails = min (s.hw.health.cnt.probeFails + 1) (2 ^ 32 - 1) ∧
        (coreOf t.hw k).confirmed = x.confirmed ∧ (coreOf t.hw k).suspect = x.suspect ∧
        OnlyChanges (reporting ++ resting ++ [Portion.health]) s t) ∧
      (x.retired = false → x.confirmed = 0 → Answers (.probeSliceComplete k false fixed) s fun t =>
        probed t ∧ t.hw.health.cnt.probeFails = min (s.hw.health.cnt.probeFails + 1) (2 ^ 32 - 1) ∧
        (coreOf t.hw k).confirmed = 1 ∧ (coreOf t.hw k).retired = false ∧ (coreOf t.hw k).copying = true ∧
        Reports t .eventHealth .coreFault ∧ Reports t .eventHealth .coreConfirmed) ∧
      (x.retired = false → x.confirmed = 1 → (∀ y ∈ s.hw.streams, y.inCs = false) →
        Answers (.probeSliceComplete k false fixed) s fun t =>
          (coreOf t.hw k).confirmed = 2 ∧ (coreOf t.hw k).retired = true ∧
          bitOf t.hw.health.causes causeRetired = true ∧ Reports t .eventHealth .coreRetired)

/-- An output-block check that fails on a piece, the residue check's on one that it covers, an eighth replay of one
cycle in error and a stalled sequencer each count, raise CORE_FAULT, add to the core's suspect count and start the copy
of its store; the end of the copy ends it (R237, R298, R413, R417). A replay counts for its core, by the level at which
the rail stands, and at a margin for its graph's class; at most eight replays of one cycle are made (R236 to R239). An
escalation window ends on the next multiple of 24,576 ticks, or at once where a time write cut it, and counts each class
of a resident graph that ran fewer than 4096 cycles for each of its replays (R239, R240, R382). -/
def Obligations.CoreFaultsReplaysAndWindowsCount : Prop :=
  (∀ (s : State) (k : Nat), NoExcursion s → s.hw.power.ctrlOn → k < 32 →
    let x := coreOf s.hw k
    let suspect (t : State) : Prop :=
      (coreOf t.hw k).suspect = x.suspect + 1 ∧ (coreOf t.hw k).copying = true ∧
      OnlyChanges (reporting ++ scheduling) s t
    x.retiring = false →
    (∀ r l, x.run = some (.piece r l) →
      Answers (.coreFault k .datapath) s (fun t => suspect t ∧
        t.hw.health.cnt.datapathFails = min (s.hw.health.cnt.datapathFails + 1) (2 ^ 32 - 1)) ∧
      (residueCovers s.hw r → Answers (.coreFault k .residue) s (fun t => suspect t ∧
        t.hw.health.cnt.residueFails = min (s.hw.health.cnt.residueFails + 1) (2 ^ 32 - 1))) ∧
      (residueCovers s.hw r = false → Answers (.coreFault k .residue) s (fun t => (coreOf t.hw k).suspect = x.suspect ∧
        t.hw.health.cnt.residueFails = s.hw.health.cnt.residueFails))) ∧
    (x.run.isSome → x.replays = 8 → Answers (.replayAbandon k) s fun t => suspect t ∧
      t.hw.health.cnt.replayAbandons = min (s.hw.health.cnt.replayAbandons + 1) (2 ^ 32 - 1)) ∧
    (x.run.isSome → Answers (.sequencerStall k) s fun t => suspect t ∧
      t.hw.health.cnt.stalls = min (s.hw.health.cnt.stalls + 1) (2 ^ 32 - 1)) ∧
    ∀ bad fixed, x.copying → Answers (.coreFaultCopyDone k bad fixed) s fun t =>
      (coreOf t.hw k).copying = false ∧ (coreOf t.hw k).suspect = x.suspect ∧
      OnlyChanges (reporting ++ scheduling) s t) ∧
  (∀ (s : State) (k : Nat) (repeated : Bool), (coreOf s.hw k).run.isSome → s.hw.power.ctrlOn → k < 32 →
    let x := coreOf s.hw k
    let made := repeated = false ∨ (1 ≤ x.replays ∧ x.replays < 8)
    (made → Answers (.shadowReplay k repeated) s fun t =>
      (coreOf t.hw k).replays = (if repeated then x.replays + 1 else 1) ∧ (coreOf t.hw k).replayed = x.replayed + 1 ∧
      (judged s.hw s.hw.power.rail = 0 → t.hw.health.cnt.replaysM0 = min (s.hw.health.cnt.replaysM0 + 1) (2 ^ 64 - 1) ∧
        t.hw.health.cnt.replaysMargin = s.hw.health.cnt.replaysMargin ∧ t.hw.sched.graphs = s.hw.sched.graphs) ∧
      (judged s.hw s.hw.power.rail ≠ 0 →
        t.hw.health.cnt.replaysMargin = min (s.hw.health.cnt.replaysMargin + 1) (2 ^ 64 - 1) ∧
        t.hw.health.cnt.replaysM0 = s.hw.health.cnt.replaysM0 ∧
        ∀ r l, x.run = some (.piece r l) → ∀ g, graphOf s.hw r.graph = some g → ∃ g', graphOf t.hw r.graph = some g' ∧
          g' = { g with rep := modifyAt (taskClass (taskOf s.hw r.graph r.task).desc) (· + 1) g.rep }) ∧
      t.mem = s.mem ∧ OnlyChanges [.sched, .health] s t) ∧
    (¬made → exec (.shadowReplay k repeated) s = .next { s with hw := { s.hw with sent := [] } })) ∧
  (∀ (s : State) (cycles : List ClassCycles), NoExcursion s → s.hw.power.ctrlOn → s.hw.board.aonOn →
    s.hw.power.time + 24576 < 2 ^ 64 →
    let cyc (key cls : Nat) : Nat := ((cycles.filter fun c => c.graph == key && c.cls == cls).map (·.cyc)).sum
    let n := ((s.hw.sched.graphs.flatMap fun g => if g.resident then (List.range 16).filter fun c =>
      decide (cyc g.key c ≠ 0 ∧ cyc g.key c < 4096 * g.rep.getD c 0) else [])).length
    Answers (.escalationWindow cycles) s fun t =>
      t.hw.health.cnt.escalations = min (s.hw.health.cnt.escalations + n) (2 ^ 32 - 1) ∧ t.hw.sched.windowCut = false ∧
      t.hw.power.time = (if s.hw.sched.windowCut then s.hw.power.time else (s.hw.power.time / 24576 + 1) * 24576) ∧
      OnlyChanges (reporting ++ scheduling) s t)

/-- The scrubber's uncorrectable lines are marked, counted and raised with ECC_SCRUB, its corrections are counted, and
no task fails; a line of a fresh granule is skipped (R308, R329, R422). -/
def Obligations.ScrubbingMarksLines : Prop :=
  ∀ (s : State) (fixed a : Nat), s.hw.up → s.hw.power.memOn → RoomToReport s →
    (Answers (.dramScrub fixed []) s fun t =>
      t.hw.health.cnt.dramCe = (if fixed = 0 then s.hw.health.cnt.dramCe
        else min (s.hw.health.cnt.dramCe + fixed) (2 ^ 32 - 1)) ∧
      t.hw.health.badUnits = s.hw.health.badUnits ∧ t.mem = s.mem ∧ OnlyChanges (reporting ++ [Portion.health]) s t) ∧
    (isFresh s.hw (a / 64 * 64) → Answers (.dramScrub 0 [a]) s fun t =>
      t.hw.health = s.hw.health ∧ t.mem = s.mem ∧ OnlyChanges [] s t) ∧
    (isFresh s.hw (a / 64 * 64) = false → Answers (.dramScrub 0 [a]) s fun t =>
      unitAt (a / 64 * 64) ∈ t.hw.health.badUnits ∧ t.hw.health.cnt.scrubUe = min (s.hw.health.cnt.scrubUe + 1) (2 ^ 32 - 1) ∧
      t.hw.health.causes = setBit s.hw.health.causes causeEcc true ∧ Reports t .eventHealth .eccScrub ∧ t.mem = s.mem ∧
      OnlyChanges (reporting ++ [Portion.health]) s t)

/-- A WAIT whose condition is a device time completes as that time comes, and a WAIT or a chunk that waits too long
fails its graph with FAIL_TIMEOUT WAIT_TIMEOUT or FAIL_STREAM GEN_WAIT, unless the WAIT goes on at its timeout; shown on
graphs of one task, which then end (R253, R277, R300). A MOVE within DRAM that its owner may make, without an
uncorrectable error, leaves the source's bytes at the destination, and its graph of one task ends (R318, R319, R328). A
BELL_COMMIT of a model that passes its checks is stored in LOADER's turn, and Bell turns to it at its next beat, or goes
on where it is the model in force (the model's choice, log 58); one where the image allows no adaptation is refused with
BELL_COMMIT_REFUSED; one of address zero without a stored adaptation changes nothing; its graph of one task then ends.
Before its turn, and behind a closed window, it waits (R169, R170, R278, R327, R395). -/
def Obligations.TasksEndTheirGraphs : Prop :=
  (∀ (s : State) (g : Graph) (x : Task) (o : Owned) (since : Nat) (ref : PieceRef), ref.graph = g.key → ref.task = 0 →
    x.st = .pred since → (∀ p ∈ x.pieces, p = .todo) → s.hw.board.aonOn →
    (OneTask s g x kWait o →
      let v := dwordAt x.desc 9
      let mode := fld (wordAt x.desc 8) 0 2
      let us := (wordAt x.desc 11).toNat
      (mode = 0 → s.hw.power.time ≤ v → v < 2 ^ 64 → Answers (.waitComplete ref) s fun t =>
        t.hw.power.time = v ∧ GraphEnds t g o (graphStatus t.hw g)) ∧
      (2 ≤ mode → waitHolds s.hw g x.desc = false → us ≠ 0 →
        (bit (wordAt x.desc 8) 2 → Answers (.waitTimeout ref) s fun t => GraphEnds t g o (graphStatus t.hw g)) ∧
        (bit (wordAt x.desc 8) 2 = false → Answers (.waitTimeout ref) s fun t =>
          GraphEnds t g o (.failTimeout, .waitTimeout)))) ∧
    (OneTask s g x kRecur o → Answers (.genWaitTimeout ref) s fun t => GraphEnds t g o (.failStream, .genWait))) ∧
  (∀ (s : State) (g : Graph) (x : Task) (o : Owned) (ref : PieceRef) (env : PieceEnv), OneTask s g x kMove o →
    ref.graph = g.key → ref.task = 0 → ref.piece = 0 → x.st = .issued → x.pieces = [.running none] → env.bad = [] →
    env.streamBad = [] → env.schedBad = false →
    s.hw.image.system.sqInDram = false →
    let n := (wordAt x.desc 12).toNat
    let src := addrAt x.desc 8
    let dst := addrAt x.desc 10
    fld (wordAt x.desc 13) 0 2 = 0 → 0 < n → src + n ≤ dramEnd → dst + n ≤ dramEnd →
    granted s.hw g.owner true false src n → granted s.hw g.owner false true dst n →
    devBad s.hw src n = false → devBad s.hw dst n = false →
    Answers (.pieceComplete ref env) s fun t =>
      bytesAt t .dram dst n = bytesAt s .dram src n ∧ GraphEnds t g o (graphStatus t.hw g) ∧
      ∀ b, b < dst ∨ dst + n ≤ b → byteAt t .dram b = byteAt s .dram b) ∧
  (∀ (s : State) (g : Graph) (x : Task) (o : Owned) (ref : PieceRef) (fixed : Nat), OneTask s g x kMark o →
    ref.graph = g.key → ref.task = 0 → ref.piece = 0 → x.st = .issued → x.pieces = [.running none] →
    fld (wordAt x.desc 8) 0 4 = 1 →
    let a := addrAt x.desc 9
    let n := s.hw.bell.blob.length
    let blob := bytesAt s .dram a n
    let commit (ok : Bool) : Instr := .bellCommitStored ref ok fixed
    let waits : Bool := !loaderTurn x.issuedEl s.hw || readWaits s.hw LOADER a n
    let ends (t : State) : Prop := GraphEnds t g o (graphStatus t.hw g)
    (waits → Answers (commit true) s fun t => t.hw.bell = s.hw.bell) ∧
    (waits = false →
      (a = 0 → ownSettings s.mem s.hw = none → Answers (commit true) s fun t => t.hw.bell = s.hw.bell ∧ ends t) ∧
      (a ≠ 0 → (bellCfg s.hw).allowAdapt = false → Answers (commit true) s fun t =>
        t.hw.bell = s.hw.bell ∧ Reports t .eventHealth .bellCommitRefused ∧ ends t) ∧
      (a ≠ 0 → a + n ≤ dramEnd → loaderReads s.hw a n → devBad s.hw a n = false → (bellCfg s.hw).allowAdapt →
        bellRuns s.hw →
        (commitFault s.hw blob = none → Answers (commit true) s fun t =>
          t.hw.bell = { s.hw.bell with next := if blob = s.hw.bell.blob then none else some blob } ∧ ends t) ∧
        (commitFault s.hw blob = none → Answers (commit false) s fun t =>
          t.hw.bell = s.hw.bell ∧ Reports t .eventHealth .bellStoreFail ∧ ends t) ∧
        ∀ p, commitFault s.hw blob = some p → Answers (commit true) s fun t =>
          t.hw.bell = s.hw.bell ∧ Reports t .eventHealth .bellCommitRefused ∧ ends t)))

/-- The answers of an EXCHANGE end it: a PUT_ACK, a DOORBELL answered and the last GET_DATA complete its task,
GET_DATA's bytes being at the local range, an EXCH_NAK fails it with the status that it carries, and a timeout with
EXCH_TIMEOUT, or RING_FORMING where it could not issue; shown on graphs of one task, which then end (R351 to R354). -/
def Obligations.ExchangeAnswersEndTheirGraphs : Prop :=
  ∀ (s : State) (g : Graph) (x : Task) (o : Owned) (ref : PieceRef), OneTask s g x kExchange o →
    ref.graph = g.key → ref.task = 0 →
    (∀ (side : Side) (f : Frame) (e : Exch), x.st = .issued → Next s side f → f.dst = s.hw.nodeId → s.hw.ring.exch = [e] →
      e.ref = ref → e.tag = f.tag → e.peer = f.src →
      (e.op = 0 → Answers (.putAck side f) s fun t =>
        (portOf t.hw side).rxSeq = f.lseq ∧ t.hw.ring.exch = [] ∧ GraphEnds t g o (graphStatus t.hw g)) ∧
      (Answers (.exchNak side f) s fun t => t.hw.ring.exch = [] ∧ GraphEnds t g o (nakOf f)) ∧
      (e.op = 2 → Answers (.doorbellFrame side f) s fun t => t.hw.ring.exch = [] ∧ GraphEnds t g o (graphStatus t.hw g)) ∧
      (e.op = 1 → e.got = 0 → hasUnits s.hw ref = false → f.payload.length = (wordAt x.desc 13).toNat → 0 < f.payload.length →
        addrAt x.desc 9 + f.payload.length ≤ dramEnd → s.hw.image.system.sqInDram = false →
        Answers (.getData side f) s fun t =>
          bytesAt t .dram (addrAt x.desc 9) f.payload.length = f.payload ∧ t.hw.ring.exch = [] ∧
          GraphEnds t g o (graphStatus t.hw g))) ∧
    (∀ e, x.st = .issued → s.hw.ring.exch = [e] → e.ref = ref → Answers (.exchTimeout ref) s fun t =>
      t.hw.ring.exch = [] ∧ GraphEnds t g o (.failTimeout, .exchTimeout)) ∧
    (∀ since, x.st = .ready since → (∀ p ∈ x.pieces, p = .todo) → ringForms s.hw →
      Answers (.exchTimeout ref) s fun t => GraphEnds t g o (.failLink, .ringForming))

/-- READ, ALARM_SET and ALARM_CLEAR complete at once with BEFORE equal to AFTER and the alarm then in force; a slot
whose fields break R381 is refused (R381 to R383). SET puts VALUE into device time and STEP adds its signed VALUE, on
arrival; the account's slot and the escalation window end, elapsed time and the alarm stay, and the slot completes with
the times before and after. A STEP below zero is refused and changes no time. With ON_BEAT either waits for an edge of
BEAT (R381 to R383). -/
def Obligations.TimeSlotsReadAndWriteTime : Prop :=
  (∀ (s : State) (slot : Slot) (f : Fetched), AtRest s →
    let now := s.hw.power.time
    let done (a : Option Nat) (t : State) : Prop :=
      t.hw.power.alarm = a ∧ t.hw.power.time = now ∧
      Finishes s t (f.record .done .none (w64 now ++ w64 now ++ w64 (a.getD 0) ++ [w32 (b2n a.isSome)])) ∧
      OnlyChanges (reporting ++ resting ++ [Portion.slots]) s t
    let refused (t : State) : Prop :=
      t.hw.power.time = now ∧ t.hw.power.alarm = s.hw.power.alarm ∧ Finishes s t (f.record .refusedFormat .none [])
    (timeFieldsOk f.words →
      (AcceptsOp s slot f kTime 0 3 0 → Answers (.timeRead slot) s (done s.hw.power.alarm)) ∧
      (AcceptsOp s slot f kTime 0 3 3 → Answers (.timeAlarmSet slot) s (done (some (dwordAt f.words 5)))) ∧
      (AcceptsOp s slot f kTime 0 3 4 → Answers (.timeAlarmClear slot) s (done none))) ∧
    (timeFieldsOk f.words = false →
      (AcceptsOp s slot f kTime 0 3 0 → Answers (.timeRead slot) s refused) ∧
      (AcceptsOp s slot f kTime 0 3 1 → Answers (.timeSet slot) s refused) ∧
      (AcceptsOp s slot f kTime 0 3 2 → Answers (.timeStep slot) s refused) ∧
      (AcceptsOp s slot f kTime 0 3 3 → Answers (.timeAlarmSet slot) s refused) ∧
      (AcceptsOp s slot f kTime 0 3 4 → Answers (.timeAlarmClear slot) s refused))) ∧
  (∀ (s : State) (slot : Slot) (f : Fetched), AtRest s → timeFieldsOk f.words →
    let now := s.hw.power.time
    let ms := fld (wordAt f.words 7) 0 16
    let written (after : Nat) (t : State) : Prop :=
      t.hw.power.time = after ∧ t.hw.power.elapsed = s.hw.power.elapsed ∧ t.hw.power.alarm = s.hw.power.alarm ∧
      t.hw.sched.account = ({} :: s.hw.sched.account).take 32 ∧ t.hw.sched.windowCut = true ∧
      Finishes s t (f.record .done .none
        (w64 now ++ w64 after ++ w64 (s.hw.power.alarm.getD 0) ++ [w32 (b2n s.hw.power.alarm.isSome)])) ∧
      OnlyChanges (reporting ++ resting ++ [Portion.slots, Portion.drum, Portion.raw, Portion.cal]) s t
    let waits (step : Bool) (t : State) : Prop :=
      t.hw.power.timeWaits = s.hw.power.timeWaits ++
        [{ pos := f.pos, tag := wordAt f.words 1, step := step, value := dwordAt f.words 5, since := s.hw.power.elapsed
           waitMs := if ms = 0 then 1000 else ms }] ∧
      t.hw.power.time = now ∧ t.mem = s.mem ∧ OnlyChanges (reporting ++ resting ++ [Portion.slots]) s t
    (bit (wordAt f.words 4) 3 = false →
      (AcceptsOp s slot f kTime 0 3 1 → Answers (.timeSet slot) s (written (dwordAt f.words 5))) ∧
      (AcceptsOp s slot f kTime 0 3 2 → 0 ≤ (now : Int) + signedOf 64 (dwordAt f.words 5) →
        Answers (.timeStep slot) s (written (((now : Int) + signedOf 64 (dwordAt f.words 5)).toNat % 2 ^ 64))) ∧
      (AcceptsOp s slot f kTime 0 3 2 → (now : Int) + signedOf 64 (dwordAt f.words 5) < 0 →
        Answers (.timeStep slot) s fun t => t.hw.power.time = now ∧ Finishes s t (f.record .refusedFormat .none []))) ∧
    (bit (wordAt f.words 4) 3 →
      (AcceptsOp s slot f kTime 0 3 1 → Answers (.timeSet slot) s (waits false)) ∧
      (AcceptsOp s slot f kTime 0 3 2 → Answers (.timeStep slot) s (waits true))))

/-- A rising edge of BEAT applies the write that waits for one, and where none waits resets the running chains if
BEAT_PIN_EN asks for it; a write whose edge does not come completes with FAIL_TIMEOUT, BEAT_TIMEOUT, and time unchanged
(R107, R381). -/
def Obligations.BeatEdgesApplyWaitingWrites : Prop :=
  (∀ (s : State) (w : TimeWait), AtRest s → s.hw.power.timeWaits = [w] → s.hw.board.aonOn → s.hw.writesRecords →
    let words (before after : Nat) : List Word :=
      w64 before ++ w64 after ++ w64 (s.hw.power.alarm.getD 0) ++ [w32 (b2n s.hw.power.alarm.isSome)]
    (∀ a, newTime w.step w.value s.hw.power.time = some a → s.hw.board.resetN → Answers .beatEdge s fun t =>
      t.hw.power.time = a ∧ t.hw.power.timeWaits = [] ∧
      Finishes s t { pos := w.pos, kind := kTime, status := .done, tag := w.tag, result := words s.hw.power.time a } ∧
      OnlyChanges (reporting ++ resting ++ [Portion.drum, Portion.raw, Portion.cal]) s t) ∧
    (s.hw.power.elapsed = timeWaitDue w → Answers .timeBeatTimeout s fun t =>
      t.hw.power.time = s.hw.power.time ∧ t.hw.power.timeWaits = [] ∧
      Finishes s t { pos := w.pos, kind := kTime, status := .failTimeout, tag := w.tag, detail := .beatTimeout
                     result := words s.hw.power.time s.hw.power.time } ∧
      OnlyChanges (reporting ++ resting) s t)) ∧
  ∀ s : State, AtRest s → s.hw.power.timeWaits = [] → s.hw.board.aonOn → s.hw.board.resetN → s.hw.drum.senseOn →
    ∀ r, s.hw.image.raw = some r → r.beatPinEn → Answers .beatEdge s fun t =>
      t.hw.raw.chains = s.hw.raw.chains.map (fun c =>
        if c.running then resetChain (edgeFrom s.hw.power.time) false c else c) ∧ t.mem = s.mem ∧
      OnlyChanges (reporting ++ resting ++ [Portion.raw]) s t

/-- At the base-beat boundary the frame of beat n is in the frame ring, its header opening with n and its time and every
feature of a LIVE channel whose stream closes being the logarithmic code of its tap's mean over the stream beat; the
latest beat is n and the next beat runs (R60, R61, R65, R66, R72 to R75). A frame that fails its CRC at the barrier is
lost and counted; while MEM is down or drains in an entry it is held on Drumhead's side, the 32 most recent of them; one
that the access tables refuse is discarded with FRAME_ACCESS, once in a boot (R45, R75 to R77). -/
def Obligations.FramesArePublishedHeldOrLost : Prop :=
  (∀ (s : State) (samples : List ChannelSample), framesRun s.hw → s.hw.board.aonOn → RoomToReport s →
    let n := s.hw.drum.nextBeat
    let edge := (n + 1) * basePeriod s.hw
    let a := frameAddr s.hw n
    s.hw.power.time ≤ edge → edge < 2 ^ 64 → s.hw.power.memOn → granted s.hw AFE_DMA false true a 640 → a + 640 ≤ dramEnd →
    s.hw.image.system.sqInDram = false → s.hw.saving = false →
    Answers (.beatBoundary samples true) s fun t =>
      t.hw.power.time = edge ∧ t.hw.drum.nextBeat = n + 1 ∧ t.hw.drum.latest = some n ∧ t.hw.drum.dropped = 0 ∧
      bytesAt t .dram a 16 = wordsBytes (w64 n ++ w64 edge) ∧
      (∀ c < 32, ∀ k < 16, (s.hw.drum.channels.getD c {}).state = .live → s.hw.drum.validOff = false →
        let cfg := channelCfg s.hw c
        let x := samples.getD c {}
        let ticks := streamDivider s.hw cfg.stream * basePeriod s.hw
        streamCloses s.hw n cfg.stream → tapEnabled cfg.tapEn k →
        byteAt t .dram (a + 64 + 16 * c + k) =
          some (BitVec.ofNat 8 (logCode (tapCode cfg.gain ticks (x.areas.getD k 0) (x.errs.getD k 0))))) ∧
      (∀ b, b < a ∨ a + 640 ≤ b → byteAt t .dram b = byteAt s .dram b) ∧
      OnlyChanges (reporting ++ [Portion.drum, Portion.bell, Portion.power, Portion.health, Portion.sched]) s t) ∧
  (∀ (s : State) (samples : List ChannelSample), framesRun s.hw → RoomToReport s →
    let n := s.hw.drum.nextBeat
    let a := frameAddr s.hw n
    let lost := min (s.hw.drum.dropped + 1) 65535
    let kept (t : State) : Prop := t.hw.drum.latest = s.hw.drum.latest ∧ t.hw.drum.nextBeat = n + 1 ∧ t.mem = s.mem ∧
      OnlyChanges (reporting ++ [Portion.drum, Portion.bell, Portion.power, Portion.health]) s t
    (s.hw.power.memOn → s.hw.saving = false → Answers (.beatBoundary samples false) s fun t =>
      kept t ∧ t.hw.drum.dropped = lost ∧ t.hw.drum.holding = s.hw.drum.holding ∧
      t.hw.health.cnt.barrierCrc = min (s.hw.health.cnt.barrierCrc + 1) 65535) ∧
    (∀ ok, s.hw.power.memOn = false ∨ s.hw.saving → Answers (.beatBoundary samples ok) s fun t =>
      kept t ∧ ∃ r, r.beat = n ∧
        (s.hw.drum.holding.length < 32 → t.hw.drum.holding = s.hw.drum.holding ++ [r] ∧
          t.hw.drum.dropped = s.hw.drum.dropped) ∧
        (s.hw.drum.holding.length = 32 → t.hw.drum.holding = s.hw.drum.holding.drop 1 ++ [r] ∧
          t.hw.drum.dropped = lost)) ∧
    (s.hw.power.memOn → s.hw.saving = false → granted s.hw AFE_DMA false true a 640 = false → Answers (.beatBoundary samples true) s fun t =>
      kept t ∧ t.hw.drum.dropped = lost ∧ t.hw.drum.accessRaised = true ∧
      (s.hw.drum.accessRaised = false → Reports t .eventHealth .frameAccess)))

/-- A settled channel is LIVE from the boundary that closes its first stream beat after T_settle; the device-time copy
is checked every 65,536 ticks, kept while it is right to a tick, and otherwise reloaded with TIME_DRIFT, TIME_STEP in
the frame, a reset of the running chains and a measurement beat of the calibration that does not count (R42, R69, R70,
R107, R129). The instant from which the 65,536 ticks count is the model's choice (log 147). -/
def Obligations.ChannelsSettleAndTheTimeCopyHolds : Prop :=
  (∀ (s : State) (c : Nat), framesRun s.hw → s.hw.board.aonOn →
    let n := s.hw.drum.nextBeat
    let el := s.hw.power.elapsed + ((n + 1) * basePeriod s.hw - s.hw.power.time)
    let ch := s.hw.drum.channels.getD c {}
    (ch.state = .settling → streamCloses s.hw n (channelCfg s.hw c).stream →
      ch.since + settleTicks (channelCfg s.hw c).vibration ≤
        max (el - streamDivider s.hw (channelCfg s.hw c).stream * basePeriod s.hw) s.hw.drum.resetEl →
      Answers (.channelSettled c) s fun t =>
        t.hw.drum = { s.hw.drum with channels := modifyAt c (fun x => { x with state := .live }) s.hw.drum.channels } ∧
        t.hw.power.elapsed = el ∧ t.mem = s.mem ∧ OnlyChanges [.drum, .power] s t) ∧
    (ch.state ≠ .settling → exec (.channelSettled c) s = .next { s with hw := { s.hw with sent := [] } })) ∧
  ∀ (s : State) (diff : Int), s.hw.drum.senseOn → RoomToReport s → s.hw.board.aonOn →
    let due := copyCheckDue s.hw
    (-1 ≤ diff ∧ diff ≤ 1 → Answers (.timeCopyCheck diff) s fun t =>
      t.hw.drum = { s.hw.drum with copyDiff := diff, copyCheck := due } ∧ t.hw.power.elapsed = due ∧ t.mem = s.mem ∧
      OnlyChanges (reporting ++ [Portion.drum, Portion.power]) s t) ∧
    (diff < -1 ∨ 1 < diff → Answers (.timeCopyCheck diff) s fun t =>
      t.hw.drum = { s.hw.drum with copyDiff := 0, timeStep := true, copyCheck := due } ∧ t.hw.power.elapsed = due ∧
      t.hw.cal.run = s.hw.cal.run.map (fun r => { r with step := true }) ∧ Reports t .eventHealth .timeDrift ∧
      t.hw.health.cnt.timeDrifts = min (s.hw.health.cnt.timeDrifts + 1) 65535 ∧
      t.hw.raw.chains = s.hw.raw.chains.map (fun c =>
        if c.running then resetChain (edgeFrom t.hw.power.time) true c else c) ∧ t.mem = s.mem ∧
      OnlyChanges (reporting ++ [Portion.drum, Portion.raw, Portion.cal, Portion.power, Portion.health]) s t)

/-- A chain starts at its reset instant with the response selected for it, on the FIR path and muffled, and a SYNC
resets every running chain at its instant; the slot completes with the instant and the chains that run (R107, R108,
R110, R123). What a chain's samples do: 32 modulator bits make a halfband sample within ±8,388,607; two of those make a
filter sample, which advances the resampler's accumulator by NUM, modulo DEN; a fade ends at its sample 64, muffling
after 200 filter samples, and the spike detector's return at 96 × SPIKE_HOLD quiet samples; a STOP applies at a filter
sample (R88, R89, R95, R98, R104, R109, R110). -/
def Obligations.ChainsStartResetAndTakeSamples : Prop :=
  (∀ (s : State) (n pos at_ : Nat) (o : Owned) (w : RawWait), n < s.hw.raw.chains.length → s.hw.board.aonOn → RoomToReport s →
    s.hw.power.entry = none → s.hw.writesRecords → s.hw.sq.owned.find? (fun x => x.pos == pos) = some o →
    s.hw.power.time ≤ at_ → at_ < 2 ^ 64 → s.hw.raw.waits = [w] → w.pos = pos → w.late = false →
    ((chainOf s.hw n).resetAt = some at_ → (chainOf s.hw n).resetSlot = some pos →
      (∀ j, j ≠ n → (chainOf s.hw j).resetSlot ≠ some pos) →
      Answers (.chainReset n) s fun t =>
        let c := chainOf t.hw n
        c.running = true ∧ c.resetAt = none ∧ c.resetTick = at_ ∧ c.nFilt = 0 ∧ c.nHalf = 0 ∧ c.muffled = true ∧
        c.inForce = { rank := false, resp := (chainOf s.hw n).selected } ∧
        (∀ j, j ≠ n → chainOf t.hw j = chainOf s.hw j) ∧ t.hw.power.time = at_ ∧ t.hw.raw.waits = [] ∧
        Finishes s t { pos := pos, kind := o.kind, status := .done, tag := o.tag
                       result := syncResult at_ (runningMask t.hw) 0 } ∧
        OnlyChanges (reporting ++ [Portion.raw, Portion.power]) s t) ∧
    ((chainOf s.hw n).resetAt = none → (chainOf s.hw n).running → w.sync → w.instant = at_ →
      Answers (.chainReset n) s fun t =>
        t.hw.raw.chains = s.hw.raw.chains.map (fun c => if c.running then resetChain at_ false c else c) ∧
        t.hw.power.time = at_ ∧ t.hw.raw.waits = [] ∧
        Finishes s t { pos := pos, kind := o.kind, status := .done, tag := o.tag
                       result := syncResult at_ (runningMask s.hw) 0 } ∧
        OnlyChanges (reporting ++ [Portion.raw, Portion.power]) s t)) ∧
  (∀ (s : State) (n : Nat), n < s.hw.raw.chains.length → (chainOf s.hw n).running → s.hw.board.aonOn →
    let c := chainOf s.hw n
    let cfg := rawCfg s.hw n
    (∀ bits : Word, Answers (.halfbandSample n bits) s fun t =>
      let d := chainOf t.hw n
      d.nHalf = c.nHalf + 1 ∧ d.half = (halfOutput d.cic :: c.half).take 383 ∧ (halfOutput d.cic).x ≤ 8388607 ∧
      -8388607 ≤ (halfOutput d.cic).x ∧ t.mem = s.mem ∧ OnlyChanges [.raw, .power] s t) ∧
    (quietDue cfg c → Answers (.spikeQuietReturn n) s fun t =>
      chainOf t.hw n = { c with spikeRank := false, spikeReqs := c.spikeReqs ++ [false] } ∧ t.mem = s.mem ∧ OnlyChanges [.raw] s t) ∧
    (∀ p, c.fade = some (p, 64) → c.pending = none → Answers (.fadeEnd n) s fun t =>
      chainOf t.hw n = { c with inForce := p, fade := none, pending := none } ∧ t.mem = s.mem ∧ OnlyChanges [.raw] s t) ∧
    (∀ p i, c.fade = some (p, i) → i < 64 → Answers (.fadeEnd n) s fun t =>
      chainOf t.hw n = c ∧ t.mem = s.mem ∧ OnlyChanges [.raw] s t) ∧
    (200 ≤ c.nFilt → Answers (.muffleEnd n) s fun t =>
      chainOf t.hw n = { c with muffled := false } ∧ t.mem = s.mem ∧ OnlyChanges [.raw] s t) ∧
    (2 * (c.nFilt + 1) ≤ c.nHalf → cfg.thrEn = false → c.stopping = false → Answers (.rawFilterSample n) s fun t =>
      let d := chainOf t.hw n
      d.nFilt = c.nFilt + 1 ∧ d.acc = (if cfg.den ≤ c.acc + cfg.num then c.acc + cfg.num - cfg.den else c.acc + cfg.num) ∧
      OnlyChanges (reporting ++ [Portion.raw, Portion.power]) s t) ∧
    (2 * (c.nFilt + 1) ≤ c.nHalf → c.stopping → Answers (.rawFilterSample n) s fun t =>
      (chainOf t.hw n).running = false ∧ (chainOf t.hw n).stopping = false ∧ (chainOf t.hw n).block = [] ∧
      OnlyChanges (reporting ++ [Portion.raw, Portion.power]) s t) ∧
    (c.nHalf < 2 * (c.nFilt + 1) → Answers (.rawFilterSample n) s fun t =>
      chainOf t.hw n = c ∧ OnlyChanges (reporting ++ [Portion.raw]) s t))

/-- The threshold state turns once its run has reached THR_MIN, with EVENT_THRESHOLD, and not before (R117, R118). A
closed block crosses the barrier into the chain's raw ring, where its 1024 bytes then lie at its sequence number's
place, or its samples are lost and counted; a block that the access tables refuse raises RAW_ACCESS, once in a boot
(R113 to R116). -/
def Obligations.ThresholdsTurnAndBlocksArePublished : Prop :=
  (∀ (s : State) (n : Nat), n < s.hw.raw.chains.length → RoomToReport s → (chainOf s.hw n).running →
    let c := chainOf s.hw n
    let cfg := rawCfg s.hw n
    let due := cfg.thrEn ∧ max cfg.thrMin 1 ≤ c.run
    let turns (rise : Bool) (peak : Nat) (t : State) : Prop :=
      (chainOf t.hw n).on = rise ∧ (chainOf t.hw n).run = 0 ∧ (∀ j, j ≠ n → chainOf t.hw j = chainOf s.hw j) ∧
      (∃ x ∈ t.hw.sq.queue, x.status = .eventThreshold ∧ wordAt x.result 0 = w32 (n + cfg.channel * 8 + b2n rise * 256) ∧
        wordAt x.result 4 = w32 peak) ∧ t.mem = s.mem ∧ OnlyChanges (reporting ++ [Portion.raw]) s t
    let stays (t : State) : Prop := t.hw.raw = s.hw.raw ∧ t.mem = s.mem ∧ OnlyChanges reporting s t
    (c.on = false → due → Answers (.thresholdRise n) s (turns true 0)) ∧
    (c.on → due → Answers (.thresholdFall n) s (turns false c.runPeak)) ∧
    (¬due ∨ c.on → Answers (.thresholdRise n) s stays) ∧ (¬due ∨ c.on = false → Answers (.thresholdFall n) s stays)) ∧
  (∀ (s : State) (n : Nat) (b : RawBlock) (bs : List RawBlock), n < s.hw.raw.chains.length → RoomToReport s →
    (chainOf s.hw n).closed = b :: bs → s.hw.image.system.sqInDram = false →
    let cfg := rawCfg s.hw n
    let a := cfg.base + 1024 * (b.seq % 2 ^ cfg.depthLog2)
    let c := chainOf s.hw n
    let lost := min (c.lost + b.samples.length) (2 ^ 32 - 1)
    (s.hw.power.memOn → granted s.hw AFE_DMA false true a 1024 → a + 1024 ≤ dramEnd →
      Answers (.rawBlockClose n true) s fun t =>
        chainOf t.hw n = { c with closed := bs, lost := 0 } ∧ bytesAt t .dram a 1024 = blockBytes n cfg c.lost b ∧
        WritesOnly s t .dram a 1024 ∧ OnlyChanges (reporting ++ [Portion.raw, Portion.sched]) s t) ∧
    (Answers (.rawBlockClose n false) s fun t =>
      chainOf t.hw n = { c with closed := bs, lost := lost } ∧ t.mem = s.mem ∧ OnlyChanges (reporting ++ [Portion.raw]) s t) ∧
    (s.hw.power.memOn → granted s.hw AFE_DMA false true a 1024 = false → Answers (.rawBlockClose n true) s fun t =>
      chainOf t.hw n = { c with closed := bs, lost := lost } ∧ t.hw.raw.accessRaised = true ∧
      (s.hw.raw.accessRaised = false → Reports t .eventHealth .rawAccess) ∧ t.mem = s.mem ∧
      OnlyChanges (reporting ++ [Portion.raw, Portion.health]) s t))

/-- A SYNC waits for its instant where chains run and completes at once where none does; START makes the named chains
that stand still wait for theirs, STOP marks the running ones, SELECT chooses the response of a chain that stands still
at once (R107, R108, R110, R122, R123). The checks of R122 refuse in their order, each where those before it pass, and
change no chain. -/
def Obligations.SyncSlotsActOrAreRefused : Prop :=
  (∀ (s : State) (slot : Slot) (f : Fetched), RoomToReport s → s.hw.power.entry = none → syncBadForm f.words = false →
    rawAllowed s.hw → bit (wordAt f.words 4) 19 = false → s.hw.raw.chains.length = 8 →
    let w := wordAt f.words 4
    let mask := fld w 3 8
    let n := fld w 11 3
    let only (t : State) : Prop := OnlyChanges (reporting ++ [Portion.slots, Portion.raw, Portion.power]) s t
    (AcceptsOp s slot f kSync 0 3 0 →
      (runningMask s.hw ≠ 0 → Answers (.syncSync slot) s fun t =>
        (∃ x, t.hw.raw.waits = s.hw.raw.waits ++ [x] ∧ x.pos = f.pos ∧ x.sync ∧ x.late = false ∧
          s.hw.power.time ≤ x.instant ∧ x.instant ≤ s.hw.power.time + usTicks 50 + 8) ∧
        t.hw.raw.chains = s.hw.raw.chains ∧ t.mem = s.mem ∧ only t) ∧
      (runningMask s.hw = 0 → Answers (.syncSync slot) s fun t =>
        t.hw.raw = s.hw.raw ∧ (∃ k, Finishes s t (f.record .done .none (syncResult k 0 0))) ∧ only t)) ∧
    (AcceptsOp s slot f kSync 0 3 1 → (∀ j < 8, bitOf mask j → (rawCfg s.hw j).enable) →
      (∃ j < 8, bitOf mask j ∧ (chainOf s.hw j).running = false ∧ (chainOf s.hw j).resetAt = none) →
      Answers (.syncStart slot) s fun t =>
        (∃ d < usTicks 50, ∀ j < 8, chainOf t.hw j =
          (if bitOf mask j ∧ (chainOf s.hw j).running = false ∧ (chainOf s.hw j).resetAt = none then
            { chainOf s.hw j with
              resetAt := some (edgeFrom (s.hw.power.time + d + usTicks 40)), resetSlot := some f.pos
              resetPower := s.hw.power.elapsed + d, resetReady := s.hw.power.elapsed + d + usTicks 40, resetFrom := 0 }
          else chainOf s.hw j)) ∧
        t.mem = s.mem ∧ only t) ∧
    (AcceptsOp s slot f kSync 0 3 2 →
      ((∃ j < 8, bitOf mask j ∧ (chainOf s.hw j).running) → Answers (.syncStop slot) s fun t =>
        (∀ j < 8, chainOf t.hw j = (if bitOf mask j ∧ (chainOf s.hw j).running then
          { chainOf s.hw j with stopping := true, stopSlots := (chainOf s.hw j).stopSlots ++ [f.pos] } else chainOf s.hw j)) ∧ t.mem = s.mem ∧ only t) ∧
      ((∀ j < 8, bitOf mask j → (chainOf s.hw j).running = false) → Answers (.syncStop slot) s fun t =>
        t.hw.raw = s.hw.raw ∧ ∃ k, Finishes s t (f.record .done .none (syncResult k (runningMask s.hw) 0)))) ∧
    (AcceptsOp s slot f kSync 0 3 3 → (rawCfg s.hw n).enable →
      (if (rawCfg s.hw n).respAllow = 0 then fld w 14 5 = (rawCfg s.hw n).response
        else bitOf (rawCfg s.hw n).respAllow (fld w 14 5)) →
      (chainOf s.hw n).running = false → Answers (.syncSelect slot) s fun t =>
        (∀ j < 8, chainOf t.hw j = (if j = n then { chainOf s.hw n with selected := fld w 14 5 } else chainOf s.hw j)) ∧
        Finishes s t (f.record .done .none (syncResult 0 (runningMask s.hw) 3)) ∧ only t)) ∧
  (∀ (s : State) (slot : Slot) (f : Fetched), RoomToReport s → s.hw.power.entry = none →
    let w := wordAt f.words 4
    let n := fld w 11 3
    let cfg := rawCfg s.hw n
    let refused (i : Instr) (st : Status) (d : Detail) : Prop := Answers i s fun t =>
      t.hw.raw = s.hw.raw ∧ Finishes s t (f.record st d []) ∧ OnlyChanges (reporting ++ [Portion.slots, Portion.power]) s t
    let each (st : Status) (d : Detail) : Prop :=
      (AcceptsOp s slot f kSync 0 3 0 → refused (.syncSync slot) st d) ∧
      (AcceptsOp s slot f kSync 0 3 1 → refused (.syncStart slot) st d) ∧
      (AcceptsOp s slot f kSync 0 3 2 → refused (.syncStop slot) st d) ∧
      (AcceptsOp s slot f kSync 0 3 3 → refused (.syncSelect slot) st d)
    (syncBadForm f.words → each .refusedFormat .none) ∧
    (syncBadForm f.words = false →
      (rawAllowed s.hw = false → each .refusedState .rawOff) ∧
      (rawAllowed s.hw →
        (AcceptsOp s slot f kSync 0 3 1 → (∃ j < 8, bitOf (fld w 3 8) j ∧ (rawCfg s.hw j).enable = false) →
          refused (.syncStart slot) .refusedState .chainDisabled) ∧
        (AcceptsOp s slot f kSync 0 3 0 → bit w 19 → s.hw.power.time + 2 ^ 28 < dwordAt f.words 5 →
          refused (.syncSync slot) .refusedFormat .none) ∧
        (AcceptsOp s slot f kSync 0 3 3 → cfg.enable = false → refused (.syncSelect slot) .refusedState .chainDisabled) ∧
        (AcceptsOp s slot f kSync 0 3 3 → cfg.enable → cfg.respAllow ≠ 0 → bitOf cfg.respAllow (fld w 14 5) = false →
          refused (.syncSelect slot) .refusedAccess .responseNotAllowed))))

/-- CALIBRATE is refused while Drumhead is not in use, in a run, for a spare that is STUCK and for channels that are
OFF; with every pass skipped, or no named channel LIVE, it completes at once with all of them in SKIPPED_MASK; otherwise
the first channel, where it is LIVE, starts its turn on the spare, which settles first (R134, R138 to R140). A
measurement beat ends at the next measurement boundary and enters the open window where the unit had settled before it
began; a window still open judges nothing. In REVERT the channel's old codes are loaded at that boundary (R128, R129,
R134). -/
def Obligations.CalibrateMeasuresItsUnits : Prop :=
  (∀ (s : State) (slot : Slot) (f : Fetched), Accepts s slot f kCalibrate → RoomToReport s → s.hw.power.entry = none →
    let mask := (wordAt f.words 4).toNat
    let w := wordAt f.words 5
    let used := s.hw.senseFitted = true
    let named := calChannels s.hw mask
    let wrong := (∃ c < 32, bitOf mask c ∧ (channelCfg s.hw c).mode = 0) ∨ fld w 0 5 = 31
    let refused (st : Status) (d : Detail) : Prop := Answers (.calibrate slot) s fun t =>
      t.hw.cal = s.hw.cal ∧ Finishes s t (f.record st d []) ∧ OnlyChanges (reporting ++ [Portion.slots, Portion.power]) s t
    (¬used → refused .refusedState .senseOff) ∧
    (used → s.hw.cal.run.isSome → refused .refusedState .calBusy) ∧
    (used → s.hw.cal.run = none → bitOf s.hw.cal.stuck 32 → refused .refusedState .spareStuck) ∧
    (used → s.hw.cal.run = none → bitOf s.hw.cal.stuck 32 = false → wrong → refused .refusedFormat .none) ∧
    (used → s.hw.cal.run = none → bitOf s.hw.cal.stuck 32 = false → ¬wrong →
      (bit w 0 ∧ bit w 1 ∧ bit w 2) ∨ (∀ c ∈ named, (s.hw.drum.channels.getD c {}).state ≠ .live) →
      Answers (.calibrate slot) s fun t =>
        t.hw.cal = s.hw.cal ∧ Finishes s t (f.record .done .none [0, 0, 0, w32 (maskOf named), 0, 0, 0]) ∧
        OnlyChanges (reporting ++ [Portion.slots, Portion.power]) s t) ∧
    ∀ c cs, used → s.hw.cal.run = none → bitOf s.hw.cal.stuck 32 = false → ¬wrong → ¬(bit w 0 ∧ bit w 1 ∧ bit w 2) →
      named = c :: cs → (s.hw.drum.channels.getD c {}).state = .live → bitOf s.hw.cal.stuck c = false →
      Answers (.calibrate slot) s fun t =>
        (∃ r, t.hw.cal.run = some r ∧ r.slot = f.pos ∧ r.tag = wordAt f.words 1 ∧ r.channel = c ∧ r.rest = cs ∧
          r.phase = .shadow ∧ r.timer = s.hw.power.elapsed ∧
          r.settled = s.hw.power.elapsed + settleTicks (channelCfg s.hw c).vibration ∧ r.beats = [] ∧ r.noStore = bit w 4 ∧ r.damp = bit w 5) ∧
        t.hw.drum = s.hw.drum ∧ t.mem = s.mem ∧ OnlyChanges (reporting ++ [Portion.slots, Portion.power, Portion.cal]) s t) ∧
  (∀ (s : State) (x : MeasSample) (r : CalRun), s.hw.cal.run = some r → s.hw.board.aonOn → Settled s →
    let cfg := channelCfg s.hw r.channel
    let m := measTicks cfg.vibration
    let el := s.hw.power.elapsed + (r.nextMeas - s.hw.power.time)
    let only (t : State) : Prop := t.hw.power.elapsed = el ∧ OnlyChanges (reporting ++ [Portion.cal, Portion.power]) s t
    (measuring r → zeroRunOf s.hw (calUnit r).1 < 3 → r.beats.length < 15 → Answers (.measurementBeat x) s fun t =>
      (∃ r', t.hw.cal.run = some r' ∧ r'.nextMeas = r.nextMeas + m ∧ r'.step = false ∧ r'.phase = r.phase ∧
        r'.pass = r.pass ∧ r'.accepted = r.accepted ∧
        (el < r.settled + m → r'.beats = r.beats) ∧
        (r.settled + m ≤ el → ∃ b, r'.beats = r.beats ++ [b] ∧
          b.raw = fitTo 16 0 x.taps ∧ b.signed = x.signed ∧
          b.flagged = (x.clip || x.bias || s.hw.board.hvLow || r.step))) ∧ only t) ∧
    (r.phase = .revert → Answers (.measurementBeat x) s fun t =>
      t.hw.cal.loaded = modifyAt r.channel (fun _ => r.old) s.hw.cal.loaded ∧
      t.hw.cal.run = some { r with nextMeas := r.nextMeas + m } ∧ only t))

/-- Three zero-range windows in a row: in STANDIN the channel is STUCK and waits for its boundary, in SHADOW the spare
is, and the run ends; either is lost with SENSOR_LOST and FAULT_N's bit (R130, R134, R422). The 30 s of a unit end with
CAL_TIMEOUT: in SHADOW the channel's turn is over, in STANDIN it reverts: its old trims are loaded at the measurement
boundary that follows, and its own features resume at a boundary T_settle later (R134). -/
def Obligations.StuckAndLateUnitsEndTheirTurns : Prop :=
  (∀ (s : State) (r : CalRun), s.hw.cal.run = some r → RoomToReport s →
    (zeroRunOf s.hw (calUnit r).1 < 3 → Answers .channelStuck s fun t =>
      t.hw.cal = s.hw.cal ∧ t.mem = s.mem ∧ OnlyChanges reporting s t) ∧
    (3 ≤ zeroRunOf s.hw (calUnit r).1 → r.phase = .standin → Answers .channelStuck s fun t =>
      (∃ r', t.hw.cal.run = some r' ∧ r'.phase = .stuckWait ∧ r'.stuckMask = setBit r.stuckMask r.channel true) ∧
      t.hw.cal.stuck = setBit s.hw.cal.stuck r.channel true ∧
      t.hw.health.causes = setBit s.hw.health.causes causeSensor true ∧ Reports t .eventHealth .sensorLost ∧
      t.mem = s.mem ∧ OnlyChanges (reporting ++ [Portion.cal, Portion.health]) s t) ∧
    (3 ≤ zeroRunOf s.hw (calUnit r).1 → r.phase = .shadow → Answers .channelStuck s fun t =>
      t.hw.cal.stuck = setBit s.hw.cal.stuck 32 true ∧ Reports t .eventHealth .sensorLost ∧
      (∀ r', t.hw.cal.run = some r' → r'.phase = .store ∧ r'.spareLost) ∧
      OnlyChanges (reporting ++ [Portion.cal, Portion.health]) s t)) ∧
  (∀ (s : State) (r : CalRun), s.hw.cal.run = some r → s.hw.board.aonOn → RoomToReport s →
    let el := r.timer + 30 * ticksPerSecond
    (r.phase = .standin → s.hw.power.elapsed ≤ el → Answers .calTimeout s fun t =>
      (∃ r', t.hw.cal.run = some r' ∧ r'.phase = .revert ∧ r'.codes = r.old ∧ r'.nextMeas = r.nextMeas ∧
        r'.settled = el + (r.nextMeas - t.hw.power.time) + settleTicks (channelCfg s.hw r.channel).vibration ∧
        r'.timeoutMask = setBit r.timeoutMask r.channel true) ∧ Reports t .eventCal .calTimeout ∧
      t.hw.power.elapsed = el ∧ t.mem = s.mem ∧ OnlyChanges (reporting ++ [Portion.cal, Portion.power]) s t) ∧
    (r.phase = .shadow → Answers .calTimeout s fun t =>
      (∀ r', t.hw.cal.run = some r' → bitOf r'.timeoutMask r.channel = true) ∧ Reports t .eventCal .calTimeout ∧
      OnlyChanges (reporting ++ [Portion.cal, Portion.power]) s t) ∧
    (r.phase = .revert → atBoundary s.hw r.channel → r.rest = [] →
      r.settled ≤ s.hw.power.elapsed →
      Answers .calRevertEnd s fun t =>
        t.hw.drum = { s.hw.drum with spareFor := none } ∧
        t.hw.cal.loaded = modifyAt r.channel (fun _ => r.old) s.hw.cal.loaded ∧ (∀ r', t.hw.cal.run = some r' → r'.phase = .store) ∧
        OnlyChanges (reporting ++ [Portion.cal, Portion.drum]) s t))

/-- A unit whose passes are done settles and then waits for its boundary; at the takeover the spare stands in and the
channel enters measure mode with its old codes, settled at once; at the hand-back the channel's new trims are in force
and kept, and the store follows after the last one; under NO_STORE they are in force only (R128, R134, R135, R138,
R144). -/
def Obligations.TurnsTakeOverAndHandBack : Prop :=
  ∀ (s : State) (r : CalRun), s.hw.cal.run = some r → s.hw.board.aonOn →
    let c := r.channel
    let el := r.settled
    (r.pass = .finished → s.hw.power.elapsed ≤ el → r.phase = .shadow ∨ r.phase = .standin →
      Answers .calPhaseSettled s fun t =>
        t.hw.cal = { s.hw.cal with run := some { r with
          phase := if r.phase = .shadow then .takeoverWait else .handbackWait } } ∧
        t.hw.power.elapsed = el ∧ t.mem = s.mem ∧ OnlyChanges [.cal, .power] s t) ∧
    (r.phase = .takeoverWait → atBoundary s.hw c → Answers .calTakeover s fun t =>
      t.hw.drum = { s.hw.drum with spareFor := some c } ∧
      (∃ r', t.hw.cal.run = some r' ∧ r'.phase = .standin ∧ r'.channel = c ∧ r'.codes = r.old ∧
        r'.timer = s.hw.power.elapsed ∧ r'.settled = s.hw.power.elapsed) ∧ t.mem = s.mem ∧ OnlyChanges [.cal, .drum] s t) ∧
    (r.phase = .handbackWait → atBoundary s.hw c → RoomToReport s → r.rest = [] → r.noStore = false →
      c < s.hw.cal.trims.length → c < s.hw.cal.loaded.length → Answers .calHandback s fun t =>
        t.hw.cal.trims.getD c {} = r.codes ∧ t.hw.cal.loaded.getD c {} = r.codes ∧ bitOf t.hw.cal.calDone c = true ∧
        (∀ d, d ≠ c → t.hw.cal.trims.getD d {} = s.hw.cal.trims.getD d {}) ∧
        t.hw.drum.spareFor = none ∧ bitOf t.hw.drum.trimmed c = true ∧
        (∃ r', t.hw.cal.run = some r' ∧ r'.phase = .store ∧ bitOf r'.doneMask c = true) ∧ t.mem = s.mem ∧
        OnlyChanges (reporting ++ [Portion.cal, Portion.drum]) s t) ∧
    (r.phase = .handbackWait → atBoundary s.hw c → RoomToReport s → r.rest = [] → r.noStore →
      c < s.hw.cal.loaded.length → Answers .calHandback s fun t =>
        t.hw.cal.trims = s.hw.cal.trims ∧ t.hw.cal.keptDone = s.hw.cal.keptDone ∧
        t.hw.cal.loaded.getD c {} = r.codes ∧ t.hw.cal.run = none ∧
        OnlyChanges (reporting ++ [Portion.cal, Portion.drum]) s t) ∧
    (atBoundary s.hw c = false →
      exec .calTakeover s = .next { s with hw := { s.hw with sent := [] } })

/-- The record of a run with channels done is programmed, in LOADER's turn, into the area that does not hold the newest
intact one, under the next SEQ, and the slot completes with that SEQ; where both comparisons fail it completes without
one and CAL_STORE_FAIL is raised. A power failure that cuts the store short leaves every other byte of the flash as it
was (R142, R143, R145, R146, R395). -/
def Obligations.CalibrationIsStored : Prop :=
  ∀ (s : State) (r : CalRun) (o : Owned) (v1 v2 : Bool), s.hw.cal.run = some r → r.phase = .store → loaderTurn r.timer s.hw →
    RoomToReport s → s.hw.power.entry = none → s.hw.writesRecords → s.hw.sq.owned.find? (fun x => x.pos == r.slot) = some o →
    let newest := newestIntact (flashRead s.mem s.hw calABase 1188) (flashRead s.mem s.hw calBBase 1188)
    let target := match newest with
      | some (0, _) => calBBase
      | _ => calABase
    let seq := match newest with
      | some (_, n) => (n + 1) % 2 ^ 32
      | none => 0
    let apart (t : State) : Prop := (∀ b, b < target ∨ target + 4096 ≤ b → byteAt t .flash b = byteAt s .flash b) ∧
      OnlyChanges (reporting ++ [Portion.cal]) s t
    (v1 ∨ v2 → Answers (.calStore v1 v2 none) s fun t =>
      t.hw.cal = { s.hw.cal with run := none } ∧ bytesAt t .flash target 1188 = calRecord s.hw seq ∧ apart t ∧
      Completes t { pos := r.slot, kind := o.kind, status := .done, tag := o.tag, result := calResult r (some seq) }) ∧
    (Answers (.calStore false false none) s fun t =>
      t.hw.cal = { s.hw.cal with run := none } ∧ Reports t .eventCal .calStoreFail ∧ apart t ∧
      Completes t { pos := r.slot, kind := o.kind, status := .done, tag := o.tag, result := calResult r none }) ∧
    ∀ cut, Answers (.calStore v1 v2 (some cut)) s fun t => t.hw.cal = s.hw.cal ∧ apart t

/-- HEALTH_READ PAGE completes at once with its page: SUMMARY with the causes of FAULT_N and the configuration faults,
the retired cores, the time of the boot and the log's SEQs; CORES with the probe slices and replays counted;
MEMORY_LINKS with corrected and uncorrectable errors and the refused accesses. ACK clears the named causes that are ACK
bits, and returns the causes left and the bits that are none. Fields that an OP does not use refuse the slot (R425 to
R428, R476). -/
def Obligations.HealthPagesReadAndAcknowledge : Prop :=
  ∀ (s : State) (slot : Slot) (f : Fetched), AtRest s →
    let l := s.hw.health
    let op (n : Nat) : Prop := AcceptsOp s slot f kHealthRead 0 2 n
    let page (n : Nat) (p : List Word → Prop) : Prop := op 0 → healthFieldsOk f.words → fld (wordAt f.words 4) 2 2 = n →
      Answers (.healthReadPage slot) s fun t => t.hw.health.causes = l.causes ∧ t.hw.health.buffer = l.buffer ∧
        (∃ ws, Finishes s t (f.record .done .none ws) ∧ p ws) ∧ OnlyChanges (reporting ++ resting ++ [Portion.slots]) s t
    let refused (c : Instr) : Prop := Answers c s fun t =>
      t.hw.health.causes = l.causes ∧ Finishes s t (f.record .refusedFormat .none [])
    page 0 (fun ws => wordAt ws 1 = w32 (l.causes + 65536 * s.hw.image.configFaults) ∧
      wordAt ws 2 = w32 ((List.range 32).map fun c => if (coreOf s.hw c).retired then 2 ^ c else 0).sum ∧
      dwordAt ws 7 = l.bootTime % 2 ^ 64 ∧ wordAt ws 9 = w32 l.logNext ∧ wordAt ws 10 = w32 l.logOldest ∧
      wordAt ws 11 = w32 l.logLost) ∧
    page 1 (fun ws => dwordAt ws 5 = l.cnt.probeSlices % 2 ^ 64 ∧ wordAt ws 7 = w32 l.cnt.probeFails ∧
      wordAt ws 8 = w32 l.cnt.datapathFails ∧ wordAt ws 9 = w32 l.cnt.residueFails ∧
      dwordAt ws 14 = l.cnt.replaysM0 % 2 ^ 64 ∧ dwordAt ws 16 = l.cnt.replaysMargin % 2 ^ 64) ∧
    page 2 (fun ws => wordAt ws 0 = w32 l.cnt.csCe ∧ wordAt ws 1 = w32 l.cnt.csUe ∧ wordAt ws 2 = w32 l.cnt.dramCe ∧
      wordAt ws 3 = w32 l.cnt.dramUe ∧ wordAt ws 8 = w32 l.cnt.refusedAddr) ∧
    (op 2 → healthFieldsOk f.words → Answers (.healthReadAck slot) s fun t =>
      let mask := fld (wordAt f.words 5) 0 16
      (∀ b < 16, bitOf t.hw.health.causes b = (bitOf l.causes b && !(bitOf mask b && bitOf ackBits b))) ∧
      Finishes s t (f.record .done .none [w32 (t.hw.health.causes + 65536 * notAck mask)]) ∧
      OnlyChanges (reporting ++ resting ++ [Portion.slots, Portion.health]) s t) ∧
    (healthFieldsOk f.words = false → (op 0 → refused (.healthReadPage slot)) ∧ (op 1 → refused (.healthReadLog slot)) ∧
      (op 2 → refused (.healthReadAck slot)))

/-- HEALTH_READ LOG leaves up to COUNT entries from FIRST_SEQ on at DEST, 32 bytes each in SEQ order, and completes with
their number; a destination outside the master's permissions is refused with LOG_ACCESS (R425, R476). HEALTH_LOG_WRITE
programs the buffered entry, in LOADER's turn, at the log's position, whose sector it erases as it enters it, and
empties the buffer (R395, R430). -/
def Obligations.HealthLogIsCopiedAndWritten : Prop :=
  (∀ (s : State) (slot : Slot) (f : Fetched), AcceptsOp s slot f kHealthRead 0 2 1 → AtRest s → healthFieldsOk f.words →
    s.hw.image.system.sqInDram = false →
    let a := addrAt f.words 6
    let n := fld (wordAt f.words 9) 0 13
    let es := (entriesFrom s.mem { s.hw with sent := [] } (wordAt f.words 8).toNat).take n
    a % 64 = 0 → 0 < n → n ≤ 4096 → a + 32 * n ≤ dramEnd →
    (logFault s.hw f.master a (32 * n) = none → Answers (.healthReadLog slot) s fun t =>
      bytesAt t .dram a (32 * es.length) = es.flatMap (·.2) ∧
      (∀ b, b < a ∨ a + 32 * es.length ≤ b → byteAt t .dram b = byteAt s .dram b) ∧
      Completes t (f.record .done .none [w32 es.length, w32 ((es.head?.map (·.1)).getD 0), w32 s.hw.health.logNext,
        w32 s.hw.health.logOldest]) ∧ OnlyChanges (reporting ++ resting ++ [Portion.slots]) s t) ∧
    (granted s.hw f.master false true a (32 * n) = false → Answers (.healthReadLog slot) s fun t =>
      Finishes s t (f.record .refusedAccess .logAccess []) ∧
      OnlyChanges (reporting ++ resting ++ [Portion.slots, Portion.health]) s t)) ∧
  ∀ (s : State) (e : LogEntry), s.hw.power.ctrlOn → s.hw.saving = false → NothingHeld s → s.hw.health.buffer = [e] →
    s.hw.health.lostOwed = false → s.hw.health.logPos < logEntries →
    loaderTurn e.since { s.hw with health := { s.hw.health with buffer := [] } } → Answers .healthLogWrite s fun t =>
      let i := s.hw.health.logPos
      t.hw.health.buffer = [] ∧ t.hw.health.logPos = (i + 1) % logEntries ∧
      bytesAt t .flash (logAddr i) 32 = healthBytes e ∧
      (i % 128 ≠ 0 → WritesOnly s t .flash (logAddr i) 32) ∧
      (i % 128 = 0 → WritesOnly s t .flash (logAddr i) 4096 ∧
        ∀ b, logAddr i + 32 ≤ b → b < logAddr i + 4096 → byteAt t .flash b = some 0xFF) ∧
      OnlyChanges reporting s t

/-- The recovery port opens where it is to open and VDD_AON is present. Open, in RECOVERY or with WAKE_FAIL latched,
IDENT returns the words of R409, STATUS its byte, which clears WINDOW_ERR, and READ the flash's bytes; any other opcode
is ignored; closed, nothing comes out (R408, R409). In RECOVERY the port takes WREN; with it ERASE_4K, ERASE_64K and
PROGRAM within the writable window act on the flash, an erase leaving 0xFF and a program clearing bits. One outside the
window is dropped with WINDOW_ERR; one without WREN, or outside RECOVERY, changes nothing in the flash (R408). The
flash's own behaviour is the family's (log 75). -/
def Obligations.RecoveryPortReadsAndWrites : Prop :=
  ((∀ s : State, s.hw.rvy.opening → s.hw.board.aonOn → Answers .recoveryPortOpen s fun t =>
    t.hw.rvy = { isOpen := true } ∧ t.mem = s.mem ∧ OnlyChanges [.rvy] s t) ∧
  (∀ s : State, s.hw.rvy.opening = false → exec .recoveryPortOpen s = .next { s with hw := { s.hw with sent := [] } }) ∧
  (∀ s : State, portRead s.hw → s.hw.rvy.busy = false →
    let word1 (mode cause : Nat) : Word := w32 (mode + 256 * cause + 65536 * s.hw.nodeId + 2 ^ 24 * s.hw.board.romRev)
    let ident (ws : List Word) : Prop := Answers .rvyIdent s fun t =>
      t.hw.rvy = { s.hw.rvy with out := wordsBytes (ws ++ [w32 (s.hw.board.flashId % 2 ^ 24), 0, 0, 0, 0]) } ∧
      t.mem = s.mem ∧ OnlyChanges [.rvy] s t
    (∀ c, s.hw.power.dev = .recovery → s.hw.power.cause = some c → s.hw.power.wakeFail = none →
      ident [0x5A390EC0, word1 1 c.code, 0]) ∧
    (∀ n, s.hw.power.dev ≠ .recovery → s.hw.power.wakeFail = some (.avsFail, n) →
      ident [0x5A390EC0, word1 2 0, w32 (1 + 65536 * n)]) ∧
    (∀ n, s.hw.power.dev ≠ .recovery → s.hw.power.wakeFail = some (.refFail, n) →
      ident [0x5A390EC0, word1 2 0, w32 (2 + 65536 * n)]) ∧
    (Answers .rvyStatus s fun t =>
      t.hw.rvy = { s.hw.rvy with
        out := [BitVec.ofNat 8 (2 * b2n s.hw.rvy.wel + 4 * b2n s.hw.rvy.windowErr +
          128 * b2n (decide (s.hw.power.dev = .recovery)))]
        windowErr := false } ∧ t.mem = s.mem ∧ OnlyChanges [.rvy] s t) ∧
    ∀ (a : Word) (n : Nat), NothingHeld s → a.toNat + n ≤ flashSize → Answers (.rvyRead a n) s fun t =>
      t.hw.rvy = { s.hw.rvy with out := bytesAt s .flash a.toNat n } ∧ t.mem = s.mem ∧
      OnlyChanges (reporting ++ [Portion.rvy]) s t) ∧
  (∀ (s : State) (b : Byte), exec (.rvyUnknownOpcode b) s =
    .next { s with hw := { s.hw with sent := [], rvy := { s.hw.rvy with out := [] } } }) ∧
  ∀ (s : State) (a : Word) (n : Nat), portRead s.hw = false → NothingHeld s →
    let silent (c : Instr) : Prop := Answers c s fun t =>
      t.hw.rvy = { s.hw.rvy with out := [] } ∧ t.mem = s.mem ∧ OnlyChanges (reporting ++ [Portion.rvy]) s t
    silent .rvyIdent ∧ silent .rvyStatus ∧ silent (.rvyRead a n)) ∧
  (∀ s : State, NothingHeld s →
    let only (s t : State) : Prop := OnlyChanges (reporting ++ [Portion.rvy]) s t
    let r := { s.hw.rvy with out := [] }
    let drops (c : Instr) : Prop := Answers c s fun t =>
      t.hw.rvy = { r with windowErr := true } ∧ t.mem = s.mem ∧ only s t
    let idle (c : Instr) : Prop := Answers c s fun t => t.hw.rvy = r ∧ t.mem = s.mem ∧ only s t
    let erases (c : Word → Instr) (n : Nat) : Prop := ∀ a : Word,
      (portFull s.hw → s.hw.rvy.busy = false →
        (s.hw.rvy.wel → a.toNat % n = 0 → inRvyWindow a.toNat n → Answers (c a) s fun t =>
          (∀ b, a.toNat ≤ b → b < a.toNat + n → byteAt t .flash b = some 0xFF) ∧ WritesOnly s t .flash a.toNat n ∧
          t.hw.rvy = { r with busy := true } ∧ only s t) ∧
        (inRvyWindow a.toNat n = false → drops (c a)) ∧
        (s.hw.rvy.wel = false → a.toNat % n = 0 → inRvyWindow a.toNat n → idle (c a))) ∧
      (portFull s.hw = false → idle (c a))
    (portFull s.hw → s.hw.rvy.busy = false → Answers .rvyWren s fun t =>
      t.hw.rvy = { r with wel := true } ∧ t.mem = s.mem ∧ OnlyChanges [.rvy] s t) ∧
    (portFull s.hw = false → idle .rvyWren) ∧ erases .rvyErase4k 4096 ∧ erases .rvyErase64k 65536 ∧
    ∀ (a : Word) (data : List Byte),
      let n := data.length
      (portFull s.hw → s.hw.rvy.busy = false → 1 ≤ n → a.toNat % 256 + n ≤ 256 →
        (s.hw.rvy.wel → inRvyWindow a.toNat n → Answers (.rvyProgram a data) s fun t =>
          bytesAt t .flash a.toNat n = List.zipWith (fun x y => x &&& y) (bytesAt s .flash a.toNat n) data ∧
          WritesOnly s t .flash a.toNat n ∧ t.hw.rvy = { r with busy := true } ∧ only s t) ∧
        (inRvyWindow a.toNat n = false → drops (.rvyProgram a data)) ∧
        (s.hw.rvy.wel = false → inRvyWindow a.toNat n → idle (.rvyProgram a data))) ∧
      (portFull s.hw = false → idle (.rvyProgram a data)))

/-- A port that trains comes up on the lanes that its test leaves, at the width its partner named, or is DOWN where that
is below MIN_WIDTH, where its third attempt fails or where its partner's side does not fit; its own IDENT goes out as
its partner's comes; training at the lanes saved for a SLEEP falls back to a full one; a DOWN port trains again, and a
port that loses its link trains. A port that comes up, loses its link or goes DOWN starts a formation with the next
epoch. A retrain that succeeds replays, a narrower width raises LINK_WIDTH, and a third failed one takes the link down
(R331 to R335, R344). -/
def Obligations.LinksTrainAndRetrain : Prop :=
  ∀ (s : State) (side : Side) (test : LaneTest), AtRest s → portServes s.hw side → s.hw.ring.exch = [] →
    s.hw.ring.bootBytes = none →
    let p := portOf s.hw side
    let cfg := ringCfg s.hw
    let forms (t : State) : Prop := t.hw.ring.st = .forming ∧ t.hw.ring.epoch = (s.hw.ring.epoch + 1) % 2 ^ 32 ∧
      t.hw.ring.winOpen = false ∧ t.hw.ring.members = []
    let only (t : State) : Prop := OnlyChanges (reporting ++ resting ++ [Portion.ring, Portion.update, Portion.health]) s t
    let reforms : Prop := p.fromDown = false ∧ s.hw.ring.st ≠ .down ∧
      (s.hw.ring.st = .training → (portOf s.hw (otherSide side)).st = .down)
    let down (t : State) : Prop := (portOf t.hw side).st = .down ∧ only t ∧ (reforms → forms t) ∧
      (p.fromDown = false → p.downRaised = false → Reports t .eventHealth .linkDown)
    (∀ l, p.st = .training → p.wiringBad = false → trainedLanes p test = some l →
      (p.partner.map (·.width)).getD l.width = l.width →
      (cfg.minWidth ≤ l.width → Answers (.linkUp side l.width test) s fun t =>
        (portOf t.hw side).st = .up ∧ (portOf t.hw side).width = l.width ∧ (portOf t.hw side).lanes = l.lanes ∧
        (portOf t.hw side).inverted = l.inverted ∧ forms t ∧ only t) ∧
      (l.width < cfg.minWidth → Answers (.linkUp side l.width test) s down)) ∧
    (p.st = .training →
      (p.saved.isSome → Answers (.linkTrainTimeout side) s fun t =>
        portOf t.hw side = { p with saved := none, partner := none } ∧ t.mem = s.mem ∧
        OnlyChanges (reporting ++ resting ++ [Portion.ring]) s t) ∧
      (p.saved = none → p.attempts + 1 < 3 → Answers (.linkTrainTimeout side) s fun t =>
        portOf t.hw side = { p with attempts := p.attempts + 1, partner := none } ∧ t.mem = s.mem ∧
        OnlyChanges (reporting ++ resting ++ [Portion.ring]) s t) ∧
      (p.saved = none → 3 ≤ p.attempts + 1 → Answers (.linkTrainTimeout side) s down) ∧
      (∀ node their width role, their ≠ side → Answers (.ident side node their width role) s fun t =>
        portOf t.hw side = { p with partner := some { node := node, width := width, role := role } } ∧
        (∃ f, (side, f) ∈ t.hw.sent ∧ f.type = 0x03 ∧ f.param = w32 (identParam s.hw side width)) ∧ t.mem = s.mem ∧
        OnlyChanges (reporting ++ resting ++ [Portion.ring]) s t) ∧
      (∀ node width role, Answers (.ident side node side width role) s fun t =>
        (portOf t.hw side).wiringBad = true ∧ (portOf t.hw side).st = .down ∧ Reports t .eventHealth .ringWiring ∧
        only t)) ∧
    (p.st = .down → p.wiringBad = false → Answers (.linkRetry side) s fun t =>
      portOf t.hw side = trainPort p ∧ portOf t.hw (otherSide side) = portOf s.hw (otherSide side) ∧ t.mem = s.mem ∧
      OnlyChanges (reporting ++ [Portion.ring]) s t) ∧
    (p.st = .up → Answers (.linkLoss side) s fun t =>
      (portOf t.hw side).st = .training ∧ forms t ∧
      OnlyChanges (reporting ++ resting ++ [Portion.ring, Portion.update]) s t) ∧
    (p.st = .up → p.retraining →
      (∀ asked w lanes, chooseLanes (min asked (p.narrowed.getD 8)) test.pass = some (w, lanes) →
        (cfg.minWidth ≤ w → Answers (.retrain side (some asked) test) s fun t =>
          (portOf t.hw side).retraining = false ∧ (portOf t.hw side).replays = 0 ∧ (portOf t.hw side).width = w ∧
          (portOf t.hw side).lanes = lanes ∧
          (w < p.width → (portOf t.hw side).narrowed = some w ∧ Reports t .eventHealth .linkWidth) ∧
          (∀ f ∈ p.retry, (side, f) ∈ t.hw.sent) ∧ only t) ∧
        (w < cfg.minWidth → p.attempts + 1 < 3 → Answers (.retrain side (some asked) test) s fun t =>
          portOf t.hw side = { p with attempts := p.attempts + 1 } ∧ only t) ∧
        (w < cfg.minWidth → 3 ≤ p.attempts + 1 → Answers (.retrain side (some asked) test) s down)) ∧
      (p.attempts + 1 < 3 → Answers (.retrain side none test) s fun t =>
        portOf t.hw side = { p with attempts := p.attempts + 1 } ∧ only t) ∧
      (3 ≤ p.attempts + 1 → Answers (.retrain side none test) s down))

/-- On a port that carries frames: a stomped frame is counted and not asked for again; a frame that fails its CRC is
counted and answered with LINK_NAK, and ERR_RETRAIN failures within 1 s ask for a retrain; the timer sends LINK_ACK for
what was received and the credit owed; LINK_ACK frees what it acknowledges, returns credit and lets held frames go;
LINK_NAK replays all after the last good one, and the eighth replay asks for a retrain; a frame of an unknown type is
counted and dropped, its credit owed, a ROLL_CTL of an unknown OP is dropped, and one out of LSEQ order changes nothing
(R335, R337, R340, R401). -/
def Obligations.LinkFramesAreHandled : Prop :=
  ∀ (s : State) (side : Side) (f : Frame), (portOf s.hw side).carries →
    let p := portOf s.hw side
    let q (t : State) : Port := portOf t.hw side
    let link (type param : Nat) (t : State) : Prop := (side, sealFrame
      { type := type, src := s.hw.nodeId, west := side == .west, param := w32 param }) ∈ t.hw.sent
    let rest := afterAck (fld f.param 0 12) p.retry
    let owes (v : Nat) : Nat := p.owed.getD v 0
    (∀ copy, Answers (.frameCrcFail side true copy) s fun t =>
      t.hw.health.cnt.stomped = min (s.hw.health.cnt.stomped + 1) (2 ^ 32 - 1) ∧ (copy = none → t.hw.sent = []) ∧
      t.mem = s.mem ∧ OnlyChanges [.health] s t) ∧
    (∀ copy,
      let n := if p.crcWin = s.hw.power.time / ticksPerSecond then p.crcWindow + 1 else 1
      Answers (.frameCrcFail side false copy) s fun t =>
        (side = .east → t.hw.health.cnt.crcE = min (s.hw.health.cnt.crcE + 1) (2 ^ 16 - 1)) ∧
        (side = .west → t.hw.health.cnt.crcW = min (s.hw.health.cnt.crcW + 1) (2 ^ 16 - 1)) ∧
        link 0x02 p.rxSeq t ∧ (q t).crcWindow = n ∧
        (q t).retraining = decide ((ringCfg s.hw).errRetrain ≤ n) ∧ t.mem = s.mem ∧ OnlyChanges [.ring, .health] s t) ∧
    (0 < p.unacked ∨ (∃ v < 4, owes v ≠ 0) → Answers (.linkAckTimer side) s fun t =>
      q t = { p with unacked := 0, owed := [0, 0, 0, 0] } ∧ ((∀ v < 4, owes v = 0) → link 0x01 p.rxSeq t) ∧
      (∀ v < 4, owes v ≠ 0 → link 0x01 (p.rxSeq + 4096 * v + 65536 * owes v) t) ∧ t.mem = s.mem ∧
      OnlyChanges [.ring] s t) ∧
    (p.unacked = 0 → (∀ n ∈ p.owed, n = 0) → exec (.linkAckTimer side) s =
      .next { s with hw := { s.hw with sent := [] } }) ∧
    (Answers (.linkAck side f) s fun t =>
      (q t).replays = 0 ∧ (∃ more, (q t).retry = rest ++ more ∧ more.length + (q t).held.length = p.held.length ∧
        t.hw.sent = more.map fun g => (side, g)) ∧
      (p.held = [] → (q t).credit = addCredit (fld f.param 12 2) (fld f.param 16 16) p.credit) ∧ t.mem = s.mem ∧
      OnlyChanges [.ring] s t) ∧
    (Answers (.linkNak side f) s fun t =>
      t.hw.sent = rest.map (fun g => (side, g)) ∧ (q t).retry = rest ∧
      (rest ≠ [] → (q t).replays = p.replays + 1 ∧ (q t).retraining = decide (8 ≤ p.replays + 1)) ∧
      (rest = [] → (q t).replays = p.replays ∧ (q t).retraining = false) ∧ t.mem = s.mem ∧ OnlyChanges [.ring] s t) ∧
    (let takes (counted : Bool) (t : State) : Prop := (q t).rxSeq = f.lseq ∧
        t.hw.health.cnt.badType = (if counted then min (s.hw.health.cnt.badType + 1) (2 ^ 16 - 1)
          else s.hw.health.cnt.badType) ∧
        (p.unacked < 31 → (q t).unacked = p.unacked + 1 ∧
          (q t).owed = modifyAt f.vc (· + frameUnits f) (fitTo 4 0 p.owed)) ∧
        t.mem = s.mem ∧ OnlyChanges [.ring, .health] s t
     (f.lseq = (p.rxSeq + 1) % 4096 → ¬ f.type ∈ knownTypes → Answers (.unknownFrame side f) s (takes true)) ∧
     (f.lseq = (p.rxSeq + 1) % 4096 → unknownRollCtl f → Answers (.unknownFrame side f) s (takes false)) ∧
     (f.lseq ≠ (p.rxSeq + 1) % 4096 → exec (.unknownFrame side f) s =
      .next { s with hw := { s.hw with sent := [] } }))

/-- A roll call of a newer epoch starts a formation at it, one of the own epoch is recorded with its distance and port,
an older one is dropped; the node's own, home at WEST, says that the ring is whole, and one with its identity and
another nonce makes it declare itself failed. As a formation ends, the ring is FORMED, a CHAIN, or the node is ALONE,
the head is the lowest of those that may act, RING_REFORM tells it, and the window opens at the head and at a node by
itself (R327, R342 to R348). -/
def Obligations.FormationsElectAHead : Prop :=
  (∀ (s : State) (side : Side) (f : Frame), AtRest s → Next s side f → ringInUse s.hw → s.hw.ring.exch = [] →
    let epoch := (wordAt (bytesWords f.payload) 0).toNat
    let nonce := (wordAt (bytesWords f.payload) 1).toNat
    let r : RollRec :=
      { origin := f.src, nonce := nonce, strapHead := bit (wordAt (bytesWords f.payload) 2) 0
        hasHost := bit (wordAt (bytesWords f.payload) 2) 1, hops := f.hops, side := side }
    let only (t : State) : Prop := OnlyChanges (reporting ++ resting ++ [Portion.ring, Portion.update, Portion.health]) s t
    (f.src ≠ s.hw.nodeId → s.hw.ring.epoch < epoch → Answers (.rollCall side f) s fun t =>
      t.hw.ring.st = .forming ∧ t.hw.ring.epoch = epoch ∧ t.hw.ring.rolls = [r] ∧ t.hw.ring.winOpen = false ∧ only t) ∧
    (f.src ≠ s.hw.nodeId → s.hw.ring.epoch = epoch → Answers (.rollCall side f) s fun t =>
      t.hw.ring.rolls = s.hw.ring.rolls.filter (fun x => !(x.origin == f.src && x.side == side)) ++ [r] ∧
      t.hw.ring.st = s.hw.ring.st ∧ t.hw.ring.epoch = s.hw.ring.epoch ∧ t.mem = s.mem ∧ only t) ∧
    (epoch < s.hw.ring.epoch → Answers (.rollCall side f) s fun t =>
      t.hw.ring.rolls = s.hw.ring.rolls ∧ t.hw.ring.st = s.hw.ring.st ∧ t.hw.ring.returned = s.hw.ring.returned ∧
      t.mem = s.mem ∧ only t) ∧
    (f.src = s.hw.nodeId → s.hw.ring.epoch ≤ epoch → nonce = s.hw.ring.nonce → side = .west →
      Answers (.rollCall side f) s fun t => t.hw.ring.returned = true ∧ t.hw.ring.st = s.hw.ring.st ∧ t.mem = s.mem ∧ only t) ∧
    (f.src = s.hw.nodeId → s.hw.ring.epoch ≤ epoch → nonce ≠ s.hw.ring.nonce → Answers (.rollCall side f) s fun t =>
      t.hw.ring.failed = true ∧ t.hw.ring.st = .down ∧ (portOf t.hw .east).st = .down ∧ (portOf t.hw .west).st = .down ∧
      bitOf t.hw.health.causes causeDupId = true ∧ Reports t .eventHealth .ringDupId ∧ only t)) ∧
  ∀ (s : State) (rtt : Nat), AtRest s → s.hw.ring.st = .forming → s.hw.ring.unitsWait = [] →
    agreementHash s.mem s.hw = none →
    let up := s.hw.ring.east.st = .up ∨ s.hw.ring.west.st = .up
    let others (may : RollRec → Bool) (self : Bool) : List Nat := membersWith s.hw may self
    let headed (hd : Option Nat) : Prop :=
      let claims := others (·.strapHead) s.hw.isHead
      let able := if claims = [] then others (·.hasHost) s.hw.hasHost else claims
      (able = [] → hd = none) ∧ (able ≠ [] → ∃ n, hd = some n ∧ n ∈ able ∧ ∀ k ∈ able, n ≤ k)
    let ends (st : RingSt) (t : State) : Prop := t.hw.ring.st = st ∧ Reports t .eventHealth .ringReform ∧ t.mem = s.mem ∧
      OnlyChanges (reporting ++ resting ++ [Portion.ring, Portion.health]) s t
    (¬up → Answers (.formationEnd rtt {}) s fun t =>
      ends .alone t ∧ t.hw.ring.members = [s.hw.nodeId] ∧ t.hw.ring.head = none ∧ t.hw.ring.winOpen = true) ∧
    (up → s.hw.ring.returned = false → Answers (.formationEnd rtt {}) s fun t =>
      ends .chain t ∧ t.hw.ring.members = memberIds s.hw ∧ headed t.hw.ring.head ∧
      t.hw.ring.winOpen = s.hw.ring.winOpen ∧ bitOf t.hw.health.causes causeBroken = true) ∧
    (up → s.hw.ring.returned → Answers (.formationEnd rtt {}) s fun t =>
      ends .formed t ∧ t.hw.ring.members = memberIds s.hw ∧ headed t.hw.ring.head ∧ t.hw.ring.rtt = rtt % 2 ^ 32 ∧
      (t.hw.ring.head = some s.hw.nodeId → t.hw.ring.winOpen = true) ∧
      (∀ n, t.hw.ring.head = some n → n ≠ s.hw.nodeId →
        t.hw.ring.winOpen = false ∧ t.hw.ring.copying = some windowSize) ∧
      ((ringCfg s.hw).rttBudget < rtt % 2 ^ 32 →
        bitOf t.hw.health.causes causeOverBudget = true ∧ Reports t .eventHealth .ringOverBudget))

/-- A unit is numbered and applied by the head and applied in its sequence by a member, in the window only; a gap in the
numbers closes the member's window and asks the head for a copy; a unit that is home leaves the outstanding ones; one
that is late fails its MOVE, and a formation starts. The head answers a request with its whole replica, and with the
copy's last bytes the window opens. Lines of the replica that hold an uncorrectable error are apart (R324, R325, R327).
-/
def Obligations.WindowUnitsGoRound : Prop :=
  ∀ s : State,
    (∀ (side : Side) (f : Frame), Next s side f → AtRest s →
      let here := s.hw.ring.head = some s.hw.nodeId
      let a := (payloadUnit f.payload).1
      let bs := (payloadUnit f.payload).2
      let next := (s.hw.ring.winSeq + 1) % 2 ^ 32
      let only (t : State) : Prop := OnlyChanges (reporting ++ resting ++ [Portion.ring]) s t
      let copies (t : State) : Prop := OnlyChanges (reporting ++ resting ++ [Portion.ring, Portion.health]) s t
      let applied (t : State) : Prop := t.hw.ring.winSeq = next ∧ bytesAt t .window a bs.length = bs ∧
        WritesOnly s t .window a bs.length ∧ only t
      (a + bs.length ≤ windowSize → devBadPartly s.hw (windowBase + a) bs.length = false →
        (here → f.crossed = false → s.hw.ring.winOpen → Answers (.winUnit side f) s applied) ∧
        (¬here → f.crossed → f.src ≠ s.hw.nodeId → s.hw.ring.winOpen → f.param.toNat = next →
          Answers (.winUnit side f) s applied) ∧
        (∀ left, f.dst = s.hw.nodeId → s.hw.ring.copying = some left → s.hw.ring.unitsWait = [] →
          Answers (.winCopyData side f) s fun t =>
            bytesAt t .window a bs.length = bs ∧ WritesOnly s t .window a bs.length ∧ copies t ∧
            (left ≤ bs.length → t.hw.ring.winOpen = true ∧ t.hw.ring.copying = none ∧ t.hw.ring.winSeq = f.param.toNat) ∧
            (bs.length < left → t.hw.ring.winOpen = s.hw.ring.winOpen ∧
              t.hw.ring.copying = some (left - bs.length)))) ∧
      (¬here → f.crossed = false → Answers (.winUnit side f) s fun t =>
        t.hw.ring.winSeq = s.hw.ring.winSeq ∧ t.mem = s.mem ∧ only t) ∧
      (∀ n, s.hw.ring.head = some n → n ≠ s.hw.nodeId → f.crossed → f.src ≠ s.hw.nodeId → s.hw.ring.winOpen →
        f.param.toNat ≠ next → Answers (.winUnit side f) s fun t =>
          t.hw.ring.winOpen = false ∧ t.hw.ring.copying = some windowSize ∧ t.hw.ring.winSeq = s.hw.ring.winSeq ∧
          t.mem = s.mem ∧ only t) ∧
      (here → f.dst = s.hw.nodeId → (portOf s.hw .east).st = .up → Answers (.winCopyReq side f) s fun t =>
        queuedFrames t .east = queuedFrames s .east + windowSize / 128 ∧ t.mem = s.mem ∧ copies t)) ∧
    (∀ (side : Side) (f : Frame), Next s side f → NoExcursion s → f.crossed → f.src = s.hw.nodeId →
      s.hw.ring.unitsWait = [] → Answers (.winUnit side f) s fun t =>
        t.hw.ring.units = s.hw.ring.units.filter (fun u => u.tag != f.tag) ∧
        OnlyChanges (reporting ++ scheduling) s t) ∧
    ∀ u us, s.hw.ring.units = u :: us → NoExcursion s → s.hw.board.aonOn → ringInUse s.hw →
      s.hw.power.elapsed ≤ unitLate s.hw u → Answers .winUnitTimeout s fun t =>
        t.hw.ring.units = s.hw.ring.units.filter (fun x => x.ref != u.ref) ∧ t.hw.ring.winOpen = false ∧
        t.hw.ring.st = .forming ∧ t.hw.power.elapsed = unitLate s.hw u ∧
        OnlyChanges (reporting ++ scheduling ++ [Portion.update]) s t

/-- A PUT that the port's rights allow leaves its bytes in memory, and its last frame is answered with PUT_ACK; a GET is
answered with the bytes asked; what the rights refuse is answered with EXCH_NAK and its status, and nothing is written.
A DOORBELL of the acting head moves a hostless member's producer index and is answered, or is refused where the index is
not accepted; any other is refused (R352, R353). Which full frame of a PUT is its last is the command's (log 49). -/
def Obligations.PeersAnswerExchanges : Prop :=
  ∀ (s : State) (side : Side) (f : Frame), AtRest s → Next s side f → f.dst = s.hw.nodeId → Ready s side → f.vc < 4 →
    let a := frameAddress f
    let n := f.payload.length
    let asked := (wordAt (bytesWords f.payload) 0).toNat
    let answered (t : State) (type : Nat) (param : Word) (bytes : List Byte) : Prop :=
      Sends t side { type := type, dst := f.src, tag := f.tag, param := param, payload := bytes }
    let only (t : State) : Prop := OnlyChanges (reporting ++ resting ++ [Portion.ring, Portion.health]) s t
    let nak (st : Status) (d : Detail) (t : State) : Prop :=
      answered t 0x35 (w32 (st.code + 256 * d.code)) [] ∧ t.mem = s.mem ∧ only t
    (∀ last, peerFault s.hw side true a n = none → a + n ≤ dramEnd → Answers (.putData side f last) s fun t =>
      bytesAt t .dram a n = f.payload ∧ WritesOnly s t .dram a n ∧ (last ∨ n < 256 → answered t 0x31 0 []) ∧ only t) ∧
    (∀ last st d, peerFault s.hw side true a n = some (st, d) → Answers (.putData side f last) s (nak st d)) ∧
    (peerFault s.hw side false a asked = none → 0 < asked → asked ≤ 256 → a + asked ≤ dramEnd →
      Answers (.getReq side f) s fun t => answered t 0x33 0 (bytesAt s .dram a asked) ∧ t.mem = s.mem ∧ only t) ∧
    (∀ st d, peerFault s.hw side false a asked = some (st, d) → Answers (.getReq side f) s (nak st d)) ∧
    (s.hw.power.memOn → s.hw.saving = false → granted s.hw (sideMaster side) true false a asked = false →
      peerFault s.hw side false a asked = some (.refusedAccess, .remoteAccess)) ∧
    (s.hw.ring.exch = [] →
      (s.hw.hasHost = false → s.hw.image.system.sqInDram → s.hw.ring.head = some f.src → s.hw.up →
        doorbellAccepts s.hw f.param.toNat → Answers (.doorbellFrame side f) s fun t =>
          t.hw.sq.producer = f.param.toNat ∧ answered t 0x34 f.param [] ∧ t.mem = s.mem ∧
          OnlyChanges (reporting ++ resting ++ [Portion.ring, Portion.slots, Portion.health]) s t) ∧
      (s.hw.hasHost = false → s.hw.image.system.sqInDram → s.hw.ring.head = some f.src → s.hw.up →
        doorbellAccepts s.hw f.param.toNat = false → Answers (.doorbellFrame side f) s fun t =>
          nak .refusedFormat .doorbellReject t ∧ Reports t .eventHealth .doorbellReject) ∧
      (s.hw.hasHost ∨ s.hw.image.system.sqInDram = false ∨ s.hw.ring.head ≠ some f.src →
        Answers (.doorbellFrame side f) s (nak .refusedAccess .doorbellRemote)))

/-- A node answers BOOT_REQ with the package that it runs, in frames of 256 bytes. A node in its ring boot gathers
BOOT_DATA; a package without an image for it, and 2 s without an answer, end in RECOVERY with RING_BOOT_FAIL; one with
such an image starts the node (R355). -/
def Obligations.RingBootsTakeAPackage : Prop :=
  (∀ (s : State) (side : Side) (f : Frame), AtRest s → s.hw.up → Next s side f → (portOf s.hw .east).st = .up →
    Answers (.bootReq side f) s fun t =>
      queuedFrames t .east = queuedFrames s .east + ((bootPackage s.mem { s.hw with sent := [] }).length + 255) / 256 ∧
      t.mem = s.mem ∧ OnlyChanges (reporting ++ resting ++ [Portion.ring, Portion.health]) s t) ∧
  ∀ (s : State) (got : List Byte), AtRest s → s.hw.ring.exch = [] → s.hw.ring.bootBytes = some got →
    let failed (t : State) : Prop := t.hw.power.dev = .recovery ∧ t.hw.power.cause = some .ringBootFail ∧
      t.hw.power.ctrlOn = false ∧ t.hw.ring.bootBytes = none ∧ t.hw.health.lastRecovery = 7 ∧
      bitOf t.hw.health.causes causeRecovery = true ∧ t.hw.rvy.opening = true ∧ t.mem = s.mem
    Answers .ringBootTimeout s failed ∧
    ∀ (side : Side) (f : Frame), Next s side f →
      let all := got ++ f.payload
      let len := packageLen (bytesWords (all.take 12))
      (all.length < 12 ∨ all.length < len → Answers (.bootData side f) s fun t =>
        t.hw.ring.bootBytes = some all ∧ t.mem = s.mem ∧
        OnlyChanges (reporting ++ resting ++ [Portion.ring, Portion.health]) s t) ∧
      (12 ≤ all.length → len ≤ all.length →
        (packageImage s.hw (all.take len) = none → Answers (.bootData side f) s failed) ∧
        (∀ img, packageImage s.hw (all.take len) = some img → s.hw.power.wakes = [] → s.hw.standalone = false →
          Answers (.bootData side f) s fun t =>
            t.hw.image = imageOf s.hw img ∧ t.hw.ring.bootPkg = all.take len ∧ t.hw.ring.bootBytes = none ∧
            t.hw.update.ringBooted = true ∧ t.hw.power.dev = .idle ∧ t.hw.power.ctrlOn = true ∧
            t.hw.power.memOn = true ∧ t.hw.sched.graphs = []))

/-- Every boot record that can be written reads back intact and as it was. -/
def Obligations.BootRecordsReadBack : Prop :=
  ∀ r : BootRec, r.seq < 2 ^ 32 → r.unconf < 4 → r.activeHash.length = 12 → r.stagingHash.length = 12 →
    r.actHash.length = 12 → r.activeBytes < 2 ^ 32 → r.stagingBytes < 2 ^ 32 →
    recordIntact (recordBytes r) = true ∧ readRecord (recordBytes r) = r

/-- UPDATE_CHUNK slots on a node that is no head, or whose vehicle inputs do not permit it, are refused, R399's first
check deciding. DATA in its order waits for LOADER with its bytes, and the first chunk of a package clears STAGING; one
out of order is refused, and one that repeats the last is done. DISCARD clears STAGING. LOADER programs the oldest chunk
in its turn, whose slot then completes (R395, R396, R399, R400). -/
def Obligations.ChunksAreTakenAndProgrammed : Prop :=
  (∀ (s : State) (slot : Slot) (f : Fetched) (host : List Byte), AtRest s →
    let r := bootRec s.mem s.hw
    let u := s.hw.update
    let op (n : Nat) : Prop := AcceptsOp s slot f kUpdateChunk 0 2 n
    let off := dataOffset f.words
    let a := dataSource f.words
    let n := dataBytes f.words
    let only (t : State) : Prop := OnlyChanges (reporting ++ resting ++ [Portion.slots, Portion.update]) s t
    let ends (c : Instr) (st : Status) (d : Detail) : Prop := Answers c s fun t =>
      t.hw.update = u ∧ (∃ w, Finishes s t (f.record st d w)) ∧ only t
    let all (d : Detail) : Prop :=
      (op 0 → ends (.updateChunkData slot host {}) .refusedState d) ∧
      (op 1 → ends (.updateChunkRoll slot) .refusedState d) ∧
      (op 2 → ends (.updateChunkDiscard slot {}) .refusedState d)
    let cleared : BootRec := { r with state := .confirmed, stagingHash := noHash, stagingBytes := 0, stagingOld := false }
    (mayUpdate s.hw = false → all .notHead) ∧
    (mayUpdate s.hw → s.hw.board.motion → all .motion) ∧
    (mayUpdate s.hw → s.hw.board.motion = false → s.hw.board.updLock → all .updLock) ∧
    (updateFault true s.hw = none →
      (op 0 → dataFieldsOk f.words = false → ends (.updateChunkData slot host {}) .refusedFormat .none) ∧
      (op 0 → dataFieldsOk f.words → stagingHeld r → ends (.updateChunkData slot host {}) .refusedState .activationOpen) ∧
      (op 0 → dataFieldsOk f.words → stagingHeld r = false → repeatsLast r u.download f.words →
        ends (.updateChunkData slot host {}) .done .none) ∧
      (op 0 → dataFieldsOk f.words → stagingHeld r = false → repeatsLast r u.download f.words = false →
        (outOfOrder r u.download f.words → ends (.updateChunkData slot host {}) .refusedFormat .chunkOrder) ∧
        (outOfOrder r u.download f.words = false → sourceFault s.hw f.master a n = none → a + n ≤ dramEnd →
          (off ≠ 0 ∨ packageLen (bytesWords ((bytesAt s .dram a n).take 12)) ≤ packageMax) →
          Answers (.updateChunkData slot host {}) s fun t =>
            t.hw.update.download = { accepted := off + n, lastOff := off, lastBytes := n } ∧
            t.hw.update.jobs = u.jobs ++ [.chunk s.hw.power.elapsed f.pos (wordAt f.words 1) off (bytesAt s .dram a n)] ∧
            (off ≠ 0 → t.mem = s.mem) ∧ (off = 0 → Records s t cleared) ∧ only t)) ∧
      (op 2 → otherFieldsOk f.words → stagingHeld r = false → Answers (.updateChunkDiscard slot {}) s fun t =>
        t.hw.update.download = {} ∧ t.hw.update.staged = 0 ∧ Records s t cleared ∧
        (∃ w, Completes t (f.record .done .none w)) ∧ only t))) ∧
  ∀ (s : State) (came pos off : Nat) (tag : Word) (data : List Byte) (js : List Job),
    s.hw.update.jobs = .chunk came pos tag off data :: js → loaderTurn came s.hw → s.hw.up → AtRest s →
    s.hw.writesRecords →
    let head := if off = 0 then bytesWords (data.take 12) else flashWords s.mem { s.hw with sent := [] } stagingBase 3
    off + data.length < min packageMax (packageLen head) →
    (Answers (.loaderFlashWorkDone true) s fun t =>
      t.hw.update = { s.hw.update with jobs := js } ∧ bytesAt t .flash (stagingBase + off) data.length = data ∧
      (∀ b, b < stagingBase + off ∨ stagingBase + off + data.length ≤ b → byteAt t .flash b = byteAt s .flash b) ∧
      (∃ w, Completes t { pos := pos, kind := kUpdateChunk, status := .done, tag := tag, result := w }) ∧
      OnlyChanges (reporting ++ resting ++ [Portion.update]) s t) ∧
    Answers (.loaderFlashWorkDone false) s fun t =>
      t.hw.update = s.hw.update ∧ t.mem = s.mem ∧ OnlyChanges (reporting ++ resting) s t

/-- ROLL on a node that holds a package staged is done at once where the node is its own ring, and otherwise offers the
package EAST. A receiver asks for it with NEED, programs ROLL_DATA as it comes, or refuses; HAVE and NEED end the
sender's part, and NEED is answered with the package. A REFUSE, the STAGED that comes home and 10 s without progress end
the head's slot; any other node sends REFUSE on WEST and STAGED on EAST (R400, R401). -/
def Obligations.RollsGoRoundTheRing : Prop :=
  (∀ (s : State) (slot : Slot) (f : Fetched), AcceptsOp s slot f kUpdateChunk 0 2 1 → AtRest s → updateFault true s.hw = none →
    otherFieldsOk f.words →
    let r := bootRec s.mem s.hw
    let own := setBit 0 s.hw.nodeId true
    let only (t : State) : Prop := OnlyChanges (reporting ++ resting ++ [Portion.slots, Portion.ring, Portion.update]) s t
    (r.state ≠ .staged → Answers (.updateChunkRoll slot) s fun t =>
      t.hw.update = s.hw.update ∧ (∃ w, Finishes s t (f.record .refusedState .notStaged w)) ∧ only t) ∧
    (r.state = .staged → s.hw.update.rollSlot = none →
      (soleNode s.hw → Answers (.updateChunkRoll slot) s fun t =>
        t.hw.update = { s.hw.update with staged := own } ∧ (∃ w, Finishes s t (f.record .done .none w)) ∧ only t) ∧
      (soleNode s.hw = false → Ready s .east → Answers (.updateChunkRoll slot) s fun t =>
        t.hw.update = { s.hw.update with
          role := .sending, rollHash := r.stagingHash, rollSlot := some (f.pos, wordAt f.words 1), staged := own } ∧
        Sends t .east { rollCtl 0 0 0 r.stagingHash own 0 0 with dst := s.hw.ring.east.node.getD 0 } ∧
        t.mem = s.mem ∧ only t))) ∧
  (∀ (s : State) (side : Side) (f : Frame), AtRest s → s.hw.up → Next s side f →
    let r := bootRec s.mem s.hw
    let u := s.hw.update
    let hash := ctlHash f
    let only (t : State) : Prop :=
      t.mem = s.mem ∧ OnlyChanges (reporting ++ resting ++ [Portion.ring, Portion.update, Portion.health]) s t
    let west (g : Frame) (t : State) : Prop := Sends t .west { g with dst := s.hw.ring.west.node.getD 0 }
    let east (g : Frame) (t : State) : Prop := Sends t .east { g with dst := s.hw.ring.east.node.getD 0 }
    (Ready s .west →
      (storeReason s.mem s.hw = none → ¬(r.state = .staged ∧ r.stagingHash = hash) →
        Answers (.rollOffer side f) s fun t =>
          t.hw.update = { u with rollHash := hash, staged := ctlMask 0 f, role := .receiving 0 } ∧
          west (rollCtl 2 0 0 hash 0 0 0) t ∧ only t) ∧
      (∀ n, storeReason s.mem s.hw = some n → Answers (.rollOffer side f) s fun t =>
        t.hw.update = u ∧ west (rollCtl 3 s.hw.nodeId n hash 0 0 0) t ∧ only t) ∧
      (s.hw.ring.head ≠ some s.hw.nodeId → u.actSlot = none → u.rollSlot = none → Answers (.rollRefuse side f {}) s fun t =>
        t.hw.update = { u with role := .none } ∧
        west (rollCtl 3 (fld f.param 4 8) (fld f.param 12 4) hash 0 0 0) t ∧ only t)) ∧
    (u.role = .sending → u.rollHash = hash →
      (Answers (.rollHave side f) s fun t => t.hw.update = { u with role := .none } ∧ only t) ∧
      ((portOf s.hw .east).st = .up → r.stagingBytes ≤ packageMax → Answers (.rollNeed side f) s fun t =>
        t.hw.update = { u with role := .none } ∧
        queuedFrames t .east = queuedFrames s .east + (r.stagingBytes + 255) / 256 ∧ only t)) ∧
    (∀ got, u.role = .receiving got → f.param.toNat = got → got + f.payload.length ≤ packageMax →
      (0 < got → Answers (.rollData side f {}) s fun t =>
        t.hw.update.role = .receiving (got + f.payload.length) ∧
        bytesAt t .flash (stagingBase + got) f.payload.length = f.payload ∧
        WritesOnly s t .flash (stagingBase + got) f.payload.length ∧
        OnlyChanges (reporting ++ resting ++ [Portion.ring, Portion.update, Portion.health]) s t) ∧
      (Ready s .west → Answers (.rollData side f { flashOk := false }) s fun t =>
        t.hw.update = { u with role := .none } ∧ west (rollCtl 3 s.hw.nodeId 7 u.rollHash 0 0 0) t ∧ only t)) ∧
    (s.hw.ring.head ≠ some s.hw.nodeId → Ready s .east → Answers (.rollStaged side f) s fun t =>
      t.hw.update = u ∧ only t ∧
      east (rollCtl 4 0 0 hash (if r.stagingHash = hash then setBit (ctlMask 0 f) s.hw.nodeId true else ctlMask 0 f) 0 0)
        t) ∧
    ∀ pos tag, u.rollSlot = some (pos, tag) → s.hw.writesRecords →
      let ends (c : Instr) (st : Status) (d : Detail) (mask : Nat) : Prop := Answers c s fun t =>
        t.hw.update = { u with role := .none, rollSlot := none, staged := mask } ∧
        (∃ w, Finishes s t { pos := pos, kind := kUpdateChunk, status := st, tag := tag, detail := d, result := w })
      (u.actSlot = none → ends (.rollRefuse side f {}) .refusedState (reasonDetail false (fld f.param 12 4)) u.staged) ∧
      (s.hw.ring.head = some s.hw.nodeId → u.rollHash = hash → ends (.rollStaged side f) .done .none (ctlMask 0 f))) ∧
  ∀ (s : State) (pos : Nat) (tag : Word), AtRest s → s.hw.update.rollSlot = some (pos, tag) → s.hw.writesRecords →
    Answers .rollTimeout s fun t =>
      t.hw.update = { s.hw.update with role := .none, rollSlot := none } ∧
      (∃ w, Finishes s t { pos := pos, kind := kUpdateChunk, status := .failTimeout, tag := tag, detail := .rollTimeout
                           result := w }) ∧ OnlyChanges (reporting ++ resting ++ [Portion.update]) s t

/-- UPDATE_ACTIVATE passes R399 and R402 in their order: a node by itself is marked at once, PENDING where TARGET names
it, and a head sends ACTIVATE round; a member marks itself and sends it on, and the head's slot completes as it comes
home. AGREE gathers who is in TRIAL, failed or cannot read its settings, and the head's verdict is a PASS where every
targeted node is in TRIAL and a REVERT where one failed; a member that takes part does as the verdict says; the head
asks again 10 s after a verdict (R399, R401 to R403). Boot-record writes are shown where they verify. -/
def Obligations.ActivationsAreAgreed : Prop :=
  (∀ (s : State) (slot : Slot) (f : Fetched), Accepts s slot f kUpdateActivate → AtRest s →
    let r := bootRec s.mem s.hw
    let only (t : State) : Prop := OnlyChanges (reporting ++ resting ++ [Portion.slots, Portion.ring, Portion.update]) s t
    let refused (d : Detail) : Prop := Answers (.updateActivate slot {}) s fun t =>
      t.hw.update = s.hw.update ∧ Finishes s t (f.record .refusedState d ([0, 0] ++ maskWords 0)) ∧ only t
    let targeted : Bool := targetNames (manifestAt s.mem { s.hw with sent := [] } stagingBase) s.hw.nodeId
    (mayUpdate s.hw = false → refused .notHead) ∧
    (mayUpdate s.hw → s.hw.board.motion → refused .motion) ∧
    (updateFault true s.hw = none → r.state ≠ .staged → refused .notStaged) ∧
    (updateFault true s.hw = none → activateFault s.mem { s.hw with sent := [] } = none →
      (soleNode s.hw → Answers (.updateActivate slot {}) s fun t =>
        Records s t { r with
          state := if targeted then .pending else r.state, actOpen := true, targeted := targeted, agreed := false
          actHash := r.stagingHash } ∧
        t.hw.update.restart = (s.hw.update.restart || (bit (wordAt f.words 4) 0 && targeted)) ∧
        Completes t (f.record .done .none ([0, 0] ++ maskWords (setBit 0 s.hw.nodeId true))) ∧ only t) ∧
      (soleNode s.hw = false → Ready s .east → Answers (.updateActivate slot {}) s fun t =>
        t.hw.update = { s.hw.update with
          actSlot := some (f.pos, wordAt f.words 1, bit (wordAt f.words 4) 0), rollHash := r.stagingHash } ∧
        Sends t .east { rollCtl 5 0 0 r.stagingHash 0 0 0 with dst := s.hw.ring.east.node.getD 0 } ∧
        t.mem = s.mem ∧ only t))) ∧
  (∀ (s : State) (side : Side) (f : Frame), AtRest s → s.hw.up → Next s side f → Ready s .east →
    let r := bootRec s.mem s.hw
    let u := s.hw.update
    let hash := ctlHash f
    let a := ctlMask 0 f
    let b := ctlMask 1 f
    let c := ctlMask 2 f
    let own (n : Nat) (p : Bool) : Nat := if p then setBit n s.hw.nodeId true else n
    let only (t : State) : Prop :=
      OnlyChanges (reporting ++ resting ++ [Portion.ring, Portion.update, Portion.health]) s t
    let east (g : Frame) (t : State) : Prop := Sends t .east { g with dst := s.hw.ring.east.node.getD 0 }
    let targeted : Bool := r.state == .staged && r.stagingHash == hash &&
      targetNames (manifestAt s.mem { s.hw with sent := [] } stagingBase) s.hw.nodeId
    let marked : BootRec := { r with
      state := if targeted then .pending else r.state, actOpen := true, targeted := targeted, agreed := false
      actHash := hash }
    (s.hw.ring.head ≠ some s.hw.nodeId →
      (markReason hash s.mem { s.hw with sent := [] } = none → Answers (.rollActivate side f {}) s fun t =>
        Records s t marked ∧ east (rollCtl 5 0 0 hash (own a true) 0 0) t ∧ only t) ∧
      (Answers (.rollAgree side f {}) s fun t =>
        east (rollCtl 6 0 0 hash (own a (inTrial r hash)) (own b (failedFor r hash)) (own c r.setUnreadable)) t ∧
        t.hw.update = u ∧ t.mem = s.mem ∧ only t) ∧
      (fld f.param 12 4 = 0 → Answers (.rollVerdict side f {}) s fun t =>
        Records s t (if openFor r hash then { r with agreed := true } else r) ∧
        east (rollCtl 7 0 0 hash (own a (openFor r hash)) 0 0) t ∧ only t) ∧
      (fld f.param 12 4 = 1 → openFor r hash →
        (r.state = .pending → Answers (.rollVerdict side f {}) s fun t =>
          Records s t { r with state := .confirmed } ∧ t.hw.update = u ∧ only t) ∧
        (r.state = .trial → Answers (.rollVerdict side f {}) s fun t =>
          Records s t { r with state := .revertPending } ∧
          t.hw.update.restart = (u.restart || (inputFault s.hw s.hw.image.system.vbatMin).isNone) ∧ only t))) ∧
    (s.hw.ring.head = some s.hw.nodeId →
      (∀ pos tag restart, u.actSlot = some (pos, tag, restart) → s.hw.writesRecords →
        Answers (.rollActivate side f {}) s fun t =>
          t.hw.update.actSlot = none ∧ Records s t marked ∧
          Completes t { pos := pos, kind := kUpdateActivate, tag := tag, result := [0, 0] ++ maskWords (own a true) } ∧
          only t) ∧
      (r.actOpen → r.actHash = hash →
        let t := targetsOf s.mem { s.hw with sent := [] } hash
        (Nat.land b t ≠ 0 → Answers (.rollAgree side f {}) s fun t' =>
          t'.hw.update.verdictOpen = true ∧ Reports t' .eventUpdate .agreeFail ∧ only t') ∧
        (Nat.land b t = 0 → Nat.land t a = t → Answers (.rollAgree side f {}) s fun t' =>
          t'.hw.update.verdictOpen = true ∧ Reports t' .eventUpdate .agreePass ∧ only t')))) ∧
  ∀ s : State, AtRest s → s.hw.up →
    let r := bootRec s.mem s.hw
    let bits (p : Bool) : Nat := if p then setBit 0 s.hw.nodeId true else 0
    (s.hw.update.verdictOpen = false → Answers (.agreementTimer {}) s fun t =>
      t.hw.update = s.hw.update ∧ t.mem = s.mem ∧ OnlyChanges (reporting ++ resting) s t) ∧
    (s.hw.update.verdictOpen → r.actOpen → s.hw.ring.st = .formed → s.hw.standalone = false →
      s.hw.ring.head = some s.hw.nodeId → Ready s .east → Answers (.agreementTimer {}) s fun t =>
        t.hw.update.verdictOpen = false ∧ t.mem = s.mem ∧
        Sends t .east { rollCtl 6 0 0 r.actHash (bits (inTrial r r.actHash)) (bits (failedFor r r.actHash))
          (bits r.setUnreadable) with dst := s.hw.ring.east.node.getD 0 } ∧
        OnlyChanges (reporting ++ resting ++ [Portion.ring, Portion.update]) s t)

/-- UPDATE_CONFIRM on a head without an agreed activation is refused with NOT_AGREED; a node by itself is done at once,
and a head confirms itself and sends CONFIRM round. A node in TRIAL on the package is CONFIRMED as CONFIRM passes, and
CLOSE ends the activation for a node that takes part; both go on EAST, and the head's slot completes as CONFIRM comes
home (R401, R404). -/
def Obligations.ConfirmationsEndActivations : Prop :=
  (∀ (s : State) (slot : Slot) (f : Fetched), Accepts s slot f kUpdateConfirm → AtRest s →
    let r := bootRec s.mem s.hw
    let only (t : State) : Prop := OnlyChanges (reporting ++ resting ++ [Portion.slots, Portion.ring, Portion.update]) s t
    let refused (d : Detail) : Prop := Answers (.updateConfirm slot {}) s fun t =>
      t.hw.update = s.hw.update ∧ Finishes s t (f.record .refusedState d ([0, 0] ++ maskWords 0)) ∧ only t
    let confirmed : BootRec := { r with
      state := .confirmed, actOpen := false, agreed := false, unconf := 0, setKeepEn := false, actHash := noHash }
    (mayUpdate s.hw = false → refused .notHead) ∧
    (mayUpdate s.hw → r.actOpen = false ∨ r.agreed = false → refused .notAgreed) ∧
    (mayUpdate s.hw → r.actOpen → r.agreed → inTrial r r.actHash →
      (soleNode s.hw → Answers (.updateConfirm slot {}) s fun t =>
        Completes t (f.record .done .none ([0, 0] ++ maskWords (setBit 0 s.hw.nodeId true)))) ∧
      (soleNode s.hw = false → Ready s .east → Answers (.updateConfirm slot {}) s fun t =>
        Records s t confirmed ∧ t.hw.update.confSlot = some (f.pos, wordAt f.words 1) ∧
        Sends t .east { rollCtl 8 0 0 r.actHash (setBit 0 s.hw.nodeId true) 0 0 with
          dst := s.hw.ring.east.node.getD 0 } ∧ only t))) ∧
  ∀ (s : State) (side : Side) (f : Frame), AtRest s → s.hw.up → Next s side f → Ready s .east →
    let r := bootRec s.mem s.hw
    let hash := ctlHash f
    let a := ctlMask 0 f
    let only (t : State) : Prop :=
      OnlyChanges (reporting ++ resting ++ [Portion.ring, Portion.update, Portion.health]) s t
    let east (g : Frame) (t : State) : Prop := Sends t .east { g with dst := s.hw.ring.east.node.getD 0 }
    let own (p : Bool) : Nat := if p then setBit a s.hw.nodeId true else a
    (s.hw.ring.head ≠ some s.hw.nodeId →
      (Answers (.rollConfirm side f {}) s fun t =>
        Records s t (if inTrial r hash then { r with
          state := .confirmed, actOpen := false, agreed := false, unconf := 0, setKeepEn := false, actHash := noHash }
          else r) ∧
        east (rollCtl 8 0 0 hash (own (inTrial r hash)) 0 0) t ∧ only t) ∧
      (Answers (.rollClose side f {}) s fun t =>
        Records s t (if openFor r hash then { r with actOpen := false, actHash := noHash } else r) ∧
        east (rollCtl 9 0 0 hash (own (openFor r hash)) 0 0) t ∧ only t)) ∧
    ∀ pos tag, s.hw.ring.head = some s.hw.nodeId → s.hw.update.confSlot = some (pos, tag) → s.hw.writesRecords →
      Answers (.rollConfirm side f {}) s fun t => t.hw.update.confSlot = none ∧ only t ∧
        Completes t { pos := pos, kind := kUpdateConfirm, tag := tag, result := [0, 0] ++ maskWords a }

/-- The loss of VDD_AON leaves the device off with device time, latches and every memory but the flash and the host's
lost; its power-on starts with the state of R368, and holds a RESET_N that is high already. RESET_N low, and a rail
below its reset level, take every domain but AON down and keep device time, the alarm, the WAKE_FAIL latch, the trims
and the STUCK marks; in OFF such a rail only stands in a boot's way; a voltage that is no such fall changes nothing
(R20, R364, R368, R386, R441, R459). -/
def Obligations.ResetsTakeTheDomainsDown : Prop :=
  ∀ s : State, Settled s →
    let lost (t : State) : Prop :=
      t.hw.power.dev = .off ∧ t.hw.power.ctrlOn = false ∧ t.hw.power.memOn = false ∧ t.hw.drum.senseOn = false ∧
      t.hw.sched.graphs = [] ∧ t.hw.ring.st = .down ∧ t.hw.sq.owned = [] ∧ t.hw.streams = [] ∧ t.hw.sent = []
    let wiped (t : State) : Prop := (∀ a, byteAt t .dram a = some 0) ∧ (∀ a, byteAt t .window a = some 0) ∧
      (∀ a, byteAt t .coreStore a = some 0) ∧ (∀ a, byteAt t .flash a = byteAt s .flash a) ∧
      ∀ a, byteAt t .host a = byteAt s .host a
    let kept (t : State) : Prop := t.hw.power.time = s.hw.power.time ∧ t.hw.power.alarm = s.hw.power.alarm ∧
      t.hw.power.wakeFail = s.hw.power.wakeFail ∧ t.hw.cal.trims = s.hw.cal.trims ∧ t.hw.cal.stuck = s.hw.cal.stuck
    (s.hw.board.aonOn → Answers .vddAonLoss s fun t => lost t ∧ wiped t ∧ t.hw.board.aonOn = false ∧
      t.hw.power.time = 0 ∧ t.hw.power.alarm = none ∧ t.hw.power.wakeFail = none ∧ t.hw.cal = {} ∧ t.hw.health = {}) ∧
    (s.hw.board.aonOn = false → Answers .aonPowerOn s fun t => lost t ∧ t.mem = s.mem ∧ t.hw.board.aonOn = true ∧
      t.hw.board.resetHeld = s.hw.board.resetN ∧ t.hw.power.time = 0 ∧ t.hw.power.alarm = none ∧
      t.hw.power.wakeFail = none ∧ t.hw.cal = {} ∧ t.hw.health = {} ∧ t.hw.board.strapsLatched = false) ∧
    (s.hw.board.resetN → s.hw.board.aonOn → Answers .resetNFall s fun t => lost t ∧ wiped t ∧ kept t ∧
      t.hw.board = { s.hw.board with resetN := false, resetHeld := false } ∧ faultPin t.hw = .hiZ) ∧
    ∀ rail mv, rail ≠ .aon → s.hw.board.aonOn →
      (mayReset rail mv →
        (s.hw.power.dev ≠ .off ∨ s.hw.power.ctrlOn → Answers (.supplyReset rail mv) s fun t => lost t ∧ wiped t ∧ kept t ∧
          t.hw.board = { s.hw.board with railLow := some rail } ∧ t.hw.health.resetRail = some rail) ∧
        (s.hw.power.dev = .off → s.hw.power.ctrlOn = false → NothingHeld s → Answers (.supplyReset rail mv) s fun t =>
          t.hw.board = { s.hw.board with railLow := some rail } ∧ t.hw.power = s.hw.power ∧ t.mem = s.mem ∧
          OnlyChanges (reporting ++ [Portion.board]) s t)) ∧
      (mayReset rail mv = false → NothingHeld s → Answers (.supplyReset rail mv) s (OnlyChanges reporting s))

/-- A full boot follows a rise of RESET_N, which samples the straps, the end of a held reset, the return of the rails
after a supply reset and an activation's restart, which keep the latched levels. A latched WAKE_FAIL at an edge of
RESET_N (before the straps: the model's choice, log 146), a strap that is invalid, unstable or in conflict, BOOT_SEL at
recovery and an AVSBus that does not answer lead to RECOVERY in that order, with their cause; BOOT_SEL at ring starts a
ring boot; otherwise the image in ACTIVE is in force with quotas at their INIT and an empty scheduler, or RECOVERY
follows with IMAGE_INVALID. Shown where the boot record of the flash asks for nothing; a rail below its level holds the
reset, and its return while RESET_N is low starts nothing (R16, R18, R26, R355, R363, R364, R368, R380, R386, R402,
R441). -/
def Obligations.FullBootsStartOrRecover : Prop :=
  ∀ (s : State) (env : BootEnv), Settled s → s.hw.board.aonOn → env.flashOk →
    let pins := (fitTo 7 {} env.straps).map pinLevel
    let levels := pins.map fun p => p.getD 0
    let boots (c : Instr) (edge sample : Bool) (last : Nat → Prop) (b : Board) : Prop :=
      let straps := if sample then strapsOf levels else s.hw.board.straps
      let b' : Board := { b with
        straps := straps, unstable := if sample then 0 else b.unstable, strapsLatched := true, resetHeld := false
        railLow := none }
      let h := { s.hw with sent := [], board := b' }
      let bad := strapCause b'
      let early : Option Cause :=
        if edge ∧ s.hw.power.wakeFail.isSome then some .wakeFail
        else if bad.isSome then bad
        else if straps.bootSel = 15 then some .bootSel
        else if bootAcked env.avs = false then some .avsFail
        else none
      let recovers (k : Cause) (t : State) : Prop :=
        t.hw.power.dev = .recovery ∧ t.hw.power.cause = some k ∧ t.hw.power.ctrlOn = false ∧ t.hw.board = b' ∧
        t.hw.health.lastRecovery = k.code ∧ last t.hw.health.lastBoot ∧ t.hw.rvy.opening = true ∧
        bitOf t.hw.health.causes causeRecovery = decide (k ≠ .bootSel) ∧ ∀ a, byteAt t .flash a = byteAt s .flash a
      (sample → (∃ p ∈ pins, p = none) → s.hw.power.wakeFail = none → Answers c s fun t =>
        t.hw.power.dev = .recovery ∧ (t.hw.power.cause = some .strapUnstable ∨ t.hw.power.cause = some .strapInvalid)) ∧
      ((sample → ∀ p ∈ pins, p.isSome) →
      (∀ k, early = some k → Answers c s (recovers k)) ∧
      (early = none → straps.bootSel = 7 → Answers c s fun t =>
        t.hw.power.ctrlOn = true ∧ t.hw.ring.bootBytes = some [] ∧ t.hw.ring.west.st = .training ∧
        last t.hw.health.lastBoot ∧ t.hw.board = b') ∧
      ∀ r inB, early = none → straps.bootSel ≠ 7 → rulingRecord s.mem h = some (r, inB) →
        r.state = .confirmed ∨ r.state = .staged → r.stagingOld = false →
        (slotImage s.mem h activeBase = none → Answers c s (recovers .imageInvalid)) ∧
        ∀ img, slotImage s.mem h activeBase = some img → straps.ringRole ≠ 15 → Answers c s fun t =>
          t.hw.image = imageOf h img ∧ t.hw.power.dev = .idle ∧ t.hw.power.ctrlOn = true ∧ t.hw.power.memOn = true ∧
          t.hw.power.rail = 0 ∧ t.hw.power.time = s.hw.power.time ∧ t.hw.power.alarm = s.hw.power.alarm ∧
          t.hw.sched.graphs = [] ∧ t.hw.sched.quotas = (quotasCfg t.hw).init ∧ t.hw.sq.owned = [] ∧
          last t.hw.health.lastBoot ∧ t.hw.health.bootTime = s.hw.power.time ∧ t.hw.board = b' ∧
          ∀ a, byteAt t .dram a = some 0)
    (s.hw.board.resetN = false → s.hw.board.railLow = none →
      boots (.resetNRise env) true true (· = b2n s.hw.board.strapsLatched) { s.hw.board with resetN := true }) ∧
    (s.hw.board.resetN = false → s.hw.board.railLow.isSome → AtRest s → Answers (.resetNRise env) s fun t =>
      t.hw.board = { s.hw.board with resetN := true, resetHeld := true } ∧ t.hw.power.dev = s.hw.power.dev) ∧
    (s.hw.board.resetHeld → s.hw.board.resetN → boots (.resetHoldEnd env) true true (· = 2) s.hw.board) ∧
    (s.hw.board.railLow.isSome → s.hw.board.resetHeld = false → s.hw.board.resetN → s.hw.power.slot = none →
      s.hw.board.strapsLatched → boots (.supplyResetReboot env) false false (· = 2) s.hw.board) ∧
    (s.hw.board.railLow.isSome → s.hw.board.resetHeld = false → s.hw.board.resetN = false → AtRest s →
      Answers (.supplyResetReboot env) s fun t =>
        t.hw.board = { s.hw.board with railLow := none } ∧ t.hw.power.dev = s.hw.power.dev) ∧
    (s.hw.up → s.hw.update.restart → s.hw.board.strapsLatched → s.hw.board.resetHeld = false →
      boots (.activationRestart env) false false (· < 16) s.hw.board)

/-- The PCIe link comes up where a host is strapped, PERST_N is high and CTRL serves, with the configuration that a
SLEEP kept or the one the host gives it, and then the held records are written; it falls, and PERST_N resets the port
and its configuration, kept or in use, without any other effect on a node without a MOVE to the host (R365, R366, R465).
-/
def Obligations.ThePcieLinkComesAndGoes : Prop :=
  ∀ (s : State) (cfg : PcieCfg), NoWork { s with hw := { s.hw with sq := { s.hw.sq with heldRecords := [] } } } →
    s.hw.sq.queue.length ≤ 32 →
    (pcieMayTrain s.hw → s.hw.sq.linkUp = false → s.hw.sq.heldRecords = [] → Answers (.pcieLinkUp cfg) s fun t =>
      t.hw.sq.linkUp = true ∧ (s.hw.sq.cfgKept.isSome → t.hw.sq.cfg = s.hw.sq.cfg) ∧
      (s.hw.sq.cfgKept = none → t.hw.sq.cfg = cfg) ∧ t.hw.sq.cfgKept = none ∧ t.mem = s.mem ∧
      OnlyChanges (reporting ++ resting ++ [Portion.slots]) s t) ∧
    (∀ r, pcieMayTrain s.hw → s.hw.sq.linkUp = false → s.hw.sq.heldRecords = [r] → s.hw.image.system.sqInDram = false →
      Answers (.pcieLinkUp cfg) s fun t => t.hw.sq.linkUp = true ∧ t.hw.sq.heldRecords = [] ∧ Completes t r ∧
        OnlyChanges (reporting ++ resting ++ [Portion.slots]) s t) ∧
    (pcieMayTrain s.hw = false → Answers (.pcieLinkUp cfg) s fun t =>
      t.hw.sq.linkUp = s.hw.sq.linkUp ∧ t.hw.sq.cfg = s.hw.sq.cfg) ∧
    (s.hw.sq.heldRecords = [] →
      (Answers .pcieLinkDown s fun t =>
        t.hw.sq.linkUp = false ∧ t.mem = s.mem ∧ OnlyChanges (reporting ++ resting ++ [Portion.slots]) s t) ∧
      Answers .perstNAssert s fun t =>
        t.hw.board = { s.hw.board with perstN := false } ∧ t.hw.sq.linkUp = false ∧ t.hw.sq.cfg = {} ∧ t.hw.sq.cfgKept = none ∧
        t.mem = s.mem ∧ OnlyChanges (reporting ++ resting ++ [Portion.slots, Portion.board]) s t)

/-- R380. The power-on of VDD_AON clears the WAKE_FAIL latch and leads to no boot. A rising edge of RESET_N with the
latch set enters RECOVERY with cause WAKE_FAIL and clears the latch with its bit of FAULT_N; RESET_N low leaves it
clear, and with the latch clear no boot has that cause, whatever the straps and the AVSBus say. -/
def Obligations.TheWakeFailLatchClears : Prop :=
  ∀ s : State, Settled s →
    (s.hw.board.aonOn = false → Answers .aonPowerOn s fun t =>
      t.hw.power.wakeFail = none ∧ t.hw.power.dev = .off ∧ t.hw.power.ctrlOn = false) ∧
    (∀ env, s.hw.board.aonOn → s.hw.board.resetN = false → s.hw.board.railLow = none → s.hw.power.wakeFail.isSome →
      Answers (.resetNRise env) s fun t =>
        t.hw.power.dev = .recovery ∧ t.hw.power.cause = some .wakeFail ∧ t.hw.power.wakeFail = none ∧
        bitOf t.hw.health.causes causeWakeFail = false) ∧
    (s.hw.board.aonOn → s.hw.board.resetN → s.hw.power.wakeFail = none → Answers .resetNFall s fun t =>
      t.hw.power.wakeFail = none) ∧
    ∀ b ok, s.hw.power.wakeFail = none → earlyCause true (strapCause b) ok s.hw ≠ some .wakeFail
end

