-- ==== Sys2Proof/Laws/Exec.lean ====
section
/-! SUPPORT. What a command can do, said once: it runs an effect to its end, or it is quiet: it leaves the outboxes and the event queue alone. -/

namespace Sys2Proof.Laws.Exec

open Sys2Proof Sys2Proof.Machine

/-! ## Quiet commands -/

/-- What a quiet command leaves alone: the outboxes and the event queue. -/
def box (h : Hw) := (h.writes, h.wipe, h.raised, h.records, h.sq.queue)

theorem box_pass (n : Nat) (h : Hw) : box (Machine.pass n h) = box h := by simp only [Machine.pass]; split <;> rfl

theorem box_setPort (s : Side) (f : Port → Port) (h : Hw) : box (setPort s f h) = box h := by cases s <;> rfl

theorem box_linkFrame (s : Side) (t p : Nat) (h : Hw) : box (linkFrame s t p h) = box h := by simp only [linkFrame]; split <;> rfl

theorem box_stompCopy (s : Side) (f : Frame) (h : Hw) : box (stompCopy s f h) = box h := by
  simp only [stompCopy]
  split <;> rfl

theorem box_foldl {α : Type} (f : Hw → α → Hw) (hf : ∀ h x, box (f h x) = box h) (xs : List α) (h : Hw) :
    box (xs.foldl f h) = box h := by
  induction xs generalizing h with
  | nil => rfl
  | cons x xs ih => rw [List.foldl_cons, ih, hf]

theorem box_sendAck (s : Side) (h : Hw) : box (sendAck s h) = box h := by
  simp only [sendAck]
  rw [box_setPort]
  split
  · exact box_linkFrame _ _ _ _
  · exact box_foldl _ (fun h v => box_linkFrame _ _ _ h) _ _

theorem box_transmit (s : Side) (b : Bool) (f : Frame) (h : Hw) : box (transmit s b f h) = box h := by
  simp only [transmit, oweCredit]
  split
  · rw [box_setPort]; exact box_setPort s _ h
  · exact box_setPort s _ h

theorem box_pump (n : Nat) (s : Side) (h : Hw) : box (pumpHeld n s h) = box h := by
  induction n generalizing h with
  | zero => rfl
  | succ n ih =>
    simp only [pumpHeld]
    split
    · rw [ih, box_transmit, box_setPort]
    · rfl

theorem box_receive (s : Side) (f : Frame) (act : Hw → Hw) (h : Hw) (ha : ∀ h, box (act h) = box h) : box (receive s f act h) = box h := by
  simp only [receive]
  repeat' split
  · rw [box_sendAck, ha, box_setPort]
  · rw [ha, box_setPort]
  · rfl

theorem box_countCrc (s : Side) (h : Hw) : box (countCrc s h) = box h := by
  cases s
  all_goals
    simp only [countCrc]
    split <;> rfl

/-! ## Every command -/

/-- Every command is an effect run to its end, or it is quiet. -/
theorem exec_shape (c : Instr) (s : State) :
    (∃ f, exec c s = run f s) ∨ ∃ h, exec c s = .next { s with hw := h } ∧ box h = box s.hw := by
  cases c
  case aonPowerOn =>
    refine .inl ?_
    change ∃ f, execAonPowerOn s = run f s
    unfold execAonPowerOn
    exact ⟨_, rfl⟩
  case vddAonLoss =>
    refine .inl ?_
    change ∃ f, execVddAonLoss s = run f s
    unfold execVddAonLoss
    exact ⟨_, rfl⟩
  case resetNRise env =>
    refine .inl ?_
    change ∃ f, execResetNRise env s = run f s
    unfold execResetNRise runSched
    exact ⟨_, rfl⟩
  case resetHoldEnd env =>
    refine .inl ?_
    change ∃ f, execResetHoldEnd env s = run f s
    unfold execResetHoldEnd runSched
    exact ⟨_, rfl⟩
  case resetNFall =>
    refine .inl ?_
    change ∃ f, execResetNFall s = run f s
    unfold execResetNFall
    exact ⟨_, rfl⟩
  case supplyReset rail mv =>
    refine .inl ?_
    change ∃ f, execSupplyReset rail mv s = run f s
    unfold execSupplyReset
    exact ⟨_, rfl⟩
  case supplyResetReboot env =>
    refine .inl ?_
    change ∃ f, execSupplyResetReboot env s = run f s
    unfold execSupplyResetReboot runSched
    exact ⟨_, rfl⟩
  case supplyDip rail mv =>
    refine .inl ?_
    change ∃ f, execSupplyDip rail mv s = run f s
    unfold execSupplyDip runSched
    exact ⟨_, rfl⟩
  case dipEnd =>
    refine .inl ?_
    change ∃ f, execDipEnd s = run f s
    unfold execDipEnd runSched
    exact ⟨_, rfl⟩
  case perstNAssert =>
    refine .inl ?_
    change ∃ f, execPerstNAssert s = run f s
    unfold execPerstNAssert runSched
    exact ⟨_, rfl⟩
  case perstNRise => exact .inr ⟨_, rfl, rfl⟩
  case motionChange level =>
    refine .inr ⟨_, rfl, ?_⟩
    dsimp only
    repeat' split
    all_goals rfl
  case updLockChange level =>
    refine .inr ⟨_, rfl, ?_⟩
    dsimp only
    repeat' split
    all_goals rfl
  case vwakeAccept env =>
    refine .inl ?_
    change ∃ f, execVwakeAccept env s = run f s
    unfold execVwakeAccept runSched
    exact ⟨_, rfl⟩
  case vbatSenseConversion code =>
    refine .inr ⟨_, rfl, ?_⟩
    dsimp only
    repeat' split
    all_goals rfl
  case vsenseHvLoss =>
    refine .inl ?_
    change ∃ f, execVsenseHvLoss s = run f s
    unfold execVsenseHvLoss
    exact ⟨_, rfl⟩
  case vsenseHvLow mv =>
    refine .inl ?_
    change ∃ f, execVsenseHvLow mv s = run f s
    unfold execVsenseHvLow
    exact ⟨_, rfl⟩
  case vsenseHvRestored mv =>
    refine .inl ?_
    change ∃ f, execVsenseHvRestored mv s = run f s
    unfold execVsenseHvRestored
    exact ⟨_, rfl⟩
  case doorbellWrite fn value =>
    refine .inl ?_
    change ∃ f, execDoorbellWrite fn value s = run f s
    unfold execDoorbellWrite
    exact ⟨_, rfl⟩
  case bar0IgnoredWrite => exact .inr ⟨_, rfl, rfl⟩
  case slotUnknownKind slot =>
    refine .inl ?_
    change ∃ f, execSlotUnknownKind slot s = run f s
    unfold execSlotUnknownKind
    exact ⟨_, rfl⟩
  case graph slot =>
    refine .inl ?_
    change ∃ f, execGraph slot s = run f s
    unfold execGraph runSched
    exact ⟨_, rfl⟩
  case graphCheck fixed =>
    refine .inl ?_
    change ∃ f, execGraphCheck fixed s = run f s
    unfold execGraphCheck runSched
    exact ⟨_, rfl⟩
  case budget slot =>
    refine .inl ?_
    change ∃ f, execBudget slot s = run f s
    unfold execBudget runSched
    exact ⟨_, rfl⟩
  case powerSetPlevel slot =>
    refine .inl ?_
    change ∃ f, execPowerSetPlevel slot s = run f s
    unfold execPowerSetPlevel runPower runSched
    exact ⟨_, rfl⟩
  case powerSleep slot wakeNLow =>
    refine .inl ?_
    change ∃ f, execPowerSleep slot wakeNLow s = run f s
    unfold execPowerSleep runPower runSched
    exact ⟨_, rfl⟩
  case powerDeep slot wakeNLow =>
    refine .inl ?_
    change ∃ f, execPowerDeep slot wakeNLow s = run f s
    unfold execPowerDeep runPower runSched
    exact ⟨_, rfl⟩
  case powerOff slot wakeNLow =>
    refine .inl ?_
    change ∃ f, execPowerOff slot wakeNLow s = run f s
    unfold execPowerOff runPower runSched
    exact ⟨_, rfl⟩
  case powerSenseOff slot =>
    refine .inl ?_
    change ∃ f, execPowerSenseOff slot s = run f s
    unfold execPowerSenseOff runPower runSched
    exact ⟨_, rfl⟩
  case powerSenseOn slot =>
    refine .inl ?_
    change ∃ f, execPowerSenseOn slot s = run f s
    unfold execPowerSenseOn runPower runSched
    exact ⟨_, rfl⟩
  case domainDrainEnd =>
    refine .inl ?_
    change ∃ f, execDomainDrainEnd s = run f s
    unfold execDomainDrainEnd runSched
    exact ⟨_, rfl⟩
  case entryComplete env =>
    refine .inl ?_
    change ∃ f, execEntryComplete env s = run f s
    unfold execEntryComplete runSched
    exact ⟨_, rfl⟩
  case updateChunkData slot hostData env =>
    refine .inl ?_
    change ∃ f, execUpdateChunkData slot hostData env s = run f s
    unfold execUpdateChunkData runChunk runSched
    exact ⟨_, rfl⟩
  case updateChunkRoll slot =>
    refine .inl ?_
    change ∃ f, execUpdateChunkRoll slot s = run f s
    unfold execUpdateChunkRoll runChunk runSched
    exact ⟨_, rfl⟩
  case updateChunkDiscard slot env =>
    refine .inl ?_
    change ∃ f, execUpdateChunkDiscard slot env s = run f s
    unfold execUpdateChunkDiscard runChunk runSched
    exact ⟨_, rfl⟩
  case updateActivate slot env =>
    refine .inl ?_
    change ∃ f, execUpdateActivate slot env s = run f s
    unfold execUpdateActivate runSched
    exact ⟨_, rfl⟩
  case updateConfirm slot env =>
    refine .inl ?_
    change ∃ f, execUpdateConfirm slot env s = run f s
    unfold execUpdateConfirm runSched
    exact ⟨_, rfl⟩
  case eventPost slot =>
    refine .inl ?_
    change ∃ f, execEventPost slot s = run f s
    unfold execEventPost
    exact ⟨_, rfl⟩
  case calibrate slot =>
    refine .inl ?_
    change ∃ f, execCalibrate slot s = run f s
    unfold execCalibrate
    exact ⟨_, rfl⟩
  case streamOpen slot =>
    refine .inl ?_
    change ∃ f, execStreamOpen slot s = run f s
    unfold execStreamOpen runStream runSched
    exact ⟨_, rfl⟩
  case streamClose slot =>
    refine .inl ?_
    change ∃ f, execStreamClose slot s = run f s
    unfold execStreamClose runStream runSched
    exact ⟨_, rfl⟩
  case streamReset slot =>
    refine .inl ?_
    change ∃ f, execStreamReset slot s = run f s
    unfold execStreamReset runStream runSched
    exact ⟨_, rfl⟩
  case streamSwapOut slot =>
    refine .inl ?_
    change ∃ f, execStreamSwapOut slot s = run f s
    unfold execStreamSwapOut runStream runSched
    exact ⟨_, rfl⟩
  case streamSwapIn slot =>
    refine .inl ?_
    change ∃ f, execStreamSwapIn slot s = run f s
    unfold execStreamSwapIn runStream runSched
    exact ⟨_, rfl⟩
  case streamQuery slot =>
    refine .inl ?_
    change ∃ f, execStreamQuery slot s = run f s
    unfold execStreamQuery runStream runSched
    exact ⟨_, rfl⟩
  case healthReadPage slot =>
    refine .inl ?_
    change ∃ f, execHealthReadPage slot s = run f s
    unfold execHealthReadPage runHealth runSched
    exact ⟨_, rfl⟩
  case healthReadLog slot =>
    refine .inl ?_
    change ∃ f, execHealthReadLog slot s = run f s
    unfold execHealthReadLog runHealth runSched
    exact ⟨_, rfl⟩
  case healthReadAck slot =>
    refine .inl ?_
    change ∃ f, execHealthReadAck slot s = run f s
    unfold execHealthReadAck runHealth runSched
    exact ⟨_, rfl⟩
  case syncSync slot =>
    refine .inl ?_
    change ∃ f, execSyncSync slot s = run f s
    unfold execSyncSync
    exact ⟨_, rfl⟩
  case syncStart slot =>
    refine .inl ?_
    change ∃ f, execSyncStart slot s = run f s
    unfold execSyncStart
    exact ⟨_, rfl⟩
  case syncStop slot =>
    refine .inl ?_
    change ∃ f, execSyncStop slot s = run f s
    unfold execSyncStop
    exact ⟨_, rfl⟩
  case syncSelect slot =>
    refine .inl ?_
    change ∃ f, execSyncSelect slot s = run f s
    unfold execSyncSelect
    exact ⟨_, rfl⟩
  case timeRead slot =>
    refine .inl ?_
    change ∃ f, execTimeRead slot s = run f s
    unfold execTimeRead runTime runSched
    exact ⟨_, rfl⟩
  case timeSet slot =>
    refine .inl ?_
    change ∃ f, execTimeSet slot s = run f s
    unfold execTimeSet runTime runSched
    exact ⟨_, rfl⟩
  case timeStep slot =>
    refine .inl ?_
    change ∃ f, execTimeStep slot s = run f s
    unfold execTimeStep runTime runSched
    exact ⟨_, rfl⟩
  case timeAlarmSet slot =>
    refine .inl ?_
    change ∃ f, execTimeAlarmSet slot s = run f s
    unfold execTimeAlarmSet runTime runSched
    exact ⟨_, rfl⟩
  case timeAlarmClear slot =>
    refine .inl ?_
    change ∃ f, execTimeAlarmClear slot s = run f s
    unfold execTimeAlarmClear runTime runSched
    exact ⟨_, rfl⟩
  case timeBeatTimeout =>
    refine .inl ?_
    change ∃ f, execTimeBeatTimeout s = run f s
    unfold execTimeBeatTimeout runSched
    exact ⟨_, rfl⟩
  case beatBoundary samples barrierOk =>
    refine .inl ?_
    change ∃ f, execBeatBoundary samples barrierOk s = run f s
    unfold execBeatBoundary
    exact ⟨_, rfl⟩
  case timeCopyCheck diff =>
    refine .inl ?_
    change ∃ f, execTimeCopyCheck diff s = run f s
    unfold execTimeCopyCheck
    exact ⟨_, rfl⟩
  case channelSettled channel =>
    refine .inr ⟨_, rfl, ?_⟩
    dsimp only
    repeat' split
    all_goals first
      | rfl
      | exact box_pass _ _
  case halfbandSample chain bits =>
    refine .inr ⟨_, rfl, ?_⟩
    dsimp only
    split
    · exact box_pass _ _
    · rfl
  case spikeQuietReturn chain =>
    refine .inr ⟨_, rfl, ?_⟩
    dsimp only
    repeat' split
    all_goals rfl
  case rawFilterSample chain =>
    refine .inl ?_
    change ∃ f, execRawFilterSample chain s = run f s
    unfold execRawFilterSample
    exact ⟨_, rfl⟩
  case fadeEnd chain =>
    refine .inr ⟨_, rfl, ?_⟩
    dsimp only
    repeat' split
    all_goals rfl
  case muffleEnd chain =>
    refine .inr ⟨_, rfl, ?_⟩
    dsimp only
    repeat' split
    all_goals rfl
  case thresholdRise chain =>
    refine .inl ?_
    change ∃ f, execThresholdRise chain s = run f s
    unfold execThresholdRise
    exact ⟨_, rfl⟩
  case thresholdFall chain =>
    refine .inl ?_
    change ∃ f, execThresholdFall chain s = run f s
    unfold execThresholdFall
    exact ⟨_, rfl⟩
  case rawBlockClose chain barrierOk =>
    refine .inl ?_
    change ∃ f, execRawBlockClose chain barrierOk s = run f s
    unfold execRawBlockClose
    exact ⟨_, rfl⟩
  case chainReset chain =>
    refine .inl ?_
    change ∃ f, execChainReset chain s = run f s
    unfold execChainReset
    exact ⟨_, rfl⟩
  case beatEdge =>
    refine .inl ?_
    change ∃ f, execBeatEdge s = run f s
    unfold execBeatEdge runSched
    exact ⟨_, rfl⟩
  case measurementBeat sample =>
    refine .inl ?_
    change ∃ f, execMeasurementBeat sample s = run f s
    unfold execMeasurementBeat
    exact ⟨_, rfl⟩
  case channelStuck =>
    refine .inl ?_
    change ∃ f, execChannelStuck s = run f s
    unfold execChannelStuck
    exact ⟨_, rfl⟩
  case calPhaseSettled =>
    refine .inr ⟨_, rfl, ?_⟩
    simp only [phaseSettledEffect]
    repeat' split
    all_goals first
      | rfl
      | exact box_pass _ _
  case calTakeover =>
    refine .inr ⟨_, rfl, ?_⟩
    simp only [takeoverEffect]
    repeat' split
    all_goals rfl
  case calHandback =>
    refine .inl ?_
    change ∃ f, execCalHandback s = run f s
    unfold execCalHandback
    exact ⟨_, rfl⟩
  case calTimeout =>
    refine .inl ?_
    change ∃ f, execCalTimeout s = run f s
    unfold execCalTimeout
    exact ⟨_, rfl⟩
  case calRevertEnd =>
    refine .inl ?_
    change ∃ f, execCalRevertEnd s = run f s
    unfold execCalRevertEnd
    exact ⟨_, rfl⟩
  case calStore verify1 verify2 cut =>
    refine .inl ?_
    change ∃ f, execCalStore verify1 verify2 cut s = run f s
    unfold execCalStore
    exact ⟨_, rfl⟩
  case bellScores eccBad env =>
    refine .inl ?_
    change ∃ f, execBellScores eccBad env s = run f s
    unfold execBellScores runSched
    exact ⟨_, rfl⟩
  case verdictTimeout =>
    refine .inl ?_
    change ∃ f, execVerdictTimeout s = run f s
    unfold execVerdictTimeout runSched
    exact ⟨_, rfl⟩
  case rwakeInAccept env =>
    refine .inl ?_
    change ∃ f, execRwakeInAccept env s = run f s
    unfold execRwakeInAccept runSched
    exact ⟨_, rfl⟩
  case rwakeOutPulseEnd => exact .inr ⟨_, rfl, rfl⟩
  case rwakeQuietEnd => exact .inr ⟨_, rfl, rfl⟩
  case wakeNAccept env =>
    refine .inl ?_
    change ∃ f, execWakeNAccept env s = run f s
    unfold execWakeNAccept runSched
    exact ⟨_, rfl⟩
  case rtcAlarm env =>
    refine .inl ?_
    change ∃ f, execRtcAlarm env s = run f s
    unfold execRtcAlarm runSched
    exact ⟨_, rfl⟩
  case wakeFail source why =>
    refine .inl ?_
    change ∃ f, execWakeFail source why s = run f s
    unfold execWakeFail
    exact ⟨_, rfl⟩
  case idleEntry =>
    refine .inr ⟨_, rfl, ?_⟩
    dsimp only
    repeat' split
    all_goals rfl
  case islandGate core =>
    refine .inl ?_
    change ∃ f, execIslandGate core s = run f s
    unfold execIslandGate runSched
    exact ⟨_, rfl⟩
  case railChangeComplete reply =>
    refine .inl ?_
    change ∃ f, execRailChangeComplete reply s = run f s
    unfold execRailChangeComplete runSched
    exact ⟨_, rfl⟩
  case accountSlot temps =>
    refine .inl ?_
    change ∃ f, execAccountSlot temps s = run f s
    unfold execAccountSlot runSched
    exact ⟨_, rfl⟩
  case thermalClockEnd =>
    refine .inl ?_
    change ∃ f, execThermalClockEnd s = run f s
    unfold execThermalClockEnd runSched
    exact ⟨_, rfl⟩
  case thermalTripEnd =>
    refine .inl ?_
    change ∃ f, execThermalTripEnd s = run f s
    unfold execThermalTripEnd runSched
    exact ⟨_, rfl⟩
  case escalationWindow cycles =>
    refine .inl ?_
    change ∃ f, execEscalationWindow cycles s = run f s
    unfold execEscalationWindow runSched
    exact ⟨_, rfl⟩
  case pieceComplete ref env =>
    refine .inl ?_
    change ∃ f, execPieceComplete ref env s = run f s
    unfold execPieceComplete runSched
    exact ⟨_, rfl⟩
  case bellCommitStored ref verified fixed =>
    refine .inl ?_
    change ∃ f, execBellCommitStored ref verified fixed s = run f s
    unfold execBellCommitStored runSched
    exact ⟨_, rfl⟩
  case waitComplete ref =>
    refine .inl ?_
    change ∃ f, execWaitComplete ref s = run f s
    unfold execWaitComplete runSched
    exact ⟨_, rfl⟩
  case waitTimeout ref =>
    refine .inl ?_
    change ∃ f, execWaitTimeout ref s = run f s
    unfold execWaitTimeout runSched
    exact ⟨_, rfl⟩
  case genWaitTimeout ref =>
    refine .inl ?_
    change ∃ f, execGenWaitTimeout ref s = run f s
    unfold execGenWaitTimeout runSched
    exact ⟨_, rfl⟩
  case streamCopyComplete stream bad fixed =>
    refine .inl ?_
    change ∃ f, execStreamCopyComplete stream bad fixed s = run f s
    unfold execStreamCopyComplete runSched
    exact ⟨_, rfl⟩
  case shadowReplay core repeated =>
    refine .inr ⟨_, rfl, ?_⟩
    simp only [replayEffect]
    repeat' split
    all_goals rfl
  case replayAbandon core =>
    refine .inl ?_
    change ∃ f, execReplayAbandon core s = run f s
    unfold execReplayAbandon runSched
    exact ⟨_, rfl⟩
  case sequencerStall core =>
    refine .inl ?_
    change ∃ f, execSequencerStall core s = run f s
    unfold execSequencerStall runSched
    exact ⟨_, rfl⟩
  case coreFault core check =>
    refine .inl ?_
    change ∃ f, execCoreFault core check s = run f s
    unfold execCoreFault runSched
    exact ⟨_, rfl⟩
  case coreFaultCopyDone core badTiles fixed =>
    refine .inl ?_
    change ∃ f, execCoreFaultCopyDone core badTiles fixed s = run f s
    unfold execCoreFaultCopyDone runSched
    exact ⟨_, rfl⟩
  case probeOverdue core =>
    refine .inl ?_
    change ∃ f, execProbeOverdue core s = run f s
    unfold execProbeOverdue runSched
    exact ⟨_, rfl⟩
  case probeSliceComplete core matched fixed =>
    refine .inl ?_
    change ∃ f, execProbeSliceComplete core matched fixed s = run f s
    unfold execProbeSliceComplete runSched
    exact ⟨_, rfl⟩
  case dramScrub fixed badLines =>
    refine .inl ?_
    change ∃ f, execDramScrub fixed badLines s = run f s
    unfold execDramScrub
    exact ⟨_, rfl⟩
  case healthLogWrite =>
    refine .inl ?_
    change ∃ f, execHealthLogWrite s = run f s
    unfold execHealthLogWrite
    exact ⟨_, rfl⟩
  case linkUp side width test =>
    refine .inl ?_
    change ∃ f, execLinkUp side width test s = run f s
    unfold execLinkUp runSched
    exact ⟨_, rfl⟩
  case linkTrainTimeout side =>
    refine .inl ?_
    change ∃ f, execLinkTrainTimeout side s = run f s
    unfold execLinkTrainTimeout runSched
    exact ⟨_, rfl⟩
  case linkRetry side =>
    refine .inl ?_
    change ∃ f, execLinkRetry side s = run f s
    unfold execLinkRetry
    exact ⟨_, rfl⟩
  case retrain side width test =>
    refine .inl ?_
    change ∃ f, execRetrain side width test s = run f s
    unfold execRetrain runSched
    exact ⟨_, rfl⟩
  case frameCrcFail side inverted copy =>
    refine .inr ⟨_, rfl, ?_⟩
    simp only [crcFailEffect]
    split
    · have k : box (match copy with
          | some f => stompCopy side f { s.hw with sent := [] }
          | none => { s.hw with sent := [] }) = box s.hw := by
        split
        · exact box_stompCopy _ _ _
        · rfl
      split
      · exact k
      · rw [box_countCrc, box_linkFrame]
        exact k
    · rfl
  case linkAckTimer side =>
    refine .inr ⟨_, rfl, ?_⟩
    dsimp only
    split
    · exact box_sendAck _ _
    · rfl
  case linkAck side frame =>
    refine .inr ⟨_, rfl, ?_⟩
    simp only [linkAckEffect]
    split
    · rw [box_pump, box_setPort]
      rfl
    · rfl
  case linkNak side frame =>
    refine .inr ⟨_, rfl, ?_⟩
    simp only [linkNakEffect]
    split
    · split
      · rw [box_setPort]
        exact box_setPort _ _ _
      · exact box_setPort _ _ _
    · rfl
  case ident side node theirSide width role =>
    refine .inl ?_
    change ∃ f, execIdent side node theirSide width role s = run f s
    unfold execIdent runSched
    exact ⟨_, rfl⟩
  case unknownFrame side frame =>
    refine .inr ⟨_, rfl, ?_⟩
    dsimp only
    split
    · exact box_receive _ _ _ _ (fun h => by cases side <;> rfl)
    · split
      · rfl
      · exact box_receive _ _ _ _ (fun h => by cases side <;> rfl)
  case rollCall side frame =>
    refine .inl ?_
    change ∃ f, execRollCall side frame s = run f s
    unfold execRollCall runSched
    exact ⟨_, rfl⟩
  case formationEnd rttNs env =>
    refine .inl ?_
    change ∃ f, execFormationEnd rttNs env s = run f s
    unfold execFormationEnd runSched
    exact ⟨_, rfl⟩
  case agreementTimer env =>
    refine .inl ?_
    change ∃ f, execAgreementTimer env s = run f s
    unfold execAgreementTimer runSched
    exact ⟨_, rfl⟩
  case winUnit side frame =>
    refine .inl ?_
    change ∃ f, execWinUnit side frame s = run f s
    unfold execWinUnit runSched
    exact ⟨_, rfl⟩
  case winUnitTimeout =>
    refine .inl ?_
    change ∃ f, execWinUnitTimeout s = run f s
    unfold execWinUnitTimeout runSched
    exact ⟨_, rfl⟩
  case winCopyReq side frame =>
    refine .inl ?_
    change ∃ f, execWinCopyReq side frame s = run f s
    unfold execWinCopyReq runSched
    exact ⟨_, rfl⟩
  case winCopyData side frame =>
    refine .inl ?_
    change ∃ f, execWinCopyData side frame s = run f s
    unfold execWinCopyData runSched
    exact ⟨_, rfl⟩
  case putData side frame last =>
    refine .inl ?_
    change ∃ f, execPutData side frame last s = run f s
    unfold execPutData runSched
    exact ⟨_, rfl⟩
  case putAck side frame =>
    refine .inl ?_
    change ∃ f, execPutAck side frame s = run f s
    unfold execPutAck runSched
    exact ⟨_, rfl⟩
  case getReq side frame =>
    refine .inl ?_
    change ∃ f, execGetReq side frame s = run f s
    unfold execGetReq runSched
    exact ⟨_, rfl⟩
  case getData side frame =>
    refine .inl ?_
    change ∃ f, execGetData side frame s = run f s
    unfold execGetData runSched
    exact ⟨_, rfl⟩
  case doorbellFrame side frame =>
    refine .inl ?_
    change ∃ f, execDoorbellFrame side frame s = run f s
    unfold execDoorbellFrame runSched
    exact ⟨_, rfl⟩
  case exchNak side frame =>
    refine .inl ?_
    change ∃ f, execExchNak side frame s = run f s
    unfold execExchNak runSched
    exact ⟨_, rfl⟩
  case exchTimeout ref =>
    refine .inl ?_
    change ∃ f, execExchTimeout ref s = run f s
    unfold execExchTimeout runSched
    exact ⟨_, rfl⟩
  case bootReq side frame =>
    refine .inl ?_
    change ∃ f, execBootReq side frame s = run f s
    unfold execBootReq runSched
    exact ⟨_, rfl⟩
  case bootData side frame =>
    refine .inl ?_
    change ∃ f, execBootData side frame s = run f s
    unfold execBootData runSched
    exact ⟨_, rfl⟩
  case ringBootTimeout =>
    refine .inl ?_
    change ∃ f, execRingBootTimeout s = run f s
    unfold execRingBootTimeout runSched
    exact ⟨_, rfl⟩
  case rollData side frame env =>
    refine .inl ?_
    change ∃ f, execRollData side frame env s = run f s
    unfold execRollData runSched
    exact ⟨_, rfl⟩
  case rollOffer side frame =>
    refine .inl ?_
    change ∃ f, execRollOffer side frame s = run f s
    unfold execRollOffer runSched
    exact ⟨_, rfl⟩
  case rollHave side frame =>
    refine .inl ?_
    change ∃ f, execRollHave side frame s = run f s
    unfold execRollHave runSched
    exact ⟨_, rfl⟩
  case rollNeed side frame =>
    refine .inl ?_
    change ∃ f, execRollNeed side frame s = run f s
    unfold execRollNeed runSched
    exact ⟨_, rfl⟩
  case rollRefuse side frame env =>
    refine .inl ?_
    change ∃ f, execRollRefuse side frame env s = run f s
    unfold execRollRefuse runSched
    exact ⟨_, rfl⟩
  case rollStaged side frame =>
    refine .inl ?_
    change ∃ f, execRollStaged side frame s = run f s
    unfold execRollStaged runSched
    exact ⟨_, rfl⟩
  case rollActivate side frame env =>
    refine .inl ?_
    change ∃ f, execRollActivate side frame env s = run f s
    unfold execRollActivate runSched
    exact ⟨_, rfl⟩
  case rollAgree side frame env =>
    refine .inl ?_
    change ∃ f, execRollAgree side frame env s = run f s
    unfold execRollAgree runSched
    exact ⟨_, rfl⟩
  case rollVerdict side frame env =>
    refine .inl ?_
    change ∃ f, execRollVerdict side frame env s = run f s
    unfold execRollVerdict runSched
    exact ⟨_, rfl⟩
  case rollConfirm side frame env =>
    refine .inl ?_
    change ∃ f, execRollConfirm side frame env s = run f s
    unfold execRollConfirm runSched
    exact ⟨_, rfl⟩
  case rollClose side frame env =>
    refine .inl ?_
    change ∃ f, execRollClose side frame env s = run f s
    unfold execRollClose runSched
    exact ⟨_, rfl⟩
  case rollTimeout =>
    refine .inl ?_
    change ∃ f, execRollTimeout s = run f s
    unfold execRollTimeout runSched
    exact ⟨_, rfl⟩
  case activationRestart env =>
    refine .inl ?_
    change ∃ f, execActivationRestart env s = run f s
    unfold execActivationRestart runSched
    exact ⟨_, rfl⟩
  case rvyIdent =>
    refine .inr ⟨_, rfl, ?_⟩
    simp only [portTurn, settleFlash]
    repeat' split
    all_goals rfl
  case rvyStatus =>
    refine .inr ⟨_, rfl, ?_⟩
    simp only [portTurn, settleFlash]
    repeat' split
    all_goals rfl
  case rvyRead addr count =>
    refine .inl ?_
    change ∃ f, execRvyRead addr count s = run f s
    unfold execRvyRead
    exact ⟨_, rfl⟩
  case rvyWren =>
    refine .inr ⟨_, rfl, ?_⟩
    simp only [portTurn, settleFlash, wrenEffect]
    repeat' split
    all_goals rfl
  case rvyErase4k addr =>
    refine .inl ?_
    change ∃ f, execRvyErase4k addr s = run f s
    unfold execRvyErase4k
    exact ⟨_, rfl⟩
  case rvyErase64k addr =>
    refine .inl ?_
    change ∃ f, execRvyErase64k addr s = run f s
    unfold execRvyErase64k
    exact ⟨_, rfl⟩
  case rvyProgram addr data =>
    refine .inl ?_
    change ∃ f, execRvyProgram addr data s = run f s
    unfold execRvyProgram
    exact ⟨_, rfl⟩
  case rvyUnknownOpcode => exact .inr ⟨_, rfl, rfl⟩
  case linkLoss side =>
    refine .inl ?_
    change ∃ f, execLinkLoss side s = run f s
    unfold execLinkLoss runSched
    exact ⟨_, rfl⟩
  case pcieLinkUp cfg =>
    refine .inl ?_
    change ∃ f, execPcieLinkUp cfg s = run f s
    unfold execPcieLinkUp runSched
    exact ⟨_, rfl⟩
  case pcieLinkDown =>
    refine .inl ?_
    change ∃ f, execPcieLinkDown s = run f s
    unfold execPcieLinkDown runSched
    exact ⟨_, rfl⟩
  case probeDue core =>
    refine .inl ?_
    change ∃ f, execProbeDue core s = run f s
    unfold execProbeDue runSched
    exact ⟨_, rfl⟩
  case islandReady group =>
    refine .inl ?_
    change ∃ f, execIslandReady group s = run f s
    unfold execIslandReady runSched
    exact ⟨_, rfl⟩
  case clockSwitch =>
    refine .inl ?_
    change ∃ f, execClockSwitch s = run f s
    unfold execClockSwitch runSched
    exact ⟨_, rfl⟩
  case saveBegins =>
    refine .inl ?_
    change ∃ f, execSaveBegins s = run f s
    unfold execSaveBegins
    exact ⟨_, rfl⟩
  case loaderFlashWorkDone ok =>
    refine .inl ?_
    change ∃ f, execLoaderFlashWorkDone ok s = run f s
    unfold execLoaderFlashWorkDone runSched
    exact ⟨_, rfl⟩
  case recoveryPortOpen =>
    refine .inr ⟨_, rfl, ?_⟩
    simp only [portOpenEffect]
    repeat' split
    all_goals rfl

/-- Every command answers a next state: the end of an effect with its writes, or the hardware alone changed. -/
theorem exec_answers (c : Instr) (s : State) :
    (∃ h, exec c s = .next (commit s (finish h))) ∨ ∃ h, exec c s = .next { s with hw := h } ∧ box h = box s.hw := by
  rcases exec_shape c s with ⟨f, e⟩ | e
  · exact .inl ⟨_, e⟩
  · exact .inr e

end Sys2Proof.Laws.Exec
end

