-- ==== Sys2Proof/Laws/Memory.lean ====
section
/-! SUPPORT. Memory: every operation keeps the canonical form, a read after a write gives what was written, and a write
leaves every other byte as it was. -/

namespace Sys2Proof.Laws.Memory

open Sys2Proof.Machine

/-! ## Cells -/

theorem cellsFrom_addr (fill : Option Byte) (a : Nat) (bs : List Byte) :
    ∀ c ∈ cellsFrom fill a bs, a ≤ c.1 ∧ c.1 < a + bs.length := by
  induction bs generalizing a with
  | nil => simp [cellsFrom]
  | cons b bs ih =>
    intro c hc
    simp only [cellsFrom] at hc
    split at hc
    · have := ih (a + 1) c hc; simp; omega
    · rcases List.mem_cons.1 hc with rfl | hc
      · simp
      · have := ih (a + 1) c hc; simp; omega

theorem cellsFrom_fill (fill : Option Byte) (a : Nat) (bs : List Byte) :
    ∀ c ∈ cellsFrom fill a bs, some c.2 ≠ fill := by
  induction bs generalizing a with
  | nil => simp [cellsFrom]
  | cons b bs ih =>
    intro c hc
    simp only [cellsFrom] at hc
    split at hc
    · exact ih (a + 1) c hc
    · rename_i hb
      rcases List.mem_cons.1 hc with rfl | hc
      · exact hb
      · exact ih (a + 1) c hc

theorem cellsFrom_sorted (fill : Option Byte) (a : Nat) (bs : List Byte) :
    (cellsFrom fill a bs).Pairwise (fun c d => c.1 < d.1) := by
  induction bs generalizing a with
  | nil => simp [cellsFrom]
  | cons b bs ih =>
    simp only [cellsFrom]
    split
    · exact ih (a + 1)
    · refine List.pairwise_cons.2 ⟨fun c hc => ?_, ih (a + 1)⟩
      have := cellsFrom_addr fill (a + 1) bs c hc
      simp; omega

/-! ## The canonical form -/

/-- A write keeps the canonical form. -/
theorem memWrite_wf {fill : Option Byte} {m : Mem} (h : Memory.wf fill m) (a : Nat) (bs : List Byte) :
    Memory.wf fill (memWrite fill m a bs) := by
  obtain ⟨hs, hf⟩ := h
  refine ⟨?_, ?_⟩
  · rw [memWrite, List.pairwise_append, List.pairwise_append]
    refine ⟨⟨hs.filter _, cellsFrom_sorted fill a bs, ?_⟩, hs.filter _, ?_⟩
    · intro c hc d hd
      have := cellsFrom_addr fill a bs d hd
      have hc := (List.mem_filter.1 hc).2
      simp at hc; omega
    · intro c hc d hd
      have hd := (List.mem_filter.1 hd).2
      simp at hd
      rcases List.mem_append.1 hc with hc | hc
      · have hc := (List.mem_filter.1 hc).2
        simp at hc; omega
      · have := cellsFrom_addr fill a bs c hc
        omega
  · intro c hc
    rcases List.mem_append.1 hc with hc | hc
    · rcases List.mem_append.1 hc with hc | hc
      · exact hf c (List.mem_filter.1 hc).1
      · exact cellsFrom_fill fill a bs c hc
    · exact hf c (List.mem_filter.1 hc).1

/-- Dropping cells keeps the canonical form. -/
theorem filter_wf {fill : Option Byte} {m : Mem} (h : Memory.wf fill m) (p : Host.Cell → Bool) :
    Memory.wf fill (m.filter p) :=
  ⟨h.1.filter p, fun c hc => h.2 c (List.mem_filter.1 hc).1⟩

theorem nil_wf (fill : Option Byte) : Memory.wf fill [] := ⟨List.Pairwise.nil, by simp⟩

/-- Every single write keeps every memory canonical. -/
theorem applyWrite_wf {m : Mems} (h : m.wf) (w : Write) : (applyWrite m w).wf := by
  obtain ⟨h1, h2, h3, h4, h5⟩ := h
  cases hs : w.space <;> simp only [applyWrite, hs]
  · exact ⟨memWrite_wf h1 _ _, h2, h3, h4, h5⟩
  · exact ⟨h1, memWrite_wf h2 _ _, h3, h4, h5⟩
  · exact ⟨h1, h2, memWrite_wf h3 _ _, h4, h5⟩
  · exact ⟨h1, h2, h3, memWrite_wf h4 _ _, h5⟩
  · exact ⟨h1, h2, h3, h4, memWrite_wf h5 _ _⟩

/-- So do all of a command's writes. -/
theorem applyWrites_wf {m : Mems} (h : m.wf) (ws : List Write) : (applyWrites m ws).wf := by
  induction ws generalizing m with
  | nil => exact h
  | cons w ws ih => exact ih (applyWrite_wf h w)

/-- So does the loss of what a boot does not keep. -/
theorem wipeMems_wf {m : Mems} (h : m.wf) (w : Option Wipe) : (wipeMems w m).wf := by
  obtain ⟨h1, h2, h3, h4, h5⟩ := h
  cases w with
  | none => exact ⟨h1, h2, h3, h4, h5⟩
  | some w =>
    refine ⟨filter_wf h1 _, nil_wf _, ?_, h4, h5⟩
    simp only [wipeMems]
    split
    · exact h3
    · exact nil_wf _

/-! ## Reads of one byte -/

theorem find_cellsFrom (fill : Option Byte) (a : Nat) (bs : List Byte) (x : Nat) (hx : x < a ∨ a + bs.length ≤ x) :
    (cellsFrom fill a bs).find? (fun c => c.1 == x) = none := by
  rw [List.find?_eq_none]
  intro c hc
  have := cellsFrom_addr fill a bs c hc
  simp; omega

theorem find_filter_of {m : Mem} {x : Nat} {p : Host.Cell → Bool} (h : ∀ c : Host.Cell, c.1 = x → p c = true) :
    (m.filter p).find? (fun c => c.1 == x) = m.find? (fun c => c.1 == x) := by
  induction m with
  | nil => rfl
  | cons c m ih =>
    by_cases hc : c.1 = x
    · simp [h c hc, hc]
    · by_cases hp : p c = true
      · simp [hp, hc, ih]
      · simp [hp, hc, ih]

theorem find_filter_none {m : Mem} {x : Nat} {p : Host.Cell → Bool} (h : ∀ c : Host.Cell, c.1 = x → p c = false) :
    (m.filter p).find? (fun c => c.1 == x) = none := by
  rw [List.find?_eq_none]
  intro c hc
  have hp := (List.mem_filter.1 hc).2
  intro hx
  have := h c (by simpa using hx)
  simp [this] at hp

/-- A byte outside a write reads as before. -/
theorem memRead_memWrite_other (fill : Option Byte) (m : Mem) (a : Nat) (bs : List Byte) (x : Nat)
    (hx : x < a ∨ a + bs.length ≤ x) : memRead fill (memWrite fill m a bs) x = memRead fill m x := by
  have key : (memWrite fill m a bs).find? (fun c => c.1 == x) = m.find? (fun c => c.1 == x) := by
    rw [memWrite, List.find?_append, List.find?_append, find_cellsFrom fill a bs x hx]
    rcases hx with hx | hx
    · rw [find_filter_of (x := x) (p := fun c => decide (c.1 < a)) (by intro c hc; simp; omega),
        find_filter_none (x := x) (p := fun c => decide (a + bs.length ≤ c.1)) (by intro c hc; simp; omega)]
      simp
    · rw [find_filter_none (x := x) (p := fun c => decide (c.1 < a)) (by intro c hc; simp; omega),
        find_filter_of (x := x) (p := fun c => decide (a + bs.length ≤ c.1)) (by intro c hc; simp; omega)]
      simp
  simp only [memRead, key]

theorem memRead_cellsFrom (fill : Option Byte) (a : Nat) (bs : List Byte) (i : Nat) (hi : i < bs.length) :
    memRead fill (cellsFrom fill a bs) (a + i) = some bs[i] := by
  induction bs generalizing a i with
  | nil => simp at hi
  | cons b bs ih =>
    by_cases hb : some b = fill
    · rw [cellsFrom, if_pos hb]
      cases i with
      | zero =>
        have : (cellsFrom fill (a + 1) bs).find? (fun c => c.1 == a + 0) = none :=
          find_cellsFrom fill (a + 1) bs (a + 0) (by omega)
        simp only [memRead, this]
        simpa using hb.symm
      | succ j =>
        have := ih (a + 1) j (by simpa using hi)
        rw [show a + 1 + j = a + (j + 1) by omega] at this
        simpa using this
    · rw [cellsFrom, if_neg hb]
      cases i with
      | zero => simp [memRead]
      | succ j =>
        have := ih (a + 1) j (by simpa using hi)
        rw [show a + 1 + j = a + (j + 1) by omega] at this
        have hne : ((a == a + (j + 1)) = false) := by simp
        simp only [memRead, List.find?_cons, hne]
        simpa [memRead] using this

/-- A byte of a write reads as written. -/
theorem memRead_memWrite_same (fill : Option Byte) (m : Mem) (a : Nat) (bs : List Byte) (i : Nat) (hi : i < bs.length) :
    memRead fill (memWrite fill m a bs) (a + i) = some bs[i] := by
  have h1 : (m.filter (fun c => decide (c.1 < a))).find? (fun c => c.1 == a + i) = none :=
    find_filter_none (by intro c hc; simp; omega)
  have h3 : (m.filter (fun c => decide (a + bs.length ≤ c.1))).find? (fun c => c.1 == a + i) = none :=
    find_filter_none (by intro c hc; simp; omega)
  have key : (memWrite fill m a bs).find? (fun c => c.1 == a + i) =
      (cellsFrom fill a bs).find? (fun c => c.1 == a + i) := by
    rw [memWrite, List.find?_append, List.find?_append, h1, h3]
    simp
  rw [← memRead_cellsFrom fill a bs i hi]
  simp only [memRead, key]

/-! ## Reads of many bytes -/

theorem readCells_above (fill : Byte) (n a : Nat) (m : Mem) (h : ∀ c ∈ m, a + n ≤ c.1) :
    readCells fill n a m = List.replicate n fill := by
  induction n generalizing a with
  | zero => simp [readCells]
  | succ n ih =>
    cases m with
    | nil =>
      have := ih (a + 1) (by simp)
      simp [readCells, this, List.replicate_succ]
    | cons c m =>
      have hc : a + (n + 1) ≤ c.1 := h c (by simp)
      have hne : ¬ c.1 = a := by omega
      have := ih (a + 1) (by intro d hd; have := h d hd; omega)
      simp [readCells, hne, this, List.replicate_succ]

theorem readCells_cellsFrom (fill : Option Byte) (a : Nat) (bs : List Byte) (m : Mem)
    (h : ∀ c ∈ m, a + bs.length ≤ c.1) (d : Byte) (hd : fill = none ∨ fill = some d) :
    readCells d bs.length a (cellsFrom fill a bs ++ m) = bs := by
  induction bs generalizing a with
  | nil => simp [readCells]
  | cons b bs ih =>
    have hm : ∀ c ∈ m, (a + 1) + bs.length ≤ c.1 := by intro c hc; have := h c hc; simp at this; omega
    have rec_ := ih (a + 1) hm
    simp only [cellsFrom, List.length_cons]
    split
    · rename_i hb
      have hbd : b = d := by
        rcases hd with hd | hd
        · simp [hd] at hb
        · rw [hd] at hb; exact Option.some.inj hb
      subst hbd
      cases hl : cellsFrom fill (a + 1) bs ++ m with
      | nil => rw [hl] at rec_; simp [readCells, rec_]
      | cons c l =>
        have hc : a + 1 ≤ c.1 := by
          have : c ∈ cellsFrom fill (a + 1) bs ++ m := by rw [hl]; simp
          rcases List.mem_append.1 this with hc | hc
          · exact (cellsFrom_addr fill (a + 1) bs c hc).1
          · have := hm c hc; omega
        have hne : ¬ c.1 = a := by omega
        rw [hl] at rec_
        simp [readCells, hne, rec_]
    · simp [readCells, rec_]

theorem dropWhile_filter_lt (m : Mem) (a : Nat) (l : Mem) :
    ((m.filter (fun c => decide (c.1 < a))) ++ l).dropWhile (fun c => decide (c.1 < a)) =
      l.dropWhile (fun c => decide (c.1 < a)) := by
  induction m with
  | nil => simp
  | cons c m ih =>
    by_cases hc : c.1 < a
    · simp [hc, ih]
    · simp [hc, ih]

theorem dropWhile_ge (l : Mem) (a : Nat) (h : ∀ c ∈ l, a ≤ c.1) : l.dropWhile (fun c => decide (c.1 < a)) = l := by
  cases l with
  | nil => rfl
  | cons c l =>
    have := h c (by simp)
    simp [List.dropWhile_cons]; omega

/-- Bytes read where they were written are those that were written. -/
theorem memReadN_memWrite (fill : Option Byte) (m : Mem) (a : Nat) (bs : List Byte) :
    memReadN (fill.getD 0) (memWrite fill m a bs) a bs.length = bs := by
  have hge : ∀ c ∈ cellsFrom fill a bs ++ m.filter (fun c => decide (a + bs.length ≤ c.1)), a ≤ c.1 := by
    intro c hc
    rcases List.mem_append.1 hc with hc | hc
    · exact (cellsFrom_addr fill a bs c hc).1
    · have := (List.mem_filter.1 hc).2; simp at this; omega
  rw [memReadN, memWrite, List.append_assoc, dropWhile_filter_lt, dropWhile_ge _ _ hge]
  apply readCells_cellsFrom
  · intro c hc
    have := (List.mem_filter.1 hc).2
    simpa using this
  · cases fill with
    | none => exact Or.inl rfl
    | some d => exact Or.inr rfl

end Sys2Proof.Laws.Memory
end

