-- ==== Sys2Proof/WellFormed.lean ====
section
/-! DEFINITION. Which commands are well formed: operands within the widths and counts that the manual gives the thing
that comes from outside (seven straps, 32 words in a slot, 16 sensors, a frame's fields). exec is total on every
command, well formed or not; this says which ones the Z9 can meet. -/

namespace Sys2Proof

/-- Seven strap pins are converted (R13). -/
def BootEnv.wf (e : BootEnv) : Bool := e.straps.length == 7

/-- A slot is 32 words (R28, R32). -/
def Slot.wf (s : Slot) : Bool := s.words.length == 32

/-- A frame's fields fit their widths and its payload is 0 to 256 bytes in units of 16 (R336). -/
def Frame.wf (f : Frame) : Bool :=
  decide (f.type < 2 ^ 8) && decide (f.dst < 2 ^ 8) && decide (f.src < 2 ^ 8) && decide (f.hops < 2 ^ 8) &&
  decide (f.vc < 4) && decide (f.lseq < 2 ^ 12) && decide (f.tag < 2 ^ 16) && decide (f.addrHi < 2 ^ 16) &&
  decide (f.payload.length ≤ 256) && f.payload.length % 16 == 0

/-- A training's lanes: eight of them. -/
def LaneTest.wf (t : LaneTest) : Bool := decide (t.pass < 256) && decide (t.inverted < 256)

/-- A channel's sample: 16 taps, magnitudes that are not negative, H within its limits (R60, R63, R462). -/
def ChannelSample.wf (c : ChannelSample) : Bool :=
  c.areas.length == 16 && c.errs.length == 16 && c.areas.all (fun a => decide (0 ≤ a)) && decide (0 ≤ c.peak) &&
  decide (0 ≤ c.input) && decide (9 / 10 ≤ c.hyst) && decide (c.hyst ≤ 11 / 10)

/-- A measurement beat: 16 values of each kind of integrator (R128). -/
def MeasSample.wf (m : MeasSample) : Bool :=
  m.taps.length == 16 && m.pairs.length == 16 && m.live.length == 16 && decide (m.peak < 2 ^ 16)

/-- A piece's name: one of the 65,535 tasks that a graph may hold. -/
def PieceRef.wf (r : PieceRef) : Bool := decide (r.task < 2 ^ 16)

/-- A command whose operands can come about. -/
def Instr.wf : Instr → Bool
  | .resetNRise e | .resetHoldEnd e | .supplyResetReboot e | .activationRestart e => e.wf
  | .bar0IgnoredWrite _ off _ => off != 0
  | .slotUnknownKind s | .graph s | .budget s | .powerSetPlevel s | .powerSleep s _ | .powerDeep s _ | .powerOff s _
  | .powerSenseOff s | .powerSenseOn s | .updateChunkData s _ _ | .updateChunkRoll s | .updateChunkDiscard s _
  | .updateActivate s _ | .updateConfirm s _ | .eventPost s | .calibrate s | .streamOpen s | .streamClose s
  | .streamReset s | .streamSwapOut s | .streamSwapIn s | .streamQuery s | .healthReadPage s | .healthReadLog s
  | .healthReadAck s | .syncSync s | .syncStart s | .syncStop s | .syncSelect s | .timeRead s | .timeSet s
  | .timeStep s | .timeAlarmSet s | .timeAlarmClear s => s.wf
  | .beatBoundary cs _ => cs.length == 32 && cs.all ChannelSample.wf
  | .channelSettled c => decide (c < 33)
  | .halfbandSample n _ | .spikeQuietReturn n | .rawFilterSample n | .fadeEnd n | .muffleEnd n | .thresholdRise n
  | .thresholdFall n | .rawBlockClose n _ | .chainReset n => decide (n < 8)
  | .measurementBeat m => m.wf
  | .islandGate n | .shadowReplay n _ | .replayAbandon n | .sequencerStall n | .coreFault n _
  | .coreFaultCopyDone n _ _ | .probeOverdue n | .probeSliceComplete n _ _ | .probeDue n => decide (n < 32)
  | .islandReady g => decide (g < 8)
  | .accountSlot ts => ts.length == 16
  | .pieceComplete r _ | .bellCommitStored r _ _ | .waitComplete r | .waitTimeout r | .genWaitTimeout r
  | .exchTimeout r => r.wf
  | .streamCopyComplete s _ _ => decide (s < 256)
  | .linkUp _ w t => (w == 2 || w == 4 || w == 8) && t.wf
  | .retrain _ w t => w.all (fun n => n == 2 || n == 4 || n == 8) && t.wf
  | .frameCrcFail _ _ c => c.all Frame.wf
  | .putData _ f last => f.wf && (last || f.payload.length == 256)
  | .pcieLinkUp c => decide (c.width ≤ 16)
  | .ident _ n _ w r => decide (n < 256) && (w == 2 || w == 4 || w == 8) && decide (r < 16)
  | .linkAck _ f | .linkNak _ f | .unknownFrame _ f | .rollCall _ f | .winUnit _ f | .winCopyReq _ f
  | .winCopyData _ f | .putAck _ f | .getReq _ f | .getData _ f | .doorbellFrame _ f | .exchNak _ f
  | .bootReq _ f | .bootData _ f | .rollData _ f _ | .rollOffer _ f | .rollHave _ f | .rollNeed _ f | .rollRefuse _ f _
  | .rollStaged _ f | .rollActivate _ f _ | .rollAgree _ f _ | .rollVerdict _ f _ | .rollConfirm _ f _ | .rollClose _ f _ => f.wf
  | .rvyRead _ n => decide (1 ≤ n)
  | .rvyProgram _ d => decide (1 ≤ d.length)
  | .aonPowerOn | .vddAonLoss | .resetNFall | .supplyReset _ _ | .supplyDip _ _ | .dipEnd | .perstNAssert | .perstNRise
  | .motionChange _ | .updLockChange _ | .vwakeAccept _ | .vbatSenseConversion _ | .vsenseHvLoss | .vsenseHvLow _
  | .vsenseHvRestored _ | .doorbellWrite _ _ | .graphCheck _ | .domainDrainEnd | .entryComplete _ | .timeBeatTimeout
  | .timeCopyCheck _ | .beatEdge | .channelStuck | .calPhaseSettled | .calTakeover | .calHandback | .calTimeout
  | .calRevertEnd | .calStore _ _ _ | .bellScores _ _ | .verdictTimeout | .rwakeInAccept _ | .rwakeOutPulseEnd
  | .rwakeQuietEnd | .wakeNAccept _ | .rtcAlarm _ | .wakeFail _ _ | .idleEntry | .railChangeComplete _
  | .thermalClockEnd | .thermalTripEnd | .escalationWindow _ | .dramScrub _ _ | .healthLogWrite
  | .linkTrainTimeout _ | .linkRetry _ | .linkAckTimer _ | .formationEnd _ _ | .agreementTimer _
  | .winUnitTimeout | .ringBootTimeout | .rollTimeout | .rvyIdent | .rvyStatus | .rvyWren | .rvyErase4k _
  | .rvyErase64k _ | .rvyUnknownOpcode _ | .linkLoss _ | .pcieLinkDown | .clockSwitch | .saveBegins
  | .loaderFlashWorkDone _ | .recoveryPortOpen => true

end Sys2Proof
end

