-- ==== Sys2Proof/Laws/PerInstr.lean ====
section
/-! SUPPORT. The family F of statements about each command as syntax: what a well-formed command's slot and frame are. -/

namespace Sys2Proof.Laws

/-- The slot that a command carries. -/
def slotOf : Instr → Option Slot
  | .slotUnknownKind x => some x
  | .graph x => some x
  | .budget x => some x
  | .powerSetPlevel x => some x
  | .powerSleep x _ => some x
  | .powerDeep x _ => some x
  | .powerOff x _ => some x
  | .powerSenseOff x => some x
  | .powerSenseOn x => some x
  | .updateChunkData x _ _ => some x
  | .updateChunkRoll x => some x
  | .updateChunkDiscard x _ => some x
  | .updateActivate x _ => some x
  | .updateConfirm x _ => some x
  | .eventPost x => some x
  | .calibrate x => some x
  | .streamOpen x => some x
  | .streamClose x => some x
  | .streamReset x => some x
  | .streamSwapOut x => some x
  | .streamSwapIn x => some x
  | .streamQuery x => some x
  | .healthReadPage x => some x
  | .healthReadLog x => some x
  | .healthReadAck x => some x
  | .syncSync x => some x
  | .syncStart x => some x
  | .syncStop x => some x
  | .syncSelect x => some x
  | .timeRead x => some x
  | .timeSet x => some x
  | .timeStep x => some x
  | .timeAlarmSet x => some x
  | .timeAlarmClear x => some x
  | .aonPowerOn | .vddAonLoss | .resetNRise _ | .resetHoldEnd _ | .resetNFall | .supplyReset _ _
  | .supplyResetReboot _ | .supplyDip _ _ | .dipEnd | .perstNAssert | .perstNRise | .motionChange _
  | .updLockChange _ | .vwakeAccept _ | .vbatSenseConversion _ | .vsenseHvLoss | .vsenseHvLow _ | .vsenseHvRestored _
  | .doorbellWrite _ _ | .bar0IgnoredWrite _ _ _ | .graphCheck _ | .domainDrainEnd | .entryComplete _
  | .timeBeatTimeout | .beatBoundary _ _ | .timeCopyCheck _ | .channelSettled _ | .halfbandSample _ _
  | .spikeQuietReturn _ | .rawFilterSample _ | .fadeEnd _ | .muffleEnd _ | .thresholdRise _ | .thresholdFall _
  | .rawBlockClose _ _ | .chainReset _ | .beatEdge | .measurementBeat _ | .channelStuck | .calPhaseSettled
  | .calTakeover | .calHandback | .calTimeout | .calRevertEnd | .calStore _ _ _ | .bellScores _ _ | .verdictTimeout
  | .rwakeInAccept _ | .rwakeOutPulseEnd | .rwakeQuietEnd | .wakeNAccept _ | .rtcAlarm _ | .wakeFail _ _ | .idleEntry
  | .islandGate _ | .railChangeComplete _ | .accountSlot _ | .thermalClockEnd | .thermalTripEnd | .escalationWindow _
  | .pieceComplete _ _ | .bellCommitStored _ _ _ | .waitComplete _ | .waitTimeout _ | .genWaitTimeout _
  | .streamCopyComplete _ _ _ | .shadowReplay _ _ | .replayAbandon _ | .sequencerStall _ | .coreFault _ _
  | .coreFaultCopyDone _ _ _ | .probeOverdue _ | .probeSliceComplete _ _ _ | .dramScrub _ _ | .healthLogWrite
  | .linkUp _ _ _ | .linkTrainTimeout _ | .linkRetry _ | .retrain _ _ _ | .frameCrcFail _ _ _ | .linkAckTimer _
  | .linkAck _ _ | .linkNak _ _ | .ident _ _ _ _ _ | .unknownFrame _ _ | .rollCall _ _ | .formationEnd _ _
  | .agreementTimer _ | .winUnit _ _ | .winUnitTimeout | .winCopyReq _ _ | .winCopyData _ _ | .putData _ _ _
  | .putAck _ _ | .getReq _ _ | .getData _ _ | .doorbellFrame _ _ | .exchNak _ _ | .exchTimeout _ | .bootReq _ _
  | .bootData _ _ | .ringBootTimeout | .rollData _ _ _ | .rollOffer _ _ | .rollHave _ _ | .rollNeed _ _
  | .rollRefuse _ _ _ | .rollStaged _ _ | .rollActivate _ _ _ | .rollAgree _ _ _ | .rollVerdict _ _ _
  | .rollConfirm _ _ _ | .rollClose _ _ _ | .rollTimeout | .activationRestart _ | .rvyIdent | .rvyStatus
  | .rvyRead _ _ | .rvyWren | .rvyErase4k _ | .rvyErase64k _ | .rvyProgram _ _ | .rvyUnknownOpcode _ | .linkLoss _
  | .pcieLinkUp _ | .pcieLinkDown | .probeDue _ | .islandReady _ | .clockSwitch | .saveBegins
  | .loaderFlashWorkDone _ | .recoveryPortOpen => none

/-- The frame that a command carries. -/
def frameOf : Instr → Option Frame
  | .linkAck _ x => some x
  | .linkNak _ x => some x
  | .unknownFrame _ x => some x
  | .rollCall _ x => some x
  | .winUnit _ x => some x
  | .winCopyReq _ x => some x
  | .winCopyData _ x => some x
  | .putData _ x _ => some x
  | .putAck _ x => some x
  | .getReq _ x => some x
  | .getData _ x => some x
  | .doorbellFrame _ x => some x
  | .exchNak _ x => some x
  | .bootReq _ x => some x
  | .bootData _ x => some x
  | .rollData _ x _ => some x
  | .rollOffer _ x => some x
  | .rollHave _ x => some x
  | .rollNeed _ x => some x
  | .rollRefuse _ x _ => some x
  | .rollStaged _ x => some x
  | .rollActivate _ x _ => some x
  | .rollAgree _ x _ => some x
  | .rollVerdict _ x _ => some x
  | .rollConfirm _ x _ => some x
  | .rollClose _ x _ => some x
  | .aonPowerOn | .vddAonLoss | .resetNRise _ | .resetHoldEnd _ | .resetNFall | .supplyReset _ _
  | .supplyResetReboot _ | .supplyDip _ _ | .dipEnd | .perstNAssert | .perstNRise | .motionChange _
  | .updLockChange _ | .vwakeAccept _ | .vbatSenseConversion _ | .vsenseHvLoss | .vsenseHvLow _ | .vsenseHvRestored _
  | .doorbellWrite _ _ | .bar0IgnoredWrite _ _ _ | .slotUnknownKind _ | .graph _ | .graphCheck _ | .budget _
  | .powerSetPlevel _ | .powerSleep _ _ | .powerDeep _ _ | .powerOff _ _ | .powerSenseOff _ | .powerSenseOn _
  | .domainDrainEnd | .entryComplete _ | .updateChunkData _ _ _ | .updateChunkRoll _ | .updateChunkDiscard _ _
  | .updateActivate _ _ | .updateConfirm _ _ | .eventPost _ | .calibrate _ | .streamOpen _ | .streamClose _
  | .streamReset _ | .streamSwapOut _ | .streamSwapIn _ | .streamQuery _ | .healthReadPage _ | .healthReadLog _
  | .healthReadAck _ | .syncSync _ | .syncStart _ | .syncStop _ | .syncSelect _ | .timeRead _ | .timeSet _
  | .timeStep _ | .timeAlarmSet _ | .timeAlarmClear _ | .timeBeatTimeout | .beatBoundary _ _ | .timeCopyCheck _
  | .channelSettled _ | .halfbandSample _ _ | .spikeQuietReturn _ | .rawFilterSample _ | .fadeEnd _ | .muffleEnd _
  | .thresholdRise _ | .thresholdFall _ | .rawBlockClose _ _ | .chainReset _ | .beatEdge | .measurementBeat _
  | .channelStuck | .calPhaseSettled | .calTakeover | .calHandback | .calTimeout | .calRevertEnd | .calStore _ _ _
  | .bellScores _ _ | .verdictTimeout | .rwakeInAccept _ | .rwakeOutPulseEnd | .rwakeQuietEnd | .wakeNAccept _
  | .rtcAlarm _ | .wakeFail _ _ | .idleEntry | .islandGate _ | .railChangeComplete _ | .accountSlot _
  | .thermalClockEnd | .thermalTripEnd | .escalationWindow _ | .pieceComplete _ _ | .bellCommitStored _ _ _
  | .waitComplete _ | .waitTimeout _ | .genWaitTimeout _ | .streamCopyComplete _ _ _ | .shadowReplay _ _
  | .replayAbandon _ | .sequencerStall _ | .coreFault _ _ | .coreFaultCopyDone _ _ _ | .probeOverdue _
  | .probeSliceComplete _ _ _ | .dramScrub _ _ | .healthLogWrite | .linkUp _ _ _ | .linkTrainTimeout _ | .linkRetry _
  | .retrain _ _ _ | .frameCrcFail _ _ _ | .linkAckTimer _ | .ident _ _ _ _ _ | .formationEnd _ _ | .agreementTimer _
  | .winUnitTimeout | .exchTimeout _ | .ringBootTimeout | .rollTimeout | .activationRestart _ | .rvyIdent
  | .rvyStatus | .rvyRead _ _ | .rvyWren | .rvyErase4k _ | .rvyErase64k _ | .rvyProgram _ _ | .rvyUnknownOpcode _
  | .linkLoss _ | .pcieLinkUp _ | .pcieLinkDown | .probeDue _ | .islandReady _ | .clockSwitch | .saveBegins
  | .loaderFlashWorkDone _ | .recoveryPortOpen => none

/-- The slot of a well-formed command has 32 words (R32), and its frame a payload of at most 256 bytes in units of 16, with
identifiers and sequence number within their widths (R336). -/
def F.Statement (i : Instr) : Prop :=
  i.wf = true → (∀ s, slotOf i = some s → s.words.length = 32) ∧
    ∀ f, frameOf i = some f → f.payload.length ≤ 256 ∧ f.payload.length % 16 = 0 ∧ f.dst < 256 ∧ f.src < 256 ∧ f.lseq < 4096

theorem slot_wf {s : Slot} (h : s.wf = true) : s.words.length = 32 := by simpa [Slot.wf] using h

theorem frame_wf {f : Frame} (h : f.wf = true) :
    f.payload.length ≤ 256 ∧ f.payload.length % 16 = 0 ∧ f.dst < 256 ∧ f.src < 256 ∧ f.lseq < 4096 := by
  simp only [Frame.wf, Bool.and_eq_true, decide_eq_true_eq, beq_iff_eq] at h
  omega

theorem F.aonPowerOn : F.Statement .aonPowerOn :=
  fun _ => ⟨nofun, nofun⟩
theorem F.vddAonLoss : F.Statement .vddAonLoss :=
  fun _ => ⟨nofun, nofun⟩
theorem F.resetNRise (env : BootEnv) : F.Statement (.resetNRise env) :=
  fun _ => ⟨nofun, nofun⟩
theorem F.resetHoldEnd (env : BootEnv) : F.Statement (.resetHoldEnd env) :=
  fun _ => ⟨nofun, nofun⟩
theorem F.resetNFall : F.Statement .resetNFall :=
  fun _ => ⟨nofun, nofun⟩
theorem F.supplyReset (rail : Rail) (mv : Nat) : F.Statement (.supplyReset rail mv) :=
  fun _ => ⟨nofun, nofun⟩
theorem F.supplyResetReboot (env : BootEnv) : F.Statement (.supplyResetReboot env) :=
  fun _ => ⟨nofun, nofun⟩
theorem F.supplyDip (rail : Rail) (mv : Nat) : F.Statement (.supplyDip rail mv) :=
  fun _ => ⟨nofun, nofun⟩
theorem F.dipEnd : F.Statement .dipEnd :=
  fun _ => ⟨nofun, nofun⟩
theorem F.perstNAssert : F.Statement .perstNAssert :=
  fun _ => ⟨nofun, nofun⟩
theorem F.perstNRise : F.Statement .perstNRise :=
  fun _ => ⟨nofun, nofun⟩
theorem F.motionChange (level : Bool) : F.Statement (.motionChange level) :=
  fun _ => ⟨nofun, nofun⟩
theorem F.updLockChange (level : Bool) : F.Statement (.updLockChange level) :=
  fun _ => ⟨nofun, nofun⟩
theorem F.vwakeAccept (env : WakeEnv) : F.Statement (.vwakeAccept env) :=
  fun _ => ⟨nofun, nofun⟩
theorem F.vbatSenseConversion (code : BitVec 10) : F.Statement (.vbatSenseConversion code) :=
  fun _ => ⟨nofun, nofun⟩
theorem F.vsenseHvLoss : F.Statement .vsenseHvLoss :=
  fun _ => ⟨nofun, nofun⟩
theorem F.vsenseHvLow (mv : Nat) : F.Statement (.vsenseHvLow mv) :=
  fun _ => ⟨nofun, nofun⟩
theorem F.vsenseHvRestored (mv : Nat) : F.Statement (.vsenseHvRestored mv) :=
  fun _ => ⟨nofun, nofun⟩
theorem F.doorbellWrite (fn : Fn) (value : Word) : F.Statement (.doorbellWrite fn value) :=
  fun _ => ⟨nofun, nofun⟩
theorem F.bar0IgnoredWrite (fn : Fn) (offset : BitVec 12) (value : Word) : F.Statement (.bar0IgnoredWrite fn offset value) :=
  fun _ => ⟨nofun, nofun⟩
theorem F.slotUnknownKind (slot : Slot) : F.Statement (.slotUnknownKind slot) :=
  fun h => ⟨fun _ e => by cases e; exact slot_wf h, nofun⟩
theorem F.graph (slot : Slot) : F.Statement (.graph slot) :=
  fun h => ⟨fun _ e => by cases e; exact slot_wf h, nofun⟩
theorem F.graphCheck (fixed : Nat) : F.Statement (.graphCheck fixed) :=
  fun _ => ⟨nofun, nofun⟩
theorem F.budget (slot : Slot) : F.Statement (.budget slot) :=
  fun h => ⟨fun _ e => by cases e; exact slot_wf h, nofun⟩
theorem F.powerSetPlevel (slot : Slot) : F.Statement (.powerSetPlevel slot) :=
  fun h => ⟨fun _ e => by cases e; exact slot_wf h, nofun⟩
theorem F.powerSleep (slot : Slot) (wakeNLow : Bool) : F.Statement (.powerSleep slot wakeNLow) :=
  fun h => ⟨fun _ e => by cases e; exact slot_wf h, nofun⟩
theorem F.powerDeep (slot : Slot) (wakeNLow : Bool) : F.Statement (.powerDeep slot wakeNLow) :=
  fun h => ⟨fun _ e => by cases e; exact slot_wf h, nofun⟩
theorem F.powerOff (slot : Slot) (wakeNLow : Bool) : F.Statement (.powerOff slot wakeNLow) :=
  fun h => ⟨fun _ e => by cases e; exact slot_wf h, nofun⟩
theorem F.powerSenseOff (slot : Slot) : F.Statement (.powerSenseOff slot) :=
  fun h => ⟨fun _ e => by cases e; exact slot_wf h, nofun⟩
theorem F.powerSenseOn (slot : Slot) : F.Statement (.powerSenseOn slot) :=
  fun h => ⟨fun _ e => by cases e; exact slot_wf h, nofun⟩
theorem F.domainDrainEnd : F.Statement .domainDrainEnd :=
  fun _ => ⟨nofun, nofun⟩
theorem F.entryComplete (env : WakeEnv) : F.Statement (.entryComplete env) :=
  fun _ => ⟨nofun, nofun⟩
theorem F.updateChunkData (slot : Slot) (hostData : List Byte) (env : RollEnv) : F.Statement (.updateChunkData slot hostData env) :=
  fun h => ⟨fun _ e => by cases e; exact slot_wf h, nofun⟩
theorem F.updateChunkRoll (slot : Slot) : F.Statement (.updateChunkRoll slot) :=
  fun h => ⟨fun _ e => by cases e; exact slot_wf h, nofun⟩
theorem F.updateChunkDiscard (slot : Slot) (env : RollEnv) : F.Statement (.updateChunkDiscard slot env) :=
  fun h => ⟨fun _ e => by cases e; exact slot_wf h, nofun⟩
theorem F.updateActivate (slot : Slot) (env : RollEnv) : F.Statement (.updateActivate slot env) :=
  fun h => ⟨fun _ e => by cases e; exact slot_wf h, nofun⟩
theorem F.updateConfirm (slot : Slot) (env : RollEnv) : F.Statement (.updateConfirm slot env) :=
  fun h => ⟨fun _ e => by cases e; exact slot_wf h, nofun⟩
theorem F.eventPost (slot : Slot) : F.Statement (.eventPost slot) :=
  fun h => ⟨fun _ e => by cases e; exact slot_wf h, nofun⟩
theorem F.calibrate (slot : Slot) : F.Statement (.calibrate slot) :=
  fun h => ⟨fun _ e => by cases e; exact slot_wf h, nofun⟩
theorem F.streamOpen (slot : Slot) : F.Statement (.streamOpen slot) :=
  fun h => ⟨fun _ e => by cases e; exact slot_wf h, nofun⟩
theorem F.streamClose (slot : Slot) : F.Statement (.streamClose slot) :=
  fun h => ⟨fun _ e => by cases e; exact slot_wf h, nofun⟩
theorem F.streamReset (slot : Slot) : F.Statement (.streamReset slot) :=
  fun h => ⟨fun _ e => by cases e; exact slot_wf h, nofun⟩
theorem F.streamSwapOut (slot : Slot) : F.Statement (.streamSwapOut slot) :=
  fun h => ⟨fun _ e => by cases e; exact slot_wf h, nofun⟩
theorem F.streamSwapIn (slot : Slot) : F.Statement (.streamSwapIn slot) :=
  fun h => ⟨fun _ e => by cases e; exact slot_wf h, nofun⟩
theorem F.streamQuery (slot : Slot) : F.Statement (.streamQuery slot) :=
  fun h => ⟨fun _ e => by cases e; exact slot_wf h, nofun⟩
theorem F.healthReadPage (slot : Slot) : F.Statement (.healthReadPage slot) :=
  fun h => ⟨fun _ e => by cases e; exact slot_wf h, nofun⟩
theorem F.healthReadLog (slot : Slot) : F.Statement (.healthReadLog slot) :=
  fun h => ⟨fun _ e => by cases e; exact slot_wf h, nofun⟩
theorem F.healthReadAck (slot : Slot) : F.Statement (.healthReadAck slot) :=
  fun h => ⟨fun _ e => by cases e; exact slot_wf h, nofun⟩
theorem F.syncSync (slot : Slot) : F.Statement (.syncSync slot) :=
  fun h => ⟨fun _ e => by cases e; exact slot_wf h, nofun⟩
theorem F.syncStart (slot : Slot) : F.Statement (.syncStart slot) :=
  fun h => ⟨fun _ e => by cases e; exact slot_wf h, nofun⟩
theorem F.syncStop (slot : Slot) : F.Statement (.syncStop slot) :=
  fun h => ⟨fun _ e => by cases e; exact slot_wf h, nofun⟩
theorem F.syncSelect (slot : Slot) : F.Statement (.syncSelect slot) :=
  fun h => ⟨fun _ e => by cases e; exact slot_wf h, nofun⟩
theorem F.timeRead (slot : Slot) : F.Statement (.timeRead slot) :=
  fun h => ⟨fun _ e => by cases e; exact slot_wf h, nofun⟩
theorem F.timeSet (slot : Slot) : F.Statement (.timeSet slot) :=
  fun h => ⟨fun _ e => by cases e; exact slot_wf h, nofun⟩
theorem F.timeStep (slot : Slot) : F.Statement (.timeStep slot) :=
  fun h => ⟨fun _ e => by cases e; exact slot_wf h, nofun⟩
theorem F.timeAlarmSet (slot : Slot) : F.Statement (.timeAlarmSet slot) :=
  fun h => ⟨fun _ e => by cases e; exact slot_wf h, nofun⟩
theorem F.timeAlarmClear (slot : Slot) : F.Statement (.timeAlarmClear slot) :=
  fun h => ⟨fun _ e => by cases e; exact slot_wf h, nofun⟩
theorem F.timeBeatTimeout : F.Statement .timeBeatTimeout :=
  fun _ => ⟨nofun, nofun⟩
theorem F.beatBoundary (samples : List ChannelSample) (barrierOk : Bool) : F.Statement (.beatBoundary samples barrierOk) :=
  fun _ => ⟨nofun, nofun⟩
theorem F.timeCopyCheck (diff : Int) : F.Statement (.timeCopyCheck diff) :=
  fun _ => ⟨nofun, nofun⟩
theorem F.channelSettled (channel : Nat) : F.Statement (.channelSettled channel) :=
  fun _ => ⟨nofun, nofun⟩
theorem F.halfbandSample (chain : Nat) (bits : Word) : F.Statement (.halfbandSample chain bits) :=
  fun _ => ⟨nofun, nofun⟩
theorem F.spikeQuietReturn (chain : Nat) : F.Statement (.spikeQuietReturn chain) :=
  fun _ => ⟨nofun, nofun⟩
theorem F.rawFilterSample (chain : Nat) : F.Statement (.rawFilterSample chain) :=
  fun _ => ⟨nofun, nofun⟩
theorem F.fadeEnd (chain : Nat) : F.Statement (.fadeEnd chain) :=
  fun _ => ⟨nofun, nofun⟩
theorem F.muffleEnd (chain : Nat) : F.Statement (.muffleEnd chain) :=
  fun _ => ⟨nofun, nofun⟩
theorem F.thresholdRise (chain : Nat) : F.Statement (.thresholdRise chain) :=
  fun _ => ⟨nofun, nofun⟩
theorem F.thresholdFall (chain : Nat) : F.Statement (.thresholdFall chain) :=
  fun _ => ⟨nofun, nofun⟩
theorem F.rawBlockClose (chain : Nat) (barrierOk : Bool) : F.Statement (.rawBlockClose chain barrierOk) :=
  fun _ => ⟨nofun, nofun⟩
theorem F.chainReset (chain : Nat) : F.Statement (.chainReset chain) :=
  fun _ => ⟨nofun, nofun⟩
theorem F.beatEdge : F.Statement .beatEdge :=
  fun _ => ⟨nofun, nofun⟩
theorem F.measurementBeat (sample : MeasSample) : F.Statement (.measurementBeat sample) :=
  fun _ => ⟨nofun, nofun⟩
theorem F.channelStuck : F.Statement .channelStuck :=
  fun _ => ⟨nofun, nofun⟩
theorem F.calPhaseSettled : F.Statement .calPhaseSettled :=
  fun _ => ⟨nofun, nofun⟩
theorem F.calTakeover : F.Statement .calTakeover :=
  fun _ => ⟨nofun, nofun⟩
theorem F.calHandback : F.Statement .calHandback :=
  fun _ => ⟨nofun, nofun⟩
theorem F.calTimeout : F.Statement .calTimeout :=
  fun _ => ⟨nofun, nofun⟩
theorem F.calRevertEnd : F.Statement .calRevertEnd :=
  fun _ => ⟨nofun, nofun⟩
theorem F.calStore (verify1 : Bool) (verify2 : Bool) (cut : Option StoreCut) : F.Statement (.calStore verify1 verify2 cut) :=
  fun _ => ⟨nofun, nofun⟩
theorem F.bellScores (eccBad : Bool) (env : WakeEnv) : F.Statement (.bellScores eccBad env) :=
  fun _ => ⟨nofun, nofun⟩
theorem F.verdictTimeout : F.Statement .verdictTimeout :=
  fun _ => ⟨nofun, nofun⟩
theorem F.rwakeInAccept (env : WakeEnv) : F.Statement (.rwakeInAccept env) :=
  fun _ => ⟨nofun, nofun⟩
theorem F.rwakeOutPulseEnd : F.Statement .rwakeOutPulseEnd :=
  fun _ => ⟨nofun, nofun⟩
theorem F.rwakeQuietEnd : F.Statement .rwakeQuietEnd :=
  fun _ => ⟨nofun, nofun⟩
theorem F.wakeNAccept (env : WakeEnv) : F.Statement (.wakeNAccept env) :=
  fun _ => ⟨nofun, nofun⟩
theorem F.rtcAlarm (env : WakeEnv) : F.Statement (.rtcAlarm env) :=
  fun _ => ⟨nofun, nofun⟩
theorem F.wakeFail (source : WakeSource) (why : WakeFailure) : F.Statement (.wakeFail source why) :=
  fun _ => ⟨nofun, nofun⟩
theorem F.idleEntry : F.Statement .idleEntry :=
  fun _ => ⟨nofun, nofun⟩
theorem F.islandGate (core : Nat) : F.Statement (.islandGate core) :=
  fun _ => ⟨nofun, nofun⟩
theorem F.railChangeComplete (reply : AvsReply) : F.Statement (.railChangeComplete reply) :=
  fun _ => ⟨nofun, nofun⟩
theorem F.accountSlot (temps : List Int) : F.Statement (.accountSlot temps) :=
  fun _ => ⟨nofun, nofun⟩
theorem F.thermalClockEnd : F.Statement .thermalClockEnd :=
  fun _ => ⟨nofun, nofun⟩
theorem F.thermalTripEnd : F.Statement .thermalTripEnd :=
  fun _ => ⟨nofun, nofun⟩
theorem F.escalationWindow (cycles : List ClassCycles) : F.Statement (.escalationWindow cycles) :=
  fun _ => ⟨nofun, nofun⟩
theorem F.pieceComplete (ref : PieceRef) (env : PieceEnv) : F.Statement (.pieceComplete ref env) :=
  fun _ => ⟨nofun, nofun⟩
theorem F.bellCommitStored (ref : PieceRef) (verified : Bool) (fixed : Nat) : F.Statement (.bellCommitStored ref verified fixed) :=
  fun _ => ⟨nofun, nofun⟩
theorem F.waitComplete (ref : PieceRef) : F.Statement (.waitComplete ref) :=
  fun _ => ⟨nofun, nofun⟩
theorem F.waitTimeout (ref : PieceRef) : F.Statement (.waitTimeout ref) :=
  fun _ => ⟨nofun, nofun⟩
theorem F.genWaitTimeout (ref : PieceRef) : F.Statement (.genWaitTimeout ref) :=
  fun _ => ⟨nofun, nofun⟩
theorem F.streamCopyComplete (stream : Nat) (bad : Bool) (fixed : Nat) : F.Statement (.streamCopyComplete stream bad fixed) :=
  fun _ => ⟨nofun, nofun⟩
theorem F.shadowReplay (core : Nat) (repeated : Bool) : F.Statement (.shadowReplay core repeated) :=
  fun _ => ⟨nofun, nofun⟩
theorem F.replayAbandon (core : Nat) : F.Statement (.replayAbandon core) :=
  fun _ => ⟨nofun, nofun⟩
theorem F.sequencerStall (core : Nat) : F.Statement (.sequencerStall core) :=
  fun _ => ⟨nofun, nofun⟩
theorem F.coreFault (core : Nat) (check : BlockCheck) : F.Statement (.coreFault core check) :=
  fun _ => ⟨nofun, nofun⟩
theorem F.coreFaultCopyDone (core : Nat) (badTiles : List Nat) (fixed : Nat) : F.Statement (.coreFaultCopyDone core badTiles fixed) :=
  fun _ => ⟨nofun, nofun⟩
theorem F.probeOverdue (core : Nat) : F.Statement (.probeOverdue core) :=
  fun _ => ⟨nofun, nofun⟩
theorem F.probeSliceComplete (core : Nat) (matched : Bool) (fixed : Nat) : F.Statement (.probeSliceComplete core matched fixed) :=
  fun _ => ⟨nofun, nofun⟩
theorem F.dramScrub (fixed : Nat) (badLines : List Nat) : F.Statement (.dramScrub fixed badLines) :=
  fun _ => ⟨nofun, nofun⟩
theorem F.healthLogWrite : F.Statement .healthLogWrite :=
  fun _ => ⟨nofun, nofun⟩
theorem F.linkUp (side : Side) (width : Nat) (test : LaneTest) : F.Statement (.linkUp side width test) :=
  fun _ => ⟨nofun, nofun⟩
theorem F.linkTrainTimeout (side : Side) : F.Statement (.linkTrainTimeout side) :=
  fun _ => ⟨nofun, nofun⟩
theorem F.linkRetry (side : Side) : F.Statement (.linkRetry side) :=
  fun _ => ⟨nofun, nofun⟩
theorem F.retrain (side : Side) (width : Option Nat) (test : LaneTest) : F.Statement (.retrain side width test) :=
  fun _ => ⟨nofun, nofun⟩
theorem F.frameCrcFail (side : Side) (inverted : Bool) (copy : Option Frame) : F.Statement (.frameCrcFail side inverted copy) :=
  fun _ => ⟨nofun, nofun⟩
theorem F.linkAckTimer (side : Side) : F.Statement (.linkAckTimer side) :=
  fun _ => ⟨nofun, nofun⟩
theorem F.linkAck (side : Side) (frame : Frame) : F.Statement (.linkAck side frame) :=
  fun h => ⟨nofun, fun _ e => by cases e; exact frame_wf h⟩
theorem F.linkNak (side : Side) (frame : Frame) : F.Statement (.linkNak side frame) :=
  fun h => ⟨nofun, fun _ e => by cases e; exact frame_wf h⟩
theorem F.ident (side : Side) (node : Nat) (theirSide : Side) (width : Nat) (role : Nat) : F.Statement (.ident side node theirSide width role) :=
  fun _ => ⟨nofun, nofun⟩
theorem F.unknownFrame (side : Side) (frame : Frame) : F.Statement (.unknownFrame side frame) :=
  fun h => ⟨nofun, fun _ e => by cases e; exact frame_wf h⟩
theorem F.rollCall (side : Side) (frame : Frame) : F.Statement (.rollCall side frame) :=
  fun h => ⟨nofun, fun _ e => by cases e; exact frame_wf h⟩
theorem F.formationEnd (rttNs : Nat) (env : RollEnv) : F.Statement (.formationEnd rttNs env) :=
  fun _ => ⟨nofun, nofun⟩
theorem F.agreementTimer (env : RollEnv) : F.Statement (.agreementTimer env) :=
  fun _ => ⟨nofun, nofun⟩
theorem F.winUnit (side : Side) (frame : Frame) : F.Statement (.winUnit side frame) :=
  fun h => ⟨nofun, fun _ e => by cases e; exact frame_wf h⟩
theorem F.winUnitTimeout : F.Statement .winUnitTimeout :=
  fun _ => ⟨nofun, nofun⟩
theorem F.winCopyReq (side : Side) (frame : Frame) : F.Statement (.winCopyReq side frame) :=
  fun h => ⟨nofun, fun _ e => by cases e; exact frame_wf h⟩
theorem F.winCopyData (side : Side) (frame : Frame) : F.Statement (.winCopyData side frame) :=
  fun h => ⟨nofun, fun _ e => by cases e; exact frame_wf h⟩
theorem F.putData (side : Side) (frame : Frame) (last : Bool) : F.Statement (.putData side frame last) :=
  fun h => ⟨nofun, fun _ e => by cases e; exact frame_wf (Bool.and_eq_true_iff.mp h).1⟩
theorem F.putAck (side : Side) (frame : Frame) : F.Statement (.putAck side frame) :=
  fun h => ⟨nofun, fun _ e => by cases e; exact frame_wf h⟩
theorem F.getReq (side : Side) (frame : Frame) : F.Statement (.getReq side frame) :=
  fun h => ⟨nofun, fun _ e => by cases e; exact frame_wf h⟩
theorem F.getData (side : Side) (frame : Frame) : F.Statement (.getData side frame) :=
  fun h => ⟨nofun, fun _ e => by cases e; exact frame_wf h⟩
theorem F.doorbellFrame (side : Side) (frame : Frame) : F.Statement (.doorbellFrame side frame) :=
  fun h => ⟨nofun, fun _ e => by cases e; exact frame_wf h⟩
theorem F.exchNak (side : Side) (frame : Frame) : F.Statement (.exchNak side frame) :=
  fun h => ⟨nofun, fun _ e => by cases e; exact frame_wf h⟩
theorem F.exchTimeout (ref : PieceRef) : F.Statement (.exchTimeout ref) :=
  fun _ => ⟨nofun, nofun⟩
theorem F.bootReq (side : Side) (frame : Frame) : F.Statement (.bootReq side frame) :=
  fun h => ⟨nofun, fun _ e => by cases e; exact frame_wf h⟩
theorem F.bootData (side : Side) (frame : Frame) : F.Statement (.bootData side frame) :=
  fun h => ⟨nofun, fun _ e => by cases e; exact frame_wf h⟩
theorem F.ringBootTimeout : F.Statement .ringBootTimeout :=
  fun _ => ⟨nofun, nofun⟩
theorem F.rollData (side : Side) (frame : Frame) (env : RollEnv) : F.Statement (.rollData side frame env) :=
  fun h => ⟨nofun, fun _ e => by cases e; exact frame_wf h⟩
theorem F.rollOffer (side : Side) (frame : Frame) : F.Statement (.rollOffer side frame) :=
  fun h => ⟨nofun, fun _ e => by cases e; exact frame_wf h⟩
theorem F.rollHave (side : Side) (frame : Frame) : F.Statement (.rollHave side frame) :=
  fun h => ⟨nofun, fun _ e => by cases e; exact frame_wf h⟩
theorem F.rollNeed (side : Side) (frame : Frame) : F.Statement (.rollNeed side frame) :=
  fun h => ⟨nofun, fun _ e => by cases e; exact frame_wf h⟩
theorem F.rollRefuse (side : Side) (frame : Frame) (env : RollEnv) : F.Statement (.rollRefuse side frame env) :=
  fun h => ⟨nofun, fun _ e => by cases e; exact frame_wf h⟩
theorem F.rollStaged (side : Side) (frame : Frame) : F.Statement (.rollStaged side frame) :=
  fun h => ⟨nofun, fun _ e => by cases e; exact frame_wf h⟩
theorem F.rollActivate (side : Side) (frame : Frame) (env : RollEnv) : F.Statement (.rollActivate side frame env) :=
  fun h => ⟨nofun, fun _ e => by cases e; exact frame_wf h⟩
theorem F.rollAgree (side : Side) (frame : Frame) (env : RollEnv) : F.Statement (.rollAgree side frame env) :=
  fun h => ⟨nofun, fun _ e => by cases e; exact frame_wf h⟩
theorem F.rollVerdict (side : Side) (frame : Frame) (env : RollEnv) : F.Statement (.rollVerdict side frame env) :=
  fun h => ⟨nofun, fun _ e => by cases e; exact frame_wf h⟩
theorem F.rollConfirm (side : Side) (frame : Frame) (env : RollEnv) : F.Statement (.rollConfirm side frame env) :=
  fun h => ⟨nofun, fun _ e => by cases e; exact frame_wf h⟩
theorem F.rollClose (side : Side) (frame : Frame) (env : RollEnv) : F.Statement (.rollClose side frame env) :=
  fun h => ⟨nofun, fun _ e => by cases e; exact frame_wf h⟩
theorem F.rollTimeout : F.Statement .rollTimeout :=
  fun _ => ⟨nofun, nofun⟩
theorem F.activationRestart (env : BootEnv) : F.Statement (.activationRestart env) :=
  fun _ => ⟨nofun, nofun⟩
theorem F.rvyIdent : F.Statement .rvyIdent :=
  fun _ => ⟨nofun, nofun⟩
theorem F.rvyStatus : F.Statement .rvyStatus :=
  fun _ => ⟨nofun, nofun⟩
theorem F.rvyRead (addr : Word) (count : Nat) : F.Statement (.rvyRead addr count) :=
  fun _ => ⟨nofun, nofun⟩
theorem F.rvyWren : F.Statement .rvyWren :=
  fun _ => ⟨nofun, nofun⟩
theorem F.rvyErase4k (addr : Word) : F.Statement (.rvyErase4k addr) :=
  fun _ => ⟨nofun, nofun⟩
theorem F.rvyErase64k (addr : Word) : F.Statement (.rvyErase64k addr) :=
  fun _ => ⟨nofun, nofun⟩
theorem F.rvyProgram (addr : Word) (data : List Byte) : F.Statement (.rvyProgram addr data) :=
  fun _ => ⟨nofun, nofun⟩
theorem F.rvyUnknownOpcode (opcode : Byte) : F.Statement (.rvyUnknownOpcode opcode) :=
  fun _ => ⟨nofun, nofun⟩
theorem F.linkLoss (side : Side) : F.Statement (.linkLoss side) :=
  fun _ => ⟨nofun, nofun⟩
theorem F.pcieLinkUp (cfg : PcieCfg) : F.Statement (.pcieLinkUp cfg) :=
  fun _ => ⟨nofun, nofun⟩
theorem F.pcieLinkDown : F.Statement .pcieLinkDown :=
  fun _ => ⟨nofun, nofun⟩
theorem F.probeDue (core : Nat) : F.Statement (.probeDue core) :=
  fun _ => ⟨nofun, nofun⟩
theorem F.islandReady (group : Nat) : F.Statement (.islandReady group) :=
  fun _ => ⟨nofun, nofun⟩
theorem F.clockSwitch : F.Statement .clockSwitch :=
  fun _ => ⟨nofun, nofun⟩
theorem F.saveBegins : F.Statement .saveBegins :=
  fun _ => ⟨nofun, nofun⟩
theorem F.loaderFlashWorkDone (ok : Bool) : F.Statement (.loaderFlashWorkDone ok) :=
  fun _ => ⟨nofun, nofun⟩
theorem F.recoveryPortOpen : F.Statement .recoveryPortOpen :=
  fun _ => ⟨nofun, nofun⟩

end Sys2Proof.Laws
end

