-- ==== Sys2Proof/Laws/Run.lean ====
section
/-! SUPPORT. The end of a command: which fields delivering events and writing records leave alone, how long the event
queue can become, where a record and an event go when nothing else is held, and what run and quiet answer. -/

namespace Sys2Proof.Laws.Run

open Sys2Proof.Machine

/-! ## What the end of a command leaves alone -/

/-- Everything of the hardware that writing records and delivering events never touches, other fields made constant. -/
def still (h : Hw) : Hw :=
  { h with
    sq := { h.sq with owned := [], posts := [], queue := [], lost := 0, heldRecords := [] }
    health := { h.health with
      cnt := { h.health.cnt with eventsLost := 0 }, buffer := [], logNext := 0, logLost := 0, lostOwed := false
      boots := 0, badUnits := [], written := [] }
    writes := [], records := [], raised := [], draws := 0 }

theorem still_put (sp : Space) (a : Nat) (bs : List Byte) (h : Hw) : still (put sp a bs h) = still h := rfl

theorem still_disown (p : Nat) (h : Hw) : still (disown p h) = still h := rfl

theorem still_writeRecord (r : Record) (h : Hw) : still (writeRecord r h) = still h := by
  simp only [writeRecord]; rfl

theorem still_completeNow (r : Record) (h : Hw) : still (completeNow r h) = still h := by
  simp only [completeNow]
  split
  · exact still_writeRecord r h
  · rfl

theorem still_foldl {α : Type} (f : Hw → α → Hw) (hf : ∀ h x, still (f h x) = still h) (xs : List α) (h : Hw) :
    still (xs.foldl f h) = still h := by
  induction xs generalizing h with
  | nil => rfl
  | cons x xs ih => rw [List.foldl_cons, ih, hf]

theorem still_logAdd (r : LogReq) (h : Hw) : still (logAdd r h).1 = still h := by
  simp only [logAdd]
  split
  · rfl
  · split <;> rfl

theorem still_enqueue (e : Event) (h : Hw) : still (enqueue e h) = still h := by
  simp only [enqueue]
  split <;> rfl

theorem still_deliverEvent (e : Event) (h : Hw) : still (deliverEvent e h) = still h := by
  simp only [deliverEvent]
  split
  · split
    · rw [still_completeNow]; rfl
    · exact still_enqueue e h
  · exact still_enqueue e h

theorem still_stampSeq (e : Event) (n : Option Nat) (h : Hw) : still (stampSeq e n h).2 = still h := by
  simp only [stampSeq]
  split <;> rfl

theorem still_deliver (h : Hw) (r : Raised) : still (deliver h r) = still h := by
  obtain ⟨ev, en⟩ := r
  cases ev <;> cases en <;> simp only [deliver]
  · exact still_logAdd _ h
  · exact still_deliverEvent _ h
  · rw [still_deliverEvent, still_stampSeq, still_logAdd]

theorem still_releasePosts (n : Nat) (h : Hw) : still (releasePosts n h) = still h := by
  induction n generalizing h with
  | zero => rfl
  | succ n ih =>
    simp only [releasePosts]
    split
    · split
      · split
        · rw [ih, still_completeNow]; rfl
        · rfl
      · rfl
    · rfl

theorem still_flushHeld (h : Hw) : still (flushHeld h) = still h := by
  simp only [flushHeld]
  split
  · rw [still_foldl _ (fun h r => still_writeRecord r h)]; rfl
  · rfl

/-- The end of a command leaves alone all that `still` keeps. -/
theorem still_finish (h : Hw) : still (finish h) = still h := by
  have h1 : still ((flushHeld h).records.foldl (fun h r => completeNow r h) { flushHeld h with records := [] }) = still h :=
    (still_foldl _ (fun h r => still_completeNow r h) _ _).trans (still_flushHeld h)
  exact (still_releasePosts _ _).trans ((still_foldl deliver still_deliver _ _).trans h1)

theorem finish_board (h : Hw) : (finish h).board = h.board := by
  simpa [still] using congrArg Hw.board (still_finish h)
theorem finish_image (h : Hw) : (finish h).image = h.image := by
  simpa [still] using congrArg Hw.image (still_finish h)
theorem finish_drum (h : Hw) : (finish h).drum = h.drum := by
  simpa [still] using congrArg Hw.drum (still_finish h)
theorem finish_raw (h : Hw) : (finish h).raw = h.raw := by
  simpa [still] using congrArg Hw.raw (still_finish h)
theorem finish_cal (h : Hw) : (finish h).cal = h.cal := by
  simpa [still] using congrArg Hw.cal (still_finish h)
theorem finish_bell (h : Hw) : (finish h).bell = h.bell := by
  simpa [still] using congrArg Hw.bell (still_finish h)
theorem finish_cascade (h : Hw) : (finish h).cascade = h.cascade := by
  simpa [still] using congrArg Hw.cascade (still_finish h)
theorem finish_sched (h : Hw) : (finish h).sched = h.sched := by
  simpa [still] using congrArg Hw.sched (still_finish h)
theorem finish_streams (h : Hw) : (finish h).streams = h.streams := by
  simpa [still] using congrArg Hw.streams (still_finish h)
theorem finish_ring (h : Hw) : (finish h).ring = h.ring := by
  simpa [still] using congrArg Hw.ring (still_finish h)
theorem finish_power (h : Hw) : (finish h).power = h.power := by
  simpa [still] using congrArg Hw.power (still_finish h)
theorem finish_update (h : Hw) : (finish h).update = h.update := by
  simpa [still] using congrArg Hw.update (still_finish h)
theorem finish_rvy (h : Hw) : (finish h).rvy = h.rvy := by
  simpa [still] using congrArg Hw.rvy (still_finish h)
theorem finish_wipe (h : Hw) : (finish h).wipe = h.wipe := by
  simpa [still] using congrArg Hw.wipe (still_finish h)
theorem finish_sent (h : Hw) : (finish h).sent = h.sent := by
  simpa [still] using congrArg Hw.sent (still_finish h)
theorem finish_producer (h : Hw) : (finish h).sq.producer = h.sq.producer := by
  simpa [still] using congrArg (fun h => h.sq.producer) (still_finish h)
theorem finish_fetch (h : Hw) : (finish h).sq.fetch = h.sq.fetch := by
  simpa [still] using congrArg (fun h => h.sq.fetch) (still_finish h)
theorem finish_linkUp (h : Hw) : (finish h).sq.linkUp = h.sq.linkUp := by
  simpa [still] using congrArg (fun h => h.sq.linkUp) (still_finish h)
theorem finish_cfg (h : Hw) : (finish h).sq.cfg = h.sq.cfg := by
  simpa [still] using congrArg (fun h => h.sq.cfg) (still_finish h)
theorem finish_cfgKept (h : Hw) : (finish h).sq.cfgKept = h.sq.cfgKept := by
  simpa [still] using congrArg (fun h => h.sq.cfgKept) (still_finish h)
theorem finish_fetchStopped (h : Hw) : (finish h).sq.fetchStopped = h.sq.fetchStopped := by
  simpa [still] using congrArg (fun h => h.sq.fetchStopped) (still_finish h)
theorem finish_causes (h : Hw) : (finish h).health.causes = h.health.causes := by
  simpa [still] using congrArg (fun h => h.health.causes) (still_finish h)
theorem finish_lastBoot (h : Hw) : (finish h).health.lastBoot = h.health.lastBoot := by
  simpa [still] using congrArg (fun h => h.health.lastBoot) (still_finish h)
theorem finish_lastRecovery (h : Hw) : (finish h).health.lastRecovery = h.health.lastRecovery := by
  simpa [still] using congrArg (fun h => h.health.lastRecovery) (still_finish h)
theorem finish_bootTime (h : Hw) : (finish h).health.bootTime = h.health.bootTime := by
  simpa [still] using congrArg (fun h => h.health.bootTime) (still_finish h)
theorem finish_resetRail (h : Hw) : (finish h).health.resetRail = h.health.resetRail := by
  simpa [still] using congrArg (fun h => h.health.resetRail) (still_finish h)
theorem finish_storm (h : Hw) : (finish h).health.storm = h.health.storm := by
  simpa [still] using congrArg (fun h => h.health.storm) (still_finish h)
theorem finish_stormWin (h : Hw) : (finish h).health.stormWin = h.health.stormWin := by
  simpa [still] using congrArg (fun h => h.health.stormWin) (still_finish h)
theorem finish_logOldest (h : Hw) : (finish h).health.logOldest = h.health.logOldest := by
  simpa [still] using congrArg (fun h => h.health.logOldest) (still_finish h)
theorem finish_logPos (h : Hw) : (finish h).health.logPos = h.health.logPos := by
  simpa [still] using congrArg (fun h => h.health.logPos) (still_finish h)

/-- Every counter but the one of lost events. -/
theorem finish_cnt (h : Hw) : { (finish h).health.cnt with eventsLost := 0 } = { h.health.cnt with eventsLost := 0 } :=
  congrArg (fun h => h.health.cnt) (still_finish h)

/-! ## The event queue (R38) -/

theorem completeNow_sq (r : Record) (h : Hw) :
    (completeNow r h).sq.posts = h.sq.posts ∧ (completeNow r h).sq.queue = h.sq.queue := by
  simp only [completeNow]
  split <;> exact ⟨rfl, rfl⟩

theorem writeRecord_sq (r : Record) (h : Hw) :
    (writeRecord r h).sq.posts = h.sq.posts ∧ (writeRecord r h).sq.queue = h.sq.queue := ⟨rfl, rfl⟩

theorem logAdd_sq (r : LogReq) (h : Hw) : (logAdd r h).1.sq = h.sq := by
  simp only [logAdd]
  split
  · rfl
  · split <;> rfl

theorem stampSeq_sq (e : Event) (n : Option Nat) (h : Hw) : (stampSeq e n h).2.sq = h.sq := by
  simp only [stampSeq]
  split <;> rfl

theorem stampSeq_event (e : Event) (n : Option Nat) (h : Hw) :
    (stampSeq e n h).1.status = e.status ∧ (stampSeq e n h).1.detail = e.detail := by
  simp only [stampSeq]
  split <;> exact ⟨rfl, rfl⟩

theorem enqueue_length (e : Event) (h : Hw) (hq : h.sq.queue.length ≤ 64) : (enqueue e h).sq.queue.length ≤ 64 := by
  simp only [enqueue]
  split
  · simp; omega
  · exact hq

theorem deliverEvent_length (e : Event) (h : Hw) (hq : h.sq.queue.length ≤ 64) :
    (deliverEvent e h).sq.queue.length ≤ 64 := by
  simp only [deliverEvent]
  split
  · split
    · rw [(completeNow_sq _ _).2]; exact hq
    · exact enqueue_length e h hq
  · exact enqueue_length e h hq

theorem deliver_length (h : Hw) (r : Raised) (hq : h.sq.queue.length ≤ 64) : (deliver h r).sq.queue.length ≤ 64 := by
  obtain ⟨ev, en⟩ := r
  cases ev <;> cases en <;> simp only [deliver]
  · exact hq
  · rw [logAdd_sq]; exact hq
  · exact deliverEvent_length _ h hq
  · apply deliverEvent_length
    rw [stampSeq_sq, logAdd_sq]; exact hq

theorem foldl_deliver_length (rs : List Raised) (h : Hw) (hq : h.sq.queue.length ≤ 64) :
    (rs.foldl deliver h).sq.queue.length ≤ 64 := by
  induction rs generalizing h with
  | nil => exact hq
  | cons r rs ih => exact ih _ (deliver_length h r hq)

theorem releasePosts_queue (n : Nat) (h : Hw) : (releasePosts n h).sq.queue = h.sq.queue := by
  induction n generalizing h with
  | zero => rfl
  | succ n ih =>
    simp only [releasePosts]
    split
    · split
      · split
        · rw [ih, (completeNow_sq _ _).2]
        · rfl
      · rfl
    · rfl

/-- Whatever a command raises, no more than 64 events wait when it has ended. -/
theorem finish_queue_length (h : Hw) : (finish h).sq.queue.length ≤ 64 := by
  simp only [finish]
  rw [releasePosts_queue]
  exact foldl_deliver_length _ _ (by simp)

/-! ## Events and records when nothing is held -/

/-- Status and detail of an event. -/
def named (e : Event) : Status × Detail := (e.status, e.detail)

theorem deliverEvent_queue (e : Event) (h : Hw) (hp : h.sq.posts = []) (hq : h.sq.queue.length < 64) :
    (deliverEvent e h).sq.queue.map named = h.sq.queue.map named ++ [named e] ∧ (deliverEvent e h).sq.posts = [] ∧
      (deliverEvent e h).writes = h.writes ∧ (deliverEvent e h).sq.owned = h.sq.owned := by
  simp only [deliverEvent, hp, List.find?_nil, enqueue, hq, if_true, ite_self]
  simp

theorem deliver_queue (h : Hw) (r : Raised) (hp : h.sq.posts = []) (hq : h.sq.queue.length < 64) :
    (deliver h r).sq.queue.map named = h.sq.queue.map named ++ (r.event.map named).toList ∧ (deliver h r).sq.posts = [] ∧
      (deliver h r).writes = h.writes ∧ (deliver h r).sq.owned = h.sq.owned := by
  obtain ⟨ev, en⟩ := r
  have logW : ∀ q, (logAdd q h).1.writes = h.writes := by
    intro q
    simp only [logAdd]
    split
    · rfl
    · split <;> rfl
  cases ev with
  | none =>
    cases en with
    | none => simp [deliver, hp]
    | some q => simp [deliver, logAdd_sq, hp, logW]
  | some e =>
    cases en with
    | none => simpa [deliver] using deliverEvent_queue e h hp hq
    | some q =>
      have hs := stampSeq_sq e (logAdd q h).2 (logAdd q h).1
      have hl := logAdd_sq q h
      have hn : named (stampSeq e (logAdd q h).2 (logAdd q h).1).1 = named e := by
        have := stampSeq_event e (logAdd q h).2 (logAdd q h).1
        simp [named, this]
      have hw : (stampSeq e (logAdd q h).2 (logAdd q h).1).2.writes = h.writes := by
        rw [← logW q]
        simp only [stampSeq]
        split <;> rfl
      have key := deliverEvent_queue (stampSeq e (logAdd q h).2 (logAdd q h).1).1
        (stampSeq e (logAdd q h).2 (logAdd q h).1).2 (by rw [hs, hl]; exact hp) (by rw [hs, hl]; exact hq)
      simp only [deliver]
      rw [hs, hl, hw, hn] at key
      simpa using key

theorem foldl_deliver_queue (rs : List Raised) (h : Hw) (hp : h.sq.posts = [])
    (hq : h.sq.queue.length + rs.length ≤ 64) :
    (rs.foldl deliver h).sq.queue.map named = h.sq.queue.map named ++ rs.filterMap (fun r => r.event.map named) ∧
      (rs.foldl deliver h).sq.posts = [] ∧ (rs.foldl deliver h).writes = h.writes ∧
      (rs.foldl deliver h).sq.owned = h.sq.owned := by
  induction rs generalizing h with
  | nil => simp [hp]
  | cons r rs ih =>
    simp only [List.length_cons] at hq
    obtain ⟨h1, h2, h3, h4⟩ := deliver_queue h r hp (by omega)
    have hlen : (deliver h r).sq.queue.length ≤ h.sq.queue.length + 1 := by
      have := congrArg List.length h1
      simp only [List.length_map, List.length_append] at this
      have : (Option.map named r.event).toList.length ≤ 1 := by cases r.event <;> simp
      omega
    obtain ⟨g1, g2, g3, g4⟩ := ih (deliver h r) h2 (by omega)
    rw [List.foldl_cons]
    refine ⟨?_, g2, g3.trans h3, g4.trans h4⟩
    rw [g1, h1, List.append_assoc]
    congr 1
    cases he : r.event <;> simp [he]

theorem flushHeld_nil (h : Hw) (hh : h.sq.heldRecords = []) : flushHeld h = h := by
  have : { h with sq := { h.sq with heldRecords := [] } } = h := by rw [← hh]
  simp only [flushHeld, hh, List.foldl_nil, this, ite_self]

theorem releasePosts_nil (n : Nat) (h : Hw) (hp : h.sq.posts = []) : releasePosts n h = h := by
  cases n with
  | zero => rfl
  | succ n =>
    simp only [releasePosts, hp, List.find?_nil]
    split <;> rfl

/-- The records of a command, as they are written when nothing is held. -/
theorem foldl_completeNow (rs : List Record) (h : Hw) (hw : h.writesRecords = true) :
    let g := rs.foldl (fun h r => completeNow r h) h
    g.writes = h.writes ++ rs.map (fun r => (⟨ringSpace h, slotAddr h r.pos,
      wordsBytes ((stampLevel h r).words h.power.time)⟩ : Write)) ∧
    g.sq.owned = rs.foldl (fun o r => o.filter (fun x => x.pos != r.pos)) h.sq.owned ∧
    g.sq.posts = h.sq.posts ∧ g.sq.queue = h.sq.queue ∧ g.raised = h.raised := by
  induction rs generalizing h with
  | nil => simp
  | cons r rs ih =>
    have hc : completeNow r h = writeRecord r h := by simp [completeNow, hw]
    have := ih (writeRecord r h) hw
    simp only [List.foldl_cons, hc]
    simp only [] at this
    obtain ⟨h1, h2, h3, h4, h5⟩ := this
    refine ⟨?_, h2, h3, h4, h5⟩
    rw [h1]
    simp only [List.map_cons]
    rw [show (writeRecord r h).writes = h.writes ++ [(⟨ringSpace h, slotAddr h r.pos,
      wordsBytes ((stampLevel h r).words h.power.time)⟩ : Write)] from rfl, List.append_assoc]
    rfl

/-- What the end of a command does where no EVENT_POST and no record is held: its records are written in order, its
events follow those that wait. -/
theorem finish_plain (h : Hw) (hp : h.sq.posts = []) (hh : h.sq.heldRecords = [])
    (hw : h.writesRecords = true ∨ h.records = []) (hq : h.sq.queue.length + h.raised.length ≤ 64) :
    (finish h).writes = h.writes ++ h.records.map (fun r => (⟨ringSpace h, slotAddr h r.pos,
      wordsBytes ((stampLevel h r).words h.power.time)⟩ : Write)) ∧
    (finish h).sq.owned = h.records.foldl (fun o r => o.filter (fun x => x.pos != r.pos)) h.sq.owned ∧
    (finish h).sq.queue.map named = h.sq.queue.map named ++ h.raised.filterMap (fun r => r.event.map named) ∧
    (finish h).sq.posts = [] := by
  have hrec : ∀ g : Hw, g = h.records.foldl (fun h r => completeNow r h) { h with records := [] } →
      g.writes = h.writes ++ h.records.map (fun r => (⟨ringSpace h, slotAddr h r.pos,
        wordsBytes ((stampLevel h r).words h.power.time)⟩ : Write)) ∧
      g.sq.owned = h.records.foldl (fun o r => o.filter (fun x => x.pos != r.pos)) h.sq.owned ∧
      g.sq.posts = h.sq.posts ∧ g.sq.queue = h.sq.queue ∧ g.raised = h.raised := by
    intro g hg
    subst hg
    rcases hw with hw | hw
    · exact foldl_completeNow h.records { h with records := [] } hw
    · rw [hw]; simp
  obtain ⟨r1, r2, r3, r4, r5⟩ := hrec _ rfl
  have d := foldl_deliver_queue ((h.sq.queue.map fun e => ({ event := some e } : Raised)) ++ h.raised)
    { h.records.foldl (fun h r => completeNow r h) { h with records := [] } with
      raised := [], sq := { (h.records.foldl (fun h r => completeNow r h) { h with records := [] }).sq with queue := [] } }
    (r3.trans hp) (by simpa using hq)
  obtain ⟨d1, d2, d3, d4⟩ := d
  have e : finish h = ((h.sq.queue.map fun e => ({ event := some e } : Raised)) ++ h.raised).foldl deliver
      { h.records.foldl (fun h r => completeNow r h) { h with records := [] } with
        raised := [], sq := { (h.records.foldl (fun h r => completeNow r h) { h with records := [] }).sq with queue := [] } } := by
    simp only [finish, flushHeld_nil h hh, r4, r5]
    exact releasePosts_nil _ _ d2
  rw [e]
  refine ⟨d3.trans r1, d4.trans r2, ?_, d2⟩
  rw [d1]
  simp [List.filterMap_append, List.filterMap_map]

/-! ## What a command answers -/

theorem words_length (r : Record) (time : Nat) : (r.words time).length = 32 := by
  simp only [Record.words, fitTo, List.length_append, List.length_take, List.length_replicate]
  omega

theorem leBytes_length (n v : Nat) : (leBytes n v).length = n := by
  induction n generalizing v with
  | zero => rfl
  | succ n ih => simp [leBytes, ih]

theorem wordsBytes_length (ws : List Word) : (wordsBytes ws).length = 4 * ws.length := by
  induction ws with
  | nil => rfl
  | cons w ws ih => simp [wordsBytes, leBytes_length, ih]; omega

/-- The memory of a space after a write to it. -/
theorem applyWrite_of (m : Mems) (w : Write) :
    (applyWrite m w).of w.space = memWrite w.space.fill (m.of w.space) w.addr w.bytes := by
  cases h : w.space <;> simp [applyWrite, h, Mems.of]

/-- The memory of another space after a write. -/
theorem applyWrite_of_other (m : Mems) (w : Write) (sp : Space) (h : sp ≠ w.space) :
    (applyWrite m w).of sp = m.of sp := by
  cases hw : w.space <;> cases sp <;> simp_all [applyWrite, Mems.of]

/-- The bytes of a command's last write read back. -/
theorem read_last (m : Mems) (ws : List Write) (w : Write) :
    memReadN (w.space.fill.getD 0) ((applyWrites m (ws ++ [w])).of w.space) w.addr w.bytes.length = w.bytes := by
  rw [applyWrites, List.foldl_append, List.foldl_cons, List.foldl_nil, applyWrite_of]
  exact Memory.memReadN_memWrite _ _ _ _

/-- A byte that no write of a command reaches reads as before. -/
theorem read_outside (m : Mems) (ws : List Write) (sp : Space) (x : Nat)
    (h : ∀ w ∈ ws, w.space = sp → x < w.addr ∨ w.addr + w.bytes.length ≤ x) :
    memRead sp.fill ((applyWrites m ws).of sp) x = memRead sp.fill (m.of sp) x := by
  induction ws generalizing m with
  | nil => rfl
  | cons w ws ih =>
    have := ih (applyWrite m w) (fun w hw => h w (by simp [hw]))
    rw [show applyWrites m (w :: ws) = applyWrites (applyWrite m w) ws from rfl, this]
    by_cases hs : w.space = sp
    · subst hs
      rw [applyWrite_of]
      exact Memory.memRead_memWrite_other _ _ _ _ _ (h w (by simp) rfl)
    · rw [applyWrite_of_other m w sp (fun e => hs e.symm)]

/-- A command whose effect completes one slot, nothing being held: its record is in the slot, which is the host's. -/
theorem commit_completes (s : State) (h : Hw) (r : Record) (hr : h.records = [r]) (hp : h.sq.posts = [])
    (hh : h.sq.heldRecords = []) (hw : h.writesRecords = true) (hq : h.sq.queue.length + h.raised.length ≤ 64) :
    Completes (commit s (finish h)) r := by
  obtain ⟨f1, f2, -, -⟩ := finish_plain h hp hh (Or.inl hw) hq
  rw [hr] at f1 f2
  have hi := finish_image h
  have hpow := finish_power h
  have hst : stampLevel (commit s (finish h)).hw r = stampLevel h r := by
    unfold stampLevel levelInForce clockForced
    rw [show (commit s (finish h)).hw.power = h.power from hpow]
  refine ⟨?_, ?_⟩
  · have hsp : ringSpace (commit s (finish h)).hw = ringSpace h := by simp only [ringSpace, commit, hi]
    have ha : slotAddr (commit s (finish h)).hw r.pos = slotAddr h r.pos := by simp only [slotAddr, commit, hi]
    have ht : (commit s (finish h)).hw.power.time = h.power.time := by simp only [commit, hpow]
    rw [slotBytes, hsp, ha, hst, ht]
    have hm : (commit s (finish h)).mem = applyWrites (wipeMems (finish h).wipe s.mem) (h.writes ++ [(⟨ringSpace h,
        slotAddr h r.pos, wordsBytes ((stampLevel h r).words h.power.time)⟩ : Write)]) := by
      simp only [commit, f1, List.map_cons, List.map_nil]
    rw [hm]
    have := read_last (wipeMems (finish h).wipe s.mem) h.writes (⟨ringSpace h, slotAddr h r.pos,
      wordsBytes ((stampLevel h r).words h.power.time)⟩ : Write)
    rwa [show (wordsBytes ((stampLevel h r).words h.power.time)).length = 128 by
      rw [wordsBytes_length, words_length]] at this
  · intro o ho
    have : o ∈ h.sq.owned.filter (fun x => x.pos != r.pos) := by
      have e : (commit s (finish h)).hw.sq.owned = (finish h).sq.owned := rfl
      rw [e, f2] at ho
      simpa using ho
    have := (List.mem_filter.1 this).2
    simpa using this

/-- An event that a command raises waits in the queue, where no EVENT_POST is held and there is room. -/
theorem commit_reports (s : State) (h : Hw) (r : Raised) (e : Event) (hr : r ∈ h.raised) (he : r.event = some e)
    (hp : h.sq.posts = []) (hh : h.sq.heldRecords = []) (hw : h.writesRecords = true ∨ h.records = [])
    (hq : h.sq.queue.length + h.raised.length ≤ 64) : Reports (commit s (finish h)) e.status e.detail := by
  obtain ⟨-, -, f3, -⟩ := finish_plain h hp hh hw hq
  have : named e ∈ (finish h).sq.queue.map named := by
    rw [f3]
    apply List.mem_append_right
    rw [List.mem_filterMap]
    exact ⟨r, hr, by rw [he]; rfl⟩
  obtain ⟨x, hx, hn⟩ := List.mem_map.1 this
  exact ⟨x, hx, congrArg Prod.fst hn, congrArg Prod.snd hn⟩

theorem run_answers (f : Mems → Hw → Hw) (s : State) :
    run f s = .next (commit s (finish (f s.mem { s.hw with sent := [] }))) := rfl

theorem quiet_answers (f : Hw → Hw) (s : State) : quiet f s = .next { s with hw := f { s.hw with sent := [] } } := rfl

end Sys2Proof.Laws.Run
end

