-- ==== Sys2Proof/Laws/Sched.lean ====
section
/-! SUPPORT. What the scheduler leaves alone, whatever it issues and ends: every unit but its own tables, the stream table,
the outboxes, what an EXCHANGE sends, the rail changes under way, and IDLE, which it may turn into ACTIVE. -/

namespace Sys2Proof.Laws.Sched

open Sys2Proof.Machine

/-! ## The part that is kept -/

/-- What the scheduler leaves alone of a core. -/
def keepCore (c : Core) : Core :=
  { c with
    powered := false, clockOff := false, run := none, tiles := [], ws := 0, lastProbe := 0, due := false, overdue := false
    replays := 0 }

/-- What it leaves alone of a port: sending changes the rest. -/
def keepPort (p : Port) : Port := { p with txSeq := 0, retry := [], held := [], credit := [], owed := [] }

/-- What it leaves alone of a level change. -/
def keepChange (c : LevelChange) : LevelChange := { c with written := false }

/-- Everything that the scheduler leaves alone, other fields made constant. -/
def keep (h : Hw) : Hw :=
  { h with
    sched := { h.sched with
      graphs := [], checking := none, powering := none, powerNext := [], notices := [], ended := [], account := []
      cores := fitTo 32 (keepCore {}) (h.sched.cores.map keepCore) }
    streams := []
    ring := { h.ring with
      east := keepPort h.ring.east, west := keepPort h.ring.west, exch := [], nextTag := 0, winOpen := false, copying := none }
    power := { h.power with
      dev := if h.power.dev = .idle then .active else h.power.dev, change := h.power.change.map keepChange
      railChange := none, railNext := none, avs := [] }
    health := { h.health with
      causes := setBit h.health.causes causeEcc true, badUnits := [], written := []
      cnt := { h.health.cnt with
        csUe := 0, dramUe := 0, refusedAddr := 0, refusedMaster := 0, refusedValid := false, refusals := [] } }
    writes := [], records := [], raised := [], sent := [], draws := 0 }

theorem keep_foldl {α : Type} (f : Hw → α → Hw) (hf : ∀ h x, keep (f h x) = keep h) (xs : List α) (h : Hw) :
    keep (xs.foldl f h) = keep h := by
  induction xs generalizing h with
  | nil => rfl
  | cons x xs ih => rw [List.foldl_cons, ih, hf]

/-! ## Cores -/

theorem map_fitTo {α β : Type} (g : α → β) (n : Nat) (d : α) (xs : List α) :
    (fitTo n d xs).map g = fitTo n (g d) (xs.map g) := by
  simp [fitTo, List.map_take]

theorem fitTo_fitTo {α : Type} (n : Nat) (d e : α) (xs : List α) : fitTo n d (fitTo n e xs) = fitTo n e xs := by
  have : (fitTo n e xs).length = n := by simp [fitTo]; omega
  have h2 : (fitTo n e xs).take n = fitTo n e xs := List.take_of_length_le (by omega)
  conv_lhs => rw [fitTo]
  rw [h2, this]
  simp

theorem map_modifyAt {α β : Type} (g : α → β) (f : α → α) (hf : ∀ x, g (f x) = g x) (i : Nat) (xs : List α) :
    (modifyAt i f xs).map g = xs.map g := by
  induction xs generalizing i with
  | nil => cases i <;> rfl
  | cons x xs ih => cases i <;> simp [modifyAt, hf, ih]

theorem keep_setCore (k : Nat) (f : Core → Core) (hf : ∀ x, keepCore (f x) = keepCore x) (h : Hw) :
    keep (setCore k f h) = keep h := by
  have : fitTo 32 (keepCore {}) ((setCore k f h).sched.cores.map keepCore) =
      fitTo 32 (keepCore {}) (h.sched.cores.map keepCore) := by
    simp only [setCore]
    rw [map_modifyAt keepCore f hf, map_fitTo, fitTo_fitTo]
  simp only [keep, this]
  rfl

theorem keep_mapCores (g : Core → Core) (hg : ∀ x, keepCore (g x) = keepCore x) (h : Hw) :
    keep { h with sched := { h.sched with cores := h.sched.cores.map g } } = keep h := by
  have : (h.sched.cores.map g).map keepCore = h.sched.cores.map keepCore := by
    rw [List.map_map]; exact List.map_congr_left fun x _ => hg x
  simp only [keep, this]

/-! ## Causes -/

theorem bitOf_setBit (n k : Nat) : bitOf (setBit n k true) k = true := by
  simp only [setBit, if_true]
  split
  · assumption
  · rename_i hb
    simp only [bitOf, beq_iff_eq] at hb ⊢
    rw [Nat.add_div_right _ (Nat.two_pow_pos k)]
    omega

theorem setBit_setBit (n k : Nat) : setBit (setBit n k true) k true = setBit n k true := by
  have := bitOf_setBit n k
  conv_lhs => rw [setBit, if_pos rfl, if_pos this]

theorem keep_uncorrected (a : Nat) (h : Hw) : keep (uncorrected (memoryAt a) a h) = keep h := by
  have e : setBit (setBit h.health.causes causeEcc true) causeEcc true = setBit h.health.causes causeEcc true :=
    setBit_setBit _ _
  have c : memoryAt a = .dram ∨ memoryAt a = .coreStore ∨ memoryAt a = .window := by
    simp only [memoryAt]
    repeat' split
    all_goals simp
  rcases c with c | c | c <;> rw [c] <;> simp only [uncorrected, setCause, raiseHealth, keep, countUncorrected, e] <;> rfl

theorem keep_countRefusal (m a : Nat) (h : Hw) : keep (countRefusal m a h) = keep h := by
  simp only [countRefusal]
  split <;> rfl

/-! ## Outboxes -/

theorem keep_put (sp : Space) (a : Nat) (bs : List Byte) (h : Hw) : keep (put sp a bs h) = keep h := rfl

theorem keep_putDev (a : Nat) (bs : List Byte) (h : Hw) : keep (putDev a bs h) = keep h := by
  simp only [putDev]
  repeat' split
  all_goals rfl

theorem keep_drawNat (h : Hw) : keep (drawNat h).2 = keep h := rfl

theorem keep_markBad (xs : List Nat) (h : Hw) : keep (markBad xs h) = keep h := rfl

theorem keep_freeBytes (n : Nat) (h : Hw) : keep (freeBytes n h).2 = keep h := by
  induction n generalizing h with
  | zero => rfl
  | succ n ih => simp only [freeBytes]; rw [ih]; rfl

theorem keep_freeFill (rs : List (Nat × Nat)) (h : Hw) : keep (freeFill rs h) = keep h := by
  induction rs generalizing h with
  | nil => rfl
  | cons r rs ih =>
    obtain ⟨a, n⟩ := r
    simp only [freeFill]
    rw [ih, keep_markBad, keep_putDev, keep_drawNat, keep_freeBytes]

theorem keep_invalidateTiles (a n : Nat) (h : Hw) : keep (invalidateTiles a n h) = keep h :=
  keep_mapCores _ (by intro; rfl) h

theorem keep_completeOwned (p : Nat) (st : Status) (d : Detail) (ws : List Word) (h : Hw) :
    keep (completeOwned p st d ws h) = keep h := by
  simp only [completeOwned]
  split <;> rfl

theorem keep_goActive (h : Hw) : keep (goActive h) = keep h := by
  simp only [goActive]
  split
  · rename_i hd
    simp only [keep, hd]
    simp
  · rfl

/-! ## Sending -/

theorem keep_setPort (s : Side) (f : Port → Port) (hf : ∀ p, keepPort (f p) = keepPort p) (h : Hw) :
    keep (setPort s f h) = keep h := by
  cases s
  · have e := hf h.ring.east
    simp only [setPort, keep]
    rw [e]
    rfl
  · have e := hf h.ring.west
    simp only [setPort, keep]
    rw [e]
    rfl

theorem keep_transmit (s : Side) (fwd : Bool) (f : Frame) (h : Hw) : keep (transmit s fwd f h) = keep h := by
  simp only [transmit, oweCredit]
  split
  · rw [keep_setPort _ _ (by intro; rfl)]
    exact keep_setPort s _ (by intro; rfl) h
  · exact keep_setPort s _ (by intro; rfl) h

theorem keep_sendFrame (s : Side) (fwd : Bool) (f : Frame) (h : Hw) : keep (sendFrame s fwd f h) = keep h := by
  simp only [sendFrame]
  split
  · rfl
  · split
    · exact keep_transmit _ _ _ _
    · exact keep_setPort s _ (by intro; rfl) h

theorem keep_originate (s : Side) (f : Frame) (h : Hw) : keep (originate s f h) = keep h := keep_sendFrame _ _ _ _

theorem keep_requestCopy (h : Hw) : keep (requestCopy h) = keep h := by
  simp only [requestCopy]
  split
  · split
    · rfl
    · rw [keep_originate]; rfl
  · rfl

theorem keep_meetError (a : Nat) (h : Hw) : keep (meetError a h) = keep h := by
  simp only [meetError]
  split
  · rw [keep_requestCopy]; exact keep_uncorrected a h
  · exact keep_uncorrected a h

theorem keep_startExchange (m : Mems) (r : PieceRef) (o c : Nat) (d : List Word) (h : Hw) :
    keep (startExchange m r o c d h) = keep h := by
  simp only [startExchange]
  split
  · rfl
  · split
    · split
      · exact keep_meetError _ h
      · exact keep_countRefusal _ _ h
    · rw [keep_foldl _ (fun h f => keep_originate _ f h)]
      rfl

/-! ## Streams -/

theorem keep_setStream (i : Nat) (f : Stream → Stream) (h : Hw) : keep (setStream i f h) = keep h := rfl

theorem keep_endRequest (i : Nat) (r : StreamReq) (f : Option (Status × Detail)) (h : Hw) :
    keep (endRequest i r f h) = keep h := by
  cases r <;> simp only [endRequest]
  · split <;> rfl
  · rfl
  · exact keep_completeOwned _ _ _ _ h
  · exact keep_completeOwned _ _ _ _ h

theorem keep_modGraph (k : Nat) (f : Graph → Graph) (h : Hw) : keep (modGraph k f h) = keep h := rfl

theorem keep_chargeGraph (g : Option Nat) (c : Nat) (e : Rat) (h : Hw) : keep (chargeGraph g c e h) = keep h := rfl

theorem keep_startCopy (i : Nat) (r : StreamReq) (st : StreamSt) (d : Option (Nat × Nat)) (h : Hw) :
    keep (startCopy i r st d h) = keep h := by
  cases r <;> simp only [startCopy] <;> rw [keep_goActive] <;> rfl

theorem keep_askGroup (n : Nat) (h : Hw) : keep (askGroup n h) = keep h := by
  simp only [askGroup]
  repeat' split
  all_goals rfl

theorem keep_askIsland (k : Nat) (h : Hw) : keep (askIsland k h) = keep h := by
  simp only [askIsland]
  split
  · rfl
  · exact keep_askGroup _ h

theorem keep_makeRoom (n c : Nat) (cause : Option Nat) (cls : Nat) (h : Hw) : keep (makeRoom n c cause cls h) = keep h := by
  induction n generalizing h with
  | zero => rfl
  | succ n ih =>
    simp only [makeRoom]
    split
    · rfl
    · split
      · rfl
      · rw [ih]
        split
        · rw [keep_chargeGraph, keep_modGraph]; exact keep_setCore _ _ (by intro; rfl) h
        · exact keep_setCore _ _ (by intro; rfl) h

theorem keep_trySwapIn {i : Nat} {r : StreamReq} {h h' : Hw} (e : trySwapIn i r h = some h') : keep h' = keep h := by
  simp only [trySwapIn] at e
  split at e
  · rw [← Option.some.inj e, keep_makeRoom, keep_askIsland, keep_startCopy]
  · exact absurd e (by simp)

theorem keep_endHeld (i : Nat) (held : List StreamReq) (h : Hw) : keep (endHeld i held h) = keep h := by
  apply keep_foldl
  intro h q
  cases q <;> first | exact keep_endRequest _ _ _ h | rfl

theorem keep_closeEntry (i : Nat) (r : StreamReq) (h : Hw) : keep (closeEntry i r h) = keep h := by
  simp only [closeEntry]
  rw [keep_endHeld, keep_endRequest]
  rfl

theorem keep_takeRequest (i : Nat) (r : StreamReq) (h : Hw) : keep (takeRequest i r h) = keep h := by
  cases r <;> simp only [takeRequest] <;> repeat' split
  all_goals first
    | rfl
    | exact keep_closeEntry _ _ h
    | exact keep_startCopy _ _ _ _ h
    | exact keep_endRequest _ _ _ h
    | (rename_i e; exact keep_trySwapIn e)

theorem keep_serveStream (n i : Nat) (h : Hw) : keep (serveStream n i h) = keep h := by
  induction n generalizing h with
  | zero => rfl
  | succ n ih =>
    have body : ∀ s : Stream, keep (match nextRequest s with
        | some r => serveStream n i (takeRequest i r (setStream i (fun s => { s with reqs := s.reqs.erase r }) h))
        | none =>
          match s.reqs with
          | r :: _ =>
            if s.st = .swappedOut then (trySwapIn i r h).getD h
            else if s.st = .idle then setStream i (fun s => { s with st := .queued }) h
            else h
          | [] => if s.st = .queued then setStream i (fun s => { s with st := .idle }) h else h) = keep h := by
      intro s
      split
      · rw [ih, keep_takeRequest]; rfl
      · split
        · split
          · cases e : trySwapIn i _ h with
            | none => rfl
            | some h' => exact keep_trySwapIn e
          · split <;> rfl
        · split <;> rfl
    simp only [serveStream]
    split <;> first | exact body _ | rfl

theorem keep_serveStreams (h : Hw) : keep (serveStreams h) = keep h := by
  simp only [serveStreams]
  apply keep_foldl
  intro h i
  split
  · rfl
  · exact keep_serveStream _ _ h

/-! ## Tasks and graphs -/

theorem keep_modPiece (r : PieceRef) (f : PieceSt → PieceSt) (h : Hw) : keep (modPiece r f h) = keep h := rfl

theorem keep_failTask (k t : Nat) (st : Status) (d : Detail) (h : Hw) : keep (failTask k t st d h) = keep h := by
  simp only [failTask]
  split
  · rfl
  · split
    · rfl
    · have drop : ∀ (g : Graph) (h : Hw), keep ((List.range g.tasks.length).foldl (fun h i =>
          if taskKind (g.tasks.getD i {}).desc = kRecur then dropChunk k i h else h) h) = keep h := by
        intro g h
        apply keep_foldl
        intro h i
        split <;> rfl
      rw [show ∀ h, keep (modGraph k (fun g => { g with failure := g.failure.orElse fun _ => some (st, d, t) })
        (modTask k t (fun x => { x with st := .failed }) h)) = keep h from fun _ => rfl, drop]
      split
      all_goals
        first
        | rw [show ∀ i h, keep (chunkFails i h) = keep h from fun _ _ => rfl]
        | skip
        split
        all_goals
          try rw [keep_foldl _ (fun h r => keep_invalidateTiles _ _ h)]
          split <;> first | exact keep_freeFill _ _ | rfl

theorem keep_finishTask (k t : Nat) (h : Hw) : keep (finishTask k t h) = keep h := rfl

theorem keep_dropTiles (k : Nat) (h : Hw) : keep (dropTiles k h) = keep h := keep_mapCores _ (by intro; rfl) h

theorem keep_releaseChunks (g : Graph) (h : Hw) : keep (releaseChunks g h) = keep h := by
  apply keep_foldl
  intro h t
  dsimp only
  repeat' split
  all_goals rfl

theorem keep_endGraph (g : Graph) (h : Hw) : keep (endGraph g h) = keep h := by
  simp only [endGraph]
  rw [keep_dropTiles]
  have r := keep_releaseChunks g h
  generalize releaseChunks g h = k at r
  split
  · exact (keep_completeOwned _ _ _ _ k).trans r
  · split <;> exact r

theorem keep_endGraphs (h : Hw) : keep (endGraphs h) = keep h := keep_foldl _ (fun h g => keep_endGraph g h) _ h

theorem keep_rebindChunk (k t : Nat) (x : Task) (h : Hw) : keep (rebindChunk k t x h) = keep h := by
  simp only [rebindChunk]
  repeat' split
  all_goals first | rfl | exact keep_failTask _ _ _ _ h

theorem keep_ripenTask (k t : Nat) (g : Graph) (x : Task) (h : Hw) : keep (ripenTask k t g x h) = keep h := by
  simp only [ripenTask]
  repeat' split
  all_goals first
    | rfl
    | exact keep_finishTask _ _ h
    | exact keep_failTask _ _ _ _ h
    | (rw [keep_goActive]; rfl)

theorem keep_advanceTask (k t : Nat) (h : Hw) : keep (advanceTask k t h) = keep h := by
  simp only [advanceTask]
  split
  · rfl
  · split
    · rfl
    · rename_i g _ _
      have r := keep_rebindChunk k t (g.tasks.getD t {}) h
      generalize rebindChunk k t (g.tasks.getD t {}) h = y at r
      repeat' split
      all_goals first
        | exact r
        | exact (keep_ripenTask _ _ _ _ y).trans r
        | (rw [keep_ripenTask]; exact r)
        | exact (keep_failTask _ _ _ _ y).trans r

theorem keep_takeNotices (h : Hw) : keep (takeNotices h) = keep h := by
  simp only [takeNotices]
  rw [keep_foldl]
  · rfl
  · intro h n
    split
    · rfl
    · exact keep_failTask _ _ _ _ h

theorem keep_settlePass (h : Hw) : keep (settlePass h) = keep h := by
  simp only [settlePass]
  rw [keep_endGraphs, keep_serveStreams, keep_foldl, keep_takeNotices]
  intro h g
  exact keep_foldl _ (fun h t => keep_advanceTask _ t h) _ h

/-! ## Issue -/

theorem keep_askRail (l : Nat) (h : Hw) : keep (askRail l h) = keep h := by
  simp only [askRail]
  split <;> rfl

theorem keep_reserveSet (c : Cand) (k : Nat) (h : Hw) : keep (reserveSet c k h) = keep h := by
  simp only [reserveSet]
  split
  · rfl
  · rw [keep_makeRoom]; exact keep_setCore _ _ (by intro; rfl) h

theorem keep_recordIssue (m : Mems) (c : Cand) (e : Rat) (h : Hw) : keep (recordIssue m c e h) = keep h := by
  simp only [recordIssue]
  rw [keep_goActive]
  split <;> rfl

theorem keep_startOnCore (c : Cand) (k e : Nat) (h : Hw) : keep (startOnCore c k e h) = keep h := by
  have r := keep_reserveSet c k h
  simp only [startOnCore]
  generalize reserveSet c k h = g at r
  have e : keep (setCore k (fun x => { x with run := some (.piece c.ref e), replays := 0, clockOff := false }) g) = keep h :=
    (keep_setCore k _ (by intro; rfl) g).trans r
  split
  · rw [keep_modGraph, keep_modPiece, e]
  · rw [keep_modPiece, e]

theorem keep_failIssue (c : Cand) (st : Status) (d : Detail) (h : Hw) : keep (failIssue c st d h) = keep h :=
  keep_failTask _ _ _ _ h

theorem keep_issuePiece (m : Mems) (c : Cand) (core : Option Nat) (e : Nat) (q : Rat) (h : Hw) :
    keep (issuePiece m c core e q h) = keep h := by
  simp only [issuePiece]
  split
  · split
    · split
      · exact keep_failIssue _ _ _ h
      · rw [keep_startOnCore, keep_recordIssue]
        split <;> rfl
    · rw [keep_startOnCore, keep_recordIssue]
  · split
    · split
      · exact keep_failIssue _ _ _ h
      · exact keep_recordIssue _ _ _ h
    · split
      · rw [keep_startExchange]; exact keep_recordIssue _ _ _ h
      · exact keep_recordIssue _ _ _ h

theorem keep_wantPower (cs : List Cand) (h : Hw) : keep (wantPower h cs) = keep h := by
  simp only [wantPower]
  repeat' split
  all_goals first | rfl | exact keep_askGroup _ h

/-- The state that a turn leaves. -/
def turnState : Turn → Hw
  | .issued h => h
  | .next h => h
  | .stop h => h

theorem keep_classTurn (m : Mems) (cls : Nat) (h : Hw) : keep (turnState (classTurn m cls h)) = keep h := by
  have w := keep_wantPower (candidates h cls) h
  simp only [classTurn]
  generalize wantPower h (candidates h cls) = g at w
  have ask : ∀ (b : Bool) (l : Nat), keep (if b = true then askRail l g else g) = keep h := by
    intro b l
    split
    · exact (keep_askRail l g).trans w
    · exact w
  repeat' split
  all_goals first
    | exact w
    | exact (keep_askRail _ g).trans w
    | (rw [turnState, keep_issuePiece]
       first | exact w | exact ask _ _ | exact (keep_askRail _ g).trans w)

theorem keep_issueRound (m : Mems) (cs : List Nat) (h : Hw) :
    keep (issueRound m cs h).2 = keep h ∧ ∀ g, (issueRound m cs h).1 = some g → keep g = keep h := by
  induction cs generalizing h with
  | nil => exact ⟨rfl, fun g e => by simp [issueRound] at e⟩
  | cons c cs ih =>
    have t := keep_classTurn m c h
    simp only [issueRound]
    split
    · rename_i g e
      rw [e] at t
      exact ⟨t, fun x hx => by rw [← Option.some.inj hx]; exact t⟩
    · rename_i g e
      rw [e] at t
      exact ⟨t, fun x hx => by simp at hx⟩
    · rename_i g e
      rw [e] at t
      obtain ⟨i1, i2⟩ := ih g
      exact ⟨i1.trans t, fun x hx => (i2 x hx).trans t⟩

/-! ## The run -/

theorem keep_startProbe (k : Nat) (h : Hw) : keep (startProbe k h) = keep h := by
  simp only [startProbe]
  split
  · exact keep_setCore _ _ (by intro; rfl) h
  · exact keep_askIsland k h

theorem keep_startProbes (o : Bool) (h : Hw) : keep (startProbes o h) = keep h := by
  simp only [startProbes]
  split
  · apply keep_foldl
    intro h k
    repeat' split
    all_goals first | exact keep_startProbe k h | rfl
  · rfl

theorem keep_modFlags (k : Nat) (f : GFlags → GFlags) (h : Hw) : keep (modFlags k f h) = keep h := rfl

theorem keep_noteHeld (h : Hw) : keep (noteHeld h) = keep h := by
  simp only [noteHeld]
  split
  · apply keep_foldl
    intro h c
    exact keep_modFlags _ _ h
  · rfl

theorem keep_gateRetired (h : Hw) : keep (gateRetired h) = keep h := by
  have : ∀ (xs : List Core) (f : Nat → Core → Core), (∀ k x, keepCore (f k x) = keepCore x) →
      (xs.mapIdx f).map keepCore = xs.map keepCore := by
    intro xs f hf
    apply List.ext_getElem
    · simp
    · intro i h1 h2; simp [hf]
  have e : (gateRetired h).sched.cores.map keepCore = h.sched.cores.map keepCore := by
    apply this
    intro k x
    dsimp only
    repeat' split
    all_goals rfl
  simp only [keep]
  rw [e]
  rfl

theorem keep_railTurn (h : Hw) : keep (railTurn h) = keep h := by
  simp only [railTurn]
  split
  · rfl
  · split
    · split
      · rename_i c hc _
        simp only [beginRail, keep, hc]
        rfl
      · rfl
    · split
      · split <;> rfl
      · rfl

theorem keep_noteLevels (h : Hw) : keep (noteLevels h) = keep h := rfl

theorem keep_pickCheck (h : Hw) : keep (pickCheck h) = keep h := by
  simp only [pickCheck]
  repeat' split
  all_goals rfl

theorem keep_scheduleLoop (m : Mems) (n : Nat) (h : Hw) : keep (scheduleLoop m n h) = keep h := by
  induction n generalizing h with
  | zero => rfl
  | succ n ih =>
    have s : keep (settlePass (settlePass h)) = keep h := (keep_settlePass _).trans (keep_settlePass h)
    simp only [scheduleLoop]
    generalize settlePass (settlePass h) = g at s
    have r := keep_issueRound m (if g.power.dip.isSome then [0] else [0, 1, 2, 3]) g
    split
    · rename_i x y e
      rw [e] at r
      exact (ih x).trans ((r.2 x rfl).trans s)
    · rename_i y e
      rw [e] at r
      split
      · exact r.1.trans s
      · exact (ih y).trans (r.1.trans s)

/-- A run of the scheduler leaves alone all that `keep` keeps. -/
theorem keep_schedule (m : Mems) (h : Hw) : keep (schedule m h) = keep h := by
  simp only [schedule]
  split
  · rw [keep_pickCheck, keep_noteLevels, keep_gateRetired, keep_noteHeld, keep_railTurn, keep_startProbes,
      keep_scheduleLoop, keep_startProbes, keep_settlePass]
  · exact keep_takeNotices h

/-! ## With the cascade, outside excursions -/

theorem graphEnded_none (m : Mems) (h : Hw) (n : Nat × Bool) (h1 : h.cascade.exc = none) (h2 : h.cascade.owed = []) :
    graphEnded m h n = h := by
  simp only [graphEnded, h1, h2, Option.filter_none, List.find?_nil]

theorem settleCascade_none (m : Mems) (h : Hw) (h1 : h.cascade.exc = none) (h2 : h.cascade.owed = []) :
    settleCascade m h = { h with sched := { h.sched with ended := [] } } := by
  have : ∀ (ns : List (Nat × Bool)) (h : Hw), h.cascade.exc = none → h.cascade.owed = [] →
      ns.foldl (graphEnded m) h = h := by
    intro ns
    induction ns with
    | nil => intros; rfl
    | cons n ns ih => intro h h1 h2; rw [List.foldl_cons, graphEnded_none m h n h1 h2]; exact ih h h1 h2
  exact this _ _ h1 h2

/-- Outside excursions the scheduler and the cascade leave alone all that `keep` keeps. -/
theorem keep_scheduleAll (m : Mems) (n : Nat) (h : Hw) (h1 : h.cascade.exc = none) (h2 : h.cascade.owed = []) :
    keep (scheduleAll m n h) = keep h := by
  induction n generalizing h with
  | zero => rfl
  | succ n ih =>
    have k := keep_schedule m h
    have c : (schedule m h).cascade = h.cascade := by simpa [keep] using congrArg Hw.cascade k
    simp only [scheduleAll]
    split
    · exact k
    · rw [settleCascade_none m _ (by rw [c]; exact h1) (by rw [c]; exact h2), ih]
      · exact k
      · exact (congrArg Cascade.exc c).trans h1
      · exact (congrArg Cascade.owed c).trans h2

/-! ## A state with no work -/

/-- Nothing waits for the scheduler but graphs for their check. -/
def Idle (h : Hw) : Prop :=
  (∀ g ∈ h.sched.graphs, g.resident = false ∧ g.hiRail = []) ∧ h.sched.notices = [] ∧ h.sched.ended = [] ∧ ∀ x ∈ h.streams, x.reqs = [] ∧ x.st ≠ .queued

/-- What the scheduler changes even then: cores (probes, islands), the next check and what waits for the rail. -/
def calm (h : Hw) : Hw :=
  { h with
    sched := { h.sched with cores := [], powering := none, powerNext := [], checking := none }
    power := { h.power with change := h.power.change.map keepChange, railChange := none, railNext := none, avs := [] } }

theorem idle_of_calm {g h : Hw} (e : calm g = calm h) (i : Idle h) : Idle g := by
  have a : g.sched.graphs = h.sched.graphs := by simpa [calm] using congrArg (fun x => x.sched.graphs) e
  have b : g.sched.notices = h.sched.notices := by simpa [calm] using congrArg (fun x => x.sched.notices) e
  have c : g.sched.ended = h.sched.ended := by simpa [calm] using congrArg (fun x => x.sched.ended) e
  have d : g.streams = h.streams := by simpa [calm] using congrArg Hw.streams e
  exact ⟨a ▸ i.1, b ▸ i.2.1, c ▸ i.2.2.1, d ▸ i.2.2.2⟩

theorem streamOf_idle {h : Hw} (i : Idle h) (k : Nat) : (streamOf h k).reqs = [] ∧ (streamOf h k).st ≠ .queued := by
  simp only [streamOf, List.getD_eq_getElem?_getD]
  cases e : h.streams[k]? with
  | none => exact ⟨rfl, by decide⟩
  | some x => exact i.2.2.2 x (List.mem_of_getElem? e)

theorem serveStream_idle {h : Hw} (i : Idle h) (n k : Nat) : serveStream n k h = h := by
  obtain ⟨r, q⟩ := streamOf_idle i k
  cases n with
  | zero => rfl
  | succ n =>
    have e : nextRequest (streamOf h k) = none := by rw [nextRequest, r]; rfl
    simp only [serveStream, e, r, if_neg q]
    split <;> rfl

theorem foldl_same {α : Type} (f : Hw → α → Hw) (xs : List α) (h : Hw) (hf : ∀ x, f h x = h) : xs.foldl f h = h := by
  induction xs with
  | nil => rfl
  | cons x xs ih => rw [List.foldl_cons, hf, ih]

theorem serveStreams_idle {h : Hw} (i : Idle h) : serveStreams h = h := by
  simp only [serveStreams]
  apply foldl_same
  intro k
  split
  · rfl
  · exact serveStream_idle i _ _

theorem takeNotices_idle {h : Hw} (i : Idle h) : takeNotices h = h := by
  simp only [takeNotices, i.2.1, List.foldl_nil]
  rw [← i.2.1]

theorem none_resident {h : Hw} (i : Idle h) : h.sched.graphs.filter (·.resident) = [] := by
  rw [List.filter_eq_nil_iff]
  intro g hg
  simp [(i.1 g hg).1]

theorem none_atEnd {h : Hw} (i : Idle h) : h.sched.graphs.filter atEnd = [] := by
  rw [List.filter_eq_nil_iff]
  intro g hg
  simp [atEnd, (i.1 g hg).1]

theorem settlePass_idle {h : Hw} (i : Idle h) : settlePass h = h := by
  simp only [settlePass, takeNotices_idle i, none_resident i, List.foldl_nil, serveStreams_idle i, endGraphs, none_atEnd i]

theorem candidates_idle {h : Hw} (i : Idle h) (c : Nat) : candidates h c = [] := by
  have e : (h.sched.graphs.filter fun g => g.live && g.rankCls == c) = [] := by
    rw [List.filter_eq_nil_iff]
    intro g hg
    simp [Graph.live, (i.1 g hg).1]
  simp only [candidates, e, List.flatMap_nil]

theorem issueRound_idle {h : Hw} (i : Idle h) (m : Mems) (cs : List Nat) : issueRound m cs h = (none, h) := by
  have w : wantPower h [] = h := by
    simp only [wantPower]
    split
    · rfl
    · rfl
  have t : ∀ c, classTurn m c h = .next h := by
    intro c
    simp only [classTurn, candidates_idle i, w]
    rfl
  induction cs with
  | nil => rfl
  | cons c cs ih => simp only [issueRound, t, ih]

theorem scheduleLoop_idle {h : Hw} (i : Idle h) (m : Mems) (n : Nat) : scheduleLoop m n h = h := by
  cases n with
  | zero => rfl
  | succ n => simp only [scheduleLoop, settlePass_idle i, issueRound_idle i, i.2.1, List.isEmpty_nil, if_true]

theorem calm_foldl {α : Type} (f : Hw → α → Hw) (hf : ∀ h x, calm (f h x) = calm h) (xs : List α) (h : Hw) :
    calm (xs.foldl f h) = calm h := by
  induction xs generalizing h with
  | nil => rfl
  | cons x xs ih => rw [List.foldl_cons, ih, hf]

theorem calm_startProbe (k : Nat) (h : Hw) : calm (startProbe k h) = calm h := by
  simp only [startProbe, askIsland, askGroup]
  repeat' split
  all_goals rfl

theorem calm_startProbes (o : Bool) (h : Hw) : calm (startProbes o h) = calm h := by
  simp only [startProbes]
  split
  · apply calm_foldl
    intro h k
    repeat' split
    all_goals first | exact calm_startProbe k h | rfl
  · rfl

theorem calm_railTurn (h : Hw) : calm (railTurn h) = calm h := by
  simp only [railTurn]
  split
  · rfl
  · split
    · split
      · rename_i c hc _
        simp only [beginRail, calm, hc]
        rfl
      · rfl
    · split
      · split <;> rfl
      · rfl

theorem calm_pickCheck (h : Hw) : calm (pickCheck h) = calm h := by
  simp only [pickCheck]
  repeat' split
  all_goals rfl

theorem noteHeld_idle {h : Hw} (i : Idle h) : noteHeld h = h := by
  have e : (List.range 4).flatMap (candidates h) = [] := by
    rw [List.flatMap_eq_nil_iff]
    intro c _
    exact candidates_idle i c
  simp only [noteHeld, e, List.foldl_nil, ite_self]

theorem foldl_modifyAt_nil {α β : Type} (f : α → Nat) (g : α → β → β) (xs : List α) :
    xs.foldl (fun ys c => modifyAt (f c) (g c) ys) ([] : List β) = [] := by
  induction xs with
  | nil => rfl
  | cons x xs ih =>
    rw [List.foldl_cons, show modifyAt (f x) (g x) ([] : List β) = [] from by simp [modifyAt]]
    exact ih

theorem noteLevels_idle {h : Hw} (i : Idle h) : noteLevels h = h := by
  have e : (noteLevels h).sched.graphs = h.sched.graphs := by
    simp only [noteLevels]
    conv_rhs => rw [← List.map_id h.sched.graphs]
    apply List.map_congr_left
    intro g hg
    have n := (i.1 g hg).2
    cases g
    simp only at n
    subst n
    simp only [foldl_modifyAt_nil, id]
  have k : noteLevels h = { h with sched := { h.sched with graphs := (noteLevels h).sched.graphs } } := rfl
  rw [k, e]

/-- A run of the scheduler on a state with no work leaves alone all that `calm` keeps. -/
theorem calm_schedule {h : Hw} (i : Idle h) (m : Mems) : calm (schedule m h) = calm h := by
  simp only [schedule]
  split
  · rw [settlePass_idle i]
    have e1 := calm_startProbes true h
    generalize startProbes true h = g at e1
    have i1 := idle_of_calm e1 i
    rw [scheduleLoop_idle i1]
    have e2 := (calm_railTurn _).trans ((calm_startProbes false g).trans e1)
    generalize railTurn (startProbes false g) = k at e2
    have i2 := idle_of_calm e2 i
    rw [noteHeld_idle i2, calm_pickCheck, noteLevels_idle (h := gateRetired k) i2]
    exact e2
  · rw [takeNotices_idle i]

/-- So does the scheduler with the cascade. -/
theorem calm_scheduleAll {h : Hw} (i : Idle h) (m : Mems) (n : Nat) : calm (scheduleAll m (n + 1) h) = calm h := by
  have e := calm_schedule i m
  have i1 := idle_of_calm e i
  simp only [scheduleAll, i1.2.2.1, List.isEmpty_nil, if_true]
  exact e

end Sys2Proof.Laws.Sched
end

