-- ==== Sys2Proof/Laws/Slots.lean ====
section
/-! SUPPORT. What a command answers, in one lemma per runner: its frame, its record, and the effect of a slot that passes
the checks of R34. -/

namespace Sys2Proof.Laws.Slots

open Sys2Proof.Machine

/-! ## Frames of the runners -/

/-- A frame that names fewer portions gives one that names more. -/
theorem blank_mono {ps qs : List Portion} (hpq : ∀ p ∈ ps, p ∈ qs) {g h : Hw} (e : blank ps g = blank ps h) :
    blank qs g = blank qs h := by
  have key : ∀ (p : Portion) {α : Type} (c x : α),
      (if qs.elem p then c else if ps.elem p then c else x) = if qs.elem p then c else x := by
    intro p α c x
    by_cases hq : qs.elem p = true
    · rw [if_pos hq, if_pos hq]
    · have : ps.elem p ≠ true := fun hp => hq (List.elem_iff.2 (hpq p (List.elem_iff.1 hp)))
      rw [if_neg hq, if_neg hq, if_neg this]
  have cnt : ∀ x : Counters,
      (if qs.elem .health then ({} : Counters)
        else { (if ps.elem .health then ({} : Counters) else { x with eventsLost := 0 }) with eventsLost := 0 }) =
      if qs.elem .health then {} else { x with eventsLost := 0 } := by
    intro x
    rw [← key .health ({} : Counters) { x with eventsLost := 0 }]
    split
    · rfl
    · split <;> rfl
  have bb : ∀ x, blank qs (blank ps x) = blank qs x := by
    intro x
    simp only [blank, key, cnt]
  rw [← bb g, e, bb]

/-- Blanking what a command's end touches, whatever else is blanked. -/
theorem blank_still (ps : List Portion) (h : Hw) : blank (reporting ++ ps) (Run.still h) = blank (reporting ++ ps) h := by
  have e : (reporting ++ ps).elem .events = true := rfl
  have l : (reporting ++ ps).elem .log = true := rfl
  simp only [blank, e, l, if_true, Run.still]

theorem blank_finish (ps : List Portion) (h : Hw) :
    blank (reporting ++ ps) (Machine.finish h) = blank (reporting ++ ps) h := by
  rw [← blank_still ps (Machine.finish h), Run.still_finish, blank_still]

theorem blank_commit (ps : List Portion) (s : State) (h : Hw) : blank ps (commit s h).hw = blank ps h := by
  simp only [blank, commit]

/-- The frame of a run command is that of its effect, and the reports. -/
theorem run_only (ps : List Portion) (s : State) (g : Hw) (h : blank (reporting ++ ps) g = blank (reporting ++ ps) s.hw) :
    OnlyChanges (reporting ++ ps) s (commit s (Machine.finish g)) :=
  ⟨by rw [blank_commit, blank_finish, h], .inl (List.mem_cons_self ..), rfl⟩

/-! ## The scheduler behind an effect -/

/-- A command with the scheduler answers a state that the scheduler's run left alone but for what `keep` forgets. -/
theorem runSched_keep (f : Mems → Hw → Hw) (s : State) (g : Hw) (hg : f s.mem { s.hw with sent := [] } = g)
    (h1 : g.cascade.exc = none) (h2 : g.cascade.owed = []) :
    ∃ k, Sched.keep k = Sched.keep g ∧ runSched f s = .next (commit s (Machine.finish k)) := by
  refine ⟨scheduleAll s.mem (g.sched.graphs.length + 2) g, Sched.keep_scheduleAll _ _ _ h1 h2, ?_⟩
  simp only [runSched, run, hg]

theorem blank_keep (ps : List Portion) (h : Hw) :
    blank (reporting ++ scheduling ++ ps) (Sched.keep h) = blank (reporting ++ scheduling ++ ps) h := by
  have e1 : (reporting ++ scheduling ++ ps).elem .sched = true := rfl
  have e2 : (reporting ++ scheduling ++ ps).elem .streams = true := rfl
  have e3 : (reporting ++ scheduling ++ ps).elem .ring = true := rfl
  have e4 : (reporting ++ scheduling ++ ps).elem .power = true := rfl
  have e5 : (reporting ++ scheduling ++ ps).elem .health = true := rfl
  have e6 : (reporting ++ scheduling ++ ps).elem .log = true := rfl
  simp only [blank, e1, e2, e3, e4, e5, e6, if_true, Sched.keep]

/-- The frame of a command with the scheduler, outside excursions. -/
theorem sched_only (ps : List Portion) (s : State) (g k : Hw) (hk : Sched.keep k = Sched.keep g)
    (h : blank (reporting ++ scheduling ++ ps) g = blank (reporting ++ scheduling ++ ps) s.hw) :
    OnlyChanges (reporting ++ scheduling ++ ps) s (commit s (Machine.finish k)) := by
  rw [List.append_assoc] at h ⊢
  refine run_only _ s k ?_
  rw [← h, ← List.append_assoc, ← blank_keep ps k, hk, blank_keep]

theorem blank_calm (ps : List Portion) (h : Hw) :
    blank (reporting ++ resting ++ ps) (Sched.calm h) = blank (reporting ++ resting ++ ps) h := by
  have e1 : (reporting ++ resting ++ ps).elem .sched = true := rfl
  have e4 : (reporting ++ resting ++ ps).elem .power = true := rfl
  simp only [blank, e1, e4, if_true, Sched.calm]

/-- The frame of a command with the scheduler, with no work. -/
theorem calm_only (ps : List Portion) (s : State) (g k : Hw) (hk : Sched.calm k = Sched.calm g)
    (h : blank (reporting ++ resting ++ ps) g = blank (reporting ++ resting ++ ps) s.hw) :
    OnlyChanges (reporting ++ resting ++ ps) s (commit s (Machine.finish k)) := by
  rw [List.append_assoc] at h ⊢
  refine run_only _ s k ?_
  rw [← h, ← List.append_assoc, ← blank_calm ps k, hk, blank_calm]

/-- With no work it leaves alone all that `calm` keeps. -/
theorem runSched_calm (f : Mems → Hw → Hw) (s : State) (g : Hw) (hg : f s.mem { s.hw with sent := [] } = g)
    (i : Sched.Idle g) :
    ∃ k, Sched.calm k = Sched.calm g ∧ runSched f s = .next (commit s (Machine.finish k)) := by
  refine ⟨scheduleAll s.mem (g.sched.graphs.length + 1 + 1) g, Sched.calm_scheduleAll i _ _, ?_⟩
  simp only [runSched, run, hg]

/-! ## Commands that report nothing else -/

/-- Nothing being held or waiting, the end of a command that neither completes nor raises anything does nothing. -/
theorem finish_none (h : Hw) (hr : h.records = []) (ha : h.raised = []) (hp : h.sq.posts = [])
    (hh : h.sq.heldRecords = []) (hq : h.sq.queue = []) : Machine.finish h = h := by
  simp only [Machine.finish, Run.flushHeld_nil h hh, hr, ha, hq, List.foldl_nil, List.map_nil, List.append_nil]
  rw [Run.releasePosts_nil]
  · rw [← hr, ← ha, ← hq]
  · exact hp

/-! ## A slot that passes the checks of R34 -/

/-- The hardware once a slot has started. -/
abbrev begun (f : Fetched) (h : Hw) : Hw :=
  startSlot { pos := f.pos, master := f.master } (slotKind f.words) (wordAt f.words 1) { h with sent := [] }

theorem startSlot_image (o : Owned) (k : Nat) (t : Word) (h : Hw) : (startSlot o k t h).image = h.image := by
  simp only [startSlot, goActive]
  repeat' split
  all_goals rfl

/-- What the start of a slot changes: the fetch position, the slot's mark and, but for an EVENT_POST, IDLE (R34, R364). -/
theorem begun_eq (f : Fetched) (h : Hw) : begun f h = { h with
    sent := []
    sq := { h.sq with
      fetch := (h.sq.fetch + 1) % 65536
      owned := h.sq.owned.map fun x =>
        if x.pos = f.pos then { x with started := true, kind := slotKind f.words, tag := wordAt f.words 1 } else x }
    power := { h.power with
      dev := if slotKind f.words = kEventPost then h.power.dev
        else if h.power.dev = .idle then .active else h.power.dev } } := by
  simp only [begun, startSlot, goActive]
  split
  · rfl
  · split <;> rfl

/-- An accepted slot runs its kind's own part. -/
theorem withSlotOf_accepts {s : State} {slot : Slot} {f : Fetched} {kind : Nat} (ha : Accepts s slot f kind)
    (res : Fetched → Hw → List Word) (mine : List Word → Bool) (act : Mems → Fetched → Hw → Hw)
    (hm : mine f.words = true) :
    withSlotOf res mine slot act s.mem { s.hw with sent := [] } = act s.mem f (begun f s.hw) := by
  obtain ⟨⟨h1, h2, h3⟩, hk, hf, hp⟩ := ha
  obtain ⟨g, hg⟩ : ∃ g : Hw, g = { s.hw with sent := [] } := ⟨_, rfl⟩
  have en : nextSlot g = nextSlot s.hw := by rw [hg]; rfl
  have ew : ∀ p, slotWords s.mem g p slot = slotWords s.mem s.hw p slot := by intro p; rw [hg]; rfl
  have eb : ∀ p, hitsBad g .dram (slotAddr g p) 128 = hitsBad s.hw .dram (slotAddr s.hw p) 128 := by
    intro p; rw [hg]; rfl
  have ed : g.image.system.sqInDram = s.hw.image.system.sqInDram := by rw [hg]
  obtain ⟨o, ho, hpm⟩ : ∃ o, nextSlot s.hw = some o ∧ (o.pos, o.master) = (f.pos, f.master) := by
    cases hs : nextSlot s.hw with
    | none => rw [hs] at h1; cases h1
    | some o => rw [hs] at h1; exact ⟨o, rfl, Option.some.inj h1⟩
  obtain ⟨e1, e2⟩ := Prod.mk.inj hpm
  have est : startSlot o (slotKind f.words) (wordAt f.words 1) g = begun f s.hw := by
    rw [begun, ← hg]
    simp only [startSlot, e1]
  have ef : (⟨f.pos, f.master, f.words⟩ : Fetched) = f := rfl
  rw [← hg]
  simp only [withSlotOf, en, ho]
  have noBad : (s.hw.image.system.sqInDram && slot.bad) = false := by
    cases hd : s.hw.image.system.sqInDram
    · rfl
    · rw [(h3 hd).1]; rfl
  have noFix : (if s.hw.image.system.sqInDram = true then corrected .dram slot.fixed g else g) = g := by
    split
    · rename_i hd; simp only [(h3 hd).2.1, corrected, if_true]
    · rfl
  have noHit : (s.hw.image.system.sqInDram && hitsBad g .dram (slotAddr g f.pos) 128) = false := by
    cases hd : s.hw.image.system.sqInDram
    · rfl
    · rw [eb, (h3 hd).2.2]; rfl
  simp only [ed, noFix, noBad, e1, e2, noHit, Bool.false_eq_true, if_false, ew, h2, hm, if_true, hk, hf,
    Bool.not_true, ef]
  rw [← hk, est]
  have eq : slotPermitted (begun f s.hw) (slotKind f.words) f.master = true := by
    rw [hk, ← hp]
    simp only [slotPermitted, begun, startSlot_image]
  simp only [eq, Bool.not_true, Bool.false_eq_true, if_false]

/-- The same for the kinds whose refusals by R34 have no RESULT words. -/
theorem withSlot_accepts {s : State} {slot : Slot} {f : Fetched} {kind : Nat} (ha : Accepts s slot f kind)
    (mine : List Word → Bool) (act : Mems → Fetched → Hw → Hw) (hm : mine f.words = true) :
    withSlot mine slot act s.mem { s.hw with sent := [] } = act s.mem f (begun f s.hw) :=
  withSlotOf_accepts ha _ mine act hm

end Sys2Proof.Laws.Slots
end

