-- ==== Sys2Proof/Laws/State.lean ====
section
/-! SUPPORT. What each shared update leaves of the hardware: one lemma per field per update, and for each update the field
that it sets. -/

namespace Sys2Proof.Machine

/-! ## put -/

@[simp] theorem put_board (sp : Space) (a : Nat) (bs : List Byte) (h : Hw) : (put sp a bs h).board = h.board := rfl
@[simp] theorem put_image (sp : Space) (a : Nat) (bs : List Byte) (h : Hw) : (put sp a bs h).image = h.image := rfl
@[simp] theorem put_sq (sp : Space) (a : Nat) (bs : List Byte) (h : Hw) : (put sp a bs h).sq = h.sq := rfl
@[simp] theorem put_drum (sp : Space) (a : Nat) (bs : List Byte) (h : Hw) : (put sp a bs h).drum = h.drum := rfl
@[simp] theorem put_raw (sp : Space) (a : Nat) (bs : List Byte) (h : Hw) : (put sp a bs h).raw = h.raw := rfl
@[simp] theorem put_cal (sp : Space) (a : Nat) (bs : List Byte) (h : Hw) : (put sp a bs h).cal = h.cal := rfl
@[simp] theorem put_bell (sp : Space) (a : Nat) (bs : List Byte) (h : Hw) : (put sp a bs h).bell = h.bell := rfl
@[simp] theorem put_cascade (sp : Space) (a : Nat) (bs : List Byte) (h : Hw) : (put sp a bs h).cascade = h.cascade := rfl
@[simp] theorem put_sched (sp : Space) (a : Nat) (bs : List Byte) (h : Hw) : (put sp a bs h).sched = h.sched := rfl
@[simp] theorem put_streams (sp : Space) (a : Nat) (bs : List Byte) (h : Hw) : (put sp a bs h).streams = h.streams := rfl
@[simp] theorem put_ring (sp : Space) (a : Nat) (bs : List Byte) (h : Hw) : (put sp a bs h).ring = h.ring := rfl
@[simp] theorem put_power (sp : Space) (a : Nat) (bs : List Byte) (h : Hw) : (put sp a bs h).power = h.power := rfl
@[simp] theorem put_update (sp : Space) (a : Nat) (bs : List Byte) (h : Hw) : (put sp a bs h).update = h.update := rfl
@[simp] theorem put_rvy (sp : Space) (a : Nat) (bs : List Byte) (h : Hw) : (put sp a bs h).rvy = h.rvy := rfl
@[simp] theorem put_wipe (sp : Space) (a : Nat) (bs : List Byte) (h : Hw) : (put sp a bs h).wipe = h.wipe := rfl
@[simp] theorem put_raised (sp : Space) (a : Nat) (bs : List Byte) (h : Hw) : (put sp a bs h).raised = h.raised := rfl
@[simp] theorem put_records (sp : Space) (a : Nat) (bs : List Byte) (h : Hw) : (put sp a bs h).records = h.records := rfl
@[simp] theorem put_sent (sp : Space) (a : Nat) (bs : List Byte) (h : Hw) : (put sp a bs h).sent = h.sent := rfl
@[simp] theorem put_draws (sp : Space) (a : Nat) (bs : List Byte) (h : Hw) : (put sp a bs h).draws = h.draws := rfl

/-! ## disown -/

@[simp] theorem disown_board (p : Nat) (h : Hw) : (disown p h).board = h.board := rfl
@[simp] theorem disown_image (p : Nat) (h : Hw) : (disown p h).image = h.image := rfl
@[simp] theorem disown_drum (p : Nat) (h : Hw) : (disown p h).drum = h.drum := rfl
@[simp] theorem disown_raw (p : Nat) (h : Hw) : (disown p h).raw = h.raw := rfl
@[simp] theorem disown_cal (p : Nat) (h : Hw) : (disown p h).cal = h.cal := rfl
@[simp] theorem disown_bell (p : Nat) (h : Hw) : (disown p h).bell = h.bell := rfl
@[simp] theorem disown_cascade (p : Nat) (h : Hw) : (disown p h).cascade = h.cascade := rfl
@[simp] theorem disown_sched (p : Nat) (h : Hw) : (disown p h).sched = h.sched := rfl
@[simp] theorem disown_streams (p : Nat) (h : Hw) : (disown p h).streams = h.streams := rfl
@[simp] theorem disown_ring (p : Nat) (h : Hw) : (disown p h).ring = h.ring := rfl
@[simp] theorem disown_power (p : Nat) (h : Hw) : (disown p h).power = h.power := rfl
@[simp] theorem disown_update (p : Nat) (h : Hw) : (disown p h).update = h.update := rfl
@[simp] theorem disown_rvy (p : Nat) (h : Hw) : (disown p h).rvy = h.rvy := rfl
@[simp] theorem disown_health (p : Nat) (h : Hw) : (disown p h).health = h.health := rfl
@[simp] theorem disown_writes (p : Nat) (h : Hw) : (disown p h).writes = h.writes := rfl
@[simp] theorem disown_wipe (p : Nat) (h : Hw) : (disown p h).wipe = h.wipe := rfl
@[simp] theorem disown_raised (p : Nat) (h : Hw) : (disown p h).raised = h.raised := rfl
@[simp] theorem disown_records (p : Nat) (h : Hw) : (disown p h).records = h.records := rfl
@[simp] theorem disown_sent (p : Nat) (h : Hw) : (disown p h).sent = h.sent := rfl
@[simp] theorem disown_draws (p : Nat) (h : Hw) : (disown p h).draws = h.draws := rfl

/-! ## complete -/

@[simp] theorem complete_board (r : Record) (h : Hw) : (complete r h).board = h.board := rfl
@[simp] theorem complete_image (r : Record) (h : Hw) : (complete r h).image = h.image := rfl
@[simp] theorem complete_sq (r : Record) (h : Hw) : (complete r h).sq = h.sq := rfl
@[simp] theorem complete_drum (r : Record) (h : Hw) : (complete r h).drum = h.drum := rfl
@[simp] theorem complete_raw (r : Record) (h : Hw) : (complete r h).raw = h.raw := rfl
@[simp] theorem complete_cal (r : Record) (h : Hw) : (complete r h).cal = h.cal := rfl
@[simp] theorem complete_bell (r : Record) (h : Hw) : (complete r h).bell = h.bell := rfl
@[simp] theorem complete_cascade (r : Record) (h : Hw) : (complete r h).cascade = h.cascade := rfl
@[simp] theorem complete_sched (r : Record) (h : Hw) : (complete r h).sched = h.sched := rfl
@[simp] theorem complete_streams (r : Record) (h : Hw) : (complete r h).streams = h.streams := rfl
@[simp] theorem complete_ring (r : Record) (h : Hw) : (complete r h).ring = h.ring := rfl
@[simp] theorem complete_power (r : Record) (h : Hw) : (complete r h).power = h.power := rfl
@[simp] theorem complete_update (r : Record) (h : Hw) : (complete r h).update = h.update := rfl
@[simp] theorem complete_rvy (r : Record) (h : Hw) : (complete r h).rvy = h.rvy := rfl
@[simp] theorem complete_health (r : Record) (h : Hw) : (complete r h).health = h.health := rfl
@[simp] theorem complete_writes (r : Record) (h : Hw) : (complete r h).writes = h.writes := rfl
@[simp] theorem complete_wipe (r : Record) (h : Hw) : (complete r h).wipe = h.wipe := rfl
@[simp] theorem complete_raised (r : Record) (h : Hw) : (complete r h).raised = h.raised := rfl
@[simp] theorem complete_sent (r : Record) (h : Hw) : (complete r h).sent = h.sent := rfl
@[simp] theorem complete_draws (r : Record) (h : Hw) : (complete r h).draws = h.draws := rfl

/-! ## raiseEvent -/

@[simp] theorem raiseEvent_board (st : Status) (d : Detail) (ws : List Word) (h : Hw) : (raiseEvent st d ws h).board = h.board := rfl
@[simp] theorem raiseEvent_image (st : Status) (d : Detail) (ws : List Word) (h : Hw) : (raiseEvent st d ws h).image = h.image := rfl
@[simp] theorem raiseEvent_sq (st : Status) (d : Detail) (ws : List Word) (h : Hw) : (raiseEvent st d ws h).sq = h.sq := rfl
@[simp] theorem raiseEvent_drum (st : Status) (d : Detail) (ws : List Word) (h : Hw) : (raiseEvent st d ws h).drum = h.drum := rfl
@[simp] theorem raiseEvent_raw (st : Status) (d : Detail) (ws : List Word) (h : Hw) : (raiseEvent st d ws h).raw = h.raw := rfl
@[simp] theorem raiseEvent_cal (st : Status) (d : Detail) (ws : List Word) (h : Hw) : (raiseEvent st d ws h).cal = h.cal := rfl
@[simp] theorem raiseEvent_bell (st : Status) (d : Detail) (ws : List Word) (h : Hw) : (raiseEvent st d ws h).bell = h.bell := rfl
@[simp] theorem raiseEvent_cascade (st : Status) (d : Detail) (ws : List Word) (h : Hw) : (raiseEvent st d ws h).cascade = h.cascade := rfl
@[simp] theorem raiseEvent_sched (st : Status) (d : Detail) (ws : List Word) (h : Hw) : (raiseEvent st d ws h).sched = h.sched := rfl
@[simp] theorem raiseEvent_streams (st : Status) (d : Detail) (ws : List Word) (h : Hw) : (raiseEvent st d ws h).streams = h.streams := rfl
@[simp] theorem raiseEvent_ring (st : Status) (d : Detail) (ws : List Word) (h : Hw) : (raiseEvent st d ws h).ring = h.ring := rfl
@[simp] theorem raiseEvent_power (st : Status) (d : Detail) (ws : List Word) (h : Hw) : (raiseEvent st d ws h).power = h.power := rfl
@[simp] theorem raiseEvent_update (st : Status) (d : Detail) (ws : List Word) (h : Hw) : (raiseEvent st d ws h).update = h.update := rfl
@[simp] theorem raiseEvent_rvy (st : Status) (d : Detail) (ws : List Word) (h : Hw) : (raiseEvent st d ws h).rvy = h.rvy := rfl
@[simp] theorem raiseEvent_health (st : Status) (d : Detail) (ws : List Word) (h : Hw) : (raiseEvent st d ws h).health = h.health := rfl
@[simp] theorem raiseEvent_writes (st : Status) (d : Detail) (ws : List Word) (h : Hw) : (raiseEvent st d ws h).writes = h.writes := rfl
@[simp] theorem raiseEvent_wipe (st : Status) (d : Detail) (ws : List Word) (h : Hw) : (raiseEvent st d ws h).wipe = h.wipe := rfl
@[simp] theorem raiseEvent_records (st : Status) (d : Detail) (ws : List Word) (h : Hw) : (raiseEvent st d ws h).records = h.records := rfl
@[simp] theorem raiseEvent_sent (st : Status) (d : Detail) (ws : List Word) (h : Hw) : (raiseEvent st d ws h).sent = h.sent := rfl
@[simp] theorem raiseEvent_draws (st : Status) (d : Detail) (ws : List Word) (h : Hw) : (raiseEvent st d ws h).draws = h.draws := rfl

/-! ## raiseHealth -/

@[simp] theorem raiseHealth_board (d : Detail) (a b p q : Nat) (h : Hw) : (raiseHealth d a b p q h).board = h.board := rfl
@[simp] theorem raiseHealth_image (d : Detail) (a b p q : Nat) (h : Hw) : (raiseHealth d a b p q h).image = h.image := rfl
@[simp] theorem raiseHealth_sq (d : Detail) (a b p q : Nat) (h : Hw) : (raiseHealth d a b p q h).sq = h.sq := rfl
@[simp] theorem raiseHealth_drum (d : Detail) (a b p q : Nat) (h : Hw) : (raiseHealth d a b p q h).drum = h.drum := rfl
@[simp] theorem raiseHealth_raw (d : Detail) (a b p q : Nat) (h : Hw) : (raiseHealth d a b p q h).raw = h.raw := rfl
@[simp] theorem raiseHealth_cal (d : Detail) (a b p q : Nat) (h : Hw) : (raiseHealth d a b p q h).cal = h.cal := rfl
@[simp] theorem raiseHealth_bell (d : Detail) (a b p q : Nat) (h : Hw) : (raiseHealth d a b p q h).bell = h.bell := rfl
@[simp] theorem raiseHealth_cascade (d : Detail) (a b p q : Nat) (h : Hw) : (raiseHealth d a b p q h).cascade = h.cascade := rfl
@[simp] theorem raiseHealth_sched (d : Detail) (a b p q : Nat) (h : Hw) : (raiseHealth d a b p q h).sched = h.sched := rfl
@[simp] theorem raiseHealth_streams (d : Detail) (a b p q : Nat) (h : Hw) : (raiseHealth d a b p q h).streams = h.streams := rfl
@[simp] theorem raiseHealth_ring (d : Detail) (a b p q : Nat) (h : Hw) : (raiseHealth d a b p q h).ring = h.ring := rfl
@[simp] theorem raiseHealth_power (d : Detail) (a b p q : Nat) (h : Hw) : (raiseHealth d a b p q h).power = h.power := rfl
@[simp] theorem raiseHealth_update (d : Detail) (a b p q : Nat) (h : Hw) : (raiseHealth d a b p q h).update = h.update := rfl
@[simp] theorem raiseHealth_rvy (d : Detail) (a b p q : Nat) (h : Hw) : (raiseHealth d a b p q h).rvy = h.rvy := rfl
@[simp] theorem raiseHealth_health (d : Detail) (a b p q : Nat) (h : Hw) : (raiseHealth d a b p q h).health = h.health := rfl
@[simp] theorem raiseHealth_writes (d : Detail) (a b p q : Nat) (h : Hw) : (raiseHealth d a b p q h).writes = h.writes := rfl
@[simp] theorem raiseHealth_wipe (d : Detail) (a b p q : Nat) (h : Hw) : (raiseHealth d a b p q h).wipe = h.wipe := rfl
@[simp] theorem raiseHealth_records (d : Detail) (a b p q : Nat) (h : Hw) : (raiseHealth d a b p q h).records = h.records := rfl
@[simp] theorem raiseHealth_sent (d : Detail) (a b p q : Nat) (h : Hw) : (raiseHealth d a b p q h).sent = h.sent := rfl
@[simp] theorem raiseHealth_draws (d : Detail) (a b p q : Nat) (h : Hw) : (raiseHealth d a b p q h).draws = h.draws := rfl

/-! ## raiseLog -/

@[simp] theorem raiseLog_board (a b p q : Nat) (h : Hw) : (raiseLog a b p q h).board = h.board := rfl
@[simp] theorem raiseLog_image (a b p q : Nat) (h : Hw) : (raiseLog a b p q h).image = h.image := rfl
@[simp] theorem raiseLog_sq (a b p q : Nat) (h : Hw) : (raiseLog a b p q h).sq = h.sq := rfl
@[simp] theorem raiseLog_drum (a b p q : Nat) (h : Hw) : (raiseLog a b p q h).drum = h.drum := rfl
@[simp] theorem raiseLog_raw (a b p q : Nat) (h : Hw) : (raiseLog a b p q h).raw = h.raw := rfl
@[simp] theorem raiseLog_cal (a b p q : Nat) (h : Hw) : (raiseLog a b p q h).cal = h.cal := rfl
@[simp] theorem raiseLog_bell (a b p q : Nat) (h : Hw) : (raiseLog a b p q h).bell = h.bell := rfl
@[simp] theorem raiseLog_cascade (a b p q : Nat) (h : Hw) : (raiseLog a b p q h).cascade = h.cascade := rfl
@[simp] theorem raiseLog_sched (a b p q : Nat) (h : Hw) : (raiseLog a b p q h).sched = h.sched := rfl
@[simp] theorem raiseLog_streams (a b p q : Nat) (h : Hw) : (raiseLog a b p q h).streams = h.streams := rfl
@[simp] theorem raiseLog_ring (a b p q : Nat) (h : Hw) : (raiseLog a b p q h).ring = h.ring := rfl
@[simp] theorem raiseLog_power (a b p q : Nat) (h : Hw) : (raiseLog a b p q h).power = h.power := rfl
@[simp] theorem raiseLog_update (a b p q : Nat) (h : Hw) : (raiseLog a b p q h).update = h.update := rfl
@[simp] theorem raiseLog_rvy (a b p q : Nat) (h : Hw) : (raiseLog a b p q h).rvy = h.rvy := rfl
@[simp] theorem raiseLog_health (a b p q : Nat) (h : Hw) : (raiseLog a b p q h).health = h.health := rfl
@[simp] theorem raiseLog_writes (a b p q : Nat) (h : Hw) : (raiseLog a b p q h).writes = h.writes := rfl
@[simp] theorem raiseLog_wipe (a b p q : Nat) (h : Hw) : (raiseLog a b p q h).wipe = h.wipe := rfl
@[simp] theorem raiseLog_records (a b p q : Nat) (h : Hw) : (raiseLog a b p q h).records = h.records := rfl
@[simp] theorem raiseLog_sent (a b p q : Nat) (h : Hw) : (raiseLog a b p q h).sent = h.sent := rfl
@[simp] theorem raiseLog_draws (a b p q : Nat) (h : Hw) : (raiseLog a b p q h).draws = h.draws := rfl

/-! ## setCause -/

@[simp] theorem setCause_board (n : Nat) (h : Hw) : (setCause n h).board = h.board := rfl
@[simp] theorem setCause_image (n : Nat) (h : Hw) : (setCause n h).image = h.image := rfl
@[simp] theorem setCause_sq (n : Nat) (h : Hw) : (setCause n h).sq = h.sq := rfl
@[simp] theorem setCause_drum (n : Nat) (h : Hw) : (setCause n h).drum = h.drum := rfl
@[simp] theorem setCause_raw (n : Nat) (h : Hw) : (setCause n h).raw = h.raw := rfl
@[simp] theorem setCause_cal (n : Nat) (h : Hw) : (setCause n h).cal = h.cal := rfl
@[simp] theorem setCause_bell (n : Nat) (h : Hw) : (setCause n h).bell = h.bell := rfl
@[simp] theorem setCause_cascade (n : Nat) (h : Hw) : (setCause n h).cascade = h.cascade := rfl
@[simp] theorem setCause_sched (n : Nat) (h : Hw) : (setCause n h).sched = h.sched := rfl
@[simp] theorem setCause_streams (n : Nat) (h : Hw) : (setCause n h).streams = h.streams := rfl
@[simp] theorem setCause_ring (n : Nat) (h : Hw) : (setCause n h).ring = h.ring := rfl
@[simp] theorem setCause_power (n : Nat) (h : Hw) : (setCause n h).power = h.power := rfl
@[simp] theorem setCause_update (n : Nat) (h : Hw) : (setCause n h).update = h.update := rfl
@[simp] theorem setCause_rvy (n : Nat) (h : Hw) : (setCause n h).rvy = h.rvy := rfl
@[simp] theorem setCause_writes (n : Nat) (h : Hw) : (setCause n h).writes = h.writes := rfl
@[simp] theorem setCause_wipe (n : Nat) (h : Hw) : (setCause n h).wipe = h.wipe := rfl
@[simp] theorem setCause_raised (n : Nat) (h : Hw) : (setCause n h).raised = h.raised := rfl
@[simp] theorem setCause_records (n : Nat) (h : Hw) : (setCause n h).records = h.records := rfl
@[simp] theorem setCause_sent (n : Nat) (h : Hw) : (setCause n h).sent = h.sent := rfl
@[simp] theorem setCause_draws (n : Nat) (h : Hw) : (setCause n h).draws = h.draws := rfl

/-! ## clearCause -/

@[simp] theorem clearCause_board (n : Nat) (h : Hw) : (clearCause n h).board = h.board := rfl
@[simp] theorem clearCause_image (n : Nat) (h : Hw) : (clearCause n h).image = h.image := rfl
@[simp] theorem clearCause_sq (n : Nat) (h : Hw) : (clearCause n h).sq = h.sq := rfl
@[simp] theorem clearCause_drum (n : Nat) (h : Hw) : (clearCause n h).drum = h.drum := rfl
@[simp] theorem clearCause_raw (n : Nat) (h : Hw) : (clearCause n h).raw = h.raw := rfl
@[simp] theorem clearCause_cal (n : Nat) (h : Hw) : (clearCause n h).cal = h.cal := rfl
@[simp] theorem clearCause_bell (n : Nat) (h : Hw) : (clearCause n h).bell = h.bell := rfl
@[simp] theorem clearCause_cascade (n : Nat) (h : Hw) : (clearCause n h).cascade = h.cascade := rfl
@[simp] theorem clearCause_sched (n : Nat) (h : Hw) : (clearCause n h).sched = h.sched := rfl
@[simp] theorem clearCause_streams (n : Nat) (h : Hw) : (clearCause n h).streams = h.streams := rfl
@[simp] theorem clearCause_ring (n : Nat) (h : Hw) : (clearCause n h).ring = h.ring := rfl
@[simp] theorem clearCause_power (n : Nat) (h : Hw) : (clearCause n h).power = h.power := rfl
@[simp] theorem clearCause_update (n : Nat) (h : Hw) : (clearCause n h).update = h.update := rfl
@[simp] theorem clearCause_rvy (n : Nat) (h : Hw) : (clearCause n h).rvy = h.rvy := rfl
@[simp] theorem clearCause_writes (n : Nat) (h : Hw) : (clearCause n h).writes = h.writes := rfl
@[simp] theorem clearCause_wipe (n : Nat) (h : Hw) : (clearCause n h).wipe = h.wipe := rfl
@[simp] theorem clearCause_raised (n : Nat) (h : Hw) : (clearCause n h).raised = h.raised := rfl
@[simp] theorem clearCause_records (n : Nat) (h : Hw) : (clearCause n h).records = h.records := rfl
@[simp] theorem clearCause_sent (n : Nat) (h : Hw) : (clearCause n h).sent = h.sent := rfl
@[simp] theorem clearCause_draws (n : Nat) (h : Hw) : (clearCause n h).draws = h.draws := rfl

/-! ## markBad -/

@[simp] theorem markBad_board (xs : List Nat) (h : Hw) : (markBad xs h).board = h.board := rfl
@[simp] theorem markBad_image (xs : List Nat) (h : Hw) : (markBad xs h).image = h.image := rfl
@[simp] theorem markBad_sq (xs : List Nat) (h : Hw) : (markBad xs h).sq = h.sq := rfl
@[simp] theorem markBad_drum (xs : List Nat) (h : Hw) : (markBad xs h).drum = h.drum := rfl
@[simp] theorem markBad_raw (xs : List Nat) (h : Hw) : (markBad xs h).raw = h.raw := rfl
@[simp] theorem markBad_cal (xs : List Nat) (h : Hw) : (markBad xs h).cal = h.cal := rfl
@[simp] theorem markBad_bell (xs : List Nat) (h : Hw) : (markBad xs h).bell = h.bell := rfl
@[simp] theorem markBad_cascade (xs : List Nat) (h : Hw) : (markBad xs h).cascade = h.cascade := rfl
@[simp] theorem markBad_sched (xs : List Nat) (h : Hw) : (markBad xs h).sched = h.sched := rfl
@[simp] theorem markBad_streams (xs : List Nat) (h : Hw) : (markBad xs h).streams = h.streams := rfl
@[simp] theorem markBad_ring (xs : List Nat) (h : Hw) : (markBad xs h).ring = h.ring := rfl
@[simp] theorem markBad_power (xs : List Nat) (h : Hw) : (markBad xs h).power = h.power := rfl
@[simp] theorem markBad_update (xs : List Nat) (h : Hw) : (markBad xs h).update = h.update := rfl
@[simp] theorem markBad_rvy (xs : List Nat) (h : Hw) : (markBad xs h).rvy = h.rvy := rfl
@[simp] theorem markBad_writes (xs : List Nat) (h : Hw) : (markBad xs h).writes = h.writes := rfl
@[simp] theorem markBad_wipe (xs : List Nat) (h : Hw) : (markBad xs h).wipe = h.wipe := rfl
@[simp] theorem markBad_raised (xs : List Nat) (h : Hw) : (markBad xs h).raised = h.raised := rfl
@[simp] theorem markBad_records (xs : List Nat) (h : Hw) : (markBad xs h).records = h.records := rfl
@[simp] theorem markBad_sent (xs : List Nat) (h : Hw) : (markBad xs h).sent = h.sent := rfl
@[simp] theorem markBad_draws (xs : List Nat) (h : Hw) : (markBad xs h).draws = h.draws := rfl

/-! ## bump -/

@[simp] theorem bump_board (f : Counters → Counters) (h : Hw) : (bump f h).board = h.board := rfl
@[simp] theorem bump_image (f : Counters → Counters) (h : Hw) : (bump f h).image = h.image := rfl
@[simp] theorem bump_sq (f : Counters → Counters) (h : Hw) : (bump f h).sq = h.sq := rfl
@[simp] theorem bump_drum (f : Counters → Counters) (h : Hw) : (bump f h).drum = h.drum := rfl
@[simp] theorem bump_raw (f : Counters → Counters) (h : Hw) : (bump f h).raw = h.raw := rfl
@[simp] theorem bump_cal (f : Counters → Counters) (h : Hw) : (bump f h).cal = h.cal := rfl
@[simp] theorem bump_bell (f : Counters → Counters) (h : Hw) : (bump f h).bell = h.bell := rfl
@[simp] theorem bump_cascade (f : Counters → Counters) (h : Hw) : (bump f h).cascade = h.cascade := rfl
@[simp] theorem bump_sched (f : Counters → Counters) (h : Hw) : (bump f h).sched = h.sched := rfl
@[simp] theorem bump_streams (f : Counters → Counters) (h : Hw) : (bump f h).streams = h.streams := rfl
@[simp] theorem bump_ring (f : Counters → Counters) (h : Hw) : (bump f h).ring = h.ring := rfl
@[simp] theorem bump_power (f : Counters → Counters) (h : Hw) : (bump f h).power = h.power := rfl
@[simp] theorem bump_update (f : Counters → Counters) (h : Hw) : (bump f h).update = h.update := rfl
@[simp] theorem bump_rvy (f : Counters → Counters) (h : Hw) : (bump f h).rvy = h.rvy := rfl
@[simp] theorem bump_writes (f : Counters → Counters) (h : Hw) : (bump f h).writes = h.writes := rfl
@[simp] theorem bump_wipe (f : Counters → Counters) (h : Hw) : (bump f h).wipe = h.wipe := rfl
@[simp] theorem bump_raised (f : Counters → Counters) (h : Hw) : (bump f h).raised = h.raised := rfl
@[simp] theorem bump_records (f : Counters → Counters) (h : Hw) : (bump f h).records = h.records := rfl
@[simp] theorem bump_sent (f : Counters → Counters) (h : Hw) : (bump f h).sent = h.sent := rfl
@[simp] theorem bump_draws (f : Counters → Counters) (h : Hw) : (bump f h).draws = h.draws := rfl

/-! ## setCore -/

@[simp] theorem setCore_board (c : Nat) (f : Core → Core) (h : Hw) : (setCore c f h).board = h.board := rfl
@[simp] theorem setCore_image (c : Nat) (f : Core → Core) (h : Hw) : (setCore c f h).image = h.image := rfl
@[simp] theorem setCore_sq (c : Nat) (f : Core → Core) (h : Hw) : (setCore c f h).sq = h.sq := rfl
@[simp] theorem setCore_drum (c : Nat) (f : Core → Core) (h : Hw) : (setCore c f h).drum = h.drum := rfl
@[simp] theorem setCore_raw (c : Nat) (f : Core → Core) (h : Hw) : (setCore c f h).raw = h.raw := rfl
@[simp] theorem setCore_cal (c : Nat) (f : Core → Core) (h : Hw) : (setCore c f h).cal = h.cal := rfl
@[simp] theorem setCore_bell (c : Nat) (f : Core → Core) (h : Hw) : (setCore c f h).bell = h.bell := rfl
@[simp] theorem setCore_cascade (c : Nat) (f : Core → Core) (h : Hw) : (setCore c f h).cascade = h.cascade := rfl
@[simp] theorem setCore_streams (c : Nat) (f : Core → Core) (h : Hw) : (setCore c f h).streams = h.streams := rfl
@[simp] theorem setCore_ring (c : Nat) (f : Core → Core) (h : Hw) : (setCore c f h).ring = h.ring := rfl
@[simp] theorem setCore_power (c : Nat) (f : Core → Core) (h : Hw) : (setCore c f h).power = h.power := rfl
@[simp] theorem setCore_update (c : Nat) (f : Core → Core) (h : Hw) : (setCore c f h).update = h.update := rfl
@[simp] theorem setCore_rvy (c : Nat) (f : Core → Core) (h : Hw) : (setCore c f h).rvy = h.rvy := rfl
@[simp] theorem setCore_health (c : Nat) (f : Core → Core) (h : Hw) : (setCore c f h).health = h.health := rfl
@[simp] theorem setCore_writes (c : Nat) (f : Core → Core) (h : Hw) : (setCore c f h).writes = h.writes := rfl
@[simp] theorem setCore_wipe (c : Nat) (f : Core → Core) (h : Hw) : (setCore c f h).wipe = h.wipe := rfl
@[simp] theorem setCore_raised (c : Nat) (f : Core → Core) (h : Hw) : (setCore c f h).raised = h.raised := rfl
@[simp] theorem setCore_records (c : Nat) (f : Core → Core) (h : Hw) : (setCore c f h).records = h.records := rfl
@[simp] theorem setCore_sent (c : Nat) (f : Core → Core) (h : Hw) : (setCore c f h).sent = h.sent := rfl
@[simp] theorem setCore_draws (c : Nat) (f : Core → Core) (h : Hw) : (setCore c f h).draws = h.draws := rfl

/-! ## setStream -/

@[simp] theorem setStream_board (i : Nat) (f : Stream → Stream) (h : Hw) : (setStream i f h).board = h.board := rfl
@[simp] theorem setStream_image (i : Nat) (f : Stream → Stream) (h : Hw) : (setStream i f h).image = h.image := rfl
@[simp] theorem setStream_sq (i : Nat) (f : Stream → Stream) (h : Hw) : (setStream i f h).sq = h.sq := rfl
@[simp] theorem setStream_drum (i : Nat) (f : Stream → Stream) (h : Hw) : (setStream i f h).drum = h.drum := rfl
@[simp] theorem setStream_raw (i : Nat) (f : Stream → Stream) (h : Hw) : (setStream i f h).raw = h.raw := rfl
@[simp] theorem setStream_cal (i : Nat) (f : Stream → Stream) (h : Hw) : (setStream i f h).cal = h.cal := rfl
@[simp] theorem setStream_bell (i : Nat) (f : Stream → Stream) (h : Hw) : (setStream i f h).bell = h.bell := rfl
@[simp] theorem setStream_cascade (i : Nat) (f : Stream → Stream) (h : Hw) : (setStream i f h).cascade = h.cascade := rfl
@[simp] theorem setStream_sched (i : Nat) (f : Stream → Stream) (h : Hw) : (setStream i f h).sched = h.sched := rfl
@[simp] theorem setStream_ring (i : Nat) (f : Stream → Stream) (h : Hw) : (setStream i f h).ring = h.ring := rfl
@[simp] theorem setStream_power (i : Nat) (f : Stream → Stream) (h : Hw) : (setStream i f h).power = h.power := rfl
@[simp] theorem setStream_update (i : Nat) (f : Stream → Stream) (h : Hw) : (setStream i f h).update = h.update := rfl
@[simp] theorem setStream_rvy (i : Nat) (f : Stream → Stream) (h : Hw) : (setStream i f h).rvy = h.rvy := rfl
@[simp] theorem setStream_health (i : Nat) (f : Stream → Stream) (h : Hw) : (setStream i f h).health = h.health := rfl
@[simp] theorem setStream_writes (i : Nat) (f : Stream → Stream) (h : Hw) : (setStream i f h).writes = h.writes := rfl
@[simp] theorem setStream_wipe (i : Nat) (f : Stream → Stream) (h : Hw) : (setStream i f h).wipe = h.wipe := rfl
@[simp] theorem setStream_raised (i : Nat) (f : Stream → Stream) (h : Hw) : (setStream i f h).raised = h.raised := rfl
@[simp] theorem setStream_records (i : Nat) (f : Stream → Stream) (h : Hw) : (setStream i f h).records = h.records := rfl
@[simp] theorem setStream_sent (i : Nat) (f : Stream → Stream) (h : Hw) : (setStream i f h).sent = h.sent := rfl
@[simp] theorem setStream_draws (i : Nat) (f : Stream → Stream) (h : Hw) : (setStream i f h).draws = h.draws := rfl

/-! ## setChain -/

@[simp] theorem setChain_board (n : Nat) (f : Chain → Chain) (h : Hw) : (setChain n f h).board = h.board := rfl
@[simp] theorem setChain_image (n : Nat) (f : Chain → Chain) (h : Hw) : (setChain n f h).image = h.image := rfl
@[simp] theorem setChain_sq (n : Nat) (f : Chain → Chain) (h : Hw) : (setChain n f h).sq = h.sq := rfl
@[simp] theorem setChain_drum (n : Nat) (f : Chain → Chain) (h : Hw) : (setChain n f h).drum = h.drum := rfl
@[simp] theorem setChain_cal (n : Nat) (f : Chain → Chain) (h : Hw) : (setChain n f h).cal = h.cal := rfl
@[simp] theorem setChain_bell (n : Nat) (f : Chain → Chain) (h : Hw) : (setChain n f h).bell = h.bell := rfl
@[simp] theorem setChain_cascade (n : Nat) (f : Chain → Chain) (h : Hw) : (setChain n f h).cascade = h.cascade := rfl
@[simp] theorem setChain_sched (n : Nat) (f : Chain → Chain) (h : Hw) : (setChain n f h).sched = h.sched := rfl
@[simp] theorem setChain_streams (n : Nat) (f : Chain → Chain) (h : Hw) : (setChain n f h).streams = h.streams := rfl
@[simp] theorem setChain_ring (n : Nat) (f : Chain → Chain) (h : Hw) : (setChain n f h).ring = h.ring := rfl
@[simp] theorem setChain_power (n : Nat) (f : Chain → Chain) (h : Hw) : (setChain n f h).power = h.power := rfl
@[simp] theorem setChain_update (n : Nat) (f : Chain → Chain) (h : Hw) : (setChain n f h).update = h.update := rfl
@[simp] theorem setChain_rvy (n : Nat) (f : Chain → Chain) (h : Hw) : (setChain n f h).rvy = h.rvy := rfl
@[simp] theorem setChain_health (n : Nat) (f : Chain → Chain) (h : Hw) : (setChain n f h).health = h.health := rfl
@[simp] theorem setChain_writes (n : Nat) (f : Chain → Chain) (h : Hw) : (setChain n f h).writes = h.writes := rfl
@[simp] theorem setChain_wipe (n : Nat) (f : Chain → Chain) (h : Hw) : (setChain n f h).wipe = h.wipe := rfl
@[simp] theorem setChain_raised (n : Nat) (f : Chain → Chain) (h : Hw) : (setChain n f h).raised = h.raised := rfl
@[simp] theorem setChain_records (n : Nat) (f : Chain → Chain) (h : Hw) : (setChain n f h).records = h.records := rfl
@[simp] theorem setChain_sent (n : Nat) (f : Chain → Chain) (h : Hw) : (setChain n f h).sent = h.sent := rfl
@[simp] theorem setChain_draws (n : Nat) (f : Chain → Chain) (h : Hw) : (setChain n f h).draws = h.draws := rfl

/-! ## modGraph -/

@[simp] theorem modGraph_board (k : Nat) (f : Graph → Graph) (h : Hw) : (modGraph k f h).board = h.board := rfl
@[simp] theorem modGraph_image (k : Nat) (f : Graph → Graph) (h : Hw) : (modGraph k f h).image = h.image := rfl
@[simp] theorem modGraph_sq (k : Nat) (f : Graph → Graph) (h : Hw) : (modGraph k f h).sq = h.sq := rfl
@[simp] theorem modGraph_drum (k : Nat) (f : Graph → Graph) (h : Hw) : (modGraph k f h).drum = h.drum := rfl
@[simp] theorem modGraph_raw (k : Nat) (f : Graph → Graph) (h : Hw) : (modGraph k f h).raw = h.raw := rfl
@[simp] theorem modGraph_cal (k : Nat) (f : Graph → Graph) (h : Hw) : (modGraph k f h).cal = h.cal := rfl
@[simp] theorem modGraph_bell (k : Nat) (f : Graph → Graph) (h : Hw) : (modGraph k f h).bell = h.bell := rfl
@[simp] theorem modGraph_cascade (k : Nat) (f : Graph → Graph) (h : Hw) : (modGraph k f h).cascade = h.cascade := rfl
@[simp] theorem modGraph_streams (k : Nat) (f : Graph → Graph) (h : Hw) : (modGraph k f h).streams = h.streams := rfl
@[simp] theorem modGraph_ring (k : Nat) (f : Graph → Graph) (h : Hw) : (modGraph k f h).ring = h.ring := rfl
@[simp] theorem modGraph_power (k : Nat) (f : Graph → Graph) (h : Hw) : (modGraph k f h).power = h.power := rfl
@[simp] theorem modGraph_update (k : Nat) (f : Graph → Graph) (h : Hw) : (modGraph k f h).update = h.update := rfl
@[simp] theorem modGraph_rvy (k : Nat) (f : Graph → Graph) (h : Hw) : (modGraph k f h).rvy = h.rvy := rfl
@[simp] theorem modGraph_health (k : Nat) (f : Graph → Graph) (h : Hw) : (modGraph k f h).health = h.health := rfl
@[simp] theorem modGraph_writes (k : Nat) (f : Graph → Graph) (h : Hw) : (modGraph k f h).writes = h.writes := rfl
@[simp] theorem modGraph_wipe (k : Nat) (f : Graph → Graph) (h : Hw) : (modGraph k f h).wipe = h.wipe := rfl
@[simp] theorem modGraph_raised (k : Nat) (f : Graph → Graph) (h : Hw) : (modGraph k f h).raised = h.raised := rfl
@[simp] theorem modGraph_records (k : Nat) (f : Graph → Graph) (h : Hw) : (modGraph k f h).records = h.records := rfl
@[simp] theorem modGraph_sent (k : Nat) (f : Graph → Graph) (h : Hw) : (modGraph k f h).sent = h.sent := rfl
@[simp] theorem modGraph_draws (k : Nat) (f : Graph → Graph) (h : Hw) : (modGraph k f h).draws = h.draws := rfl

/-! ## setPort -/

@[simp] theorem setPort_board (s : Side) (f : Port → Port) (h : Hw) : (setPort s f h).board = h.board := by cases s <;> rfl
@[simp] theorem setPort_image (s : Side) (f : Port → Port) (h : Hw) : (setPort s f h).image = h.image := by cases s <;> rfl
@[simp] theorem setPort_sq (s : Side) (f : Port → Port) (h : Hw) : (setPort s f h).sq = h.sq := by cases s <;> rfl
@[simp] theorem setPort_drum (s : Side) (f : Port → Port) (h : Hw) : (setPort s f h).drum = h.drum := by cases s <;> rfl
@[simp] theorem setPort_raw (s : Side) (f : Port → Port) (h : Hw) : (setPort s f h).raw = h.raw := by cases s <;> rfl
@[simp] theorem setPort_cal (s : Side) (f : Port → Port) (h : Hw) : (setPort s f h).cal = h.cal := by cases s <;> rfl
@[simp] theorem setPort_bell (s : Side) (f : Port → Port) (h : Hw) : (setPort s f h).bell = h.bell := by cases s <;> rfl
@[simp] theorem setPort_cascade (s : Side) (f : Port → Port) (h : Hw) : (setPort s f h).cascade = h.cascade := by cases s <;> rfl
@[simp] theorem setPort_sched (s : Side) (f : Port → Port) (h : Hw) : (setPort s f h).sched = h.sched := by cases s <;> rfl
@[simp] theorem setPort_streams (s : Side) (f : Port → Port) (h : Hw) : (setPort s f h).streams = h.streams := by cases s <;> rfl
@[simp] theorem setPort_power (s : Side) (f : Port → Port) (h : Hw) : (setPort s f h).power = h.power := by cases s <;> rfl
@[simp] theorem setPort_update (s : Side) (f : Port → Port) (h : Hw) : (setPort s f h).update = h.update := by cases s <;> rfl
@[simp] theorem setPort_rvy (s : Side) (f : Port → Port) (h : Hw) : (setPort s f h).rvy = h.rvy := by cases s <;> rfl
@[simp] theorem setPort_health (s : Side) (f : Port → Port) (h : Hw) : (setPort s f h).health = h.health := by cases s <;> rfl
@[simp] theorem setPort_writes (s : Side) (f : Port → Port) (h : Hw) : (setPort s f h).writes = h.writes := by cases s <;> rfl
@[simp] theorem setPort_wipe (s : Side) (f : Port → Port) (h : Hw) : (setPort s f h).wipe = h.wipe := by cases s <;> rfl
@[simp] theorem setPort_raised (s : Side) (f : Port → Port) (h : Hw) : (setPort s f h).raised = h.raised := by cases s <;> rfl
@[simp] theorem setPort_records (s : Side) (f : Port → Port) (h : Hw) : (setPort s f h).records = h.records := by cases s <;> rfl
@[simp] theorem setPort_sent (s : Side) (f : Port → Port) (h : Hw) : (setPort s f h).sent = h.sent := by cases s <;> rfl
@[simp] theorem setPort_draws (s : Side) (f : Port → Port) (h : Hw) : (setPort s f h).draws = h.draws := by cases s <;> rfl

/-! ## pass -/

@[simp] theorem pass_board (n : Nat) (h : Hw) : (pass n h).board = h.board := by unfold pass; split <;> rfl
@[simp] theorem pass_image (n : Nat) (h : Hw) : (pass n h).image = h.image := by unfold pass; split <;> rfl
@[simp] theorem pass_sq (n : Nat) (h : Hw) : (pass n h).sq = h.sq := by unfold pass; split <;> rfl
@[simp] theorem pass_drum (n : Nat) (h : Hw) : (pass n h).drum = h.drum := by unfold pass; split <;> rfl
@[simp] theorem pass_raw (n : Nat) (h : Hw) : (pass n h).raw = h.raw := by unfold pass; split <;> rfl
@[simp] theorem pass_cal (n : Nat) (h : Hw) : (pass n h).cal = h.cal := by unfold pass; split <;> rfl
@[simp] theorem pass_bell (n : Nat) (h : Hw) : (pass n h).bell = h.bell := by unfold pass; split <;> rfl
@[simp] theorem pass_cascade (n : Nat) (h : Hw) : (pass n h).cascade = h.cascade := by unfold pass; split <;> rfl
@[simp] theorem pass_sched (n : Nat) (h : Hw) : (pass n h).sched = h.sched := by unfold pass; split <;> rfl
@[simp] theorem pass_streams (n : Nat) (h : Hw) : (pass n h).streams = h.streams := by unfold pass; split <;> rfl
@[simp] theorem pass_ring (n : Nat) (h : Hw) : (pass n h).ring = h.ring := by unfold pass; split <;> rfl
@[simp] theorem pass_update (n : Nat) (h : Hw) : (pass n h).update = h.update := by unfold pass; split <;> rfl
@[simp] theorem pass_rvy (n : Nat) (h : Hw) : (pass n h).rvy = h.rvy := by unfold pass; split <;> rfl
@[simp] theorem pass_health (n : Nat) (h : Hw) : (pass n h).health = h.health := by unfold pass; split <;> rfl
@[simp] theorem pass_writes (n : Nat) (h : Hw) : (pass n h).writes = h.writes := by unfold pass; split <;> rfl
@[simp] theorem pass_wipe (n : Nat) (h : Hw) : (pass n h).wipe = h.wipe := by unfold pass; split <;> rfl
@[simp] theorem pass_raised (n : Nat) (h : Hw) : (pass n h).raised = h.raised := by unfold pass; split <;> rfl
@[simp] theorem pass_records (n : Nat) (h : Hw) : (pass n h).records = h.records := by unfold pass; split <;> rfl
@[simp] theorem pass_sent (n : Nat) (h : Hw) : (pass n h).sent = h.sent := by unfold pass; split <;> rfl
@[simp] theorem pass_draws (n : Nat) (h : Hw) : (pass n h).draws = h.draws := by unfold pass; split <;> rfl

/-! ## What they set -/

@[simp] theorem put_writes (sp : Space) (a : Nat) (bs : List Byte) (h : Hw) : (put sp a bs h).writes = h.writes ++ [⟨sp, a, bs⟩] := rfl
@[simp] theorem complete_records (r : Record) (h : Hw) : (complete r h).records = h.records ++ [r] := rfl
@[simp] theorem setCause_causes (n : Nat) (h : Hw) : (setCause n h).health.causes = setBit h.health.causes n true := rfl
@[simp] theorem clearCause_causes (n : Nat) (h : Hw) : (clearCause n h).health.causes = setBit h.health.causes n false := rfl
@[simp] theorem bump_cnt (f : Counters → Counters) (h : Hw) : (bump f h).health.cnt = f h.health.cnt := rfl
@[simp] theorem disown_owned (p : Nat) (h : Hw) : (disown p h).sq.owned = h.sq.owned.filter (fun o => o.pos != p) := rfl
@[simp] theorem setChain_chains (n : Nat) (f : Chain → Chain) (h : Hw) : (setChain n f h).raw.chains = modifyAt n f h.raw.chains := rfl
@[simp] theorem setPort_same (s : Side) (f : Port → Port) (h : Hw) : portOf (setPort s f h) s = f (portOf h s) := by cases s <;> rfl
@[simp] theorem setPort_other (s : Side) (f : Port → Port) (h : Hw) : portOf (setPort s f h) (otherSide s) = portOf h (otherSide s) := by
  cases s <;> rfl

end Sys2Proof.Machine
end

