-- ==== Sys2Proof/Tests/Slice0.lean ====
section
/-! SUPPORT. Small states, for every statement with hypotheses a theorem that concrete states and operands meet them, clause
by clause, a smoke test of each check of well-formedness, and single steps whose results are the manual's. -/

set_option maxRecDepth 20000

namespace Sys2Proof.Tests

open Sys2Proof
open Sys2Proof.Machine

/-! ## Small states -/

/-- The straps of a node by itself, with a host and with Drumhead. -/
def alone : Straps := { nodeHi := 0, nodeLo := 3, ringRole := 15, hostCfg := 0, bootSel := 0, pwrClass := 0, senseCfg := 0 }

/-- The straps of a ring member with a host. -/
def member : Straps := { alone with ringRole := 7 }

/-- Quotas of 60 W for C0 and 10 W for the others. -/
def quotas : QuotasSec :=
  { init := [60000, 10000, 10000, 10000], max := [60000, 50000, 50000, 50000], c0Floor := 5000, base := 1000, tThr := 100
    tStop := 120, classPerm := 0xFFFF }

/-- A running node by itself: every kind permitted, all of DRAM granted, fuses and inputs at rest. -/
def up : State :=
  { mem := {}
    hw :=
      { board :=
          { aonOn := true, resetN := true, straps := alone, strapsLatched := true, motion := false, updLock := false
            hvPresent := true, hvLow := false, vbat := [700, 700, 700, 700, 700, 700, 700, 700] }
        image :=
          { system := { permLo := 0xFFFFFFFF, permHi := 0xFFFFFFFF }
            access := { regions := [{ base := 0, size := 2 ^ 47, perm := 0xFFFFFFFF }] }, quotas := some quotas }
        sq := { linkUp := true }
        sched := { quotas := [60000, 10000, 10000, 10000] }
        power := { dev := .active, ctrlOn := true, memOn := true } } }

def onHw (f : Hw → Hw) (s : State) : State := { s with hw := f s.hw }
def onBoard (f : Board → Board) (s : State) : State := onHw (fun h => { h with board := f h.board }) s
def onImage (f : Image → Image) (s : State) : State := onHw (fun h => { h with image := f h.image }) s
def onSq (f : Ring1024 → Ring1024) (s : State) : State := onHw (fun h => { h with sq := f h.sq }) s
def onDrum (f : Drum → Drum) (s : State) : State := onHw (fun h => { h with drum := f h.drum }) s
def onRaw (f : Raw → Raw) (s : State) : State := onHw (fun h => { h with raw := f h.raw }) s
def onCal (f : Cal → Cal) (s : State) : State := onHw (fun h => { h with cal := f h.cal }) s
def onBell (f : Bell → Bell) (s : State) : State := onHw (fun h => { h with bell := f h.bell }) s
def onCascade (f : Cascade → Cascade) (s : State) : State := onHw (fun h => { h with cascade := f h.cascade }) s
def onSched (f : Sched → Sched) (s : State) : State := onHw (fun h => { h with sched := f h.sched }) s
def onRing (f : RingIf → RingIf) (s : State) : State := onHw (fun h => { h with ring := f h.ring }) s
def onPower (f : Power → Power) (s : State) : State := onHw (fun h => { h with power := f h.power }) s
def onUpdate (f : Update → Update) (s : State) : State := onHw (fun h => { h with update := f h.update }) s
def onRvy (f : Rvy → Rvy) (s : State) : State := onHw (fun h => { h with rvy := f h.rvy }) s
def onHealth (f : Health → Health) (s : State) : State := onHw (fun h => { h with health := f h.health }) s
def withStreams (xs : List Stream) (s : State) : State := onHw (fun h => { h with streams := xs }) s
def withFlash (m : Mem) (s : State) : State := { s with mem := { s.mem with flash := m } }

/-- Slot 0 holds a command of HOST_S and is the next to be fetched. -/
def posted (s : State) : State := onSq (fun q => { q with producer := 1, owned := [{ pos := 0, master := 1 }] }) s

/-- A slot of a kind with its words from 4 on. -/
def slot (kind : Nat) (ws : List Word) : Slot := { words := [0x80000000#32 + BitVec.ofNat 32 kind, 0x77, 0, 0] ++ ws }

/-- That slot as the fetch returns it. -/
def fetched (kind : Nat) (ws : List Word) : Fetched := { pos := 0, master := 1, words := fitTo 32 0 (slot kind ws).words }

/-- A slot that has been fetched and waits for its completion. -/
def waiting (kind : Nat) (s : State) : State :=
  onSq (fun q => { q with producer := 1, fetch := 1, owned := [{ pos := 0, master := 1, started := true, kind := kind, tag := 0x77 }] }) s

/-- That slot. -/
def waitingOwned (kind : Nat) : Owned := { pos := 0, master := 1, started := true, kind := kind, tag := 0x77 }

/-- An image for any node, signed with a key of this file, whose other three sections are too short to be valid (R22 to R25), and the hash of its key. -/
def keyHash : List Byte := wordsBytes [
    0x632639D0, 0x89D31688, 0x66E359DE, 0xCB5813D1, 0x5799C0C4, 0x3D35F68B, 0x15046AF, 0x67378DC4,
    0x452B5D26, 0x1F587EF2, 0x4B03A385, 0xCC57561B]
def imgHead : List Word := [0x5A390C1F, 1, 0x204, 4, 7, 0, 0x100, 0, 1, 0x80, 0x18, 0, 2, 0xC0, 4, 0,
    4, 0x100, 4, 0, 6, 0x140, 4, 0]
def imgSystem : List Word := [0, 0, 0x100000, 0, 0xFFFFFFFF, 0xFFFF]
def imgSigned : List Word := [
    0xA76F19E8, 0x144637AF, 0xA2683B1C, 0x3FEF7ECC, 0x41EF70B9, 0x457FA6A4, 0x70B9C84C, 0x4C4DC24F,
    0x14374680, 0xBFFE0F89, 0xCC65DC4, 0x21333A2D, 0x2AE56225, 0x17A0672B, 0xEBB585A9, 0xA80D2386,
    0xBAA22129, 0xBEE29B62, 0x6282EC62, 0x4A92D18D, 0x97C159D7, 0x5F80FE6E, 0x688FF7E7, 0xB41B7D45,
    0x50BCDCC5, 0x5A71AE3C, 0xC83109B4, 0xF1FAF900, 0x489F10C5, 0xC837F60A, 0xECAEFA29, 0xB12DE9E1,
    0xC522C824, 0xB361C92C, 0x57B4D90B, 0x6FEE3879, 0xFDA76A02, 0x4D731130, 0x6345222B, 0x1466388,
    0xBC15AE2E, 0x270C24DA, 0x9C847F69, 0xC4C878D0, 0x842DC28F, 0x781694B8, 0xE03A0450, 0xBF232750]
def imgBytes : List Byte := wordsBytes (fitTo 32 0 imgHead ++ fitTo 49 0 imgSystem ++ imgSigned)

/-- The manifest of a package with that image as its part of type 4, and the package (R390). -/
def manifest : List Word := [0x5A394D46, 1, 896, 1, 0, 0, 0, 0, 8, 0, 0, 0, 0, 0, 0, 0, 0x10004, 320, 0x204, 0]
def package : List Byte := wordsBytes (fitTo 80 0 manifest) ++ imgBytes ++ List.replicate (896 - 320 - 516) 0

/-- A stream at rest in DRAM, one in core store, one swapped out. -/
def sIdle : Stream := { st := .idle, owner := 1, home := 0x100000, state := 0x100000, slotBytes := 4096, chunkLen := 4 }
def sCs : Stream := { sIdle with inCs := true, core := 0, state := coreStoreBase, preferCs := true }
def sOut : Stream := { sIdle with st := .swappedOut, preferCs := true }

/-- A graph that waits for its check. -/
def graph0 : Graph := { key := 0, pos := 0, owner := 1, tag := 0x77, hdrAddr := 0x100, hiRail := [] }
/-- A graph of one task without effect at 0x100 that passes its check. -/
def goodGraph (s : State) : State :=
  { s with mem := { s.mem with
      dram := memWrite (some 0) (memWrite (some 0) [] 0x100 (wordsBytes (fitTo 16 0 [graphHdrMagic, 1, 1 + 3 * 0x20000, 0x140])))
        0x140 (wordsBytes (fitTo 16 0 [11, 0, 0, 0, 0, 0, 0, 0xFFFF])) } }

/-- The device asleep after a POWER slot at index 0, and the slot that waits for the end of the stay. -/
def staySlot : PowerSlot := { pos := 0, tag := 0x77, op := 1 }
def sleeping : State :=
  onPower (fun p => { p with dev := .sleep, ctrlOn := false, memOn := false, slot := some staySlot })
    (onSq (fun q => { q with fetchStopped := true }) (waiting 3 up))

/-- An entry into SLEEP that has begun. -/
def entering (e : Entry) (s : State) : State :=
  onPower (fun p => { p with entry := some e, slot := some staySlot }) (onSq (fun q => { q with fetchStopped := true }) s)

/-- A SENSE domain that is powered, with its channels. -/
def senseUp (s : State) : State := onDrum (fun d => { d with senseOn := true, channels := List.replicate 32 { state := .live } }) s

/-- A Bell section with both cascade graphs and one class. -/
def bellSec : BellSec :=
  { enable := true, t1En := true, t2En := true, failVerdict := 1, minValid := 1, chMask := 1, tapMask := 1, hist := 1
    t1Graph := 0x40000, t2Graph := 0x50000, cascadeBase := 0x60000
    classes := [{ thr := 0, k := 1, n := 1, action := 1 }] }
def channelsSec : ChannelsSec := { frameBase := 0x80000, depthLog2 := 4, streamDiv := [0], channels := [{ mode := 1 }] }
def withBell (s : State) : State := onImage (fun i => { i with bell := some bellSec, channels := some channelsSec }) s

/-- An excursion at T1 whose graph, at key 1024, has been fetched. -/
def exc1 : Excursion := { graphOpen := true, fetchEl := 0, key := 1024, prior := .sleep }
def inExcursion (s : State) : State :=
  onCascade (fun c => { c with exc := some exc1 }) (onSched (fun x => { x with graphs := [{ graph0 with key := 1024, owner := SCHED }] })
    (onPower (fun p => { p with slot := some staySlot }) (onSq (fun q => { q with fetchStopped := true }) s)))

/-- A submission ring in device DRAM at 0x200000 whose slot 0 is a slot of a kind. -/
def inDram (kind : Nat) (ws : List Word) (s : State) : State :=
  let t := onImage (fun i => { i with system := { i.system with sqInDram := true, sqBase := 0x200000 } }) s
  { t with mem := { t.mem with dram := memWrite (some 0) t.mem.dram 0x200000 (wordsBytes (fetched kind ws).words) } }
/-- A CHANNELS section that is valid. -/
def sensed (s : State) : State := onImage (fun i => { i with channels := some channelsSec }) s

/-- The cores, all powered, core 0 as given. -/
def withCores (c : Core) (s : State) : State :=
  onSched (fun x => { x with cores := c :: List.replicate 31 { powered := true } }) s
def piece0 : PieceRef := { graph := 0, task := 0, piece := 0 }
def onPiece : Core := { powered := true, run := some (.piece piece0 1) }
def onProbe : Core := { powered := true, run := some (.probe 63), slice := 63 }

/-- A resident graph of one task, that task, and the state whose only graph it is. -/
def task1 (desc : List Word) (st : TaskSt) (ps : List PieceSt) : Task := { desc := desc, st := st, pieces := ps }
def graph1 (x : Task) : Graph := { graph0 with resident := true, tasks := [x] }
def resident (x : Task) (s : State) : State := onSched (fun y => { y with graphs := [graph1 x] }) (waiting 1 s)

def waitDesc (w8 v us : Word) : List Word := fitTo 16 0 [12, 0, 0, 0, 0, 0, 0, 0, w8, v, 0, us]
def moveDesc (src dst n : Word) : List Word := fitTo 16 0 [5, 0, 0, 0, 0, 0, 0, 0, src, 0, dst, 0, n]
def exchDesc (addr n : Word) : List Word := fitTo 16 0 [6, 0, 0, 0, 0, 0, 0, 0, 0, addr, 0, 0, 0, n]
def recurDesc : List Word := fitTo 16 0 [3]

/-- A ring port that is up. -/
def upPort : Port := { st := .up, width := 8, partner := some { node := 4, width := 8, role := 7 }, credit := List.replicate 8 1024 }
def ringUp (s : State) : State :=
  onRing (fun r => { r with east := upPort, west := upPort, st := .formed, members := [3, 4], head := some 3, epoch := 1 })
    (onBoard (fun b => { b with straps := member }) s)
/-- An EXCHANGE of the task in flight. -/
def exch0 (op : Nat) : Exch := { ref := piece0, tag := 9, peer := 4, west := false, op := op }
def exchanging (op : Nat) (s : State) : State := onRing (fun r => { r with exch := [exch0 op] }) (ringUp s)
def fromPeer (param : Word) (payload : List Byte) : Frame :=
  { dst := 3, src := 4, lseq := 0, tag := 9, param := param, payload := payload }
def withCoreAt (k : Nat) (c : Core) (s : State) : State :=
  onSched (fun x => { x with cores := List.replicate k {} ++ c :: List.replicate (31 - k) {} }) s
/-- VDD_ARRAY commanded to 560 mV. -/
def railed (s : State) : State := onPower (fun p => { p with railMv := 560 }) s
/-- The only graph with tensor records, and DRAM whose first granule has been written. -/
def withTensors (ts : List (List Word)) (x : Task) (s : State) : State :=
  onSched (fun y => { y with graphs := [{ graph1 x with tensors := ts }] }) (waiting 1 s)
def writtenAt (gs : List Nat) (s : State) : State := onHealth (fun h => { h with written := gs }) s

/-- Eight chains, the first as given, and a RAWPATH section that enables the first two. -/
def chains (c : Chain) (s : State) : State :=
  onImage (fun i => { i with channels := some channelsSec
                             raw := some { beatPinEn := true, chains := [{ enable := true, respAllow := 3, base := 0xA0000, spikeHold := 2 },
                                                                       { enable := true, channel := 1 }] } })
    (onRaw (fun r => { r with chains := c :: List.replicate 7 {} }) (senseUp s))
def runs : Chain := { running := true, resetTick := 8, nFilt := 300, nHalf := 602 }

/-- A TIME slot that waits for an edge of BEAT. -/
def timeWait : TimeWait := { pos := 0, tag := 0x77, value := 5000, waitMs := 1 }
def beatWaits (s : State) : State := onPower (fun p => { p with timeWaits := [timeWait] }) (waiting 12 s)

/-- Drumhead at work: 32 LIVE channels of which channel 0 has its stream, and a running beat. -/
def drumming (s : State) : State := onImage (fun i => { i with channels := some channelsSec }) (senseUp s)
def ownerOfFrames (s : State) : State := onImage (fun i => { i with access := {} }) s

def block0 : RawBlock :=
  { seq := 18, samples := [{ y := 5 }, { y := -5 }], partly := true, timeStep := false, valid := true, spare := false, response := 0 }

/-- A calibration run of channel 0 whose slot waits. -/
def calRun : CalRun := { slot := 0, tag := 0x77 }
def calibrating (r : CalRun) (s : State) : State :=
  onCal (fun c => { c with run := some r, trims := List.replicate 33 {}, loaded := List.replicate 33 {} }) (drumming (waiting 8 s))
/-- At the boundary that closes base beat 0. -/
def boundary (s : State) : State := onPower (fun p => { p with time := basePeriod s.hw }) (onDrum (fun d => { d with nextBeat := 1 }) s)
/-- A number of zero-range windows in a row of every unit. -/
def zeroRuns (n : Nat) (s : State) : State := onCal (fun c => { c with zeroRuns := List.replicate 33 n }) s

/-- The recovery port open in RECOVERY. -/
def recovering (r : Rvy) (s : State) : State :=
  onRvy (fun _ => { r with isOpen := true }) (onPower (fun p => { p with dev := .recovery, cause := some .wakeFail }) s)
def logEntry : LogEntry := { seq := 3, code := 5, time := 9 }

/-- A ring member with the RING section's defaults, its ports as given. -/
def inRing (r : RingIf) (s : State) : State :=
  onRing (fun _ => r) (onImage (fun i => { i with ring := some { minWidth := 4, rttBudget := 1000, errRetrain := 100 } })
    (onBoard (fun b => { b with straps := member }) s))
def formed : RingIf :=
  { east := upPort, west := upPort, st := .formed, members := [3, 4], head := some 4, epoch := 1 }
def forming (r : RingIf) : RingIf := { r with st := .forming, head := none, members := [] }
def frame (src : Nat) (param : Word) (payload : List Byte) : Frame :=
  { dst := 3, src := src, lseq := 0, tag := 9, param := param, payload := payload }
/-- The payload of a roll call. -/
def call (epoch nonce flags : Word) : List Byte := wordsBytes [epoch, nonce, flags, 0]
/-- The payload of a window unit: its offset, its length and its bytes. -/
def unit (a : Word) (bs : List Byte) : List Byte := wordsBytes [a, BitVec.ofNat 32 bs.length, 0, 0] ++ bs
def winUnit0 : WinUnit := { tag := 9, ref := piece0, addr := 64, bytes := [1, 2] }
def booting (got : List Byte) (s : State) : State :=
  onPower (fun p => { p with dev := .off, ctrlOn := true }) (inRing { formed with bootBytes := some got } s)

/-- The flash with a boot record in its first sector and, where asked, a package in STAGING. -/
def withRecord (r : BootRec) (s : State) : State := withFlash (memWrite (some 0xFF) s.mem.flash bootABase (recordBytes r)) s
def withStaging (s : State) : State := withFlash (memWrite (some 0xFF) s.mem.flash stagingBase package) s
def hash1 : List Word := List.replicate 12 0x11
def hash2 : List Word := List.replicate 12 0x22
/-- A ring of two in which this node, 3, is the head or not, and whose EAST port is up. -/
def headHere (s : State) : State := inRing { formed with head := some 3 } s
def member3 (s : State) : State := inRing formed s
/-- A package staged that targets node 3. -/
def staged (s : State) : State :=
  withRecord { state := .staged, stagingHash := hash1, stagingBytes := 896 } (withStaging (onUpdate (fun u => { u with staged := 24 }) s))
def opened (st : BootSt) (s : State) : State :=
  withRecord { state := st, actOpen := true, targeted := true, activeHash := hash1, stagingHash := hash1, actHash := hash1 } s
def ctl (op reason : Nat) (hash : List Word) (a b c : Nat) : Frame :=
  { rollCtl op 0 reason hash a b c with dst := 3, src := 4, lseq := 0 }
def chunk64 : List Byte := List.replicate 64 0xA5
def dramChunk (s : State) : State := { s with mem := { s.mem with dram := memWrite (some 0) [] 0x200000 package } }

/-- A node installed with the image and a boot record that asks for nothing. -/
def installed (s : State) : State :=
  withRecord {} (onBoard (fun b => { b with keyHash := keyHash, straps := { member with senseCfg := 15 } })
    (withFlash (memWrite (some 0xFF) [] activeBase package) s))
/-- Three conversions of a pin at one voltage, and the straps of that node as the pins read. -/
def pin (mv : Nat) : StrapSample := { a := mv, b := mv, c := mv }
def memberPins : List StrapSample := [pin 0, pin 240, pin 560, pin 0, pin 0, pin 0, pin 1200]
def bellDesc (addr : Word) : List Word := fitTo 16 0 [10, 0, 0, 0, 0, 0, 0, 0, 1, addr, 0]
def commitsDesc (d : List Word) (f : BellSec → BellSec) (s : State) : State :=
  onImage (fun i => { i with bell := some (f bellSec), channels := some channelsSec })
    (senseUp (resident (task1 (fitTo 16 0 d) .issued [.running none]) s))
def commits (addr : Word) (f : BellSec → BellSec) (s : State) : State := commitsDesc (bellDesc addr) f s
def withDram (a : Nat) (bs : List Byte) (s : State) : State :=
  { s with mem := { s.mem with dram := memWrite (some 0) s.mem.dram a bs } }
/-- A Bell model of one dense layer on two rows of one value, whose weights are all the same (R167, R168). -/
def bellModel (weight : Byte) : List Byte :=
  wordsBytes [128, 1, 0, 0, 0x1000, 32, 64, 0x10001] ++ List.replicate 32 weight ++ List.replicate 64 0
/-- The board with the straps as the pins read. -/
def readStraps (ss : List StrapSample) : Board :=
  { up.hw.board with straps := strapsOf ((fitTo 7 {} ss).map fun p => (pinLevel p).getD 0) }

/-! ## States that meet each statement's hypotheses -/

theorem test_DoorbellJudgesTheProducerIndex_is_met :
    (doorbellSeen up.hw ∧ RoomToReport up) ∧
    (doorbellSeen (onSq (fun q => { q with linkUp := false }) up).hw = false ∧ NothingHeld (onSq (fun q => { q with linkUp := false }) up) ∧ (onSq (fun q => { q with linkUp := false }) up).hw.sq.queue = []) := by
  (repeat' apply And.intro) <;> decide

theorem test_EventPostsAreHeldTakenOrReleased_is_met :
    (Accepts (posted up) (slot 7 [0x7F]) (fetched 7 [0x7F]) kEventPost ∧ Settled (posted up) ∧ (posted up).hw.sq.heldRecords = [] ∧ (posted up).hw.sq.queue = [] ∧ 128 < freeSlots (posted up).hw) ∧
    (Accepts (onSq (fun q => { q with queue := [{ status := .eventHealth, detail := .coreFault }] }) (posted up)) (slot 7 [0x7F]) (fetched 7 [0x7F]) kEventPost ∧ NothingHeld (onSq (fun q => { q with queue := [{ status := .eventHealth, detail := .coreFault }] }) (posted up)) ∧ (onSq (fun q => { q with queue := [{ status := .eventHealth, detail := .coreFault }] }) (posted up)).hw.power.entry = none ∧
      (onSq (fun q => { q with queue := [{ status := .eventHealth, detail := .coreFault }] }) (posted up)).hw.sq.queue = [{ status := .eventHealth, detail := .coreFault }] ∧
      accepts (fld (wordAt (fetched 7 [0x7F]).words 4) 0 7) .eventHealth) ∧
    (Accepts (onSq (fun q => { q with producer := 896 }) (posted up)) (slot 7 [0x7F]) (fetched 7 [0x7F]) kEventPost ∧ NothingHeld (onSq (fun q => { q with producer := 896 }) (posted up)) ∧ (onSq (fun q => { q with producer := 896 }) (posted up)).hw.power.entry = none ∧ (onSq (fun q => { q with producer := 896 }) (posted up)).hw.sq.queue = [] ∧
      ((onSq (fun q => { q with producer := 896 }) (posted up)).hw.sq.owned.head?).map (·.pos) = some (fetched 7 [0x7F]).pos ∧ freeSlots (onSq (fun q => { q with producer := 896 }) (posted up)).hw = 128) := by
  (repeat' apply And.intro) <;> decide

theorem test_BrokenSlotsAreRefused_is_met :
    (Fetches (posted up) (slot 0x55 []) (fetched 0x55 []) ∧ isUnknown (fetched 0x55 []).words ∧ RoomToReport (posted up) ∧ (posted up).hw.power.entry = none ∧
      ¬ slotKind (fetched 0x55 []).words ∈ [kGraph, kBudget, kStreamCtl]) ∧
    (Fetches (onImage (fun i => { i with system := { i.system with permLo := 0 } }) (posted up)) (slot 7 [0x7F]) (fetched 7 [0x7F]) ∧ slotKind (fetched 7 [0x7F]).words = kEventPost ∧ slotFormatOk (fetched 7 [0x7F]).words ∧
      slotPermitted (onImage (fun i => { i with system := { i.system with permLo := 0 } }) (posted up)).hw kEventPost (fetched 7 [0x7F]).master = false ∧ RoomToReport (onImage (fun i => { i with system := { i.system with permLo := 0 } }) (posted up)) ∧ (onImage (fun i => { i with system := { i.system with permLo := 0 } }) (posted up)).hw.power.entry = none) ∧
    (Fetches (onImage (fun i => { i with system := { i.system with permLo := 0 } }) (posted up)) (slot 8 [0x1]) (fetched 8 [0x1]) ∧ slotKind (fetched 8 [0x1]).words = kCalibrate ∧ slotFormatOk (fetched 8 [0x1]).words ∧
      slotPermitted (onImage (fun i => { i with system := { i.system with permLo := 0 } }) (posted up)).hw kCalibrate (fetched 8 [0x1]).master = false ∧ RoomToReport (onImage (fun i => { i with system := { i.system with permLo := 0 } }) (posted up)) ∧ (onImage (fun i => { i with system := { i.system with permLo := 0 } }) (posted up)).hw.power.entry = none) ∧
    ((nextSlot (onHealth (fun h => { h with badUnits := [0x200000] }) (inDram 7 [0x7F] (posted up))).hw).isSome ∧ (onHealth (fun h => { h with badUnits := [0x200000] }) (inDram 7 [0x7F] (posted up))).hw.image.system.sqInDram ∧ hitsBad (onHealth (fun h => { h with badUnits := [0x200000] }) (inDram 7 [0x7F] (posted up))).hw .dram (slotAddr (onHealth (fun h => { h with badUnits := [0x200000] }) (inDram 7 [0x7F] (posted up))).hw 0) 128 ∧ RoomToReport (onHealth (fun h => { h with badUnits := [0x200000] }) (inDram 7 [0x7F] (posted up))) ∧
      (onHealth (fun h => { h with badUnits := [0x200000] }) (inDram 7 [0x7F] (posted up))).hw.power.entry = none) ∧
    (Fetches (onImage (fun i => { i with system := { i.system with permLo := 0 } }) (posted up)) (slot 3 [6]) (fetched 3 [6]) ∧ isUnknown (fetched 3 [6]).words ∧ slotFormatOk (fetched 3 [6]).words ∧ slotPermitted (onImage (fun i => { i with system := { i.system with permLo := 0 } }) (posted up)).hw (slotKind (fetched 3 [6]).words) (fetched 3 [6]).master = false ∧
      RoomToReport (onImage (fun i => { i with system := { i.system with permLo := 0 } }) (posted up)) ∧ (onImage (fun i => { i with system := { i.system with permLo := 0 } }) (posted up)).hw.power.entry = none) := by
  (repeat' apply And.intro) <;> decide

theorem test_BudgetSlotsReplaceQuotasOrAreRefused_is_met :
    (Accepts (posted up) (slot 2 [3, 20000 + 3000 * 65536]) (fetched 2 [3, 20000 + 3000 * 65536]) kBudget ∧ (posted up).hw.image.quotas = some quotas ∧ AtRest (posted up) ∧
      (∀ c < 4, bit (wordAt (fetched 2 [3, 20000 + 3000 * 65536]).words 4) c = false → (newQuotas (fetched 2 [3, 20000 + 3000 * 65536]).words).getD c 0 = 0) ∧
      (∀ c < 4, bit (wordAt (fetched 2 [3, 20000 + 3000 * 65536]).words 4) c → (newQuotas (fetched 2 [3, 20000 + 3000 * 65536]).words).getD c 0 ≤ quotas.max.getD c 0) ∧
      quotas.c0Floor ≤ (newQuotas (fetched 2 [3, 20000 + 3000 * 65536]).words).getD 0 0) ∧
    (Accepts (posted up) (slot 2 [1, 20000 + 3000 * 65536]) (fetched 2 [1, 20000 + 3000 * 65536]) kBudget ∧ AtRest (posted up) ∧ bit (wordAt (fetched 2 [1, 20000 + 3000 * 65536]).words 4) 1 = false ∧ (newQuotas (fetched 2 [1, 20000 + 3000 * 65536]).words).getD 1 0 ≠ 0) ∧
    (Accepts (posted up) (slot 2 [3, 20000 + 50001 * 65536]) (fetched 2 [3, 20000 + 50001 * 65536]) kBudget ∧ AtRest (posted up) ∧ bit (wordAt (fetched 2 [3, 20000 + 50001 * 65536]).words 4) 1 ∧ quotas.max.getD 1 0 < (newQuotas (fetched 2 [3, 20000 + 50001 * 65536]).words).getD 1 0 ∧
      (∀ c < 4, bit (wordAt (fetched 2 [3, 20000 + 50001 * 65536]).words 4) c = false → (newQuotas (fetched 2 [3, 20000 + 50001 * 65536]).words).getD c 0 = 0)) ∧
    (Accepts (posted up) (slot 2 [1, 4999]) (fetched 2 [1, 4999]) kBudget ∧ AtRest (posted up) ∧ bit (wordAt (fetched 2 [1, 4999]).words 4) 0 ∧ (newQuotas (fetched 2 [1, 4999]).words).getD 0 0 < quotas.c0Floor ∧
      (∀ c < 4, bit (wordAt (fetched 2 [1, 4999]).words 4) c = false → (newQuotas (fetched 2 [1, 4999]).words).getD c 0 = 0) ∧
      (∀ c < 4, bit (wordAt (fetched 2 [1, 4999]).words 4) c → (newQuotas (fetched 2 [1, 4999]).words).getD c 0 ≤ quotas.max.getD c 0)) ∧
    (Accepts (onImage (fun i => { i with quotas := none }) (posted up)) (slot 2 [1, 2000]) (fetched 2 [1, 2000]) kBudget ∧ AtRest (onImage (fun i => { i with quotas := none }) (posted up)) ∧ (onImage (fun i => { i with quotas := none }) (posted up)).hw.image.quotas = none) := by
  (repeat' apply And.intro) <;> decide

theorem test_GraphSlotsWaitAndAreChecked_is_met :
    (Accepts (posted up) (slot 1 [0x100]) (fetched 1 [0x100]) kGraph ∧ AtRest (posted up) ∧ (posted up).hw.power.tripped = false) ∧
    (Accepts (onPower (fun p => { p with tripped := true }) (posted up)) (slot 1 [0x100]) (fetched 1 [0x100]) kGraph ∧ AtRest (onPower (fun p => { p with tripped := true }) (posted up)) ∧ (onPower (fun p => { p with tripped := true }) (posted up)).hw.power.tripped) ∧
    ((onSched (fun x => { x with graphs := [graph0], checking := some 0 }) (waiting 1 up)).hw.sched.checking = some 0 ∧ graphOf (onSched (fun x => { x with graphs := [graph0], checking := some 0 }) (waiting 1 up)).hw 0 = some graph0 ∧ AtRest (onSched (fun x => { x with graphs := [graph0], checking := some 0 }) (waiting 1 up)) ∧ (onSched (fun x => { x with graphs := [graph0], checking := some 0 }) (waiting 1 up)).hw.writesRecords ∧
      (onSched (fun x => { x with graphs := [graph0], checking := some 0 }) (waiting 1 up)).hw.sq.owned.find? (fun x => x.pos == graph0.pos) = some (waitingOwned 1) ∧
      (checkGraph (onSched (fun x => { x with graphs := [graph0], checking := some 0 }) (waiting 1 up)).mem { (onSched (fun x => { x with graphs := [graph0], checking := some 0 }) (waiting 1 up)).hw with sent := [], sched := { (onSched (fun x => { x with graphs := [graph0], checking := some 0 }) (waiting 1 up)).hw.sched with checking := none } } 0x100 1 false none).toOption.isNone) ∧
    ((goodGraph (onSched (fun x => { x with graphs := [graph0], checking := some 0 }) (waiting 1 up))).hw.sched.checking = some 0 ∧ graphOf (goodGraph (onSched (fun x => { x with graphs := [graph0], checking := some 0 }) (waiting 1 up))).hw 0 = some graph0 ∧ NoExcursion (goodGraph (onSched (fun x => { x with graphs := [graph0], checking := some 0 }) (waiting 1 up))) ∧ checkWaits (goodGraph (onSched (fun x => { x with graphs := [graph0], checking := some 0 }) (waiting 1 up))).mem (goodGraph (onSched (fun x => { x with graphs := [graph0], checking := some 0 }) (waiting 1 up))).hw 1 0x100 = false ∧
      (checkGraph (goodGraph (onSched (fun x => { x with graphs := [graph0], checking := some 0 }) (waiting 1 up))).mem { (goodGraph (onSched (fun x => { x with graphs := [graph0], checking := some 0 }) (waiting 1 up))).hw with sent := [], sched := { (goodGraph (onSched (fun x => { x with graphs := [graph0], checking := some 0 }) (waiting 1 up))).hw.sched with checking := none } } 0x100 1 false none).toOption.isSome) ∧
    ((onSched (fun x => { x with graphs := [{ graph0 with hdrAddr := windowBase }], checking := some 0 }) (waiting 1 up)).hw.sched.checking = some 0 ∧ checkWaits (onSched (fun x => { x with graphs := [{ graph0 with hdrAddr := windowBase }], checking := some 0 }) (waiting 1 up)).mem (onSched (fun x => { x with graphs := [{ graph0 with hdrAddr := windowBase }], checking := some 0 }) (waiting 1 up)).hw 1 windowBase ∧ AtRest (onSched (fun x => { x with graphs := [{ graph0 with hdrAddr := windowBase }], checking := some 0 }) (waiting 1 up))) := by
  (repeat' apply And.intro) <;> decide

theorem test_StreamSlotsActOrAreRefused_is_met :
    (AtRest (posted up) ∧ streamFault (fetched 9 [5, 0x100000, 0, 4096, 4, 7]) (posted up).hw = none ∧ AcceptsOp (posted up) (slot 9 [5, 0x100000, 0, 4096, 4, 7]) (fetched 9 [5, 0x100000, 0, 4096, 4, 7]) kStreamCtl 8 3 0) ∧
    (AtRest (withStreams [sIdle] (posted up)) ∧ streamFieldsOk (fetched 9 [0, 0x100000, 0, 4096, 4, 7]).words ∧ AcceptsOp (withStreams [sIdle] (posted up)) (slot 9 [0, 0x100000, 0, 4096, 4, 7]) (fetched 9 [0, 0x100000, 0, 4096, 4, 7]) kStreamCtl 8 3 0 ∧ bit (wordAt (fetched 9 [0, 0x100000, 0, 4096, 4, 7]).words 4) 18 = false ∧
      (streamOf (withStreams [sIdle] (posted up)).hw (slotStream (fetched 9 [0, 0x100000, 0, 4096, 4, 7]).words)).st ≠ .free) ∧
    (AtRest (onImage (fun i => { i with access := {} }) (posted up)) ∧ streamFieldsOk (fetched 9 [5, 0x100000, 0, 4096, 4, 7]).words ∧ AcceptsOp (onImage (fun i => { i with access := {} }) (posted up)) (slot 9 [5, 0x100000, 0, 4096, 4, 7]) (fetched 9 [5, 0x100000, 0, 4096, 4, 7]) kStreamCtl 8 3 0 ∧ bit (wordAt (fetched 9 [5, 0x100000, 0, 4096, 4, 7]).words 4) 18 = false ∧
      (streamOf (onImage (fun i => { i with access := {} }) (posted up)).hw (slotStream (fetched 9 [5, 0x100000, 0, 4096, 4, 7]).words)).st = .free ∧
      granted (onImage (fun i => { i with access := {} }) (posted up)).hw CORES true true (addrAt (fetched 9 [5, 0x100000, 0, 4096, 4, 7]).words 5) (2 * fld (wordAt (fetched 9 [5, 0x100000, 0, 4096, 4, 7]).words 7) 0 25) = false) ∧
    (AtRest (withStreams [sIdle] (posted up)) ∧ streamFault (fetched 9 [0x100]) (withStreams [sIdle] (posted up)).hw = none ∧ AcceptsOp (withStreams [sIdle] (posted up)) (slot 9 [0x100]) (fetched 9 [0x100]) kStreamCtl 8 3 1 ∧ bit (wordAt (fetched 9 [0x100]).words 4) 19 = false) ∧
    (AtRest (withStreams [sCs] (posted up)) ∧ streamFault (fetched 9 [0x80100]) (withStreams [sCs] (posted up)).hw = none ∧ (withStreams [sCs] (posted up)).hw.streams.length ≤ 256 ∧ AcceptsOp (withStreams [sCs] (posted up)) (slot 9 [0x80100]) (fetched 9 [0x80100]) kStreamCtl 8 3 1 ∧
      bit (wordAt (fetched 9 [0x80100]).words 4) 19 ∧ (streamOf (withStreams [sCs] (posted up)).hw 0).inCs ∧ (streamOf (withStreams [sCs] (posted up)).hw 0).st = .idle) ∧
    (AtRest (posted up) ∧ streamFieldsOk (fetched 9 [0x100]).words ∧ AcceptsOp (posted up) (slot 9 [0x100]) (fetched 9 [0x100]) kStreamCtl 8 3 1 ∧ bit (wordAt (fetched 9 [0x100]).words 4) 18 = false ∧
      (streamOf (posted up).hw (slotStream (fetched 9 [0x100]).words)).st = .free) ∧
    (AtRest (onSq (fun q => { q with producer := 1, owned := [{ pos := 0, master := 0 }] }) (withStreams [sIdle] up)) ∧ streamFieldsOk (fetched 9 [0x100]).words ∧ AcceptsOp (onSq (fun q => { q with producer := 1, owned := [{ pos := 0, master := 0 }] }) (withStreams [sIdle] up)) (slot 9 [0x100]) { (fetched 9 [0x100]) with master := 0 } kStreamCtl 8 3 1 ∧
      bit (wordAt (fetched 9 [0x100]).words 4) 18 = false ∧ (streamOf (onSq (fun q => { q with producer := 1, owned := [{ pos := 0, master := 0 }] }) (withStreams [sIdle] up)).hw 0).st ≠ .free ∧ ¬ (0 = (streamOf (onSq (fun q => { q with producer := 1, owned := [{ pos := 0, master := 0 }] }) (withStreams [sIdle] up)).hw 0).owner ∨ 0 = HOST_S)) ∧
    (AcceptsOp (onSq (fun q => { q with producer := 1, owned := [{ pos := 0, master := 0 }] }) (withStreams [sIdle] up)) (slot 9 [0x200]) { (fetched 9 [0x200]) with master := 0 } kStreamCtl 8 3 2) ∧
    (AtRest (withStreams [{ sIdle with st := .running }] (posted up)) ∧ streamFieldsOk (fetched 9 [0x100]).words ∧ AcceptsOp (withStreams [{ sIdle with st := .running }] (posted up)) (slot 9 [0x100]) (fetched 9 [0x100]) kStreamCtl 8 3 1 ∧ bit (wordAt (fetched 9 [0x100]).words 4) 18 = false ∧
      (fetched 9 [0x100]).master = (streamOf (withStreams [{ sIdle with st := .running }] (posted up)).hw 0).owner ∧ (streamOf (withStreams [{ sIdle with st := .running }] (posted up)).hw 0).st = .running) ∧
    (AtRest (withStreams [sIdle] (posted up)) ∧ streamFault (fetched 9 [0x200]) (withStreams [sIdle] (posted up)).hw = none ∧ AcceptsOp (withStreams [sIdle] (posted up)) (slot 9 [0x200]) (fetched 9 [0x200]) kStreamCtl 8 3 2) ∧
    (AtRest (withStreams [{ sOut with st := .broken }] (posted up)) ∧ streamFault (fetched 9 [0x200]) (withStreams [{ sOut with st := .broken }] (posted up)).hw = none ∧ AcceptsOp (withStreams [{ sOut with st := .broken }] (posted up)) (slot 9 [0x200]) (fetched 9 [0x200]) kStreamCtl 8 3 2 ∧ (streamOf (withStreams [{ sOut with st := .broken }] (posted up)).hw 0).st = .broken) ∧
    (AcceptsOp (posted up) (slot 9 [0x200]) (fetched 9 [0x200]) kStreamCtl 8 3 2 ∧ (streamOf (posted up).hw 0).st = .free) ∧
    (AcceptsOp (posted up) (slot 9 [0x300]) (fetched 9 [0x300]) kStreamCtl 8 3 3 ∧ (streamOf (posted up).hw 0).st = .free) ∧
    (AcceptsOp (posted up) (slot 9 [0x400]) (fetched 9 [0x400]) kStreamCtl 8 3 4 ∧ (streamOf (posted up).hw 0).st = .free) ∧
    (AtRest (withStreams [sCs] (posted up)) ∧ streamFault (fetched 9 [0x300]) (withStreams [sCs] (posted up)).hw = none ∧ (withStreams [sCs] (posted up)).hw.streams.length ≤ 256 ∧ AcceptsOp (withStreams [sCs] (posted up)) (slot 9 [0x300]) (fetched 9 [0x300]) kStreamCtl 8 3 3 ∧
      (streamOf (withStreams [sCs] (posted up)).hw 0).st = .idle ∧ (streamOf (withStreams [sCs] (posted up)).hw 0).inCs) ∧
    (AtRest (withStreams [sIdle] (posted up)) ∧ streamFault (fetched 9 [0x300]) (withStreams [sIdle] (posted up)).hw = none ∧ AcceptsOp (withStreams [sIdle] (posted up)) (slot 9 [0x300]) (fetched 9 [0x300]) kStreamCtl 8 3 3 ∧ (streamOf (withStreams [sIdle] (posted up)).hw 0).st = .idle ∧
      (streamOf (withStreams [sIdle] (posted up)).hw 0).inCs = false) ∧
    (AtRest (onSched (fun x => { x with cores := List.replicate 4 { powered := true } }) (withStreams [sOut] (posted up))) ∧ streamFault (fetched 9 [0x400]) (onSched (fun x => { x with cores := List.replicate 4 { powered := true } }) (withStreams [sOut] (posted up))).hw = none ∧ AcceptsOp (onSched (fun x => { x with cores := List.replicate 4 { powered := true } }) (withStreams [sOut] (posted up))) (slot 9 [0x400]) (fetched 9 [0x400]) kStreamCtl 8 3 4 ∧ (streamOf (onSched (fun x => { x with cores := List.replicate 4 { powered := true } }) (withStreams [sOut] (posted up))).hw 0).st = .swappedOut ∧
      (chooseHome (onSched (fun x => { x with cores := List.replicate 4 { powered := true } }) (withStreams [sOut] (posted up))).hw sOut []).isSome) ∧
    (AtRest (withStreams [sIdle] (posted up)) ∧ streamFault (fetched 9 [0x400]) (withStreams [sIdle] (posted up)).hw = none ∧ AcceptsOp (withStreams [sIdle] (posted up)) (slot 9 [0x400]) (fetched 9 [0x400]) kStreamCtl 8 3 4 ∧ (streamOf (withStreams [sIdle] (posted up)).hw 0).st = .idle) ∧
    (AtRest (withStreams [{ sOut with slotBytes := 0x1000000 }] (posted up)) ∧ streamFault (fetched 9 [0x400]) (withStreams [{ sOut with slotBytes := 0x1000000 }] (posted up)).hw = none ∧ AcceptsOp (withStreams [{ sOut with slotBytes := 0x1000000 }] (posted up)) (slot 9 [0x400]) (fetched 9 [0x400]) kStreamCtl 8 3 4 ∧
      chooseHome (withStreams [{ sOut with slotBytes := 0x1000000 }] (posted up)).hw { sOut with slotBytes := 0x1000000 } [] = none) ∧
    (AtRest (withStreams [sIdle] (posted up)) ∧ streamFault (fetched 9 [0x500]) (withStreams [sIdle] (posted up)).hw = none ∧ AcceptsOp (withStreams [sIdle] (posted up)) (slot 9 [0x500]) (fetched 9 [0x500]) kStreamCtl 8 3 5) ∧
    (AtRest (withStreams [{ sIdle with st := .running }] (posted up)) ∧ streamFault (fetched 9 [0x300]) (withStreams [{ sIdle with st := .running }] (posted up)).hw = none ∧ AcceptsOp (withStreams [{ sIdle with st := .running }] (posted up)) (slot 9 [0x300]) (fetched 9 [0x300]) kStreamCtl 8 3 3 ∧ (streamOf (withStreams [{ sIdle with st := .running }] (posted up)).hw 0).st = .running) ∧
    (AtRest (onPower (fun p => { p with tripped := true }) (withStreams [sOut] (posted up))) ∧ streamFault (fetched 9 [0x400]) (onPower (fun p => { p with tripped := true }) (withStreams [sOut] (posted up))).hw = none ∧ AcceptsOp (onPower (fun p => { p with tripped := true }) (withStreams [sOut] (posted up))) (slot 9 [0x400]) (fetched 9 [0x400]) kStreamCtl 8 3 4 ∧ (streamOf (onPower (fun p => { p with tripped := true }) (withStreams [sOut] (posted up))).hw 0).st = .swappedOut ∧
      (onPower (fun p => { p with tripped := true }) (withStreams [sOut] (posted up))).hw.power.tripped) ∧
    (AtRest (withStreams [{ sOut with st := .broken }] (posted up)) ∧ streamFault (fetched 9 [0x400]) (withStreams [{ sOut with st := .broken }] (posted up)).hw = none ∧ AcceptsOp (withStreams [{ sOut with st := .broken }] (posted up)) (slot 9 [0x400]) (fetched 9 [0x400]) kStreamCtl 8 3 4 ∧ (streamOf (withStreams [{ sOut with st := .broken }] (posted up)).hw 0).st = .broken) := by
  (repeat' apply And.intro) <;> decide

theorem test_StreamCopiesEnd_is_met :
    (AtRest (withStreams [{ sCs with st := .swapOutBusy, copyFor := some (.swapSlot 0 0x77 false) }] (waiting 9 up)) ∧ (withStreams [{ sCs with st := .swapOutBusy, copyFor := some (.swapSlot 0 0x77 false) }] (waiting 9 up)).hw.writesRecords ∧ (streamOf (withStreams [{ sCs with st := .swapOutBusy, copyFor := some (.swapSlot 0 0x77 false) }] (waiting 9 up)).hw 0).copyFor = some (.swapSlot 0 0x77 false) ∧
      (withStreams [{ sCs with st := .swapOutBusy, copyFor := some (.swapSlot 0 0x77 false) }] (waiting 9 up)).hw.sq.owned.find? (fun o => o.pos == 0) = some (waitingOwned 9) ∧ (streamOf (withStreams [{ sCs with st := .swapOutBusy, copyFor := some (.swapSlot 0 0x77 false) }] (waiting 9 up)).hw 0).st = .swapOutBusy ∧
      devBad (withStreams [{ sCs with st := .swapOutBusy, copyFor := some (.swapSlot 0 0x77 false) }] (waiting 9 up)).hw (copySource (streamOf (withStreams [{ sCs with st := .swapOutBusy, copyFor := some (.swapSlot 0 0x77 false) }] (waiting 9 up)).hw 0)) 4096 = false ∧ (withStreams [{ sCs with st := .swapOutBusy, copyFor := some (.swapSlot 0 0x77 false) }] (waiting 9 up)).hw.image.system.sqInDram = false ∧
      (streamOf (withStreams [{ sCs with st := .swapOutBusy, copyFor := some (.swapSlot 0 0x77 false) }] (waiting 9 up)).hw 0).home + 2 * 4096 ≤ dramEnd) ∧
    (AtRest (withStreams [{ sCs with st := .swapOutBusy, copyFor := some (.swapSlot 0 0x77 false) }] (waiting 9 up)) ∧ devBad (markBad [copySource (streamOf (withStreams [{ sCs with st := .swapOutBusy, copyFor := some (.swapSlot 0 0x77 false) }] (waiting 9 up)).hw 0)] (withStreams [{ sCs with st := .swapOutBusy, copyFor := some (.swapSlot 0 0x77 false) }] (waiting 9 up)).hw) (copySource (streamOf (withStreams [{ sCs with st := .swapOutBusy, copyFor := some (.swapSlot 0 0x77 false) }] (waiting 9 up)).hw 0)) 4096) ∧
    (AtRest (withStreams [{ sOut with st := .swapInBusy, dest := some (2, coreStoreBase + 2 * coreStoreSize), copyFor := some (.swapSlot 0 0x77 true) }] (withCoreAt 2 { powered := true } (waiting 9 up))) ∧ (withStreams [{ sOut with st := .swapInBusy, dest := some (2, coreStoreBase + 2 * coreStoreSize), copyFor := some (.swapSlot 0 0x77 true) }] (withCoreAt 2 { powered := true } (waiting 9 up))).hw.writesRecords ∧ (streamOf (withStreams [{ sOut with st := .swapInBusy, dest := some (2, coreStoreBase + 2 * coreStoreSize), copyFor := some (.swapSlot 0 0x77 true) }] (withCoreAt 2 { powered := true } (waiting 9 up))).hw 0).copyFor = some (.swapSlot 0 0x77 true) ∧
      (withStreams [{ sOut with st := .swapInBusy, dest := some (2, coreStoreBase + 2 * coreStoreSize), copyFor := some (.swapSlot 0 0x77 true) }] (withCoreAt 2 { powered := true } (waiting 9 up))).hw.sq.owned.find? (fun o => o.pos == 0) = some (waitingOwned 9) ∧ (streamOf (withStreams [{ sOut with st := .swapInBusy, dest := some (2, coreStoreBase + 2 * coreStoreSize), copyFor := some (.swapSlot 0 0x77 true) }] (withCoreAt 2 { powered := true } (waiting 9 up))).hw 0).st = .swapInBusy ∧
      (streamOf (withStreams [{ sOut with st := .swapInBusy, dest := some (2, coreStoreBase + 2 * coreStoreSize), copyFor := some (.swapSlot 0 0x77 true) }] (withCoreAt 2 { powered := true } (waiting 9 up))).hw 0).dest = some (2, coreStoreBase + 2 * coreStoreSize) ∧ (coreOf (withStreams [{ sOut with st := .swapInBusy, dest := some (2, coreStoreBase + 2 * coreStoreSize), copyFor := some (.swapSlot 0 0x77 true) }] (withCoreAt 2 { powered := true } (waiting 9 up))).hw 2).powered ∧
      devBad (withStreams [{ sOut with st := .swapInBusy, dest := some (2, coreStoreBase + 2 * coreStoreSize), copyFor := some (.swapSlot 0 0x77 true) }] (withCoreAt 2 { powered := true } (waiting 9 up))).hw (copySource (streamOf (withStreams [{ sOut with st := .swapInBusy, dest := some (2, coreStoreBase + 2 * coreStoreSize), copyFor := some (.swapSlot 0 0x77 true) }] (withCoreAt 2 { powered := true } (waiting 9 up))).hw 0)) 4096 = false) := by
  (repeat' apply And.intro) <;> decide

theorem test_PowerSlotsAreRefusedInOrder_is_met :
    (AtRest (posted up) ∧ AcceptsOp (posted up) (slot 3 [0x11]) (fetched 3 [0x11]) kPower 0 3 1 ∧ powerFieldsOk (fetched 3 [0x11]).words = false) ∧
    (AcceptsOp (posted up) (slot 3 [0x60]) (fetched 3 [0x60]) kPower 0 3 0 ∧ powerFieldsOk (fetched 3 [0x60]).words = false) ∧
    (AcceptsOp (posted up) (slot 3 [0x12]) (fetched 3 [0x12]) kPower 0 3 2 ∧ powerFieldsOk (fetched 3 [0x12]).words = false) ∧
    (AcceptsOp (posted up) (slot 3 [0x0B]) (fetched 3 [0x0B]) kPower 0 3 3 ∧ powerFieldsOk (fetched 3 [0x0B]).words = false) ∧
    (AcceptsOp (posted up) (slot 3 [0x14]) (fetched 3 [0x14]) kPower 0 3 4 ∧ powerFieldsOk (fetched 3 [0x14]).words = false) ∧
    (AcceptsOp (posted up) (slot 3 [0x15]) (fetched 3 [0x15]) kPower 0 3 5 ∧ powerFieldsOk (fetched 3 [0x15]).words = false) ∧
    (AtRest (onPower (fun p => { p with senseDrain := some (9, 0) }) (posted up)) ∧ AcceptsOp (onPower (fun p => { p with senseDrain := some (9, 0) }) (posted up)) (slot 3 [0x01]) (fetched 3 [0x01]) kPower 0 3 1 ∧ powerFieldsOk (fetched 3 [0x01]).words ∧ powerBusy (onPower (fun p => { p with senseDrain := some (9, 0) }) (posted up)).hw) ∧
    (AtRest (onSched (fun x => { x with graphs := [graph0] }) (posted up)) ∧ AcceptsOp (onSched (fun x => { x with graphs := [graph0] }) (posted up)) (slot 3 [0x01]) (fetched 3 [0x01]) kPower 0 3 1 ∧ powerFieldsOk (fetched 3 [0x01]).words ∧ powerBusy (onSched (fun x => { x with graphs := [graph0] }) (posted up)).hw = false ∧ entryBusy (onSched (fun x => { x with graphs := [graph0] }) (posted up)).hw (fetched 3 [0x01]).pos) ∧
    (AcceptsOp (onSched (fun x => { x with graphs := [graph0] }) (posted up)) (slot 3 [0x02]) (fetched 3 [0x02]) kPower 0 3 2 ∧ entryBusy (onSched (fun x => { x with graphs := [graph0] }) (posted up)).hw (fetched 3 [0x02]).pos) ∧
    (AcceptsOp (onSched (fun x => { x with graphs := [graph0] }) (posted up)) (slot 3 [0x03]) (fetched 3 [0x03]) kPower 0 3 3 ∧ entryBusy (onSched (fun x => { x with graphs := [graph0] }) (posted up)).hw (fetched 3 [0x03]).pos) ∧
    (AtRest (posted up) ∧ AcceptsOp (posted up) (slot 3 [0x01]) (fetched 3 [0x01]) kPower 0 3 1 ∧ powerFieldsOk (fetched 3 [0x01]).words ∧ powerBusy (posted up).hw = false ∧ entryBusy (posted up).hw (fetched 3 [0x01]).pos = false) ∧
    (AtRest (inDram 3 [0x02] (posted up)) ∧ AcceptsOp (inDram 3 [0x02] (posted up)) (slot 3 [0x02]) (fetched 3 [0x02]) kPower 0 3 2 ∧ powerFieldsOk (fetched 3 [0x02]).words ∧ powerBusy (inDram 3 [0x02] (posted up)).hw = false ∧
      entryBusy (inDram 3 [0x02] (posted up)).hw (fetched 3 [0x02]).pos = false ∧ (inDram 3 [0x02] (posted up)).hw.image.system.sqInDram ∧ inKept (inDram 3 [0x02] (posted up)).hw (inDram 3 [0x02] (posted up)).hw.image.system.sqBase 131072 = false) ∧
    (AtRest (inDram 3 [0x03] (posted up)) ∧ AcceptsOp (inDram 3 [0x03] (posted up)) (slot 3 [0x03]) (fetched 3 [0x03]) kPower 0 3 3 ∧ powerFieldsOk (fetched 3 [0x03]).words ∧ powerBusy (inDram 3 [0x03] (posted up)).hw = false ∧
      entryBusy (inDram 3 [0x03] (posted up)).hw (fetched 3 [0x03]).pos = false ∧ (inDram 3 [0x03] (posted up)).hw.image.system.sqInDram) ∧
    (AtRest (posted up) ∧ AcceptsOp (posted up) (slot 3 [0x09]) (fetched 3 [0x09]) kPower 0 3 1 ∧ powerFieldsOk (fetched 3 [0x09]).words ∧ powerBusy (posted up).hw = false ∧
      entryBusy (posted up).hw (fetched 3 [0x09]).pos = false ∧ (posted up).hw.cal.run = none ∧ ∀ x ∈ (posted up).hw.streams, x.inCs = false ∧ x.st ≠ .swapInBusy) ∧
    (AtRest (posted up) ∧ AcceptsOp (posted up) (slot 3 [0x02]) (fetched 3 [0x02]) kPower 0 3 2 ∧ powerFieldsOk (fetched 3 [0x02]).words ∧ entryBusy (posted up).hw (fetched 3 [0x02]).pos = false ∧
      (posted up).hw.image.system.sqInDram = false) ∧
    (AtRest (posted up) ∧ AcceptsOp (posted up) (slot 3 [0x03]) (fetched 3 [0x03]) kPower 0 3 3 ∧ powerFieldsOk (fetched 3 [0x03]).words ∧ entryBusy (posted up).hw (fetched 3 [0x03]).pos = false ∧
      (posted up).hw.image.system.sqInDram = false) := by
  (repeat' apply And.intro) <;> decide

theorem test_LevelsChangeWithTheirClock_is_met :
    (AtRest (onPower (fun p => { p with clockHeld := true }) (posted up)) ∧ AcceptsOp (onPower (fun p => { p with clockHeld := true }) (posted up)) (slot 3 [0x20]) (fetched 3 [0x20]) kPower 0 3 0 ∧ powerFieldsOk (fetched 3 [0x20]).words ∧ powerBusy (onPower (fun p => { p with clockHeld := true }) (posted up)).hw = false ∧ (onPower (fun p => { p with clockHeld := true }) (posted up)).hw.power.clockHeld) ∧
    (AtRest (onPower (fun p => { p with plevel := 2 }) (posted up)) ∧ AcceptsOp (onPower (fun p => { p with plevel := 2 }) (posted up)) (slot 3 [0x20]) (fetched 3 [0x20]) kPower 0 3 0 ∧ powerFieldsOk (fetched 3 [0x20]).words ∧ powerBusy (onPower (fun p => { p with plevel := 2 }) (posted up)).hw = false ∧
      (onPower (fun p => { p with plevel := 2 }) (posted up)).hw.power.clockHeld = false ∧ fld (wordAt (fetched 3 [0x20]).words 4) 4 3 = (onPower (fun p => { p with plevel := 2 }) (posted up)).hw.power.plevel) ∧
    (AtRest (posted up) ∧ AcceptsOp (posted up) (slot 3 [0x50]) (fetched 3 [0x50]) kPower 0 3 0 ∧ powerFieldsOk (fetched 3 [0x50]).words ∧ powerBusy (posted up).hw = false ∧
      (posted up).hw.power.clockHeld = false ∧ fld (wordAt (fetched 3 [0x50]).words 4) 4 3 ≠ (posted up).hw.power.plevel) ∧
    (AtRest (onPower (fun p => { p with clockHeld := true, change := some { target := 3, pos := 0 } }) (waiting 3 up)) ∧ (onPower (fun p => { p with clockHeld := true, change := some { target := 3, pos := 0 } }) (waiting 3 up)).hw.writesRecords ∧ (onPower (fun p => { p with clockHeld := true, change := some { target := 3, pos := 0 } }) (waiting 3 up)).hw.power.change = some { target := 3, pos := 0 } ∧ (onPower (fun p => { p with clockHeld := true, change := some { target := 3, pos := 0 } }) (waiting 3 up)).hw.power.clockHeld ∧
      (onPower (fun p => { p with clockHeld := true, change := some { target := 3, pos := 0 } }) (waiting 3 up)).hw.sq.owned.find? (fun x => x.pos == 0) = some (waitingOwned 3)) ∧
    (AtRest (onPower (fun p => { p with change := some { target := 3, pos := 0 } }) (waiting 3 up)) ∧ (onPower (fun p => { p with change := some { target := 3, pos := 0 } }) (waiting 3 up)).hw.writesRecords ∧ (onPower (fun p => { p with change := some { target := 3, pos := 0 } }) (waiting 3 up)).hw.power.clockHeld = false ∧ (onPower (fun p => { p with change := some { target := 3, pos := 0 } }) (waiting 3 up)).hw.power.dip = none ∧ (onPower (fun p => { p with change := some { target := 3, pos := 0 } }) (waiting 3 up)).hw.power.plevel ≤ 3) ∧
    (AtRest (onPower (fun p => { p with plevel := 3, change := some { target := 1, pos := 0, written := true } }) (waiting 3 up)) ∧ (onPower (fun p => { p with plevel := 3, change := some { target := 1, pos := 0, written := true } }) (waiting 3 up)).hw.writesRecords ∧ (onPower (fun p => { p with plevel := 3, change := some { target := 1, pos := 0, written := true } }) (waiting 3 up)).hw.power.clockHeld = false ∧ (onPower (fun p => { p with plevel := 3, change := some { target := 1, pos := 0, written := true } }) (waiting 3 up)).hw.power.dip = none ∧ 1 < (onPower (fun p => { p with plevel := 3, change := some { target := 1, pos := 0, written := true } }) (waiting 3 up)).hw.power.plevel ∧
      (onPower (fun p => { p with plevel := 3, change := some { target := 1, pos := 0, written := true } }) (waiting 3 up)).hw.power.railChange = none) ∧
    (AtRest (onPower (fun p => { p with plevel := 3, dip := some (.array, 0), change := some { target := 1, pos := 0, written := true } }) (waiting 3 up)) ∧ (onPower (fun p => { p with plevel := 3, dip := some (.array, 0), change := some { target := 1, pos := 0, written := true } }) (waiting 3 up)).hw.power.clockHeld = false ∧ (onPower (fun p => { p with plevel := 3, dip := some (.array, 0), change := some { target := 1, pos := 0, written := true } }) (waiting 3 up)).hw.power.dip.isSome) := by
  (repeat' apply And.intro) <;> decide

theorem test_SenseGoesOffAndOn_is_met :
    (AtRest (onBoard (fun b => { b with straps := { alone with senseCfg := 1 } }) (posted up)) ∧ AcceptsOp (onBoard (fun b => { b with straps := { alone with senseCfg := 1 } }) (posted up)) (slot 3 [0x04]) (fetched 3 [0x04]) kPower 0 3 4 ∧ powerFieldsOk (fetched 3 [0x04]).words ∧ powerBusy (onBoard (fun b => { b with straps := { alone with senseCfg := 1 } }) (posted up)).hw = false ∧ (onBoard (fun b => { b with straps := { alone with senseCfg := 1 } }) (posted up)).hw.senseFitted = false) ∧
    (AtRest (onBoard (fun b => { b with straps := { alone with senseCfg := 1 } }) (posted up)) ∧ AcceptsOp (onBoard (fun b => { b with straps := { alone with senseCfg := 1 } }) (posted up)) (slot 3 [0x05]) (fetched 3 [0x05]) kPower 0 3 5 ∧ powerFieldsOk (fetched 3 [0x05]).words ∧ powerBusy (onBoard (fun b => { b with straps := { alone with senseCfg := 1 } }) (posted up)).hw = false ∧ (onBoard (fun b => { b with straps := { alone with senseCfg := 1 } }) (posted up)).hw.senseFitted = false) ∧
    (AtRest (sensed (posted up)) ∧ AcceptsOp (sensed (posted up)) (slot 3 [0x04]) (fetched 3 [0x04]) kPower 0 3 4 ∧ powerFieldsOk (fetched 3 [0x04]).words ∧ powerBusy (sensed (posted up)).hw = false ∧ (sensed (posted up)).hw.senseFitted ∧
      (sensed (posted up)).hw.drum.senseOn = false) ∧
    (AtRest (onRaw (fun r => { r with chains := [{ running := true }, {}] }) (sensed (senseUp (posted up)))) ∧ AcceptsOp (onRaw (fun r => { r with chains := [{ running := true }, {}] }) (sensed (senseUp (posted up)))) (slot 3 [0x04]) (fetched 3 [0x04]) kPower 0 3 4 ∧ powerFieldsOk (fetched 3 [0x04]).words ∧ powerBusy (onRaw (fun r => { r with chains := [{ running := true }, {}] }) (sensed (senseUp (posted up)))).hw = false ∧ (onRaw (fun r => { r with chains := [{ running := true }, {}] }) (sensed (senseUp (posted up)))).hw.senseFitted ∧
      (onRaw (fun r => { r with chains := [{ running := true }, {}] }) (sensed (senseUp (posted up)))).hw.drum.senseOn ∧ (onRaw (fun r => { r with chains := [{ running := true }, {}] }) (sensed (senseUp (posted up)))).hw.cal.run = none ∧ (onRaw (fun r => { r with chains := [{ running := true }, {}] }) (sensed (senseUp (posted up)))).hw.raw.waits = [] ∧
      ∀ c ∈ (onRaw (fun r => { r with chains := [{ running := true }, {}] }) (sensed (senseUp (posted up)))).hw.raw.chains, c.resetSlot = none ∧ c.stopSlots = []) ∧
    (AtRest (onPower (fun p => { p with senseOff := true, senseDrain := some (0, 0x77) }) (senseUp (waiting 3 up))) ∧ (onPower (fun p => { p with senseOff := true, senseDrain := some (0, 0x77) }) (senseUp (waiting 3 up))).hw.writesRecords ∧ (onPower (fun p => { p with senseOff := true, senseDrain := some (0, 0x77) }) (senseUp (waiting 3 up))).hw.power.senseDrain = some (0, 0x77) ∧
      (onPower (fun p => { p with senseOff := true, senseDrain := some (0, 0x77) }) (senseUp (waiting 3 up))).hw.sq.owned.find? (fun x => x.pos == 0) = some (waitingOwned 3)) ∧
    (AtRest (onPower (fun p => { p with senseOff := true }) (sensed (posted up))) ∧ AcceptsOp (onPower (fun p => { p with senseOff := true }) (sensed (posted up))) (slot 3 [0x05]) (fetched 3 [0x05]) kPower 0 3 5 ∧ powerFieldsOk (fetched 3 [0x05]).words ∧ powerBusy (onPower (fun p => { p with senseOff := true }) (sensed (posted up))).hw = false ∧ (onPower (fun p => { p with senseOff := true }) (sensed (posted up))).hw.senseFitted ∧
      (onPower (fun p => { p with senseOff := true }) (sensed (posted up))).hw.drum.senseOn = false) := by
  (repeat' apply And.intro) <;> decide

theorem test_EntriesGoToTheirState_is_met :
    ((entering { target := .sleep } (waiting 3 up)).hw.power.entry = some { target := .sleep } ∧ saveReady (entering { target := .sleep } (waiting 3 up)).hw ∧ Settled (entering { target := .sleep } (waiting 3 up))) ∧
    ((entering { target := .sleep, saving := true } (waiting 3 up)).hw.power.entry = some { target := .sleep, saving := true } ∧ NoExcursion (entering { target := .sleep, saving := true } (waiting 3 up)) ∧ Settled (entering { target := .sleep, saving := true } (waiting 3 up))) ∧
    ((entering { target := .sleep, saving := true, drained := true } (waiting 3 up)).hw.power.entry = some { target := .sleep, saving := true, drained := true } ∧ NoExcursion (entering { target := .sleep, saving := true, drained := true } (waiting 3 up)) ∧ Settled (entering { target := .sleep, saving := true, drained := true } (waiting 3 up))) ∧
    (NoExcursion (entering { target := .deep, saving := true, drained := true, keepSense := false } (senseUp (waiting 3 up))) ∧ Settled (entering { target := .deep, saving := true, drained := true, keepSense := false } (senseUp (waiting 3 up)))) ∧
    (NoExcursion (entering { target := .off, saving := true, drained := true, keepSense := false } (senseUp (waiting 3 up))) ∧ Settled (entering { target := .off, saving := true, drained := true, keepSense := false } (senseUp (waiting 3 up)))) := by
  (repeat' apply And.intro) <;> decide

theorem test_WakesFromSleepAndTheirFailures_is_met :
    (asleep sleeping.hw ∧ sleeping.hw.power.dev = .sleep ∧ sleeping.hw.power.wakeFail = none ∧ sleeping.hw.power.slot = some staySlot ∧ AtRest sleeping) ∧
    (asleep sleeping.hw ∧ NothingHeld sleeping ∧ sleeping.hw.sq.queue = [] ∧ sleeping.hw.power.wakeFail = none) ∧
    (asleep (onPower (fun p => { p with wakeFail := some (.refFail, 65535) }) sleeping).hw ∧ NothingHeld (onPower (fun p => { p with wakeFail := some (.refFail, 65535) }) sleeping) ∧ (onPower (fun p => { p with wakeFail := some (.refFail, 65535) }) sleeping).hw.sq.queue = [] ∧ (onPower (fun p => { p with wakeFail := some (.refFail, 65535) }) sleeping).hw.power.wakeFail = some (.refFail, 65535)) := by
  (repeat' apply And.intro) <;> decide

theorem test_WakeEventsInAnAwakeDevice_is_met :
    (up.hw.up ∧ up.hw.board.aonOn ∧ up.hw.power.wakes = [] ∧ up.hw.board.resetN ∧ AtRest up ∧ up.hw.cascade.stay = none) ∧
    (inputsPowered up.hw) ∧
    ((onPower (fun p => { p with alarm := some 5 }) up).hw.up ∧ AtRest (onPower (fun p => { p with alarm := some 5 }) up) ∧ (onPower (fun p => { p with alarm := some 5 }) up).hw.power.alarm = some 5 ∧ (onPower (fun p => { p with alarm := some 5 }) up).hw.power.time ≤ 24000 * 5 ∧ 24000 * 5 < 2 ^ 64) ∧
    (up.hw.board.rwakeQuiet = false) ∧
    ((onBoard (fun b => { b with rwakeQuiet := true }) up).hw.up ∧ AtRest (onBoard (fun b => { b with rwakeQuiet := true }) up) ∧ (onBoard (fun b => { b with rwakeQuiet := true }) up).hw.board.rwakeQuiet) := by
  (repeat' apply And.intro) <;> decide

theorem test_ExcursionsStartAndEnd_is_met :
    (asleep (withBell sleeping).hw ∧ (withBell sleeping).hw.power.dev = .sleep ∧ (withBell sleeping).hw.power.wakeFail = none ∧ (withBell sleeping).hw.board.rwakeQuiet = false ∧ AtRest (withBell sleeping) ∧
      (withBell sleeping).hw.image.bell = some bellSec ∧ bellSec.enable ∧ bellSec.t2En) ∧
    (OneExcursion (withBell (inExcursion up)) exc1 ∧ (bellCfg (withBell (inExcursion up)).hw).failVerdict = 1) ∧
    (OneExcursion (onImage (fun i => { i with bell := some { bellSec with failVerdict := 0 } }) (inExcursion up)) exc1 ∧ (bellCfg (onImage (fun i => { i with bell := some { bellSec with failVerdict := 0 } }) (inExcursion up)).hw).failVerdict = 0 ∧ ¬(exc1.tier = 1 ∧ exc1.rerun) ∧ (onImage (fun i => { i with bell := some { bellSec with failVerdict := 0 } }) (inExcursion up)).hw.cal.run = none ∧
      ∀ x ∈ (onImage (fun i => { i with bell := some { bellSec with failVerdict := 0 } }) (inExcursion up)).hw.streams, x.inCs = false ∧ x.st ≠ .swapInBusy) ∧
    (OneExcursion (withBell (inExcursion up)) exc1 ∧ (withBell (inExcursion up)).hw.up ∧ (withBell (inExcursion up)).hw.board.resetN ∧ (withBell (inExcursion up)).hw.power.wakes = []) := by
  (repeat' apply And.intro) <;> decide

theorem test_BellScoresFireTheirClasses_is_met :
    (onBell (fun b => { b with due := some { beat := 3, infer := true }, rows := List.replicate 16 [4, 4] }) (withBell (senseUp up))).hw.bell.due = some { beat := 3, infer := true } ∧ bellRuns (onBell (fun b => { b with due := some { beat := 3, infer := true }, rows := List.replicate 16 [4, 4] }) (withBell (senseUp up))).hw ∧ (onBell (fun b => { b with due := some { beat := 3, infer := true }, rows := List.replicate 16 [4, 4] }) (withBell (senseUp up))).hw.up ∧ (onBell (fun b => { b with due := some { beat := 3, infer := true }, rows := List.replicate 16 [4, 4] }) (withBell (senseUp up))).hw.cascade.stay = none ∧ (onBell (fun b => { b with due := some { beat := 3, infer := true }, rows := List.replicate 16 [4, 4] }) (withBell (senseUp up))).hw.power.wakes = [] ∧ AtRest (onBell (fun b => { b with due := some { beat := 3, infer := true }, rows := List.replicate 16 [4, 4] }) (withBell (senseUp up))) := by decide

theorem test_RailChangesEnd_is_met :
    ((onPower (fun p => { p with railChange := some { level := 2, mv := 560, plevel := 0 } }) up).hw.power.railChange = some { level := 2, mv := 560, plevel := 0 } ∧ (onPower (fun p => { p with railChange := some { level := 2, mv := 560, plevel := 0 } }) up).hw.power.change = none ∧
      (onPower (fun p => { p with railChange := some { level := 2, mv := 560, plevel := 0 } }) up).hw.power.railNext = none ∧ AtRest (onPower (fun p => { p with railChange := some { level := 2, mv := 560, plevel := 0 } }) up) ∧ (onPower (fun p => { p with railChange := some { level := 2, mv := 560, plevel := 0 } }) up).hw.board.aonOn ∧ (onPower (fun p => { p with railChange := some { level := 2, mv := 560, plevel := 0 } }) up).hw.power.elapsed ≤ usTicks 15) ∧
    (AtRest (onPower (fun p => { p with plevel := 3, railChange := some { level := 0, mv := 560, plevel := 3 }, change := some { target := 3, pos := 0, switched := true, written := true } }) (waiting 3 up)) ∧ (onPower (fun p => { p with plevel := 3, railChange := some { level := 0, mv := 560, plevel := 3 }, change := some { target := 3, pos := 0, switched := true, written := true } }) (waiting 3 up)).hw.writesRecords ∧ (onPower (fun p => { p with plevel := 3, railChange := some { level := 0, mv := 560, plevel := 3 }, change := some { target := 3, pos := 0, switched := true, written := true } }) (waiting 3 up)).hw.power.railChange.isSome ∧
      (onPower (fun p => { p with plevel := 3, railChange := some { level := 0, mv := 560, plevel := 3 }, change := some { target := 3, pos := 0, switched := true, written := true } }) (waiting 3 up)).hw.power.change = some { target := 3, pos := 0, switched := true, written := true } ∧
      (onPower (fun p => { p with plevel := 3, railChange := some { level := 0, mv := 560, plevel := 3 }, change := some { target := 3, pos := 0, switched := true, written := true } }) (waiting 3 up)).hw.sq.owned.find? (fun x => x.pos == 0) = some (waitingOwned 3)) ∧
    (AtRest (onPower (fun p => { p with plevel := 3, railChange := some { level := 1, mv := 560, plevel := 0 }, change := some { target := 3, pos := 0, switched := true } }) (waiting 3 up)) ∧ (onPower (fun p => { p with plevel := 3, railChange := some { level := 1, mv := 560, plevel := 0 }, change := some { target := 3, pos := 0, switched := true } }) (waiting 3 up)).hw.up ∧ (onPower (fun p => { p with plevel := 3, railChange := some { level := 1, mv := 560, plevel := 0 }, change := some { target := 3, pos := 0, switched := true } }) (waiting 3 up)).hw.power.dip = none ∧ (onPower (fun p => { p with plevel := 3, railChange := some { level := 1, mv := 560, plevel := 0 }, change := some { target := 3, pos := 0, switched := true } }) (waiting 3 up)).hw.power.change = some { target := 3, pos := 0, switched := true } ∧
      (onPower (fun p => { p with plevel := 3, railChange := some { level := 1, mv := 560, plevel := 0 }, change := some { target := 3, pos := 0, switched := true } }) (waiting 3 up)).hw.power.railChange = some { level := 1, mv := 560, plevel := 0 } ∧ AvsReply.ack { }) := by
  (repeat' apply And.intro) <;> decide

theorem test_DipsForceTheSlowClock_is_met :
    ((railed up).hw.board.aonOn ∧ NoExcursion (railed up) ∧ (railed up).hw.power.dev = .active ∧ (railed up).hw.power.dip = none ∧ mayDip (railed up).hw .array 450) ∧
    ((onPower (fun p => { p with dip := some (.array, 0) }) up).hw.board.aonOn ∧ NoExcursion (onPower (fun p => { p with dip := some (.array, 0) }) up) ∧ (onPower (fun p => { p with dip := some (.array, 0) }) up).hw.power.dev = .active ∧ (onPower (fun p => { p with dip := some (.array, 0) }) up).hw.power.dip = some (.array, 0)) ∧
    (mayDip (railed sleeping).hw .array 450 ∧ (railed sleeping).hw.board.aonOn ∧ NoExcursion (railed sleeping) ∧ (railed sleeping).hw.power.dev = .sleep) ∧
    ((onPower (fun p => { p with dip := some (.array, 0) }) up).hw.power.dip = some (.array, 0) ∧ (onPower (fun p => { p with dip := some (.array, 0) }) up).hw.board.aonOn ∧ AtRest (onPower (fun p => { p with dip := some (.array, 0) }) up) ∧ (onPower (fun p => { p with dip := some (.array, 0) }) up).hw.power.elapsed ≤ usTicks 200) ∧
    ((railed up).hw.board.aonOn ∧ NoExcursion (railed up) ∧ mayDip (railed up).hw .array 529 = false) ∧
    ((onPower (fun p => { p with dev := .recovery }) (railed up)).hw.board.aonOn ∧ NoExcursion (onPower (fun p => { p with dev := .recovery }) (railed up)) ∧ (onPower (fun p => { p with dev := .recovery }) (railed up)).hw.power.dev = .recovery) := by
  (repeat' apply And.intro) <;> decide

theorem test_AccountSlotsJudgeTemperatures_is_met :
    (up.hw.up ∧ up.hw.board.aonOn ∧ AtRest up ∧ tMax (List.replicate 16 640) = some (640, 0) ∧ up.hw.power.time + 768 < 2 ^ 64) ∧
    ((onSched (fun x => { x with hotSlots := 1 }) up).hw.up ∧ AtRest (onSched (fun x => { x with hotSlots := 1 }) up) ∧ tMax (640 :: List.replicate 15 2080) = some (130 * 16, 1) ∧ 1 ≤ (onSched (fun x => { x with hotSlots := 1 }) up).hw.sched.hotSlots ∧
      (onSched (fun x => { x with hotSlots := 1 }) up).hw.power.hotClock = false ∧ (onSched (fun x => { x with hotSlots := 1 }) up).hw.sched.aboveThr = false ∧ 16 * (quotas.tThr : Int) < 130 * 16) ∧
    (up.hw.up ∧ AtRest up ∧ tMax (List.replicate 16 2240) = some (140 * 16, 0) ∧ up.hw.power.tripped = false) ∧
    (tMax (List.replicate 16 1600) = some (16 * (quotas.tThr : Int), 0) ∧ up.hw.sched.aboveThr = false) ∧
    (AtRest (onSched (fun x => { x with below125 := some 0 }) (onPower (fun p => { p with hotClock := true }) up)) ∧ (onSched (fun x => { x with below125 := some 0 }) (onPower (fun p => { p with hotClock := true }) up)).hw.board.aonOn ∧ (onSched (fun x => { x with below125 := some 0 }) (onPower (fun p => { p with hotClock := true }) up)).hw.power.hotClock ∧ (onSched (fun x => { x with below125 := some 0 }) (onPower (fun p => { p with hotClock := true }) up)).hw.sched.below125 = some 0) ∧
    (AtRest (onSched (fun x => { x with below125 := none }) (onPower (fun p => { p with hotClock := true }) up)) ∧ (onSched (fun x => { x with below125 := none }) (onPower (fun p => { p with hotClock := true }) up)).hw.sched.below125 = none) ∧
    (AtRest (onSched (fun x => { x with below110 := some 0 }) (onPower (fun p => { p with tripped := true }) (onHealth (fun h => { h with causes := 4095 }) up))) ∧ (onSched (fun x => { x with below110 := some 0 }) (onPower (fun p => { p with tripped := true }) (onHealth (fun h => { h with causes := 4095 }) up))).hw.power.tripped ∧ (onSched (fun x => { x with below110 := some 0 }) (onPower (fun p => { p with tripped := true }) (onHealth (fun h => { h with causes := 4095 }) up))).hw.sched.below110 = some 0) ∧
    (AtRest (onSched (fun x => { x with below110 := none }) (onPower (fun p => { p with tripped := true }) up)) ∧ (onSched (fun x => { x with below110 := none }) (onPower (fun p => { p with tripped := true }) up)).hw.sched.below110 = none) ∧
    (AtRest (withCores { powered := true, tiles := [{ base := 0, dirty := false, graph := 0, used := 0 }] } (onPower (fun p => { p with tripped := true, arrayDrain := true }) up)) ∧ (withCores { powered := true, tiles := [{ base := 0, dirty := false, graph := 0, used := 0 }] } (onPower (fun p => { p with tripped := true, arrayDrain := true }) up)).hw.power.senseDrain = none ∧ (withCores { powered := true, tiles := [{ base := 0, dirty := false, graph := 0, used := 0 }] } (onPower (fun p => { p with tripped := true, arrayDrain := true }) up)).hw.power.arrayDrain ∧ (withCores { powered := true, tiles := [{ base := 0, dirty := false, graph := 0, used := 0 }] } (onPower (fun p => { p with tripped := true, arrayDrain := true }) up)).hw.power.tripped ∧
      ∀ x ∈ (withCores { powered := true, tiles := [{ base := 0, dirty := false, graph := 0, used := 0 }] } (onPower (fun p => { p with tripped := true, arrayDrain := true }) up)).hw.streams, x.inCs = false ∧ x.st ≠ .swapInBusy) := by
  (repeat' apply And.intro) <;> decide

theorem test_IslandsAndIdle_is_met :
    ((withCores { powered := true } (withStreams [{ sCs with core := 1 }] up)).hw.power.dev = .active ∧ NoExcursion (withCores { powered := true } (withStreams [{ sCs with core := 1 }] up)) ∧ (withCores { powered := true } (withStreams [{ sCs with core := 1 }] up)).hw.cascade.stay = none ∧ (withCores { powered := true } (withStreams [{ sCs with core := 1 }] up)).hw.power.entry = none ∧ workless (withCores { powered := true } (withStreams [{ sCs with core := 1 }] up)).hw) ∧
    (workless (posted up).hw = false) ∧
    (AtRest (withCores { powered := true } up) ∧ (∀ c ∈ (withCores { powered := true } up).hw.sched.cores, c.due = false ∧ c.overdue = false) ∧ (withCores { powered := true } up).hw.power.dev = .active ∧
      (coreOf (withCores { powered := true } up).hw 0).powered ∧ islandEmpty (withCores { powered := true } up).hw 0 ∧ (withCores { powered := true } up).hw.board.aonOn ∧
      (withCores { powered := true } up).hw.power.elapsed ≤ (coreOf (withCores { powered := true } up).hw 0).ended + usTicks 100) ∧
    (AtRest (onSched (fun x => { x with powering := some 7 }) up) ∧ (∀ c ∈ (onSched (fun x => { x with powering := some 7 }) up).hw.sched.cores, c.due = false ∧ c.overdue = false) ∧ (onSched (fun x => { x with powering := some 7 }) up).hw.up ∧ (onSched (fun x => { x with powering := some 7 }) up).hw.sched.powering = some 7 ∧
      31 ∈ groupCores (onSched (fun x => { x with powering := some 7 }) up).hw 7) := by
  (repeat' apply And.intro) <;> decide

theorem test_ProbesRunAndJudge_is_met :
    (AtRest (withCoreAt 31 { powered := true } up) ∧ probesRun (withCoreAt 31 { powered := true } up).hw ∧ 31 < (withCoreAt 31 { powered := true } up).hw.board.enabled ∧ (withCoreAt 31 { powered := true } up).hw.board.aonOn ∧ (withCoreAt 31 { powered := true } up).hw.power.dip = none ∧
      (coreOf (withCoreAt 31 { powered := true } up).hw 31).powered ∧ (coreOf (withCoreAt 31 { powered := true } up).hw 31).run = none ∧ (coreOf (withCoreAt 31 { powered := true } up).hw 31).retiring = false ∧ (coreOf (withCoreAt 31 { powered := true } up).hw 31).retired = false ∧
      (withCoreAt 31 { powered := true } up).hw.power.time ≤ (coreOf (withCoreAt 31 { powered := true } up).hw 31).lastProbe + msTicks 100 ∧ (coreOf (withCoreAt 31 { powered := true } up).hw 31).lastProbe + msTicks 100 < 2 ^ 64) ∧
    (AtRest (withCores { powered := true } up) ∧ probesRun (withCores { powered := true } up).hw ∧ 0 < (withCores { powered := true } up).hw.board.enabled ∧ (coreOf (withCores { powered := true } up).hw 0).powered ∧ (coreOf (withCores { powered := true } up).hw 0).run = none ∧
      (withCores { powered := true } up).hw.power.time ≤ (coreOf (withCores { powered := true } up).hw 0).lastProbe + msTicks 1100) ∧
    (AtRest (withCores onProbe up) ∧ probesRun (withCores onProbe up).hw ∧ 0 < (withCores onProbe up).hw.board.enabled ∧ (withCores onProbe up).hw.board.aonOn ∧ (withCores onProbe up).hw.power.dip = none ∧
      (coreOf (withCores onProbe up).hw 0).run = some (.probe 63) ∧ (coreOf (withCores onProbe up).hw 0).retiring = false) ∧
    ((coreOf (withCores onProbe up).hw 0).retired = false ∧ (coreOf (withCores onProbe up).hw 0).confirmed = 0) ∧
    (AtRest (withCores { onProbe with confirmed := 1 } up) ∧ probesRun (withCores { onProbe with confirmed := 1 } up).hw ∧ (coreOf (withCores { onProbe with confirmed := 1 } up).hw 0).run = some (.probe 63) ∧ (coreOf (withCores { onProbe with confirmed := 1 } up).hw 0).retired = false ∧
      (coreOf (withCores { onProbe with confirmed := 1 } up).hw 0).confirmed = 1 ∧ ∀ y ∈ (withCores { onProbe with confirmed := 1 } up).hw.streams, y.inCs = false) ∧
    (AtRest (withCores { onProbe with retired := true } up) ∧ probesRun (withCores { onProbe with retired := true } up).hw ∧ (coreOf (withCores { onProbe with retired := true } up).hw 0).run = some (.probe 63) ∧ (coreOf (withCores { onProbe with retired := true } up).hw 0).retired ∧ (coreOf (withCores { onProbe with retired := true } up).hw 0).retiring = false) ∧
    (AtRest (onSched (fun x => { x with cores := List.replicate 32 {} }) up) ∧ probesRun (onSched (fun x => { x with cores := List.replicate 32 {} }) up).hw ∧ (coreOf (onSched (fun x => { x with cores := List.replicate 32 {} }) up).hw 3).powered = false ∧ (onSched (fun x => { x with cores := List.replicate 32 {} }) up).hw.sched.powering = none ∧ 3 < (onSched (fun x => { x with cores := List.replicate 32 {} }) up).hw.sched.cores.length ∧
      ∀ c ∈ (onSched (fun x => { x with cores := List.replicate 32 {} }) up).hw.sched.cores, c.due = false ∧ c.overdue = false) := by
  (repeat' apply And.intro) <;> decide

theorem test_CoreFaultsReplaysAndWindowsCount_is_met :
    (NoExcursion (withCores onPiece (resident (task1 [1] .issued [.running (some 0)]) up)) ∧ (withCores onPiece (resident (task1 [1] .issued [.running (some 0)]) up)).hw.power.ctrlOn ∧ (coreOf (withCores onPiece (resident (task1 [1] .issued [.running (some 0)]) up)).hw 0).retiring = false ∧ (coreOf (withCores onPiece (resident (task1 [1] .issued [.running (some 0)]) up)).hw 0).run = some (.piece piece0 1)) ∧
    (NoExcursion (withCores { onPiece with replays := 8 } up) ∧ (withCores { onPiece with replays := 8 } up).hw.power.ctrlOn ∧ (coreOf (withCores { onPiece with replays := 8 } up).hw 0).retiring = false ∧ (coreOf (withCores { onPiece with replays := 8 } up).hw 0).run.isSome ∧
      (coreOf (withCores { onPiece with replays := 8 } up).hw 0).replays = 8) ∧
    (NoExcursion (withCores onProbe up) ∧ (withCores onProbe up).hw.power.ctrlOn ∧ (coreOf (withCores onProbe up).hw 0).run.isSome) ∧
    (NoExcursion (withCores { powered := true, copying := true } up) ∧ (withCores { powered := true, copying := true } up).hw.power.ctrlOn ∧ (coreOf (withCores { powered := true, copying := true } up).hw 0).retiring = false ∧ (coreOf (withCores { powered := true, copying := true } up).hw 0).copying) ∧
    ((coreOf (withCores onPiece (resident (task1 [1] .issued [.running (some 0)]) up)).hw 0).run.isSome ∧ (withCores onPiece (resident (task1 [1] .issued [.running (some 0)]) up)).hw.power.ctrlOn ∧ judged (withCores onPiece (resident (task1 [1] .issued [.running (some 0)]) up)).hw (withCores onPiece (resident (task1 [1] .issued [.running (some 0)]) up)).hw.power.rail = 0) ∧
    ((coreOf (withCores onPiece (onPower (fun p => { p with rail := 1 }) (resident (task1 [1] .issued [.running (some 0)]) up))).hw 0).run = some (.piece piece0 1) ∧ judged (withCores onPiece (onPower (fun p => { p with rail := 1 }) (resident (task1 [1] .issued [.running (some 0)]) up))).hw (withCores onPiece (onPower (fun p => { p with rail := 1 }) (resident (task1 [1] .issued [.running (some 0)]) up))).hw.power.rail ≠ 0 ∧
      graphOf (withCores onPiece (onPower (fun p => { p with rail := 1 }) (resident (task1 [1] .issued [.running (some 0)]) up))).hw 0 = some (graph1 (task1 [1] .issued [.running (some 0)]))) ∧
    ((coreOf (withCores { onPiece with replays := 8 } up).hw 0).run.isSome ∧ ¬((true : Bool) = false ∨ (1 ≤ (coreOf (withCores { onPiece with replays := 8 } up).hw 0).replays ∧ (coreOf (withCores { onPiece with replays := 8 } up).hw 0).replays < 8))) ∧
    (NoExcursion (onSched (fun x => { x with graphs := [{ graph1 (task1 (waitDesc 0 9000 0) .waiting []) with rep := [3] }] }) (waiting 1 up)) ∧ (onSched (fun x => { x with graphs := [{ graph1 (task1 (waitDesc 0 9000 0) .waiting []) with rep := [3] }] }) (waiting 1 up)).hw.power.ctrlOn ∧ (onSched (fun x => { x with graphs := [{ graph1 (task1 (waitDesc 0 9000 0) .waiting []) with rep := [3] }] }) (waiting 1 up)).hw.board.aonOn ∧ (onSched (fun x => { x with graphs := [{ graph1 (task1 (waitDesc 0 9000 0) .waiting []) with rep := [3] }] }) (waiting 1 up)).hw.power.time + 24576 < 2 ^ 64) ∧
    (NoExcursion (withCores onPiece (withTensors [[], []] (task1 (fitTo 16 0 [1, 0, 0, 0, 0, 0, 0, 0, 0x10000]) .issued [.running (some 0)]) up)) ∧ (withCores onPiece (withTensors [[], []] (task1 (fitTo 16 0 [1, 0, 0, 0, 0, 0, 0, 0, 0x10000]) .issued [.running (some 0)]) up)).hw.power.ctrlOn ∧ (coreOf (withCores onPiece (withTensors [[], []] (task1 (fitTo 16 0 [1, 0, 0, 0, 0, 0, 0, 0, 0x10000]) .issued [.running (some 0)]) up)).hw 0).run = some (.piece piece0 1) ∧ residueCovers (withCores onPiece (withTensors [[], []] (task1 (fitTo 16 0 [1, 0, 0, 0, 0, 0, 0, 0, 0x10000]) .issued [.running (some 0)]) up)).hw piece0) := by
  (repeat' apply And.intro) <;> decide

theorem test_ScrubbingMarksLines_is_met :
    (up.hw.up ∧ up.hw.power.memOn ∧ RoomToReport up) ∧
    ((writtenAt [0] up).hw.up ∧ (writtenAt [0] up).hw.power.memOn ∧ RoomToReport (writtenAt [0] up) ∧ isFresh (writtenAt [0] up).hw (100 / 64 * 64) = false) := by
  (repeat' apply And.intro) <;> decide

theorem test_TasksEndTheirGraphs_is_met :
    (OneTask (resident (task1 (waitDesc 0 9000 0) (.pred 0) [.todo]) up) (graph1 (task1 (waitDesc 0 9000 0) (.pred 0) [.todo])) (task1 (waitDesc 0 9000 0) (.pred 0) [.todo]) kWait
        (waitingOwned 1) ∧ (resident (task1 (waitDesc 0 9000 0) (.pred 0) [.todo]) up).hw.board.aonOn ∧ (resident (task1 (waitDesc 0 9000 0) (.pred 0) [.todo]) up).hw.power.time ≤ 9000) ∧
    (OneTask (resident (task1 (waitDesc 2 9000 5) (.pred 0) [.todo]) up) (graph1 (task1 (waitDesc 2 9000 5) (.pred 0) [.todo])) (task1 (waitDesc 2 9000 5) (.pred 0) [.todo]) kWait
        (waitingOwned 1) ∧
      waitHolds (resident (task1 (waitDesc 2 9000 5) (.pred 0) [.todo]) up).hw (graph1 (task1 (waitDesc 2 9000 5) (.pred 0) [.todo])) (waitDesc 2 9000 5) = false) ∧
    (OneTask (resident (task1 (waitDesc 7 9000 5) (.pred 0) [.todo]) up) (graph1 (task1 (waitDesc 7 9000 5) (.pred 0) [.todo])) (task1 (waitDesc 7 9000 5) (.pred 0) [.todo]) kWait
        (waitingOwned 1) ∧
      waitHolds (resident (task1 (waitDesc 7 9000 5) (.pred 0) [.todo]) up).hw (graph1 (task1 (waitDesc 7 9000 5) (.pred 0) [.todo])) (waitDesc 7 9000 5) = false) ∧
    (OneTask (resident (task1 recurDesc (.pred 0) [.todo]) up) (graph1 (task1 recurDesc (.pred 0) [.todo])) (task1 recurDesc (.pred 0) [.todo]) kRecur (waitingOwned 1)) ∧
    (OneTask (resident (task1 (moveDesc 0x1000 0x1008 16) .issued [.running none]) up) (graph1 (task1 (moveDesc 0x1000 0x1008 16) .issued [.running none]))
        (task1 (moveDesc 0x1000 0x1008 16) .issued [.running none]) kMove (waitingOwned 1) ∧
      (resident (task1 (moveDesc 0x1000 0x1008 16) .issued [.running none]) up).hw.image.system.sqInDram = false ∧ granted (resident (task1 (moveDesc 0x1000 0x1008 16) .issued [.running none]) up).hw 1 true false 0x1000 16 ∧ granted (resident (task1 (moveDesc 0x1000 0x1008 16) .issued [.running none]) up).hw 1 false true 0x1008 16 ∧
      devBad (resident (task1 (moveDesc 0x1000 0x1008 16) .issued [.running none]) up).hw 0x1000 16 = false ∧ devBad (resident (task1 (moveDesc 0x1000 0x1008 16) .issued [.running none]) up).hw 0x1008 16 = false) ∧
    (OneTask (commits 0 id up) (graph1 (task1 (bellDesc 0) .issued [.running none])) (task1 (bellDesc 0) .issued [.running none]) kMark
        (waitingOwned 1) ∧ fld (wordAt (bellDesc 0) 8) 0 4 = 1 ∧ ownSettings (commits 0 id up).mem (commits 0 id up).hw = none) ∧
    (OneTask (commits 0x1000 id up) (graph1 (task1 (bellDesc 0x1000) .issued [.running none])) (task1 (bellDesc 0x1000) .issued [.running none])
        kMark (waitingOwned 1) ∧ addrAt (bellDesc 0x1000) 9 ≠ 0 ∧ (bellCfg (commits 0x1000 id up).hw).allowAdapt = false) ∧
    (loaderTurn 0 (commits 0x1000 (fun b => { b with allowAdapt := true }) up).hw ∧ readWaits (commits 0x1000 (fun b => { b with allowAdapt := true }) up).hw LOADER 0x1000 0 = false ∧ loaderReads (commits 0x1000 (fun b => { b with allowAdapt := true }) up).hw 0x1000 0 ∧ devBad (commits 0x1000 (fun b => { b with allowAdapt := true }) up).hw 0x1000 0 = false ∧ (bellCfg (commits 0x1000 (fun b => { b with allowAdapt := true }) up).hw).allowAdapt ∧ bellRuns (commits 0x1000 (fun b => { b with allowAdapt := true }) up).hw ∧
      (commitFault (commits 0x1000 (fun b => { b with allowAdapt := true }) up).hw []).isSome) ∧
    (readWaits (commitsDesc [10, 0, 0, 0, 0, 0, 0, 0, 1, 0, 0x2000] id up).hw LOADER windowBase 0) ∧
    (loaderTurn 0 (onBell (fun b => { b with blob := bellModel 0 }) (commits 0x1000 (fun b => { b with allowAdapt := true, tapMask := 1 }) (withDram 0x1000 (bellModel 7) up))).hw ∧ readWaits (onBell (fun b => { b with blob := bellModel 0 }) (commits 0x1000 (fun b => { b with allowAdapt := true, tapMask := 1 }) (withDram 0x1000 (bellModel 7) up))).hw LOADER 0x1000 128 = false ∧ loaderReads (onBell (fun b => { b with blob := bellModel 0 }) (commits 0x1000 (fun b => { b with allowAdapt := true, tapMask := 1 }) (withDram 0x1000 (bellModel 7) up))).hw 0x1000 128 ∧ devBad (onBell (fun b => { b with blob := bellModel 0 }) (commits 0x1000 (fun b => { b with allowAdapt := true, tapMask := 1 }) (withDram 0x1000 (bellModel 7) up))).hw 0x1000 128 = false ∧
      (bellCfg (onBell (fun b => { b with blob := bellModel 0 }) (commits 0x1000 (fun b => { b with allowAdapt := true, tapMask := 1 }) (withDram 0x1000 (bellModel 7) up))).hw).allowAdapt ∧ bellRuns (onBell (fun b => { b with blob := bellModel 0 }) (commits 0x1000 (fun b => { b with allowAdapt := true, tapMask := 1 }) (withDram 0x1000 (bellModel 7) up))).hw ∧ (onBell (fun b => { b with blob := bellModel 0 }) (commits 0x1000 (fun b => { b with allowAdapt := true, tapMask := 1 }) (withDram 0x1000 (bellModel 7) up))).hw.bell.blob.length = 128 ∧
      commitFault (onBell (fun b => { b with blob := bellModel 0 }) (commits 0x1000 (fun b => { b with allowAdapt := true, tapMask := 1 }) (withDram 0x1000 (bellModel 7) up))).hw (bytesAt (onBell (fun b => { b with blob := bellModel 0 }) (commits 0x1000 (fun b => { b with allowAdapt := true, tapMask := 1 }) (withDram 0x1000 (bellModel 7) up))) .dram 0x1000 128) = none ∧ bytesAt (onBell (fun b => { b with blob := bellModel 0 }) (commits 0x1000 (fun b => { b with allowAdapt := true, tapMask := 1 }) (withDram 0x1000 (bellModel 7) up))) .dram 0x1000 128 ≠ (onBell (fun b => { b with blob := bellModel 0 }) (commits 0x1000 (fun b => { b with allowAdapt := true, tapMask := 1 }) (withDram 0x1000 (bellModel 7) up))).hw.bell.blob) ∧
    (commitFault (onBell (fun b => { b with blob := bellModel 7, next := some [] }) (commits 0x1000 (fun b => { b with allowAdapt := true, tapMask := 1 }) (withDram 0x1000 (bellModel 7) up))).hw (bytesAt (onBell (fun b => { b with blob := bellModel 7, next := some [] }) (commits 0x1000 (fun b => { b with allowAdapt := true, tapMask := 1 }) (withDram 0x1000 (bellModel 7) up))) .dram 0x1000 128) = none ∧ bytesAt (onBell (fun b => { b with blob := bellModel 7, next := some [] }) (commits 0x1000 (fun b => { b with allowAdapt := true, tapMask := 1 }) (withDram 0x1000 (bellModel 7) up))) .dram 0x1000 128 = (onBell (fun b => { b with blob := bellModel 7, next := some [] }) (commits 0x1000 (fun b => { b with allowAdapt := true, tapMask := 1 }) (withDram 0x1000 (bellModel 7) up))).hw.bell.blob) := by
  (repeat' apply And.intro) <;> decide +kernel

theorem test_ExchangeAnswersEndTheirGraphs_is_met :
    (OneTask (exchanging 0 (resident (task1 (exchDesc 0x1000 4) .issued [.running none]) up)) (graph1 (task1 (exchDesc 0x1000 4) .issued [.running none])) (task1 (exchDesc 0x1000 4) .issued [.running none])
        kExchange (waitingOwned 1) ∧
      Next (exchanging 0 (resident (task1 (exchDesc 0x1000 4) .issued [.running none]) up)) .east (fromPeer 0 []) ∧ (fromPeer 0 []).dst = (exchanging 0 (resident (task1 (exchDesc 0x1000 4) .issued [.running none]) up)).hw.nodeId ∧ (exchanging 0 (resident (task1 (exchDesc 0x1000 4) .issued [.running none]) up)).hw.ring.exch = [exch0 0]) ∧
    (Next (exchanging 0 (resident (task1 (exchDesc 0x1000 4) .issued [.running none]) up)) .west (fromPeer 0x20 [])) ∧
    ((exchanging 2 (resident (task1 (exchDesc 0x1000 4) .issued [.running none]) up)).hw.ring.exch = [exch0 2] ∧ Next (exchanging 2 (resident (task1 (exchDesc 0x1000 4) .issued [.running none]) up)) .east (fromPeer 0 [])) ∧
    ((exchanging 1 (resident (task1 (exchDesc 0x1000 4) .issued [.running none]) up)).hw.ring.exch = [exch0 1] ∧ Next (exchanging 1 (resident (task1 (exchDesc 0x1000 4) .issued [.running none]) up)) .east (fromPeer 0 [1, 2, 3, 4]) ∧ (exchanging 1 (resident (task1 (exchDesc 0x1000 4) .issued [.running none]) up)).hw.image.system.sqInDram = false) ∧
    ((exchanging 1 (resident (task1 (exchDesc 0x1000 4) .issued [.running none]) up)).hw.ring.exch = [exch0 1]) ∧
    (OneTask (onRing (fun r => { r with st := .forming }) (ringUp (resident (task1 (exchDesc 0x1000 4) (.ready 0) [.todo]) up))) (graph1 (task1 (exchDesc 0x1000 4) (.ready 0) [.todo])) (task1 (exchDesc 0x1000 4) (.ready 0) [.todo])
        kExchange (waitingOwned 1) ∧ ringForms (onRing (fun r => { r with st := .forming }) (ringUp (resident (task1 (exchDesc 0x1000 4) (.ready 0) [.todo]) up))).hw) := by
  (repeat' apply And.intro) <;> decide

theorem test_TimeSlotsReadAndWriteTime_is_met :
    (AtRest (onPower (fun p => { p with time := 7000, alarm := some 3 }) (posted up)) ∧ timeFieldsOk (fetched 12 [0]).words ∧ AcceptsOp (onPower (fun p => { p with time := 7000, alarm := some 3 }) (posted up)) (slot 12 [0]) (fetched 12 [0]) kTime 0 3 0) ∧
    (AtRest (posted up) ∧ timeFieldsOk (fetched 12 [3, 5000, 1]).words ∧ AcceptsOp (posted up) (slot 12 [3, 5000, 1]) (fetched 12 [3, 5000, 1]) kTime 0 3 3) ∧
    (AtRest (onPower (fun p => { p with alarm := some 3 }) (posted up)) ∧ timeFieldsOk (fetched 12 [4]).words ∧ AcceptsOp (onPower (fun p => { p with alarm := some 3 }) (posted up)) (slot 12 [4]) (fetched 12 [4]) kTime 0 3 4) ∧
    (AtRest (posted up) ∧ timeFieldsOk (fetched 12 [0, 1]).words = false ∧ AcceptsOp (posted up) (slot 12 [0, 1]) (fetched 12 [0, 1]) kTime 0 3 0) ∧
    (AtRest (posted up) ∧ timeFieldsOk (fetched 12 [1, 1, 0, 5]).words = false ∧ AcceptsOp (posted up) (slot 12 [1, 1, 0, 5]) (fetched 12 [1, 1, 0, 5]) kTime 0 3 1) ∧
    (AcceptsOp (posted up) (slot 12 [2, 1, 0, 5]) (fetched 12 [2, 1, 0, 5]) kTime 0 3 2 ∧ timeFieldsOk (fetched 12 [2, 1, 0, 5]).words = false) ∧
    (AcceptsOp (posted up) (slot 12 [0xB, 1]) (fetched 12 [0xB, 1]) kTime 0 3 3 ∧ timeFieldsOk (fetched 12 [0xB, 1]).words = false) ∧
    (AcceptsOp (posted up) (slot 12 [4, 1]) (fetched 12 [4, 1]) kTime 0 3 4 ∧ timeFieldsOk (fetched 12 [4, 1]).words = false) ∧
    (AtRest (onPower (fun p => { p with time := 7000 }) (chains runs (posted up))) ∧ timeFieldsOk (fetched 12 [1, 5000, 1]).words ∧ AcceptsOp (onPower (fun p => { p with time := 7000 }) (chains runs (posted up))) (slot 12 [1, 5000, 1]) (fetched 12 [1, 5000, 1]) kTime 0 3 1 ∧ bit (wordAt (fetched 12 [1, 5000, 1]).words 4) 3 = false) ∧
    (AtRest (onPower (fun p => { p with time := 7000 }) (posted up)) ∧ timeFieldsOk (fetched 12 [2, 0xFFFFFFFF, 0xFFFFFFFF]).words ∧ AcceptsOp (onPower (fun p => { p with time := 7000 }) (posted up)) (slot 12 [2, 0xFFFFFFFF, 0xFFFFFFFF]) (fetched 12 [2, 0xFFFFFFFF, 0xFFFFFFFF]) kTime 0 3 2 ∧
      0 ≤ ((onPower (fun p => { p with time := 7000 }) (posted up)).hw.power.time : Int) + signedOf 64 (dwordAt (fetched 12 [2, 0xFFFFFFFF, 0xFFFFFFFF]).words 5)) ∧
    (AtRest (posted up) ∧ timeFieldsOk (fetched 12 [2, 0xFFFFFFFF, 0xFFFFFFFF]).words ∧ AcceptsOp (posted up) (slot 12 [2, 0xFFFFFFFF, 0xFFFFFFFF]) (fetched 12 [2, 0xFFFFFFFF, 0xFFFFFFFF]) kTime 0 3 2 ∧
      ((posted up).hw.power.time : Int) + signedOf 64 (dwordAt (fetched 12 [2, 0xFFFFFFFF, 0xFFFFFFFF]).words 5) < 0) ∧
    (AtRest (posted up) ∧ timeFieldsOk (fetched 12 [9, 5000, 1, 0]).words ∧ AcceptsOp (posted up) (slot 12 [9, 5000, 1, 0]) (fetched 12 [9, 5000, 1, 0]) kTime 0 3 1 ∧ bit (wordAt (fetched 12 [9, 5000, 1, 0]).words 4) 3) ∧
    (AtRest (posted up) ∧ timeFieldsOk (fetched 12 [10, 5000, 1, 40]).words ∧ AcceptsOp (posted up) (slot 12 [10, 5000, 1, 40]) (fetched 12 [10, 5000, 1, 40]) kTime 0 3 2 ∧ bit (wordAt (fetched 12 [10, 5000, 1, 40]).words 4) 3) := by
  (repeat' apply And.intro) <;> decide

theorem test_BeatEdgesApplyWaitingWrites_is_met :
    (AtRest (beatWaits (chains runs up)) ∧ (beatWaits (chains runs up)).hw.power.timeWaits = [timeWait] ∧ (beatWaits (chains runs up)).hw.board.aonOn ∧ (beatWaits (chains runs up)).hw.board.resetN ∧ (beatWaits (chains runs up)).hw.writesRecords ∧
      newTime false 5000 (beatWaits (chains runs up)).hw.power.time = some 5000) ∧
    (AtRest (onPower (fun p => { p with elapsed := 24576 }) (beatWaits up)) ∧ (onPower (fun p => { p with elapsed := 24576 }) (beatWaits up)).hw.power.timeWaits = [timeWait] ∧ (onPower (fun p => { p with elapsed := 24576 }) (beatWaits up)).hw.board.aonOn ∧ (onPower (fun p => { p with elapsed := 24576 }) (beatWaits up)).hw.writesRecords ∧
      (onPower (fun p => { p with elapsed := 24576 }) (beatWaits up)).hw.power.elapsed = timeWaitDue timeWait) ∧
    (AtRest (chains runs up) ∧ (chains runs up).hw.power.timeWaits = [] ∧ (chains runs up).hw.board.aonOn ∧ (chains runs up).hw.board.resetN ∧ (chains runs up).hw.drum.senseOn ∧
      ((chains runs up).hw.image.raw.map (·.beatPinEn)) = some true) := by
  (repeat' apply And.intro) <;> decide

theorem test_FramesArePublishedHeldOrLost_is_met :
    (framesRun (drumming up).hw ∧ (drumming up).hw.board.aonOn ∧ RoomToReport (drumming up) ∧ (drumming up).hw.power.time ≤ basePeriod (drumming up).hw ∧ basePeriod (drumming up).hw < 2 ^ 64 ∧
      (drumming up).hw.power.memOn ∧ granted (drumming up).hw AFE_DMA false true (frameAddr (drumming up).hw 0) 640 ∧ frameAddr (drumming up).hw 0 + 640 ≤ dramEnd ∧
      (drumming up).hw.image.system.sqInDram = false) ∧
    (((drumming up).hw.drum.channels.getD 0 {}).state = .live ∧ (drumming up).hw.drum.validOff = false ∧
      streamCloses (drumming up).hw 0 (channelCfg (drumming up).hw 0).stream ∧ tapEnabled (channelCfg (drumming up).hw 0).tapEn 15) ∧
    (framesRun (drumming up).hw ∧ RoomToReport (drumming up)) ∧
    (framesRun (onPower (fun p => { p with memOn := false }) (drumming up)).hw ∧ RoomToReport (onPower (fun p => { p with memOn := false }) (drumming up)) ∧ (onPower (fun p => { p with memOn := false }) (drumming up)).hw.power.memOn = false ∧ (onPower (fun p => { p with memOn := false }) (drumming up)).hw.drum.holding.length < 32) ∧
    (framesRun (onDrum (fun d => { d with holding := List.replicate 32 { beat := 0, bytes := [] }, dropped := 65535 }) (onPower (fun p => { p with memOn := false }) (drumming up))).hw ∧ RoomToReport (onDrum (fun d => { d with holding := List.replicate 32 { beat := 0, bytes := [] }, dropped := 65535 }) (onPower (fun p => { p with memOn := false }) (drumming up))) ∧ (onDrum (fun d => { d with holding := List.replicate 32 { beat := 0, bytes := [] }, dropped := 65535 }) (onPower (fun p => { p with memOn := false }) (drumming up))).hw.power.memOn = false ∧ (onDrum (fun d => { d with holding := List.replicate 32 { beat := 0, bytes := [] }, dropped := 65535 }) (onPower (fun p => { p with memOn := false }) (drumming up))).hw.drum.holding.length = 32) ∧
    (framesRun (ownerOfFrames (drumming up)).hw ∧ RoomToReport (ownerOfFrames (drumming up)) ∧ (ownerOfFrames (drumming up)).hw.power.memOn ∧ granted (ownerOfFrames (drumming up)).hw AFE_DMA false true (frameAddr (ownerOfFrames (drumming up)).hw 0) 640 = false ∧
      (ownerOfFrames (drumming up)).hw.drum.accessRaised = false) := by
  (repeat' apply And.intro) <;> decide

theorem test_ChannelsSettleAndTheTimeCopyHolds_is_met :
    (framesRun (onPower (fun p => { p with elapsed := 2000000, time := 50 }) (onDrum (fun d => { d with channels := [{ state := .settling, since := 0 }] }) (drumming up))).hw ∧ (onPower (fun p => { p with elapsed := 2000000, time := 50 }) (onDrum (fun d => { d with channels := [{ state := .settling, since := 0 }] }) (drumming up))).hw.board.aonOn ∧ ((onPower (fun p => { p with elapsed := 2000000, time := 50 }) (onDrum (fun d => { d with channels := [{ state := .settling, since := 0 }] }) (drumming up))).hw.drum.channels.getD 0 {}).state = .settling ∧
      streamCloses (onPower (fun p => { p with elapsed := 2000000, time := 50 }) (onDrum (fun d => { d with channels := [{ state := .settling, since := 0 }] }) (drumming up))).hw (onPower (fun p => { p with elapsed := 2000000, time := 50 }) (onDrum (fun d => { d with channels := [{ state := .settling, since := 0 }] }) (drumming up))).hw.drum.nextBeat (channelCfg (onPower (fun p => { p with elapsed := 2000000, time := 50 }) (onDrum (fun d => { d with channels := [{ state := .settling, since := 0 }] }) (drumming up))).hw 0).stream ∧
      ((onPower (fun p => { p with elapsed := 2000000, time := 50 }) (onDrum (fun d => { d with channels := [{ state := .settling, since := 0 }] }) (drumming up))).hw.drum.channels.getD 0 {}).since + settleTicks (channelCfg (onPower (fun p => { p with elapsed := 2000000, time := 50 }) (onDrum (fun d => { d with channels := [{ state := .settling, since := 0 }] }) (drumming up))).hw 0).vibration +
          streamDivider (onPower (fun p => { p with elapsed := 2000000, time := 50 }) (onDrum (fun d => { d with channels := [{ state := .settling, since := 0 }] }) (drumming up))).hw (channelCfg (onPower (fun p => { p with elapsed := 2000000, time := 50 }) (onDrum (fun d => { d with channels := [{ state := .settling, since := 0 }] }) (drumming up))).hw 0).stream * basePeriod (onPower (fun p => { p with elapsed := 2000000, time := 50 }) (onDrum (fun d => { d with channels := [{ state := .settling, since := 0 }] }) (drumming up))).hw ≤
        (onPower (fun p => { p with elapsed := 2000000, time := 50 }) (onDrum (fun d => { d with channels := [{ state := .settling, since := 0 }] }) (drumming up))).hw.power.elapsed + (((onPower (fun p => { p with elapsed := 2000000, time := 50 }) (onDrum (fun d => { d with channels := [{ state := .settling, since := 0 }] }) (drumming up))).hw.drum.nextBeat + 1) * basePeriod (onPower (fun p => { p with elapsed := 2000000, time := 50 }) (onDrum (fun d => { d with channels := [{ state := .settling, since := 0 }] }) (drumming up))).hw - (onPower (fun p => { p with elapsed := 2000000, time := 50 }) (onDrum (fun d => { d with channels := [{ state := .settling, since := 0 }] }) (drumming up))).hw.power.time)) ∧
    (framesRun (drumming up).hw ∧ (drumming up).hw.board.aonOn ∧ ((drumming up).hw.drum.channels.getD 0 {}).state ≠ .settling) ∧
    ((chains runs (drumming up)).hw.drum.senseOn ∧ RoomToReport (chains runs (drumming up))) ∧
    ((chains runs (drumming up)).hw.drum.senseOn ∧ RoomToReport (chains runs (drumming up))) := by
  (repeat' apply And.intro) <;> decide

theorem test_ChainsStartResetAndTakeSamples_is_met :
    (0 < (onPower (fun p => { p with time := 90 }) (onRaw (fun r => { r with waits := [{ pos := 0, instant := 96, sync := false, late := false }] }) (chains { resetAt := some 96, resetSlot := some 0, selected := 2 } (waiting 11 up)))).hw.raw.chains.length ∧ (onPower (fun p => { p with time := 90 }) (onRaw (fun r => { r with waits := [{ pos := 0, instant := 96, sync := false, late := false }] }) (chains { resetAt := some 96, resetSlot := some 0, selected := 2 } (waiting 11 up)))).hw.board.aonOn ∧ RoomToReport (onPower (fun p => { p with time := 90 }) (onRaw (fun r => { r with waits := [{ pos := 0, instant := 96, sync := false, late := false }] }) (chains { resetAt := some 96, resetSlot := some 0, selected := 2 } (waiting 11 up)))) ∧ (onPower (fun p => { p with time := 90 }) (onRaw (fun r => { r with waits := [{ pos := 0, instant := 96, sync := false, late := false }] }) (chains { resetAt := some 96, resetSlot := some 0, selected := 2 } (waiting 11 up)))).hw.power.entry = none ∧ (onPower (fun p => { p with time := 90 }) (onRaw (fun r => { r with waits := [{ pos := 0, instant := 96, sync := false, late := false }] }) (chains { resetAt := some 96, resetSlot := some 0, selected := 2 } (waiting 11 up)))).hw.writesRecords ∧
      (onPower (fun p => { p with time := 90 }) (onRaw (fun r => { r with waits := [{ pos := 0, instant := 96, sync := false, late := false }] }) (chains { resetAt := some 96, resetSlot := some 0, selected := 2 } (waiting 11 up)))).hw.sq.owned.find? (fun x => x.pos == 0) = some (waitingOwned 11) ∧ (onPower (fun p => { p with time := 90 }) (onRaw (fun r => { r with waits := [{ pos := 0, instant := 96, sync := false, late := false }] }) (chains { resetAt := some 96, resetSlot := some 0, selected := 2 } (waiting 11 up)))).hw.power.time ≤ 96 ∧
      (chainOf (onPower (fun p => { p with time := 90 }) (onRaw (fun r => { r with waits := [{ pos := 0, instant := 96, sync := false, late := false }] }) (chains { resetAt := some 96, resetSlot := some 0, selected := 2 } (waiting 11 up)))).hw 0).resetAt = some 96 ∧ (chainOf (onPower (fun p => { p with time := 90 }) (onRaw (fun r => { r with waits := [{ pos := 0, instant := 96, sync := false, late := false }] }) (chains { resetAt := some 96, resetSlot := some 0, selected := 2 } (waiting 11 up)))).hw 0).resetSlot = some 0 ∧ (onPower (fun p => { p with time := 90 }) (onRaw (fun r => { r with waits := [{ pos := 0, instant := 96, sync := false, late := false }] }) (chains { resetAt := some 96, resetSlot := some 0, selected := 2 } (waiting 11 up)))).hw.raw.waits = [{ pos := 0, instant := 96, sync := false, late := false }] ∧
      ∀ c ∈ (onPower (fun p => { p with time := 90 }) (onRaw (fun r => { r with waits := [{ pos := 0, instant := 96, sync := false, late := false }] }) (chains { resetAt := some 96, resetSlot := some 0, selected := 2 } (waiting 11 up)))).hw.raw.chains.drop 1, c.resetSlot ≠ some 0) ∧
    (RoomToReport (onPower (fun p => { p with time := 90 }) (onRaw (fun r => { r with waits := [{ pos := 0, instant := 96, sync := true, late := false }] }) (chains runs (waiting 11 up)))) ∧ (onPower (fun p => { p with time := 90 }) (onRaw (fun r => { r with waits := [{ pos := 0, instant := 96, sync := true, late := false }] }) (chains runs (waiting 11 up)))).hw.writesRecords ∧ (chainOf (onPower (fun p => { p with time := 90 }) (onRaw (fun r => { r with waits := [{ pos := 0, instant := 96, sync := true, late := false }] }) (chains runs (waiting 11 up)))).hw 0).resetAt = none ∧ (chainOf (onPower (fun p => { p with time := 90 }) (onRaw (fun r => { r with waits := [{ pos := 0, instant := 96, sync := true, late := false }] }) (chains runs (waiting 11 up)))).hw 0).running ∧
      (onPower (fun p => { p with time := 90 }) (onRaw (fun r => { r with waits := [{ pos := 0, instant := 96, sync := true, late := false }] }) (chains runs (waiting 11 up)))).hw.raw.waits = [{ pos := 0, instant := 96, sync := true, late := false }] ∧ (onPower (fun p => { p with time := 90 }) (onRaw (fun r => { r with waits := [{ pos := 0, instant := 96, sync := true, late := false }] }) (chains runs (waiting 11 up)))).hw.power.time ≤ 96) ∧
    (0 < (chains runs up).hw.raw.chains.length ∧ (chainOf (chains runs up).hw 0).running ∧ (chains runs up).hw.board.aonOn) ∧
    ((chainOf (chains { runs with spikeRank := true, quiet := 192 } up).hw 0).running ∧ quietDue (rawCfg (chains { runs with spikeRank := true, quiet := 192 } up).hw 0) (chainOf (chains { runs with spikeRank := true, quiet := 192 } up).hw 0)) ∧
    ((chainOf (chains { runs with fade := some ({ resp := 3 }, 64) } up).hw 0).running ∧ (chainOf (chains { runs with fade := some ({ resp := 3 }, 64) } up).hw 0).fade = some ({ resp := 3 }, 64) ∧ (chainOf (chains { runs with fade := some ({ resp := 3 }, 64) } up).hw 0).pending = none) ∧
    ((chainOf (chains { runs with fade := some ({ resp := 3 }, 63) } up).hw 0).running ∧ (chainOf (chains { runs with fade := some ({ resp := 3 }, 63) } up).hw 0).fade = some ({ resp := 3 }, 63)) ∧
    ((chainOf (chains { runs with nFilt := 200 } up).hw 0).running ∧ 200 ≤ (chainOf (chains { runs with nFilt := 200 } up).hw 0).nFilt) ∧
    ((chainOf (chains runs up).hw 0).running ∧ 2 * ((chainOf (chains runs up).hw 0).nFilt + 1) ≤ (chainOf (chains runs up).hw 0).nHalf ∧
      (rawCfg (chains runs up).hw 0).thrEn = false ∧ (chainOf (chains runs up).hw 0).stopping = false) ∧
    ((chainOf (chains { runs with stopping := true, block := [{ y := 3 }] } up).hw 0).running ∧ 2 * ((chainOf (chains { runs with stopping := true, block := [{ y := 3 }] } up).hw 0).nFilt + 1) ≤ (chainOf (chains { runs with stopping := true, block := [{ y := 3 }] } up).hw 0).nHalf ∧ (chainOf (chains { runs with stopping := true, block := [{ y := 3 }] } up).hw 0).stopping) ∧
    ((chainOf (chains { runs with nHalf := 601 } up).hw 0).running ∧ (chainOf (chains { runs with nHalf := 601 } up).hw 0).nHalf < 2 * ((chainOf (chains { runs with nHalf := 601 } up).hw 0).nFilt + 1)) := by
  (repeat' apply And.intro) <;> decide

theorem test_ThresholdsTurnAndBlocksArePublished_is_met :
    (RoomToReport (onImage (fun i => { i with raw := some { chains := [{ enable := true, thrEn := true, thrMin := 4 }] } }) (chains { runs with run := 4, env := 900 } up)) ∧ (chainOf (onImage (fun i => { i with raw := some { chains := [{ enable := true, thrEn := true, thrMin := 4 }] } }) (chains { runs with run := 4, env := 900 } up)).hw 0).running ∧ (chainOf (onImage (fun i => { i with raw := some { chains := [{ enable := true, thrEn := true, thrMin := 4 }] } }) (chains { runs with run := 4, env := 900 } up)).hw 0).on = false ∧ (rawCfg (onImage (fun i => { i with raw := some { chains := [{ enable := true, thrEn := true, thrMin := 4 }] } }) (chains { runs with run := 4, env := 900 } up)).hw 0).thrEn ∧
      max (rawCfg (onImage (fun i => { i with raw := some { chains := [{ enable := true, thrEn := true, thrMin := 4 }] } }) (chains { runs with run := 4, env := 900 } up)).hw 0).thrMin 1 ≤ (chainOf (onImage (fun i => { i with raw := some { chains := [{ enable := true, thrEn := true, thrMin := 4 }] } }) (chains { runs with run := 4, env := 900 } up)).hw 0).run) ∧
    (RoomToReport (onImage (fun i => { i with raw := some { chains := [{ enable := true, thrEn := true, thrMin := 4 }] } }) (chains { runs with run := 4, on := true, runPeak := 77 } up)) ∧ (chainOf (onImage (fun i => { i with raw := some { chains := [{ enable := true, thrEn := true, thrMin := 4 }] } }) (chains { runs with run := 4, on := true, runPeak := 77 } up)).hw 0).running ∧ (chainOf (onImage (fun i => { i with raw := some { chains := [{ enable := true, thrEn := true, thrMin := 4 }] } }) (chains { runs with run := 4, on := true, runPeak := 77 } up)).hw 0).on ∧ (rawCfg (onImage (fun i => { i with raw := some { chains := [{ enable := true, thrEn := true, thrMin := 4 }] } }) (chains { runs with run := 4, on := true, runPeak := 77 } up)).hw 0).thrEn ∧
      max (rawCfg (onImage (fun i => { i with raw := some { chains := [{ enable := true, thrEn := true, thrMin := 4 }] } }) (chains { runs with run := 4, on := true, runPeak := 77 } up)).hw 0).thrMin 1 ≤ (chainOf (onImage (fun i => { i with raw := some { chains := [{ enable := true, thrEn := true, thrMin := 4 }] } }) (chains { runs with run := 4, on := true, runPeak := 77 } up)).hw 0).run) ∧
    (RoomToReport (onImage (fun i => { i with raw := some { chains := [{ enable := true, thrEn := true, thrMin := 4 }] } }) (chains { runs with run := 3 } up)) ∧ (chainOf (onImage (fun i => { i with raw := some { chains := [{ enable := true, thrEn := true, thrMin := 4 }] } }) (chains { runs with run := 3 } up)).hw 0).running ∧
      ¬((rawCfg (onImage (fun i => { i with raw := some { chains := [{ enable := true, thrEn := true, thrMin := 4 }] } }) (chains { runs with run := 3 } up)).hw 0).thrEn ∧ max (rawCfg (onImage (fun i => { i with raw := some { chains := [{ enable := true, thrEn := true, thrMin := 4 }] } }) (chains { runs with run := 3 } up)).hw 0).thrMin 1 ≤ (chainOf (onImage (fun i => { i with raw := some { chains := [{ enable := true, thrEn := true, thrMin := 4 }] } }) (chains { runs with run := 3 } up)).hw 0).run)) ∧
    ((chainOf (onImage (fun i => { i with raw := some { chains := [{ enable := true, thrEn := true, thrMin := 4 }] } }) (chains { runs with run := 4 } up)).hw 0).running ∧ (chainOf (onImage (fun i => { i with raw := some { chains := [{ enable := true, thrEn := true, thrMin := 4 }] } }) (chains { runs with run := 4 } up)).hw 0).on = false) ∧
    (RoomToReport (chains { runs with closed := [block0], lost := 3 } up) ∧ (chainOf (chains { runs with closed := [block0], lost := 3 } up).hw 0).closed = block0 :: [] ∧ (chains { runs with closed := [block0], lost := 3 } up).hw.image.system.sqInDram = false ∧ (chains { runs with closed := [block0], lost := 3 } up).hw.power.memOn ∧
      granted (chains { runs with closed := [block0], lost := 3 } up).hw AFE_DMA false true ((rawCfg (chains { runs with closed := [block0], lost := 3 } up).hw 0).base + 1024 * (block0.seq % 2 ^ (rawCfg (chains { runs with closed := [block0], lost := 3 } up).hw 0).depthLog2)) 1024) ∧
    (RoomToReport (chains { runs with closed := [block0, block0], lost := 3 } up) ∧ (chainOf (chains { runs with closed := [block0, block0], lost := 3 } up).hw 0).closed = block0 :: [block0] ∧ (chains { runs with closed := [block0, block0], lost := 3 } up).hw.image.system.sqInDram = false) ∧
    (RoomToReport (ownerOfFrames (chains { runs with closed := [block0] } up)) ∧ (ownerOfFrames (chains { runs with closed := [block0] } up)).hw.power.memOn ∧ (ownerOfFrames (chains { runs with closed := [block0] } up)).hw.raw.accessRaised = false ∧
      granted (ownerOfFrames (chains { runs with closed := [block0] } up)).hw AFE_DMA false true ((rawCfg (ownerOfFrames (chains { runs with closed := [block0] } up)).hw 0).base + 1024 * (block0.seq % 2 ^ (rawCfg (ownerOfFrames (chains { runs with closed := [block0] } up)).hw 0).depthLog2)) 1024 = false) := by
  (repeat' apply And.intro) <;> decide

theorem test_SyncSlotsActOrAreRefused_is_met :
    (RoomToReport (onPower (fun p => { p with time := 90 }) (chains runs (posted up))) ∧ (onPower (fun p => { p with time := 90 }) (chains runs (posted up))).hw.power.entry = none ∧ syncBadForm (fetched 11 [0]).words = false ∧ rawAllowed (onPower (fun p => { p with time := 90 }) (chains runs (posted up))).hw ∧
      bit (wordAt (fetched 11 [0]).words 4) 19 = false ∧ (onPower (fun p => { p with time := 90 }) (chains runs (posted up))).hw.raw.chains.length = 8 ∧ AcceptsOp (onPower (fun p => { p with time := 90 }) (chains runs (posted up))) (slot 11 [0]) (fetched 11 [0]) kSync 0 3 0 ∧ runningMask (onPower (fun p => { p with time := 90 }) (chains runs (posted up))).hw ≠ 0) ∧
    (AcceptsOp (chains {} (posted up)) (slot 11 [0]) (fetched 11 [0]) kSync 0 3 0 ∧ runningMask (chains {} (posted up)).hw = 0 ∧ rawAllowed (chains {} (posted up)).hw) ∧
    (RoomToReport (onPower (fun p => { p with time := 91 }) (chains {} (posted up))) ∧ syncBadForm (fetched 11 [0x19]).words = false ∧ rawAllowed (onPower (fun p => { p with time := 91 }) (chains {} (posted up))).hw ∧ AcceptsOp (onPower (fun p => { p with time := 91 }) (chains {} (posted up))) (slot 11 [0x19]) (fetched 11 [0x19]) kSync 0 3 1 ∧
      (∀ j < 8, bitOf (fld (wordAt (fetched 11 [0x19]).words 4) 3 8) j → (rawCfg (onPower (fun p => { p with time := 91 }) (chains {} (posted up))).hw j).enable) ∧
      bitOf (fld (wordAt (fetched 11 [0x19]).words 4) 3 8) 0 ∧ (chainOf (onPower (fun p => { p with time := 91 }) (chains {} (posted up))).hw 0).running = false ∧ (chainOf (onPower (fun p => { p with time := 91 }) (chains {} (posted up))).hw 0).resetAt = none) ∧
    (syncBadForm (fetched 11 [0x0A]).words = false ∧ rawAllowed (chains runs (posted up)).hw ∧ AcceptsOp (chains runs (posted up)) (slot 11 [0x0A]) (fetched 11 [0x0A]) kSync 0 3 2 ∧
      bitOf (fld (wordAt (fetched 11 [0x0A]).words 4) 3 8) 0 ∧ (chainOf (chains runs (posted up)).hw 0).running) ∧
    (syncBadForm (fetched 11 [0x12]).words = false ∧ AcceptsOp (chains runs (posted up)) (slot 11 [0x12]) (fetched 11 [0x12]) kSync 0 3 2 ∧
      ∀ j < 8, bitOf (fld (wordAt (fetched 11 [0x12]).words 4) 3 8) j → (chainOf (chains runs (posted up)).hw j).running = false) ∧
    (syncBadForm (fetched 11 [0x4003]).words = false ∧ rawAllowed (chains {} (posted up)).hw ∧ AcceptsOp (chains {} (posted up)) (slot 11 [0x4003]) (fetched 11 [0x4003]) kSync 0 3 3 ∧ (rawCfg (chains {} (posted up)).hw 0).enable ∧
      bitOf (rawCfg (chains {} (posted up)).hw 0).respAllow (fld (wordAt (fetched 11 [0x4003]).words 4) 14 5) ∧ (chainOf (chains {} (posted up)).hw 0).running = false) ∧
    (AcceptsOp (chains runs (posted up)) (slot 11 [0x8]) (fetched 11 [0x8]) kSync 0 3 0 ∧ syncBadForm (fetched 11 [0x8]).words ∧ RoomToReport (chains runs (posted up)) ∧ (chains runs (posted up)).hw.power.entry = none) ∧
    (AcceptsOp (chains runs (posted up)) (slot 11 [1]) (fetched 11 [1]) kSync 0 3 1 ∧ syncBadForm (fetched 11 [1]).words) ∧
    (AcceptsOp (chains runs (posted up)) (slot 11 [2]) (fetched 11 [2]) kSync 0 3 2 ∧ syncBadForm (fetched 11 [2]).words) ∧
    (AcceptsOp (chains runs (posted up)) (slot 11 [0x60003]) (fetched 11 [0x60003]) kSync 0 3 3 ∧ syncBadForm (fetched 11 [0x60003]).words) ∧
    (AcceptsOp (posted up) (slot 11 [0]) (fetched 11 [0]) kSync 0 3 0 ∧ syncBadForm (fetched 11 [0]).words = false ∧ rawAllowed (posted up).hw = false) ∧
    (AcceptsOp (posted up) (slot 11 [9]) (fetched 11 [9]) kSync 0 3 1 ∧ syncBadForm (fetched 11 [9]).words = false ∧ rawAllowed (posted up).hw = false) ∧
    (AcceptsOp (chains {} (posted up)) (slot 11 [0x409]) (fetched 11 [0x409]) kSync 0 3 1 ∧ syncBadForm (fetched 11 [0x409]).words = false ∧ rawAllowed (chains {} (posted up)).hw ∧
      bitOf (fld (wordAt (fetched 11 [0x409]).words 4) 3 8) 7 ∧ (rawCfg (chains {} (posted up)).hw 7).enable = false) ∧
    (AcceptsOp (chains {} (posted up)) (slot 11 [0x80000, 0x10000001]) (fetched 11 [0x80000, 0x10000001]) kSync 0 3 0 ∧ syncBadForm (fetched 11 [0x80000, 0x10000001]).words = false ∧ rawAllowed (chains {} (posted up)).hw ∧ bit (wordAt (fetched 11 [0x80000, 0x10000001]).words 4) 19 ∧
      (chains {} (posted up)).hw.power.time + 2 ^ 28 < dwordAt (fetched 11 [0x80000, 0x10000001]).words 5) ∧
    (AcceptsOp (chains {} (posted up)) (slot 11 [0x3803]) (fetched 11 [0x3803]) kSync 0 3 3 ∧ syncBadForm (fetched 11 [0x3803]).words = false ∧ rawAllowed (chains {} (posted up)).hw ∧ (rawCfg (chains {} (posted up)).hw 7).enable = false) ∧
    (AcceptsOp (chains {} (posted up)) (slot 11 [0x8003]) (fetched 11 [0x8003]) kSync 0 3 3 ∧ syncBadForm (fetched 11 [0x8003]).words = false ∧ rawAllowed (chains {} (posted up)).hw ∧ (rawCfg (chains {} (posted up)).hw 0).enable ∧
      (rawCfg (chains {} (posted up)).hw 0).respAllow ≠ 0 ∧ bitOf (rawCfg (chains {} (posted up)).hw 0).respAllow (fld (wordAt (fetched 11 [0x8003]).words 4) 14 5) = false) := by
  (repeat' apply And.intro) <;> decide

theorem test_CalibrateMeasuresItsUnits_is_met :
    (Accepts (posted up) (slot 8 [1]) (fetched 8 [1]) kCalibrate ∧ RoomToReport (posted up) ∧ (posted up).hw.power.entry = none ∧
      (posted up).hw.senseFitted = false) ∧
    (Accepts (onCal (fun c => { c with run := some calRun }) (drumming (posted up))) (slot 8 [1]) (fetched 8 [1]) kCalibrate ∧ RoomToReport (onCal (fun c => { c with run := some calRun }) (drumming (posted up))) ∧ (onCal (fun c => { c with run := some calRun }) (drumming (posted up))).hw.senseFitted ∧
      (onCal (fun c => { c with run := some calRun }) (drumming (posted up))).hw.cal.run.isSome) ∧
    (Accepts (onCal (fun c => { c with stuck := 2 ^ 32 }) (drumming (posted up))) (slot 8 [1]) (fetched 8 [1]) kCalibrate ∧ (onCal (fun c => { c with stuck := 2 ^ 32 }) (drumming (posted up))).hw.senseFitted ∧ (onCal (fun c => { c with stuck := 2 ^ 32 }) (drumming (posted up))).hw.cal.run = none ∧ bitOf (onCal (fun c => { c with stuck := 2 ^ 32 }) (drumming (posted up))).hw.cal.stuck 32) ∧
    (Accepts (drumming (posted up)) (slot 8 [2]) (fetched 8 [2]) kCalibrate ∧ bitOf (drumming (posted up)).hw.cal.stuck 32 = false ∧ bitOf (wordAt (fetched 8 [2]).words 4).toNat 1 ∧ (channelCfg (drumming (posted up)).hw 1).mode = 0) ∧
    (Accepts (drumming (posted up)) (slot 8 [1, 31]) (fetched 8 [1, 31]) kCalibrate ∧ fld (wordAt (fetched 8 [1, 31]).words 5) 0 5 = 31) ∧
    (Accepts (drumming (posted up)) (slot 8 [1, 7]) (fetched 8 [1, 7]) kCalibrate ∧ (drumming (posted up)).hw.cal.run = none ∧ bitOf (drumming (posted up)).hw.cal.stuck 32 = false ∧ bit (wordAt (fetched 8 [1, 7]).words 5) 0 ∧
      bit (wordAt (fetched 8 [1, 7]).words 5) 1 ∧ bit (wordAt (fetched 8 [1, 7]).words 5) 2 ∧ fld (wordAt (fetched 8 [1, 7]).words 5) 0 5 ≠ 31) ∧
    (Accepts (drumming (posted up)) (slot 8 [0, 0x30]) (fetched 8 [0, 0x30]) kCalibrate ∧ RoomToReport (drumming (posted up)) ∧ (drumming (posted up)).hw.senseFitted ∧
      (drumming (posted up)).hw.cal.run = none ∧ bitOf (drumming (posted up)).hw.cal.stuck 32 = false ∧ calChannels (drumming (posted up)).hw 0 = [0] ∧
      ((drumming (posted up)).hw.drum.channels.getD 0 {}).state = .live ∧ bitOf (drumming (posted up)).hw.cal.stuck 0 = false) ∧
    ((calibrating calRun up).hw.cal.run = some calRun ∧ measuring calRun ∧ zeroRunOf (calibrating calRun up).hw (calUnit calRun).1 < 3 ∧ (calibrating calRun up).hw.board.aonOn ∧ Settled (calibrating calRun up) ∧ calRun.beats.length < 15) ∧
    ((onPower (fun p => { p with elapsed := 4000000 }) (calibrating calRun up)).hw.cal.run = some calRun ∧ Settled (onPower (fun p => { p with elapsed := 4000000 }) (calibrating calRun up)) ∧
      calRun.settled + measTicks (channelCfg (onPower (fun p => { p with elapsed := 4000000 }) (calibrating calRun up)).hw 0).vibration ≤
        (onPower (fun p => { p with elapsed := 4000000 }) (calibrating calRun up)).hw.power.elapsed + (calRun.nextMeas - (onPower (fun p => { p with elapsed := 4000000 }) (calibrating calRun up)).hw.power.time)) ∧
    ((calibrating { calRun with phase := .revert, old := { gain := 3 } } up).hw.cal.run = some { calRun with phase := .revert, old := { gain := 3 } } ∧ (calibrating { calRun with phase := .revert, old := { gain := 3 } } up).hw.board.aonOn ∧ Settled (calibrating { calRun with phase := .revert, old := { gain := 3 } } up)) := by
  (repeat' apply And.intro) <;> decide

theorem test_StuckAndLateUnitsEndTheirTurns_is_met :
    ((zeroRuns 2 <| calibrating calRun up).hw.cal.run = some calRun ∧ zeroRunOf (zeroRuns 2 <| calibrating calRun up).hw 32 = 2 ∧ RoomToReport (zeroRuns 2 <| calibrating calRun up)) ∧
    ((zeroRuns 3 <| calibrating { calRun with phase := .standin } up).hw.cal.run = some { calRun with phase := .standin } ∧ zeroRunOf (zeroRuns 3 <| calibrating { calRun with phase := .standin } up).hw 0 = 3 ∧ RoomToReport (zeroRuns 3 <| calibrating { calRun with phase := .standin } up)) ∧
    ((zeroRuns 3 <| calibrating calRun up).hw.cal.run = some calRun ∧ zeroRunOf (zeroRuns 3 <| calibrating calRun up).hw 32 = 3 ∧ RoomToReport (zeroRuns 3 <| calibrating calRun up)) ∧
    ((onPower (fun p => { p with elapsed := 5 }) (calibrating { calRun with phase := .standin, old := { gain := 3 } } up)).hw.cal.run = some { calRun with phase := .standin, old := { gain := 3 } } ∧ (onPower (fun p => { p with elapsed := 5 }) (calibrating { calRun with phase := .standin, old := { gain := 3 } } up)).hw.board.aonOn ∧ RoomToReport (onPower (fun p => { p with elapsed := 5 }) (calibrating { calRun with phase := .standin, old := { gain := 3 } } up)) ∧
      (onPower (fun p => { p with elapsed := 5 }) (calibrating { calRun with phase := .standin, old := { gain := 3 } } up)).hw.power.elapsed ≤ calRun.timer + 30 * ticksPerSecond) ∧
    ((calibrating calRun up).hw.cal.run = some calRun ∧ (calibrating calRun up).hw.board.aonOn ∧ RoomToReport (calibrating calRun up)) ∧
    ((onPower (fun p => { p with elapsed := 2000000 }) (boundary (calibrating { calRun with phase := .revert } up))).hw.cal.run = some { calRun with phase := .revert } ∧ (onPower (fun p => { p with elapsed := 2000000 }) (boundary (calibrating { calRun with phase := .revert } up))).hw.board.aonOn ∧ RoomToReport (onPower (fun p => { p with elapsed := 2000000 }) (boundary (calibrating { calRun with phase := .revert } up))) ∧ atBoundary (onPower (fun p => { p with elapsed := 2000000 }) (boundary (calibrating { calRun with phase := .revert } up))).hw 0 ∧
      calRun.settled ≤ (onPower (fun p => { p with elapsed := 2000000 }) (boundary (calibrating { calRun with phase := .revert } up))).hw.power.elapsed) := by
  (repeat' apply And.intro) <;> decide

theorem test_TurnsTakeOverAndHandBack_is_met :
    ((calibrating { calRun with pass := .finished } up).hw.cal.run = some { calRun with pass := .finished } ∧ (calibrating { calRun with pass := .finished } up).hw.board.aonOn ∧
      (calibrating { calRun with pass := .finished } up).hw.power.elapsed ≤ calRun.settled) ∧
    ((boundary (calibrating { calRun with phase := .takeoverWait } up)).hw.cal.run = some { calRun with phase := .takeoverWait } ∧ (boundary (calibrating { calRun with phase := .takeoverWait } up)).hw.board.aonOn ∧ atBoundary (boundary (calibrating { calRun with phase := .takeoverWait } up)).hw 0) ∧
    ((calibrating { calRun with phase := .takeoverWait } up).hw.cal.run = some { calRun with phase := .takeoverWait } ∧ (calibrating { calRun with phase := .takeoverWait } up).hw.board.aonOn ∧ atBoundary (calibrating { calRun with phase := .takeoverWait } up).hw 0 = false) ∧
    ((boundary (calibrating { calRun with phase := .handbackWait, codes := { offset := 5 } } up)).hw.cal.run = some { calRun with phase := .handbackWait, codes := { offset := 5 } } ∧ (boundary (calibrating { calRun with phase := .handbackWait, codes := { offset := 5 } } up)).hw.board.aonOn ∧
      atBoundary (boundary (calibrating { calRun with phase := .handbackWait, codes := { offset := 5 } } up)).hw 0 ∧ RoomToReport (boundary (calibrating { calRun with phase := .handbackWait, codes := { offset := 5 } } up)) ∧ 0 < (boundary (calibrating { calRun with phase := .handbackWait, codes := { offset := 5 } } up)).hw.cal.trims.length ∧ 0 < (boundary (calibrating { calRun with phase := .handbackWait, codes := { offset := 5 } } up)).hw.cal.loaded.length) ∧
    ((boundary (calibrating { calRun with phase := .handbackWait, noStore := true, codes := { offset := 5 } } up)).hw.cal.run = some { calRun with phase := .handbackWait, noStore := true, codes := { offset := 5 } } ∧ (boundary (calibrating { calRun with phase := .handbackWait, noStore := true, codes := { offset := 5 } } up)).hw.board.aonOn ∧
      atBoundary (boundary (calibrating { calRun with phase := .handbackWait, noStore := true, codes := { offset := 5 } } up)).hw 0 ∧ RoomToReport (boundary (calibrating { calRun with phase := .handbackWait, noStore := true, codes := { offset := 5 } } up)) ∧ 0 < (boundary (calibrating { calRun with phase := .handbackWait, noStore := true, codes := { offset := 5 } } up)).hw.cal.loaded.length) := by
  (repeat' apply And.intro) <;> decide

theorem test_CalibrationIsStored_is_met :
    ((calibrating { calRun with phase := .store, doneMask := 1 } up).hw.cal.run = some { calRun with phase := .store, doneMask := 1 } ∧ (calibrating { calRun with phase := .store, doneMask := 1 } up).hw.update.jobs = [] ∧ RoomToReport (calibrating { calRun with phase := .store, doneMask := 1 } up) ∧
      (calibrating { calRun with phase := .store, doneMask := 1 } up).hw.power.entry = none ∧ (calibrating { calRun with phase := .store, doneMask := 1 } up).hw.writesRecords ∧ (calibrating { calRun with phase := .store, doneMask := 1 } up).hw.sq.owned.find? (fun x => x.pos == 0) = some (waitingOwned 8)) ∧
    ((calibrating { calRun with phase := .store, doneMask := 1 } up).hw.cal.run = some { calRun with phase := .store, doneMask := 1 } ∧ loaderTurn calRun.timer (calibrating { calRun with phase := .store, doneMask := 1 } up).hw ∧ RoomToReport (calibrating { calRun with phase := .store, doneMask := 1 } up) ∧
      (calibrating { calRun with phase := .store, doneMask := 1 } up).hw.power.entry = none ∧ (calibrating { calRun with phase := .store, doneMask := 1 } up).hw.writesRecords ∧ (calibrating { calRun with phase := .store, doneMask := 1 } up).hw.sq.owned.find? (fun x => x.pos == 0) = some (waitingOwned 8)) := by
  (repeat' apply And.intro) <;> decide

theorem test_HealthPagesReadAndAcknowledge_is_met :
    (AtRest (onHealth (fun h => { h with causes := 8191 }) (posted up)) ∧ healthFieldsOk (fetched 10 [0]).words ∧ AcceptsOp (onHealth (fun h => { h with causes := 8191 }) (posted up)) (slot 10 [0]) (fetched 10 [0]) kHealthRead 0 2 0 ∧ fld (wordAt (fetched 10 [0]).words 4) 2 2 = 0) ∧
    (AtRest (posted up) ∧ healthFieldsOk (fetched 10 [4]).words ∧ AcceptsOp (posted up) (slot 10 [4]) (fetched 10 [4]) kHealthRead 0 2 0 ∧ fld (wordAt (fetched 10 [4]).words 4) 2 2 = 1) ∧
    (AtRest (posted up) ∧ healthFieldsOk (fetched 10 [8]).words ∧ AcceptsOp (posted up) (slot 10 [8]) (fetched 10 [8]) kHealthRead 0 2 0 ∧ fld (wordAt (fetched 10 [8]).words 4) 2 2 = 2) ∧
    (AtRest (onHealth (fun h => { h with causes := 8191 }) (posted up)) ∧ healthFieldsOk (fetched 10 [2, 0xFFFF]).words ∧ AcceptsOp (onHealth (fun h => { h with causes := 8191 }) (posted up)) (slot 10 [2, 0xFFFF]) (fetched 10 [2, 0xFFFF]) kHealthRead 0 2 2) ∧
    (AtRest (posted up) ∧ AcceptsOp (posted up) (slot 10 [12]) (fetched 10 [12]) kHealthRead 0 2 0 ∧ healthFieldsOk (fetched 10 [12]).words = false) ∧
    (AcceptsOp (posted up) (slot 10 [1, 5]) (fetched 10 [1, 5]) kHealthRead 0 2 1 ∧ healthFieldsOk (fetched 10 [1, 5]).words = false) ∧
    (AcceptsOp (posted up) (slot 10 [6, 5]) (fetched 10 [6, 5]) kHealthRead 0 2 2 ∧ healthFieldsOk (fetched 10 [6, 5]).words = false) := by
  (repeat' apply And.intro) <;> decide

theorem test_HealthLogIsCopiedAndWritten_is_met :
    (AtRest (onHealth (fun h => { h with buffer := [logEntry], logNext := 4, logOldest := 3 }) (posted up)) ∧ healthFieldsOk (fetched 10 [1, 0, 0x100000, 0, 2, 4]).words ∧ AcceptsOp (onHealth (fun h => { h with buffer := [logEntry], logNext := 4, logOldest := 3 }) (posted up)) (slot 10 [1, 0, 0x100000, 0, 2, 4]) (fetched 10 [1, 0, 0x100000, 0, 2, 4]) kHealthRead 0 2 1 ∧ (onHealth (fun h => { h with buffer := [logEntry], logNext := 4, logOldest := 3 }) (posted up)).hw.image.system.sqInDram = false ∧
      addrAt (fetched 10 [1, 0, 0x100000, 0, 2, 4]).words 6 % 64 = 0 ∧ fld (wordAt (fetched 10 [1, 0, 0x100000, 0, 2, 4]).words 9) 0 13 = 4 ∧ logFault (onHealth (fun h => { h with buffer := [logEntry], logNext := 4, logOldest := 3 }) (posted up)).hw (fetched 10 [1, 0, 0x100000, 0, 2, 4]).master (addrAt (fetched 10 [1, 0, 0x100000, 0, 2, 4]).words 6) 128 = none) ∧
    (AtRest (ownerOfFrames (posted up)) ∧ healthFieldsOk (fetched 10 [1, 0, 0x100000, 0, 2, 4]).words ∧ AcceptsOp (ownerOfFrames (posted up)) (slot 10 [1, 0, 0x100000, 0, 2, 4]) (fetched 10 [1, 0, 0x100000, 0, 2, 4]) kHealthRead 0 2 1 ∧
      granted (ownerOfFrames (posted up)).hw (fetched 10 [1, 0, 0x100000, 0, 2, 4]).master false true (addrAt (fetched 10 [1, 0, 0x100000, 0, 2, 4]).words 6) 128 = false) ∧
    ((onHealth (fun h => { h with buffer := [logEntry], logPos := 499711 }) up).hw.power.ctrlOn ∧ (onHealth (fun h => { h with buffer := [logEntry], logPos := 499711 }) up).hw.saving = false ∧ NothingHeld (onHealth (fun h => { h with buffer := [logEntry], logPos := 499711 }) up) ∧ (onHealth (fun h => { h with buffer := [logEntry], logPos := 499711 }) up).hw.health.buffer = [logEntry] ∧
      (onHealth (fun h => { h with buffer := [logEntry], logPos := 499711 }) up).hw.health.lostOwed = false ∧ (onHealth (fun h => { h with buffer := [logEntry], logPos := 499711 }) up).hw.health.logPos < logEntries ∧ (onHealth (fun h => { h with buffer := [logEntry], logPos := 499711 }) up).hw.health.logPos % 128 ≠ 0) ∧
    (NothingHeld (onHealth (fun h => { h with buffer := [logEntry], logPos := 128 }) up) ∧ (onHealth (fun h => { h with buffer := [logEntry], logPos := 128 }) up).hw.health.buffer = [logEntry] ∧ (onHealth (fun h => { h with buffer := [logEntry], logPos := 128 }) up).hw.health.logPos % 128 = 0 ∧ (onHealth (fun h => { h with buffer := [logEntry], logPos := 128 }) up).hw.health.logPos < logEntries) := by
  (repeat' apply And.intro) <;> decide

theorem test_RecoveryPortReadsAndWrites_is_met :
    ((onRvy (fun r => { r with opening := true }) up).hw.rvy.opening ∧ (onRvy (fun r => { r with opening := true }) up).hw.board.aonOn) ∧
    (up.hw.rvy.opening = false) ∧
    (portRead (recovering {} up).hw ∧ (recovering {} up).hw.rvy.busy = false ∧ (recovering {} up).hw.power.dev = .recovery ∧ (recovering {} up).hw.power.cause = some .wakeFail ∧
      (recovering {} up).hw.power.wakeFail = none) ∧
    (portRead (onPower (fun p => { p with wakeFail := some (.avsFail, 7) }) (onRvy (fun r => { r with isOpen := true }) up)).hw ∧ (onPower (fun p => { p with wakeFail := some (.avsFail, 7) }) (onRvy (fun r => { r with isOpen := true }) up)).hw.rvy.busy = false ∧ (onPower (fun p => { p with wakeFail := some (.avsFail, 7) }) (onRvy (fun r => { r with isOpen := true }) up)).hw.power.dev ≠ .recovery ∧ (onPower (fun p => { p with wakeFail := some (.avsFail, 7) }) (onRvy (fun r => { r with isOpen := true }) up)).hw.power.wakeFail = some (.avsFail, 7)) ∧
    (portRead (onPower (fun p => { p with wakeFail := some (.refFail, 65535) }) (onRvy (fun r => { r with isOpen := true }) up)).hw ∧ (onPower (fun p => { p with wakeFail := some (.refFail, 65535) }) (onRvy (fun r => { r with isOpen := true }) up)).hw.power.dev ≠ .recovery ∧ (onPower (fun p => { p with wakeFail := some (.refFail, 65535) }) (onRvy (fun r => { r with isOpen := true }) up)).hw.power.wakeFail = some (.refFail, 65535)) ∧
    (portRead (recovering { wel := true, windowErr := true } up).hw ∧ (recovering { wel := true, windowErr := true } up).hw.rvy.busy = false) ∧
    (portRead (recovering {} up).hw ∧ (recovering {} up).hw.rvy.busy = false ∧ NothingHeld (recovering {} up) ∧ (0x3FFFFFC : Word).toNat + 4 ≤ flashSize) ∧
    (portRead up.hw = false ∧ NothingHeld up) ∧
    (NothingHeld (recovering { wel := true } (withFlash [(0x1000, 0x12)] up)) ∧ portFull (recovering { wel := true } (withFlash [(0x1000, 0x12)] up)).hw ∧ (recovering { wel := true } (withFlash [(0x1000, 0x12)] up)).hw.rvy.busy = false ∧ (recovering { wel := true } (withFlash [(0x1000, 0x12)] up)).hw.rvy.wel ∧ (0x1000 : Word).toNat % 4096 = 0 ∧
      inRvyWindow (0x1000 : Word).toNat 4096) ∧
    (portFull (recovering { wel := true } up).hw ∧ inRvyWindow (0x300F000 : Word).toNat 4096 = false) ∧
    (portFull (recovering {} up).hw ∧ (recovering {} up).hw.rvy.busy = false ∧ (recovering {} up).hw.rvy.wel = false ∧ inRvyWindow (0x1820000 : Word).toNat 65536 ∧
      (0x1820000 : Word).toNat % 65536 = 0) ∧
    ((recovering { wel := true } up).hw.rvy.wel) ∧
    (NothingHeld up ∧ portFull up.hw = false) ∧
    (portFull (recovering {} up).hw ∧ (recovering {} up).hw.rvy.busy = false) ∧
    (NothingHeld (recovering { wel := true } (withFlash [(0x1810000, 0x12)] up)) ∧ portFull (recovering { wel := true } (withFlash [(0x1810000, 0x12)] up)).hw ∧ (recovering { wel := true } (withFlash [(0x1810000, 0x12)] up)).hw.rvy.busy = false ∧ (recovering { wel := true } (withFlash [(0x1810000, 0x12)] up)).hw.rvy.wel ∧ (0x1810000 : Word).toNat % 256 + 2 ≤ 256 ∧
      inRvyWindow (0x1810000 : Word).toNat 2) ∧
    (portFull (recovering { wel := true } up).hw ∧ inRvyWindow (0x1FFF : Word).toNat 256 = false) ∧
    (inRvyWindow (0x2000 : Word).toNat 2 = false) ∧
    ((recovering {} up).hw.rvy.wel = false ∧ inRvyWindow (0x1000 : Word).toNat 2) ∧
    (portFull up.hw = false) := by
  (repeat' apply And.intro) <;> decide

theorem test_LinksTrainAndRetrain_is_met :
    (AtRest (inRing { formed with east := trainPort {} } up) ∧ portServes (inRing { formed with east := trainPort {} } up).hw .east ∧ (inRing { formed with east := trainPort {} } up).hw.ring.exch = [] ∧ (inRing { formed with east := trainPort {} } up).hw.ring.bootBytes = none ∧ (portOf (inRing { formed with east := trainPort {} } up).hw .east).st = .training ∧
      (portOf (inRing { formed with east := trainPort {} } up).hw .east).wiringBad = false ∧ (ringCfg (inRing { formed with east := trainPort {} } up).hw).minWidth ≤ 16 ∧ ringInUse (inRing { formed with east := trainPort {} } up).hw) ∧
    ((portOf (inRing { formed with west := trainPort {} } up).hw .west).st = .training ∧ 3 < (ringCfg (inRing { formed with west := trainPort {} } up).hw).minWidth) ∧
    ((portOf (inRing { formed with east := { trainPort {} with attempts := 1 } } up).hw .east).st = .training ∧ (portOf (inRing { formed with east := { trainPort {} with attempts := 1 } } up).hw .east).attempts + 1 < 3) ∧
    (AtRest (inRing { formed with east := { trainPort {} with attempts := 2 } } up) ∧ portServes (inRing { formed with east := { trainPort {} with attempts := 2 } } up).hw .east ∧ (portOf (inRing { formed with east := { trainPort {} with attempts := 2 } } up).hw .east).st = .training ∧ 3 ≤ (portOf (inRing { formed with east := { trainPort {} with attempts := 2 } } up).hw .east).attempts + 1) ∧
    ((portOf (inRing { formed with east := trainPort {} } up).hw .east).st = .training) ∧
    (AtRest (inRing { formed with east := { downRaised := true } } up) ∧ portServes (inRing { formed with east := { downRaised := true } } up).hw .east ∧ (portOf (inRing { formed with east := { downRaised := true } } up).hw .east).st = .down ∧ (portOf (inRing { formed with east := { downRaised := true } } up).hw .east).wiringBad = false) ∧
    (AtRest (inRing formed up) ∧ portServes (inRing formed up).hw .west ∧ (portOf (inRing formed up).hw .west).st = .up ∧ ringInUse (inRing formed up).hw ∧ (portOf (inRing formed up).hw .west).downRaised = false) ∧
    (AtRest (inRing { formed with east := { upPort with retraining := true, retry := [{ lseq := 3 }], replays := 8 } } up) ∧ portServes (inRing { formed with east := { upPort with retraining := true, retry := [{ lseq := 3 }], replays := 8 } } up).hw .east ∧ (portOf (inRing { formed with east := { upPort with retraining := true, retry := [{ lseq := 3 }], replays := 8 } } up).hw .east).st = .up ∧ (portOf (inRing { formed with east := { upPort with retraining := true, retry := [{ lseq := 3 }], replays := 8 } } up).hw .east).retraining ∧
      chooseLanes (min 4 ((portOf (inRing { formed with east := { upPort with retraining := true, retry := [{ lseq := 3 }], replays := 8 } } up).hw .east).narrowed.getD 8)) 15 = some (4, 15) ∧ (ringCfg (inRing { formed with east := { upPort with retraining := true, retry := [{ lseq := 3 }], replays := 8 } } up).hw).minWidth ≤ 4 ∧ 4 < (portOf (inRing { formed with east := { upPort with retraining := true, retry := [{ lseq := 3 }], replays := 8 } } up).hw .east).width) ∧
    ((portOf (inRing { formed with east := { upPort with retraining := true } } up).hw .east).st = .up ∧ (portOf (inRing { formed with east := { upPort with retraining := true } } up).hw .east).retraining ∧ (portOf (inRing { formed with east := { upPort with retraining := true } } up).hw .east).attempts + 1 < 3) ∧
    (AtRest (inRing { formed with east := { upPort with retraining := true, attempts := 2 } } up) ∧ (portOf (inRing { formed with east := { upPort with retraining := true, attempts := 2 } } up).hw .east).st = .up ∧ (portOf (inRing { formed with east := { upPort with retraining := true, attempts := 2 } } up).hw .east).retraining ∧ 3 ≤ (portOf (inRing { formed with east := { upPort with retraining := true, attempts := 2 } } up).hw .east).attempts + 1 ∧ ringInUse (inRing { formed with east := { upPort with retraining := true, attempts := 2 } } up).hw) ∧
    (AtRest (inRing { formed with east := { trainPort {} with saved := some {} } } up) ∧ portServes (inRing { formed with east := { trainPort {} with saved := some {} } } up).hw .east ∧ (portOf (inRing { formed with east := { trainPort {} with saved := some {} } } up).hw .east).st = .training ∧ (portOf (inRing { formed with east := { trainPort {} with saved := some {} } } up).hw .east).saved.isSome) ∧
    (AtRest (inRing { formed with east := trainPort {}, st := .training } up) ∧ portServes (inRing { formed with east := trainPort {}, st := .training } up).hw .east ∧ (portOf (inRing { formed with east := trainPort {}, st := .training } up).hw .east).st = .training) := by
  (repeat' apply And.intro) <;> decide

theorem test_LinkFramesAreHandled_is_met :
    ((portOf (inRing formed up).hw .east).carries) ∧
    ((portOf (inRing { formed with east := { upPort with unacked := 3, owed := [0, 0, 0, 0] } } up).hw .east).carries ∧ 0 < (portOf (inRing { formed with east := { upPort with unacked := 3, owed := [0, 0, 0, 0] } } up).hw .east).unacked ∧ (portOf (inRing { formed with east := { upPort with unacked := 3, owed := [0, 0, 0, 0] } } up).hw .east).owed = [0, 0, 0, 0]) ∧
    ((portOf (inRing { formed with east := { upPort with retry := [{ lseq := 3 }, { lseq := 4 }] } } up).hw .east).carries ∧ (portOf (inRing { formed with east := { upPort with retry := [{ lseq := 3 }, { lseq := 4 }] } } up).hw .east).held = []) ∧
    ((portOf (inRing { formed with east := { upPort with retry := [{ lseq := 3 }, { lseq := 4 }], replays := 7 } } up).hw .east).carries ∧ (portOf (inRing { formed with east := { upPort with retry := [{ lseq := 3 }, { lseq := 4 }], replays := 7 } } up).hw .east).retry = [{ lseq := 3 }, { lseq := 4 }]) ∧
    (Next (inRing formed up) .east { frame 4 3 [] with type := 0x7F } ∧ ¬ 0x7F ∈ knownTypes ∧ (portOf (inRing formed up).hw .east).unacked < 31) ∧
    (Next (inRing formed up) .east { frame 4 10 [] with type := 0x51 } ∧ unknownRollCtl { frame 4 10 [] with type := 0x51 }) ∧
    ((portOf (inRing formed up).hw .east).carries ∧ 9 ≠ ((portOf (inRing formed up).hw .east).rxSeq + 1) % 4096) := by
  (repeat' apply And.intro) <;> decide

theorem test_FormationsElectAHead_is_met :
    (AtRest (inRing formed up) ∧ Next (inRing formed up) .west (frame 4 0 (call 2 77 1)) ∧ ringInUse (inRing formed up).hw ∧ (inRing formed up).hw.ring.exch = [] ∧ 4 ≠ (inRing formed up).hw.nodeId ∧
      (inRing formed up).hw.ring.epoch < (wordAt (bytesWords (call 2 77 1)) 0).toNat) ∧
    (AtRest (inRing (forming formed) up) ∧ Next (inRing (forming formed) up) .west (frame 4 0 (call 1 77 2)) ∧ (inRing (forming formed) up).hw.ring.epoch = (wordAt (bytesWords (call 1 77 2)) 0).toNat) ∧
    ((wordAt (bytesWords (call 1 77 2)) 0).toNat < (inRing { formed with epoch := 5 } up).hw.ring.epoch) ∧
    ((inRing { forming formed with nonce := 77 } up).hw.nodeId = 3 ∧ (inRing { forming formed with nonce := 77 } up).hw.ring.epoch ≤ (wordAt (bytesWords (call 1 77 2)) 0).toNat ∧
      (wordAt (bytesWords (call 1 77 2)) 1).toNat = (inRing { forming formed with nonce := 77 } up).hw.ring.nonce) ∧
    (AtRest (inRing { forming formed with nonce := 76 } up) ∧ Next (inRing { forming formed with nonce := 76 } up) .west (frame 3 0 (call 1 77 2)) ∧ (inRing { forming formed with nonce := 76 } up).hw.nodeId = 3 ∧
      (wordAt (bytesWords (call 1 77 2)) 1).toNat ≠ (inRing { forming formed with nonce := 76 } up).hw.ring.nonce) ∧
    (AtRest (inRing { st := .forming } up) ∧ (inRing { st := .forming } up).hw.ring.st = .forming ∧ (inRing { st := .forming } up).hw.ring.unitsWait = [] ∧ agreementHash (inRing { st := .forming } up).mem (inRing { st := .forming } up).hw = none ∧
      ¬((inRing { st := .forming } up).hw.ring.east.st = .up ∨ (inRing { st := .forming } up).hw.ring.west.st = .up)) ∧
    (AtRest (inRing { forming formed with rolls := [{ origin := 4, nonce := 1, strapHead := true, hasHost := true, hops := 1, side := .west }] } up) ∧ (inRing { forming formed with rolls := [{ origin := 4, nonce := 1, strapHead := true, hasHost := true, hops := 1, side := .west }] } up).hw.ring.st = .forming ∧ agreementHash (inRing { forming formed with rolls := [{ origin := 4, nonce := 1, strapHead := true, hasHost := true, hops := 1, side := .west }] } up).mem (inRing { forming formed with rolls := [{ origin := 4, nonce := 1, strapHead := true, hasHost := true, hops := 1, side := .west }] } up).hw = none ∧ (inRing { forming formed with rolls := [{ origin := 4, nonce := 1, strapHead := true, hasHost := true, hops := 1, side := .west }] } up).hw.ring.east.st = .up ∧
      (inRing { forming formed with rolls := [{ origin := 4, nonce := 1, strapHead := true, hasHost := true, hops := 1, side := .west }] } up).hw.ring.returned = false) ∧
    (AtRest (inRing { forming formed with returned := true, rolls := [{ origin := 4, nonce := 1, strapHead := true, hasHost := true, hops := 1, side := .west }] } up) ∧ (inRing { forming formed with returned := true, rolls := [{ origin := 4, nonce := 1, strapHead := true, hasHost := true, hops := 1, side := .west }] } up).hw.ring.st = .forming ∧ (inRing { forming formed with returned := true, rolls := [{ origin := 4, nonce := 1, strapHead := true, hasHost := true, hops := 1, side := .west }] } up).hw.ring.returned ∧ (ringCfg (inRing { forming formed with returned := true, rolls := [{ origin := 4, nonce := 1, strapHead := true, hasHost := true, hops := 1, side := .west }] } up).hw).rttBudget < 1500 % 2 ^ 32) ∧
    (AtRest (inRing { forming formed with returned := true, rolls := [{ origin := 4, nonce := 1, strapHead := false, hasHost := true, hops := 1, side := .west }] } up) ∧ (inRing { forming formed with returned := true, rolls := [{ origin := 4, nonce := 1, strapHead := false, hasHost := true, hops := 1, side := .west }] } up).hw.ring.returned ∧ membersWith (inRing { forming formed with returned := true, rolls := [{ origin := 4, nonce := 1, strapHead := false, hasHost := true, hops := 1, side := .west }] } up).hw (·.strapHead) (inRing { forming formed with returned := true, rolls := [{ origin := 4, nonce := 1, strapHead := false, hasHost := true, hops := 1, side := .west }] } up).hw.isHead = []) := by
  (repeat' apply And.intro) <;> decide

theorem test_WindowUnitsGoRound_is_met :
    (AtRest (inRing { formed with head := some 3, winOpen := true } up) ∧ Next (inRing { formed with head := some 3, winOpen := true } up) .west (frame 4 0 (unit 64 [1, 2, 3])) ∧ (inRing { formed with head := some 3, winOpen := true } up).hw.ring.head = some (inRing { formed with head := some 3, winOpen := true } up).hw.nodeId ∧ (inRing { formed with head := some 3, winOpen := true } up).hw.ring.winOpen ∧
      payloadUnit (unit 64 [1, 2, 3]) = (64, [1, 2, 3]) ∧ 64 + 3 ≤ windowSize) ∧
    (AtRest (inRing { formed with winOpen := true } up) ∧ Next (inRing { formed with winOpen := true } up) .west { frame 5 1 (unit 64 [1, 2, 3]) with crossed := true } ∧ (inRing { formed with winOpen := true } up).hw.ring.head ≠ some (inRing { formed with winOpen := true } up).hw.nodeId ∧
      (inRing { formed with winOpen := true } up).hw.ring.winOpen ∧ 1 = ((inRing { formed with winOpen := true } up).hw.ring.winSeq + 1) % 2 ^ 32) ∧
    (AtRest (inRing { formed with winOpen := true } up) ∧ (inRing { formed with winOpen := true } up).hw.ring.head = some 4 ∧ 4 ≠ (inRing { formed with winOpen := true } up).hw.nodeId ∧ 2 ≠ ((inRing { formed with winOpen := true } up).hw.ring.winSeq + 1) % 2 ^ 32) ∧
    (AtRest (inRing { formed with copying := some 256 } up) ∧ Next (inRing { formed with copying := some 256 } up) .west (frame 4 7 (unit 0 [1, 2])) ∧ (inRing { formed with copying := some 256 } up).hw.ring.copying = some 256 ∧ (inRing { formed with copying := some 256 } up).hw.ring.unitsWait = []) ∧
    ((inRing { formed with copying := some 2 } up).hw.ring.copying = some 2) ∧
    (AtRest (inRing { formed with head := some 3 } up) ∧ Next (inRing { formed with head := some 3 } up) .west (frame 4 0 []) ∧ (inRing { formed with head := some 3 } up).hw.ring.head = some (inRing { formed with head := some 3 } up).hw.nodeId ∧ (portOf (inRing { formed with head := some 3 } up).hw .east).st = .up) ∧
    (Next (inRing { formed with head := some 3, winOpen := true, units := [winUnit0] } up) .west { frame 3 1 (unit 64 [1, 2]) with crossed := true } ∧ NoExcursion (inRing { formed with head := some 3, winOpen := true, units := [winUnit0] } up) ∧ (inRing { formed with head := some 3, winOpen := true, units := [winUnit0] } up).hw.ring.head = some (inRing { formed with head := some 3, winOpen := true, units := [winUnit0] } up).hw.nodeId ∧
      3 = (inRing { formed with head := some 3, winOpen := true, units := [winUnit0] } up).hw.nodeId ∧ (inRing { formed with head := some 3, winOpen := true, units := [winUnit0] } up).hw.ring.unitsWait = []) ∧
    ((inRing { formed with winOpen := true, units := [winUnit0] } up).hw.ring.units = winUnit0 :: [] ∧ NoExcursion (inRing { formed with winOpen := true, units := [winUnit0] } up) ∧ (inRing { formed with winOpen := true, units := [winUnit0] } up).hw.board.aonOn ∧ ringInUse (inRing { formed with winOpen := true, units := [winUnit0] } up).hw ∧
      (inRing { formed with winOpen := true, units := [winUnit0] } up).hw.power.elapsed ≤ unitLate (inRing { formed with winOpen := true, units := [winUnit0] } up).hw winUnit0) ∧
    (AtRest (inRing { formed with winOpen := true } up) ∧ Next (inRing { formed with winOpen := true } up) .west (frame 5 0 (unit 64 [1, 2, 3])) ∧ (inRing { formed with winOpen := true } up).hw.ring.head ≠ some (inRing { formed with winOpen := true } up).hw.nodeId) := by
  (repeat' apply And.intro) <;> decide

theorem test_PeersAnswerExchanges_is_met :
    (AtRest (inRing formed up) ∧ Next (inRing formed up) .west { frame 4 0 [1, 2, 3, 4] with addrHi := 1 } ∧ 3 = (inRing formed up).hw.nodeId ∧ Ready (inRing formed up) .west ∧
      peerFault (inRing formed up).hw .west true (frameAddress { frame 4 0 [1, 2, 3, 4] with addrHi := 1 }) 4 = none) ∧
    (AtRest (ownerOfFrames (inRing formed up)) ∧ Ready (ownerOfFrames (inRing formed up)) .west ∧
      peerFault (ownerOfFrames (inRing formed up)).hw .west true (frameAddress { frame 4 0 [1, 2, 3, 4] with addrHi := 1 }) 4 =
        some (.refusedAccess, .remoteAccess)) ∧
    (AtRest (onPower (fun p => { p with memOn := false }) (inRing formed up)) ∧ Ready (onPower (fun p => { p with memOn := false }) (inRing formed up)) .west ∧ peerFault (onPower (fun p => { p with memOn := false }) (inRing formed up)).hw .west true 0 4 = some (.failDomainOff, .none)) ∧
    (AtRest (inRing formed up) ∧ Ready (inRing formed up) .west ∧ peerFault (inRing formed up).hw .west false (frameAddress (frame 4 0x100 (wordsBytes [16]))) 16 = none) ∧
    (peerFault (ownerOfFrames (inRing formed up)).hw .west false (frameAddress (frame 4 0x100 (wordsBytes [16]))) 16 = some (.refusedAccess, .remoteAccess) ∧
      (ownerOfFrames (inRing formed up)).hw.power.memOn ∧ (ownerOfFrames (inRing formed up)).hw.saving = false ∧ granted (ownerOfFrames (inRing formed up)).hw (sideMaster .west) true false 0x100 16 = false) ∧
    (AtRest (onBoard (fun b => { b with straps := { member with hostCfg := 15 } }) (inDram 7 [] (inRing formed up))) ∧ (onBoard (fun b => { b with straps := { member with hostCfg := 15 } }) (inDram 7 [] (inRing formed up))).hw.ring.exch = [] ∧ (onBoard (fun b => { b with straps := { member with hostCfg := 15 } }) (inDram 7 [] (inRing formed up))).hw.hasHost = false ∧ (onBoard (fun b => { b with straps := { member with hostCfg := 15 } }) (inDram 7 [] (inRing formed up))).hw.image.system.sqInDram ∧ (onBoard (fun b => { b with straps := { member with hostCfg := 15 } }) (inDram 7 [] (inRing formed up))).hw.ring.head = some 4 ∧ (onBoard (fun b => { b with straps := { member with hostCfg := 15 } }) (inDram 7 [] (inRing formed up))).hw.up ∧
      doorbellAccepts (onBoard (fun b => { b with straps := { member with hostCfg := 15 } }) (inDram 7 [] (inRing formed up))).hw 5 ∧ Ready (onBoard (fun b => { b with straps := { member with hostCfg := 15 } }) (inDram 7 [] (inRing formed up))) .west) ∧
    (AtRest (inRing formed up) ∧ (inRing formed up).hw.ring.exch = [] ∧ (inRing formed up).hw.hasHost) ∧
    (AtRest (onBoard (fun b => { b with straps := { member with hostCfg := 15 } }) (inDram 7 [] (inRing formed up))) ∧ (onBoard (fun b => { b with straps := { member with hostCfg := 15 } }) (inDram 7 [] (inRing formed up))).hw.ring.exch = [] ∧ (onBoard (fun b => { b with straps := { member with hostCfg := 15 } }) (inDram 7 [] (inRing formed up))).hw.hasHost = false ∧ (onBoard (fun b => { b with straps := { member with hostCfg := 15 } }) (inDram 7 [] (inRing formed up))).hw.image.system.sqInDram ∧ (onBoard (fun b => { b with straps := { member with hostCfg := 15 } }) (inDram 7 [] (inRing formed up))).hw.ring.head = some 4 ∧ (onBoard (fun b => { b with straps := { member with hostCfg := 15 } }) (inDram 7 [] (inRing formed up))).hw.up ∧
      doorbellAccepts (onBoard (fun b => { b with straps := { member with hostCfg := 15 } }) (inDram 7 [] (inRing formed up))).hw 2000 = false ∧ Ready (onBoard (fun b => { b with straps := { member with hostCfg := 15 } }) (inDram 7 [] (inRing formed up))) .west) := by
  (repeat' apply And.intro) <;> decide

theorem test_RingBootsTakeAPackage_is_met :
    (AtRest (withFlash (memWrite (some 0xFF) [] activeBase (wordsBytes [0x5A394D46, 1, 1024])) (inRing formed up)) ∧ (withFlash (memWrite (some 0xFF) [] activeBase (wordsBytes [0x5A394D46, 1, 1024])) (inRing formed up)).hw.up ∧ Next (withFlash (memWrite (some 0xFF) [] activeBase (wordsBytes [0x5A394D46, 1, 1024])) (inRing formed up)) .west (frame 4 0 []) ∧ (portOf (withFlash (memWrite (some 0xFF) [] activeBase (wordsBytes [0x5A394D46, 1, 1024])) (inRing formed up)).hw .east).st = .up) ∧
    (AtRest (booting [1, 2] up) ∧ (booting [1, 2] up).hw.ring.exch = [] ∧ (booting [1, 2] up).hw.ring.bootBytes = some [1, 2]) ∧
    (Next (booting [1, 2] up) .west (frame 4 2 [3, 4]) ∧ [1, 2, 3, 4].length < 12) ∧
    (Next (booting (List.replicate 8 0) up) .west (frame 4 8 (wordsBytes [12])) ∧
      packageLen (bytesWords ((List.replicate 8 0 ++ wordsBytes [12]).take 12)) = 12 ∧
      packageImage (booting (List.replicate 8 0) up).hw (List.replicate 8 0 ++ wordsBytes [12]) = none) ∧
    (Next (installed (booting [] up)) .west (frame 4 0 package) ∧ 12 ≤ package.length ∧ packageLen (bytesWords (package.take 12)) ≤ package.length ∧
      packageImage (installed (booting [] up)).hw (package.take (packageLen (bytesWords (package.take 12)))) = some imgBytes ∧
      (installed (booting [] up)).hw.power.wakes = [] ∧ (installed (booting [] up)).hw.standalone = false) := by
  (repeat' apply And.intro) <;> decide +kernel

theorem test_BootRecordsReadBack_is_met :
    (({ seq := 4294967295, state := .trial, unconf := 3, actOpen := true, activeHash := hash1, activeBytes := 896 } : BootRec)).seq < 2 ^ 32 ∧ (({ seq := 4294967295, state := .trial, unconf := 3, actOpen := true, activeHash := hash1, activeBytes := 896 } : BootRec)).unconf < 4 ∧ (({ seq := 4294967295, state := .trial, unconf := 3, actOpen := true, activeHash := hash1, activeBytes := 896 } : BootRec)).activeHash.length = 12 ∧ (({ seq := 4294967295, state := .trial, unconf := 3, actOpen := true, activeHash := hash1, activeBytes := 896 } : BootRec)).stagingHash.length = 12 ∧ (({ seq := 4294967295, state := .trial, unconf := 3, actOpen := true, activeHash := hash1, activeBytes := 896 } : BootRec)).actHash.length = 12 ∧
      (({ seq := 4294967295, state := .trial, unconf := 3, actOpen := true, activeHash := hash1, activeBytes := 896 } : BootRec)).activeBytes < 2 ^ 32 ∧ (({ seq := 4294967295, state := .trial, unconf := 3, actOpen := true, activeHash := hash1, activeBytes := 896 } : BootRec)).stagingBytes < 2 ^ 32 := by decide +kernel

theorem test_ChunksAreTakenAndProgrammed_is_met :
    (AtRest (member3 (posted up)) ∧ AcceptsOp (member3 (posted up)) (slot 4 [0, 0, 0x200000, 0, 64]) (fetched 4 [0, 0, 0x200000, 0, 64]) kUpdateChunk 0 2 0 ∧ mayUpdate (member3 (posted up)).hw = false) ∧
    (AcceptsOp (member3 (posted up)) (slot 4 [1]) (fetched 4 [1]) kUpdateChunk 0 2 1 ∧ mayUpdate (member3 (posted up)).hw = false) ∧
    (AcceptsOp (member3 (posted up)) (slot 4 [2]) (fetched 4 [2]) kUpdateChunk 0 2 2 ∧ mayUpdate (member3 (posted up)).hw = false) ∧
    (AtRest (onBoard (fun b => { b with motion := true }) (posted up)) ∧ AcceptsOp (onBoard (fun b => { b with motion := true }) (posted up)) (slot 4 [0, 0, 0x200000, 0, 64]) (fetched 4 [0, 0, 0x200000, 0, 64]) kUpdateChunk 0 2 0 ∧ mayUpdate (onBoard (fun b => { b with motion := true }) (posted up)).hw ∧ (onBoard (fun b => { b with motion := true }) (posted up)).hw.board.motion) ∧
    (AcceptsOp (onBoard (fun b => { b with updLock := true }) (posted up)) (slot 4 [1]) (fetched 4 [1]) kUpdateChunk 0 2 1 ∧ mayUpdate (onBoard (fun b => { b with updLock := true }) (posted up)).hw ∧ (onBoard (fun b => { b with updLock := true }) (posted up)).hw.board.motion = false ∧ (onBoard (fun b => { b with updLock := true }) (posted up)).hw.board.updLock) ∧
    (AtRest (posted up) ∧ AcceptsOp (posted up) (slot 4 [0, 0, 0x200000, 0, 63]) (fetched 4 [0, 0, 0x200000, 0, 63]) kUpdateChunk 0 2 0 ∧ updateFault true (posted up).hw = none ∧ dataFieldsOk (fetched 4 [0, 0, 0x200000, 0, 63]).words = false) ∧
    (AtRest (opened .trial (posted up)) ∧ updateFault true (opened .trial (posted up)).hw = none ∧ dataFieldsOk (fetched 4 [0, 0, 0x200000, 0, 64]).words ∧ stagingHeld (bootRec (opened .trial (posted up)).mem (opened .trial (posted up)).hw)) ∧
    (updateFault true (withRecord {} (onUpdate (fun u => { u with download := { accepted := 128, lastOff := 64, lastBytes := 64 } }) (posted up))).hw = none ∧ dataFieldsOk (fetched 4 [0, 64, 0x200000, 0, 64]).words ∧ stagingHeld (bootRec (withRecord {} (onUpdate (fun u => { u with download := { accepted := 128, lastOff := 64, lastBytes := 64 } }) (posted up))).mem (withRecord {} (onUpdate (fun u => { u with download := { accepted := 128, lastOff := 64, lastBytes := 64 } }) (posted up))).hw) = false ∧
      repeatsLast (bootRec (withRecord {} (onUpdate (fun u => { u with download := { accepted := 128, lastOff := 64, lastBytes := 64 } }) (posted up))).mem (withRecord {} (onUpdate (fun u => { u with download := { accepted := 128, lastOff := 64, lastBytes := 64 } }) (posted up))).hw) (withRecord {} (onUpdate (fun u => { u with download := { accepted := 128, lastOff := 64, lastBytes := 64 } }) (posted up))).hw.update.download (fetched 4 [0, 64, 0x200000, 0, 64]).words) ∧
    (AtRest (withRecord {} (posted up)) ∧ stagingHeld (bootRec (withRecord {} (posted up)).mem (withRecord {} (posted up)).hw) = false ∧
      repeatsLast (bootRec (withRecord {} (posted up)).mem (withRecord {} (posted up)).hw) (withRecord {} (posted up)).hw.update.download (fetched 4 [0, 64, 0x200000, 0, 64]).words = false ∧
      outOfOrder (bootRec (withRecord {} (posted up)).mem (withRecord {} (posted up)).hw) (withRecord {} (posted up)).hw.update.download (fetched 4 [0, 64, 0x200000, 0, 64]).words) ∧
    (AtRest (withRecord {} (dramChunk (posted up))) ∧ AcceptsOp (withRecord {} (dramChunk (posted up))) (slot 4 [0, 0, 0x200000, 0, 128]) (fetched 4 [0, 0, 0x200000, 0, 128]) kUpdateChunk 0 2 0 ∧ updateFault true (withRecord {} (dramChunk (posted up))).hw = none ∧ dataFieldsOk (fetched 4 [0, 0, 0x200000, 0, 128]).words ∧
      stagingHeld (bootRec (withRecord {} (dramChunk (posted up))).mem (withRecord {} (dramChunk (posted up))).hw) = false ∧ repeatsLast (bootRec (withRecord {} (dramChunk (posted up))).mem (withRecord {} (dramChunk (posted up))).hw) (withRecord {} (dramChunk (posted up))).hw.update.download (fetched 4 [0, 0, 0x200000, 0, 128]).words = false ∧
      outOfOrder (bootRec (withRecord {} (dramChunk (posted up))).mem (withRecord {} (dramChunk (posted up))).hw) (withRecord {} (dramChunk (posted up))).hw.update.download (fetched 4 [0, 0, 0x200000, 0, 128]).words = false ∧
      sourceFault (withRecord {} (dramChunk (posted up))).hw (fetched 4 [0, 0, 0x200000, 0, 128]).master (dataSource (fetched 4 [0, 0, 0x200000, 0, 128]).words) (dataBytes (fetched 4 [0, 0, 0x200000, 0, 128]).words) = none ∧
      packageLen (bytesWords ((bytesAt (withRecord {} (dramChunk (posted up))) .dram (dataSource (fetched 4 [0, 0, 0x200000, 0, 128]).words) (dataBytes (fetched 4 [0, 0, 0x200000, 0, 128]).words)).take 12)) ≤ packageMax) ∧
    (stagingHeld (bootRec (withRecord {} (onUpdate (fun u => { u with download := { accepted := 64, lastOff := 0, lastBytes := 64 } }) (dramChunk (posted up)))).mem (withRecord {} (onUpdate (fun u => { u with download := { accepted := 64, lastOff := 0, lastBytes := 64 } }) (dramChunk (posted up)))).hw) = false ∧ repeatsLast (bootRec (withRecord {} (onUpdate (fun u => { u with download := { accepted := 64, lastOff := 0, lastBytes := 64 } }) (dramChunk (posted up)))).mem (withRecord {} (onUpdate (fun u => { u with download := { accepted := 64, lastOff := 0, lastBytes := 64 } }) (dramChunk (posted up)))).hw) (withRecord {} (onUpdate (fun u => { u with download := { accepted := 64, lastOff := 0, lastBytes := 64 } }) (dramChunk (posted up)))).hw.update.download (fetched 4 [0, 64, 0x200040, 0, 64]).words = false ∧
      outOfOrder (bootRec (withRecord {} (onUpdate (fun u => { u with download := { accepted := 64, lastOff := 0, lastBytes := 64 } }) (dramChunk (posted up)))).mem (withRecord {} (onUpdate (fun u => { u with download := { accepted := 64, lastOff := 0, lastBytes := 64 } }) (dramChunk (posted up)))).hw) (withRecord {} (onUpdate (fun u => { u with download := { accepted := 64, lastOff := 0, lastBytes := 64 } }) (dramChunk (posted up)))).hw.update.download (fetched 4 [0, 64, 0x200040, 0, 64]).words = false ∧ dataOffset (fetched 4 [0, 64, 0x200040, 0, 64]).words ≠ 0) ∧
    (AtRest (staged (posted up)) ∧ AcceptsOp (staged (posted up)) (slot 4 [2]) (fetched 4 [2]) kUpdateChunk 0 2 2 ∧ updateFault true (staged (posted up)).hw = none ∧ otherFieldsOk (fetched 4 [2]).words ∧
      stagingHeld (bootRec (staged (posted up)).mem (staged (posted up)).hw) = false) ∧
    ((onUpdate (fun u => { u with jobs := [.chunk 0 0 0x77 64 chunk64] }) (withStaging (waiting 4 up))).hw.update.jobs = .chunk 0 0 0x77 64 chunk64 :: [] ∧ (onUpdate (fun u => { u with jobs := [.chunk 0 0 0x77 64 chunk64] }) (withStaging (waiting 4 up))).hw.up ∧ AtRest (onUpdate (fun u => { u with jobs := [.chunk 0 0 0x77 64 chunk64] }) (withStaging (waiting 4 up))) ∧ (onUpdate (fun u => { u with jobs := [.chunk 0 0 0x77 64 chunk64] }) (withStaging (waiting 4 up))).hw.writesRecords ∧
      64 + chunk64.length < min packageMax (packageLen (flashWords (onUpdate (fun u => { u with jobs := [.chunk 0 0 0x77 64 chunk64] }) (withStaging (waiting 4 up))).mem { (onUpdate (fun u => { u with jobs := [.chunk 0 0 0x77 64 chunk64] }) (withStaging (waiting 4 up))).hw with sent := [] } stagingBase 3))) := by
  (repeat' apply And.intro) <;> decide +kernel

theorem test_RollsGoRoundTheRing_is_met :
    (AtRest (headHere (posted up)) ∧ AcceptsOp (headHere (posted up)) (slot 4 [1]) (fetched 4 [1]) kUpdateChunk 0 2 1 ∧ updateFault true (headHere (posted up)).hw = none ∧ otherFieldsOk (fetched 4 [1]).words ∧
      (bootRec (headHere (posted up)).mem (headHere (posted up)).hw).state ≠ .staged) ∧
    (AtRest (staged (posted up)) ∧ updateFault true (staged (posted up)).hw = none ∧ (bootRec (staged (posted up)).mem (staged (posted up)).hw).state = .staged ∧ (staged (posted up)).hw.update.rollSlot = none ∧
      soleNode (staged (posted up)).hw) ∧
    (AtRest (staged (headHere (posted up))) ∧ updateFault true (staged (headHere (posted up))).hw = none ∧ (bootRec (staged (headHere (posted up))).mem (staged (headHere (posted up))).hw).state = .staged ∧ (staged (headHere (posted up))).hw.update.rollSlot = none ∧
      soleNode (staged (headHere (posted up))).hw = false ∧ Ready (staged (headHere (posted up))) .east) ∧
    (AtRest (withRecord {} (member3 up)) ∧ (withRecord {} (member3 up)).hw.up ∧ Next (withRecord {} (member3 up)) .west (ctl 0 0 hash1 16 0 0) ∧ Ready (withRecord {} (member3 up)) .west ∧ storeReason (withRecord {} (member3 up)).mem (withRecord {} (member3 up)).hw = none ∧
      ¬((bootRec (withRecord {} (member3 up)).mem (withRecord {} (member3 up)).hw).state = .staged ∧ (bootRec (withRecord {} (member3 up)).mem (withRecord {} (member3 up)).hw).stagingHash = ctlHash (ctl 0 0 hash1 16 0 0))) ∧
    (AtRest (onBoard (fun b => { b with motion := true }) (withRecord {} (member3 up))) ∧ Ready (onBoard (fun b => { b with motion := true }) (withRecord {} (member3 up))) .west ∧ (storeReason (onBoard (fun b => { b with motion := true }) (withRecord {} (member3 up))).mem (onBoard (fun b => { b with motion := true }) (withRecord {} (member3 up))).hw).isSome) ∧
    (AtRest (member3 up) ∧ Next (member3 up) .east (ctl 3 1 hash1 0 0 0) ∧ Ready (member3 up) .west ∧ (member3 up).hw.ring.head ≠ some (member3 up).hw.nodeId ∧
      (member3 up).hw.update.actSlot = none ∧ (member3 up).hw.update.rollSlot = none) ∧
    ((onUpdate (fun u => { u with role := .sending, rollHash := hash1 }) (member3 up)).hw.update.role = .sending ∧ (onUpdate (fun u => { u with role := .sending, rollHash := hash1 }) (member3 up)).hw.update.rollHash = ctlHash (ctl 1 0 hash1 0 0 0)) ∧
    (AtRest (onUpdate (fun u => { u with role := .sending, rollHash := hash1 }) (staged (member3 up))) ∧ Next (onUpdate (fun u => { u with role := .sending, rollHash := hash1 }) (staged (member3 up))) .east (ctl 2 0 hash1 0 0 0) ∧ (onUpdate (fun u => { u with role := .sending, rollHash := hash1 }) (staged (member3 up))).hw.update.role = .sending ∧ (portOf (onUpdate (fun u => { u with role := .sending, rollHash := hash1 }) (staged (member3 up))).hw .east).st = .up ∧
      (bootRec (onUpdate (fun u => { u with role := .sending, rollHash := hash1 }) (staged (member3 up))).mem (onUpdate (fun u => { u with role := .sending, rollHash := hash1 }) (staged (member3 up))).hw).stagingBytes ≤ packageMax) ∧
    (AtRest (onUpdate (fun u => { u with role := .receiving 64, rollHash := hash1 }) (withStaging (member3 up))) ∧ (onUpdate (fun u => { u with role := .receiving 64, rollHash := hash1 }) (withStaging (member3 up))).hw.up ∧ Next (onUpdate (fun u => { u with role := .receiving 64, rollHash := hash1 }) (withStaging (member3 up))) .west (frame 4 64 chunk64) ∧ (onUpdate (fun u => { u with role := .receiving 64, rollHash := hash1 }) (withStaging (member3 up))).hw.update.role = .receiving 64 ∧
      64 + chunk64.length ≤ packageMax) ∧
    (Ready (onUpdate (fun u => { u with role := .receiving 64, rollHash := hash1 }) (withStaging (member3 up))) .west) ∧
    (AtRest (staged (member3 up)) ∧ Next (staged (member3 up)) .west (ctl 4 0 hash1 16 0 0) ∧ (staged (member3 up)).hw.ring.head ≠ some (staged (member3 up)).hw.nodeId ∧ Ready (staged (member3 up)) .east) ∧
    ((onUpdate (fun u => { u with rollSlot := some (0, 0x77), rollHash := hash1 }) (staged (headHere (waiting 4 up)))).hw.update.rollSlot = some (0, 0x77) ∧ (onUpdate (fun u => { u with rollSlot := some (0, 0x77), rollHash := hash1 }) (staged (headHere (waiting 4 up)))).hw.writesRecords ∧ (onUpdate (fun u => { u with rollSlot := some (0, 0x77), rollHash := hash1 }) (staged (headHere (waiting 4 up)))).hw.update.actSlot = none) ∧
    (AtRest (onUpdate (fun u => { u with rollSlot := some (0, 0x77), rollHash := hash1 }) (staged (headHere (waiting 4 up)))) ∧ Next (onUpdate (fun u => { u with rollSlot := some (0, 0x77), rollHash := hash1 }) (staged (headHere (waiting 4 up)))) .west (ctl 4 0 hash1 24 0 0) ∧ (onUpdate (fun u => { u with rollSlot := some (0, 0x77), rollHash := hash1 }) (staged (headHere (waiting 4 up)))).hw.ring.head = some (onUpdate (fun u => { u with rollSlot := some (0, 0x77), rollHash := hash1 }) (staged (headHere (waiting 4 up)))).hw.nodeId ∧
      (onUpdate (fun u => { u with rollSlot := some (0, 0x77), rollHash := hash1 }) (staged (headHere (waiting 4 up)))).hw.update.rollHash = ctlHash (ctl 4 0 hash1 24 0 0)) ∧
    (AtRest (onUpdate (fun u => { u with rollSlot := some (0, 0x77), rollHash := hash1 }) (staged (headHere (waiting 4 up)))) ∧ (onUpdate (fun u => { u with rollSlot := some (0, 0x77), rollHash := hash1 }) (staged (headHere (waiting 4 up)))).hw.update.rollSlot = some (0, 0x77) ∧ (onUpdate (fun u => { u with rollSlot := some (0, 0x77), rollHash := hash1 }) (staged (headHere (waiting 4 up)))).hw.writesRecords) := by
  (repeat' apply And.intro) <;> decide +kernel

theorem test_ActivationsAreAgreed_is_met :
    (Accepts (member3 (posted up)) (slot 5 [0]) (fetched 5 [0]) kUpdateActivate ∧ AtRest (member3 (posted up)) ∧ mayUpdate (member3 (posted up)).hw = false) ∧
    (Accepts (onBoard (fun b => { b with motion := true }) (posted up)) (slot 5 [0]) (fetched 5 [0]) kUpdateActivate ∧ mayUpdate (onBoard (fun b => { b with motion := true }) (posted up)).hw ∧ (onBoard (fun b => { b with motion := true }) (posted up)).hw.board.motion) ∧
    (Accepts (posted up) (slot 5 [0]) (fetched 5 [0]) kUpdateActivate ∧ updateFault true (posted up).hw = none ∧ (bootRec (posted up).mem (posted up).hw).state ≠ .staged) ∧
    (Accepts (staged (posted up)) (slot 5 [1]) (fetched 5 [1]) kUpdateActivate ∧ AtRest (staged (posted up)) ∧ updateFault true (staged (posted up)).hw = none ∧
      activateFault (staged (posted up)).mem { (staged (posted up)).hw with sent := [] } = none ∧ soleNode (staged (posted up)).hw) ∧
    (Accepts (staged (headHere (posted up))) (slot 5 [1]) (fetched 5 [1]) kUpdateActivate ∧ AtRest (staged (headHere (posted up))) ∧ updateFault true (staged (headHere (posted up))).hw = none ∧
      activateFault (staged (headHere (posted up))).mem { (staged (headHere (posted up))).hw with sent := [] } = none ∧ soleNode (staged (headHere (posted up))).hw = false ∧ Ready (staged (headHere (posted up))) .east) ∧
    (AtRest (staged (member3 up)) ∧ (staged (member3 up)).hw.up ∧ Next (staged (member3 up)) .west (ctl 5 0 hash1 16 0 0) ∧ Ready (staged (member3 up)) .east ∧ (staged (member3 up)).hw.ring.head ≠ some (staged (member3 up)).hw.nodeId ∧
      markReason hash1 (staged (member3 up)).mem { (staged (member3 up)).hw with sent := [] } = none) ∧
    (AtRest (opened .trial (member3 up)) ∧ Next (opened .trial (member3 up)) .west (ctl 6 0 hash1 16 0 0) ∧ Ready (opened .trial (member3 up)) .east ∧ (opened .trial (member3 up)).hw.ring.head ≠ some (opened .trial (member3 up)).hw.nodeId) ∧
    (fld (ctl 7 0 hash1 16 0 0).param 12 4 = 0) ∧
    (fld (ctl 7 1 hash1 16 0 0).param 12 4 = 1 ∧ openFor (bootRec (opened .pending (member3 up)).mem (opened .pending (member3 up)).hw) hash1 ∧ (bootRec (opened .pending (member3 up)).mem (opened .pending (member3 up)).hw).state = .pending) ∧
    (openFor (bootRec (opened .trial (member3 up)).mem (opened .trial (member3 up)).hw) hash1 ∧ (bootRec (opened .trial (member3 up)).mem (opened .trial (member3 up)).hw).state = .trial) ∧
    (AtRest (onUpdate (fun u => { u with actSlot := some (0, 0x77, false) }) (staged (headHere (waiting 5 up)))) ∧ (onUpdate (fun u => { u with actSlot := some (0, 0x77, false) }) (staged (headHere (waiting 5 up)))).hw.ring.head = some (onUpdate (fun u => { u with actSlot := some (0, 0x77, false) }) (staged (headHere (waiting 5 up)))).hw.nodeId ∧ (onUpdate (fun u => { u with actSlot := some (0, 0x77, false) }) (staged (headHere (waiting 5 up)))).hw.update.actSlot = some (0, 0x77, false) ∧ (onUpdate (fun u => { u with actSlot := some (0, 0x77, false) }) (staged (headHere (waiting 5 up)))).hw.writesRecords) ∧
    ((bootRec (opened .trial (headHere up)).mem (opened .trial (headHere up)).hw).actOpen ∧ (bootRec (opened .trial (headHere up)).mem (opened .trial (headHere up)).hw).actHash = ctlHash (ctl 6 0 hash1 8 16 0) ∧
      Nat.land 16 (targetsOf (opened .trial (headHere up)).mem { (opened .trial (headHere up)).hw with sent := [] } hash1) ≠ 0) ∧
    ((bootRec (opened .trial (withStaging (headHere up))).mem (opened .trial (withStaging (headHere up))).hw).actOpen ∧ (bootRec (opened .trial (withStaging (headHere up))).mem (opened .trial (withStaging (headHere up))).hw).actHash = hash1 ∧
      targetsOf (opened .trial (withStaging (headHere up))).mem { (opened .trial (withStaging (headHere up))).hw with sent := [] } hash1 = 8 ∧ (opened .trial (withStaging (headHere up))).hw.ring.head = some (opened .trial (withStaging (headHere up))).hw.nodeId) ∧
    (AtRest (headHere up) ∧ (headHere up).hw.up ∧ (headHere up).hw.update.verdictOpen = false) ∧
    (AtRest (onUpdate (fun u => { u with verdictOpen := true }) (opened .trial (headHere up))) ∧ (onUpdate (fun u => { u with verdictOpen := true }) (opened .trial (headHere up))).hw.up ∧ (onUpdate (fun u => { u with verdictOpen := true }) (opened .trial (headHere up))).hw.update.verdictOpen ∧ (bootRec (onUpdate (fun u => { u with verdictOpen := true }) (opened .trial (headHere up))).mem (onUpdate (fun u => { u with verdictOpen := true }) (opened .trial (headHere up))).hw).actOpen ∧ (onUpdate (fun u => { u with verdictOpen := true }) (opened .trial (headHere up))).hw.ring.st = .formed ∧
      (onUpdate (fun u => { u with verdictOpen := true }) (opened .trial (headHere up))).hw.standalone = false ∧ (onUpdate (fun u => { u with verdictOpen := true }) (opened .trial (headHere up))).hw.ring.head = some (onUpdate (fun u => { u with verdictOpen := true }) (opened .trial (headHere up))).hw.nodeId ∧ Ready (onUpdate (fun u => { u with verdictOpen := true }) (opened .trial (headHere up))) .east) := by
  (repeat' apply And.intro) <;> decide +kernel

theorem test_ConfirmationsEndActivations_is_met :
    (Accepts (member3 (posted up)) (slot 6 [0]) (fetched 6 [0]) kUpdateConfirm ∧ AtRest (member3 (posted up)) ∧ mayUpdate (member3 (posted up)).hw = false) ∧
    (Accepts (opened .trial (posted up)) (slot 6 [0]) (fetched 6 [0]) kUpdateConfirm ∧ mayUpdate (opened .trial (posted up)).hw ∧ (bootRec (opened .trial (posted up)).mem (opened .trial (posted up)).hw).agreed = false) ∧
    (Accepts (withRecord { state := .trial, actOpen := true, targeted := true, agreed := true, activeHash := hash1, actHash := hash1 } (posted up)) (slot 6 [0]) (fetched 6 [0]) kUpdateConfirm ∧ AtRest (withRecord { state := .trial, actOpen := true, targeted := true, agreed := true, activeHash := hash1, actHash := hash1 } (posted up)) ∧ mayUpdate (withRecord { state := .trial, actOpen := true, targeted := true, agreed := true, activeHash := hash1, actHash := hash1 } (posted up)).hw ∧ (bootRec (withRecord { state := .trial, actOpen := true, targeted := true, agreed := true, activeHash := hash1, actHash := hash1 } (posted up)).mem (withRecord { state := .trial, actOpen := true, targeted := true, agreed := true, activeHash := hash1, actHash := hash1 } (posted up)).hw).actOpen ∧ (bootRec (withRecord { state := .trial, actOpen := true, targeted := true, agreed := true, activeHash := hash1, actHash := hash1 } (posted up)).mem (withRecord { state := .trial, actOpen := true, targeted := true, agreed := true, activeHash := hash1, actHash := hash1 } (posted up)).hw).agreed ∧
      inTrial (bootRec (withRecord { state := .trial, actOpen := true, targeted := true, agreed := true, activeHash := hash1, actHash := hash1 } (posted up)).mem (withRecord { state := .trial, actOpen := true, targeted := true, agreed := true, activeHash := hash1, actHash := hash1 } (posted up)).hw) (bootRec (withRecord { state := .trial, actOpen := true, targeted := true, agreed := true, activeHash := hash1, actHash := hash1 } (posted up)).mem (withRecord { state := .trial, actOpen := true, targeted := true, agreed := true, activeHash := hash1, actHash := hash1 } (posted up)).hw).actHash ∧ soleNode (withRecord { state := .trial, actOpen := true, targeted := true, agreed := true, activeHash := hash1, actHash := hash1 } (posted up)).hw) ∧
    (mayUpdate (withRecord { state := .trial, actOpen := true, targeted := true, agreed := true, activeHash := hash1, actHash := hash1 } (headHere (posted up))).hw ∧ (bootRec (withRecord { state := .trial, actOpen := true, targeted := true, agreed := true, activeHash := hash1, actHash := hash1 } (headHere (posted up))).mem (withRecord { state := .trial, actOpen := true, targeted := true, agreed := true, activeHash := hash1, actHash := hash1 } (headHere (posted up))).hw).agreed ∧ inTrial (bootRec (withRecord { state := .trial, actOpen := true, targeted := true, agreed := true, activeHash := hash1, actHash := hash1 } (headHere (posted up))).mem (withRecord { state := .trial, actOpen := true, targeted := true, agreed := true, activeHash := hash1, actHash := hash1 } (headHere (posted up))).hw) hash1 ∧ soleNode (withRecord { state := .trial, actOpen := true, targeted := true, agreed := true, activeHash := hash1, actHash := hash1 } (headHere (posted up))).hw = false ∧ Ready (withRecord { state := .trial, actOpen := true, targeted := true, agreed := true, activeHash := hash1, actHash := hash1 } (headHere (posted up))) .east) ∧
    (AtRest (opened .trial (member3 up)) ∧ (opened .trial (member3 up)).hw.up ∧ Next (opened .trial (member3 up)) .west (ctl 8 0 hash1 16 0 0) ∧ Ready (opened .trial (member3 up)) .east ∧ (opened .trial (member3 up)).hw.ring.head ≠ some (opened .trial (member3 up)).hw.nodeId) ∧
    (AtRest (opened .confirmed (member3 up)) ∧ Next (opened .confirmed (member3 up)) .west (ctl 9 0 hash1 16 0 0) ∧ Ready (opened .confirmed (member3 up)) .east ∧ (opened .confirmed (member3 up)).hw.ring.head ≠ some (opened .confirmed (member3 up)).hw.nodeId) ∧
    (AtRest (onUpdate (fun u => { u with confSlot := some (0, 0x77) }) (withRecord {} (headHere (waiting 6 up)))) ∧ Ready (onUpdate (fun u => { u with confSlot := some (0, 0x77) }) (withRecord {} (headHere (waiting 6 up)))) .east ∧ (onUpdate (fun u => { u with confSlot := some (0, 0x77) }) (withRecord {} (headHere (waiting 6 up)))).hw.ring.head = some (onUpdate (fun u => { u with confSlot := some (0, 0x77) }) (withRecord {} (headHere (waiting 6 up)))).hw.nodeId ∧ (onUpdate (fun u => { u with confSlot := some (0, 0x77) }) (withRecord {} (headHere (waiting 6 up)))).hw.update.confSlot = some (0, 0x77) ∧ (onUpdate (fun u => { u with confSlot := some (0, 0x77) }) (withRecord {} (headHere (waiting 6 up)))).hw.writesRecords) := by
  (repeat' apply And.intro) <;> decide +kernel

theorem test_ResetsTakeTheDomainsDown_is_met :
    (Settled up ∧ up.hw.board.aonOn) ∧
    (Settled (onBoard (fun b => { b with aonOn := false }) State.reset) ∧ (onBoard (fun b => { b with aonOn := false }) State.reset).hw.board.aonOn = false) ∧
    (Settled up ∧ up.hw.board.resetN ∧ up.hw.board.aonOn) ∧
    (Settled up ∧ up.hw.power.dev ≠ .off ∧ up.hw.board.aonOn) ∧
    (Settled (onPower (fun p => { p with dev := .off, ctrlOn := false, memOn := false }) up) ∧ (onPower (fun p => { p with dev := .off, ctrlOn := false, memOn := false }) up).hw.power.dev = .off ∧ (onPower (fun p => { p with dev := .off, ctrlOn := false, memOn := false }) up).hw.power.ctrlOn = false ∧ NothingHeld (onPower (fun p => { p with dev := .off, ctrlOn := false, memOn := false }) up)) ∧
    (Settled up ∧ up.hw.board.aonOn ∧ mayReset .array 465 = false ∧ NothingHeld up) ∧
    (mayReset .array 464) := by
  (repeat' apply And.intro) <;> decide +kernel

theorem test_FullBootsStartOrRecover_is_met :
    (Settled (onPower (fun p => { p with wakeFail := some (.refFail, 2) }) (onBoard (fun b => { b with resetN := false }) up)) ∧ (onPower (fun p => { p with wakeFail := some (.refFail, 2) }) (onBoard (fun b => { b with resetN := false }) up)).hw.board.resetN = false ∧ (onPower (fun p => { p with wakeFail := some (.refFail, 2) }) (onBoard (fun b => { b with resetN := false }) up)).hw.board.railLow = none ∧ (onPower (fun p => { p with wakeFail := some (.refFail, 2) }) (onBoard (fun b => { b with resetN := false }) up)).hw.power.wakeFail.isSome ∧
      ∀ p ∈ (fitTo 7 {} memberPins).map pinLevel, p.isSome) ∧
    (Settled (onBoard (fun b => { b with resetN := false }) up) ∧ (onBoard (fun b => { b with resetN := false }) up).hw.board.resetN = false ∧ (onBoard (fun b => { b with resetN := false }) up).hw.board.railLow = none ∧ (onBoard (fun b => { b with resetN := false }) up).hw.power.wakeFail = none ∧
      (strapCause (readStraps [pin 0, pin 240, pin 560, pin 640, pin 0, pin 0, pin 1200])).isSome) ∧
    (strapCause (readStraps memberPins) = none ∧ bootAcked [] = false) ∧
    ((readStraps [pin 0, pin 240, pin 560, pin 0, pin 560, pin 0, pin 1200]).straps.bootSel = 7 ∧ strapCause (readStraps [pin 0, pin 240, pin 560, pin 0, pin 560, pin 0, pin 1200]) = none) ∧
    (rulingRecord (withRecord {} (onBoard (fun b => { b with resetN := false }) up)).mem (withRecord {} (onBoard (fun b => { b with resetN := false }) up)).hw = some ({}, false) ∧ slotImage (withRecord {} (onBoard (fun b => { b with resetN := false }) up)).mem (withRecord {} (onBoard (fun b => { b with resetN := false }) up)).hw activeBase = none) ∧
    (Settled (onBoard (fun b => { b with resetN := false }) (installed up)) ∧ (onBoard (fun b => { b with resetN := false }) (installed up)).hw.board.resetN = false ∧ (onBoard (fun b => { b with resetN := false }) (installed up)).hw.board.railLow = none ∧ rulingRecord (onBoard (fun b => { b with resetN := false }) (installed up)).mem (onBoard (fun b => { b with resetN := false }) (installed up)).hw = some ({}, false)) ∧
    ((onBoard (fun b => { b with resetN := false, railLow := some .ctrl }) up).hw.board.resetN = false ∧ (onBoard (fun b => { b with resetN := false, railLow := some .ctrl }) up).hw.board.railLow.isSome ∧ AtRest (onBoard (fun b => { b with resetN := false, railLow := some .ctrl }) up)) ∧
    (Settled (onBoard (fun b => { b with resetHeld := true }) (installed up)) ∧ (onBoard (fun b => { b with resetHeld := true }) (installed up)).hw.board.resetHeld ∧ (onBoard (fun b => { b with resetHeld := true }) (installed up)).hw.board.resetN) ∧
    (Settled (onBoard (fun b => { b with railLow := some .array }) (installed up)) ∧ (onBoard (fun b => { b with railLow := some .array }) (installed up)).hw.board.railLow.isSome ∧ (onBoard (fun b => { b with railLow := some .array }) (installed up)).hw.board.resetHeld = false ∧ (onBoard (fun b => { b with railLow := some .array }) (installed up)).hw.board.resetN ∧ (onBoard (fun b => { b with railLow := some .array }) (installed up)).hw.power.slot = none ∧
      (onBoard (fun b => { b with railLow := some .array }) (installed up)).hw.board.strapsLatched) ∧
    (Settled (onUpdate (fun u => { u with restart := true }) (installed up)) ∧ (onUpdate (fun u => { u with restart := true }) (installed up)).hw.up ∧ (onUpdate (fun u => { u with restart := true }) (installed up)).hw.update.restart ∧ (onUpdate (fun u => { u with restart := true }) (installed up)).hw.board.strapsLatched ∧ (onUpdate (fun u => { u with restart := true }) (installed up)).hw.board.resetHeld = false) ∧
    (slotImage (onBoard (fun b => { b with resetN := false }) (installed up)).mem (onBoard (fun b => { b with resetN := false }) (installed up)).hw activeBase = some imgBytes ∧ (onBoard (fun b => { b with resetN := false }) (installed up)).hw.board.straps.ringRole ≠ 15) ∧
    (Settled (onBoard (fun b => { b with resetN := false }) up) ∧ (onBoard (fun b => { b with resetN := false }) up).hw.board.resetN = false ∧ (onBoard (fun b => { b with resetN := false }) up).hw.board.railLow = none ∧ (onBoard (fun b => { b with resetN := false }) up).hw.power.wakeFail = none ∧
      pinLevel { a := 0, b := 240, c := 560 } = none) ∧
    (Settled (onBoard (fun b => { b with railLow := some .array, straps := { member with pwrClass := 5 } }) up) ∧ (onBoard (fun b => { b with railLow := some .array, straps := { member with pwrClass := 5 } }) up).hw.board.railLow.isSome ∧ (onBoard (fun b => { b with railLow := some .array, straps := { member with pwrClass := 5 } }) up).hw.board.resetHeld = false ∧ (onBoard (fun b => { b with railLow := some .array, straps := { member with pwrClass := 5 } }) up).hw.board.resetN ∧ (onBoard (fun b => { b with railLow := some .array, straps := { member with pwrClass := 5 } }) up).hw.power.slot = none ∧
      (onBoard (fun b => { b with railLow := some .array, straps := { member with pwrClass := 5 } }) up).hw.board.strapsLatched ∧ (strapCause (onBoard (fun b => { b with railLow := some .array, straps := { member with pwrClass := 5 } }) up).hw.board).isSome) ∧
    (Settled (onBoard (fun b => { b with resetN := false, railLow := some .ctrl }) up) ∧ (onBoard (fun b => { b with resetN := false, railLow := some .ctrl }) up).hw.board.railLow.isSome ∧ (onBoard (fun b => { b with resetN := false, railLow := some .ctrl }) up).hw.board.resetHeld = false ∧ (onBoard (fun b => { b with resetN := false, railLow := some .ctrl }) up).hw.board.resetN = false ∧ AtRest (onBoard (fun b => { b with resetN := false, railLow := some .ctrl }) up)) := by
  (repeat' apply And.intro) <;> decide +kernel

theorem test_ThePcieLinkComesAndGoes_is_met :
    (NoWork (onSq (fun q => { q with linkUp := false }) up) ∧ (onSq (fun q => { q with linkUp := false }) up).hw.sq.queue.length ≤ 32 ∧ pcieMayTrain (onSq (fun q => { q with linkUp := false }) up).hw ∧ (onSq (fun q => { q with linkUp := false }) up).hw.sq.linkUp = false ∧ (onSq (fun q => { q with linkUp := false }) up).hw.sq.heldRecords = []) ∧
    (NoWork { (onSq (fun q => { q with linkUp := false, heldRecords := [{ pos := 3, kind := 7 }] }) up) with hw := { (onSq (fun q => { q with linkUp := false, heldRecords := [{ pos := 3, kind := 7 }] }) up).hw with sq := { (onSq (fun q => { q with linkUp := false, heldRecords := [{ pos := 3, kind := 7 }] }) up).hw.sq with heldRecords := [] } } } ∧ pcieMayTrain (onSq (fun q => { q with linkUp := false, heldRecords := [{ pos := 3, kind := 7 }] }) up).hw ∧
      (onSq (fun q => { q with linkUp := false, heldRecords := [{ pos := 3, kind := 7 }] }) up).hw.sq.heldRecords = [{ pos := 3, kind := 7 }] ∧ (onSq (fun q => { q with linkUp := false, heldRecords := [{ pos := 3, kind := 7 }] }) up).hw.image.system.sqInDram = false) ∧
    (pcieMayTrain (onBoard (fun b => { b with perstN := false }) (onSq (fun q => { q with linkUp := false }) up)).hw = false) ∧
    (up.hw.sq.heldRecords = []) ∧
    (NoWork (onSq (fun q => { q with linkUp := false, cfg := { width := 4 }, cfgKept := some {} }) up) ∧ pcieMayTrain (onSq (fun q => { q with linkUp := false, cfg := { width := 4 }, cfgKept := some {} }) up).hw ∧ (onSq (fun q => { q with linkUp := false, cfg := { width := 4 }, cfgKept := some {} }) up).hw.sq.linkUp = false ∧ (onSq (fun q => { q with linkUp := false, cfg := { width := 4 }, cfgKept := some {} }) up).hw.sq.heldRecords = [] ∧ (onSq (fun q => { q with linkUp := false, cfg := { width := 4 }, cfgKept := some {} }) up).hw.sq.cfgKept.isSome) := by
  (repeat' apply And.intro) <;> decide +kernel

theorem test_StepRunsTheFrontCommand_is_met : State.reset.pending = [] := by decide

theorem test_StepKeepsMemoriesCanonical_is_met : State.reset.mem.wf ∧ ∃ t, step State.reset = .next t := ⟨by decide, _, rfl⟩

theorem test_StepKeepsWhatIsReportedBounded_is_met : Settled State.reset ∧ QueueFits State.reset ∧
    ∃ t, step State.reset = .next t := ⟨by decide, by decide, _, rfl⟩

/-! ## Well-formed and ill-formed commands -/

theorem test_wf_boot : (Instr.resetNRise { straps := List.replicate 7 {} }).wf = true ∧
    (Instr.resetNRise { straps := List.replicate 6 {} }).wf = false := by decide

theorem test_wf_bar0 : (Instr.bar0IgnoredWrite .f0 4 0).wf = true ∧ (Instr.bar0IgnoredWrite .f0 0 0).wf = false := by decide

theorem test_wf_slot : (Instr.budget { words := List.replicate 32 0 }).wf = true ∧
    (Instr.budget { words := List.replicate 31 0 }).wf = false := by decide

/-- A beat's samples: 32 of them, 16 taps in each, no area below zero, H within a tenth of its value. -/
theorem test_wf_beat :
    let beat (n k : Nat) (a h : Rat) : Bool := (Instr.beatBoundary
      (List.replicate n { areas := List.replicate k a, errs := List.replicate 16 0, hyst := h }) true).wf
    beat 32 16 2 (11 / 10) = true ∧ beat 31 16 2 1 = false ∧ beat 32 15 2 1 = false ∧ beat 32 16 (-2) 1 = false ∧
    beat 32 16 2 (12 / 10) = false := by decide +kernel

/-- Eight lanes, and a PCIe link of at most 16. -/
theorem test_wf_lanes : (LaneTest.wf { pass := 255, inverted := 3 }) = true ∧ (LaneTest.wf { pass := 256 }) = false ∧
    (LaneTest.wf { inverted := 256 }) = false ∧ (Instr.pcieLinkUp { width := 16 }).wf = true ∧
    (Instr.pcieLinkUp { width := 17 }).wf = false := by decide

theorem test_wf_channel : (Instr.channelSettled 32).wf = true ∧ (Instr.channelSettled 33).wf = false := by decide

theorem test_wf_chain : (Instr.fadeEnd 7).wf = true ∧ (Instr.fadeEnd 8).wf = false := by decide

theorem test_wf_measurement :
    (Instr.measurementBeat { taps := List.replicate 16 0, pairs := List.replicate 16 0, live := List.replicate 16 0 }).wf = true ∧
    (Instr.measurementBeat { taps := List.replicate 15 0, pairs := List.replicate 16 0, live := List.replicate 16 0 }).wf = false := by
  decide

theorem test_wf_core : (Instr.probeDue 31).wf = true ∧ (Instr.probeDue 32).wf = false := by decide

theorem test_wf_group : (Instr.islandReady 7).wf = true ∧ (Instr.islandReady 8).wf = false := by decide

theorem test_wf_sensors : (Instr.accountSlot (List.replicate 16 0)).wf = true ∧
    (Instr.accountSlot (List.replicate 17 0)).wf = false := by decide

theorem test_wf_piece : (Instr.waitComplete { task := 65535 }).wf = true ∧ (Instr.waitComplete { task := 65536 }).wf = false := by
  decide

theorem test_wf_stream : (Instr.streamCopyComplete 255 false 0).wf = true ∧ (Instr.streamCopyComplete 256 false 0).wf = false := by
  decide

theorem test_wf_width : (Instr.linkUp .east 4 {}).wf = true ∧ (Instr.linkUp .east 3 {}).wf = false ∧
    (Instr.retrain .east (some 8) {}).wf = true ∧ (Instr.retrain .east (some 1) {}).wf = false ∧
    (Instr.ident .east 255 .west 8 0).wf = true ∧ (Instr.ident .east 256 .west 8 0).wf = false := by decide

/-- A frame carries units of 16 bytes, and one of a PUT that more frames follow is full. -/
theorem test_wf_frame : (Instr.putData .east (fromPeer 0 (List.replicate 16 0)) true).wf = true ∧
    (Instr.putData .east (fromPeer 0 (List.replicate 16 0)) false).wf = false ∧
    (Instr.putData .east (fromPeer 0 [1]) true).wf = false ∧
    (Instr.putData .east { fromPeer 0 [] with vc := 4 } true).wf = false ∧
    (Instr.frameCrcFail .east false none).wf = true ∧
    (Instr.frameCrcFail .east false (some (fromPeer 0 [1]))).wf = false := by decide

theorem test_wf_recovery_port : (Instr.rvyRead 0 1).wf = true ∧ (Instr.rvyRead 0 0).wf = false ∧
    (Instr.rvyProgram 0 [1]).wf = true ∧ (Instr.rvyProgram 0 []).wf = false := by decide

/-! ## Single steps and small functions -/

/-- The command answers a next state of which a test holds. -/
def after (c : Instr) (s : State) (p : State → Bool) : Bool := match exec c s with
  | .next t => p t
  | _ => false

/-- FIPS 180-4's own example, the digest of the three letters abc. -/
theorem test_sha384_abc : sha384 [0x61, 0x62, 0x63] =
    [0xCB, 0x00, 0x75, 0x3F, 0x45, 0xA3, 0x5E, 0x8B, 0xB5, 0xA0, 0x3D, 0x69, 0x9A, 0xC6, 0x50, 0x07,
     0x27, 0x2C, 0x32, 0xAB, 0x0E, 0xDE, 0xD1, 0x63, 0x1A, 0x8B, 0x60, 0x5A, 0x43, 0xFF, 0x5B, 0xED,
     0x80, 0x86, 0x07, 0x2B, 0xA1, 0xE7, 0xCC, 0x23, 0x58, 0xBA, 0xEC, 0xA1, 0x34, 0xC8, 0x25, 0xA7] := by decide +kernel

/-- The check value of CRC-32, of the nine digits. -/
theorem test_crc32_digits : crc32 [0x31, 0x32, 0x33, 0x34, 0x35, 0x36, 0x37, 0x38, 0x39] = 0xCBF43926 := by decide +kernel

/-- R30: 1024 slots fit a ring whose slots are all free. -/
theorem test_doorbell_1024 : after (.doorbellWrite .f0 1024) up (fun t => t.hw.sq.owned.length == 1024) = true := by decide +kernel

/-- R30: 1025 do not. -/
theorem test_doorbell_1025 : after (.doorbellWrite .f0 1025) up
    (fun t => t.hw.sq.owned.isEmpty && t.hw.health.cnt.doorbellRejects == 1) = true := by decide +kernel

/-- R39: with 128 slots free the oldest slot, an EVENT_POST, completes without an event. -/
theorem test_event_post_128 : after (.eventPost (slot 7 [0x7F])) (onSq (fun q => { q with producer := 896 }) (posted up))
    (fun t => t.hw.sq.posts.isEmpty && t.hw.sq.owned.isEmpty) = true := by decide +kernel

/-- R288, R289: two quotas change and two stay. -/
theorem test_budget : after (.budget (slot 2 [3, 20000 + 3000 * 65536])) (posted up)
    (fun t => t.hw.sched.quotas == [20000, 3000, 10000, 10000]) = true := by decide +kernel

/-- R381: a STEP of minus one tick. -/
theorem test_time_step : after (.timeStep (slot 12 [2, 0xFFFFFFFF, 0xFFFFFFFF]))
    (onPower (fun p => { p with time := 7000 }) (posted up)) (fun t => t.hw.power.time == 6999) = true := by decide +kernel

/-- R385: a dip puts P5 in force and leaves the level that a slot chose. -/
theorem test_dip : after (.supplyDip .array 520) (railed up) (fun t => levelInForce t.hw == 5 && t.hw.power.plevel == 0) = true := by
  decide +kernel

/-- R389: the second account slot in a row at 130 °C holds the clock; 140 °C trips the array. -/
theorem test_heat : after (.accountSlot (List.replicate 16 2080)) (onSched (fun x => { x with hotSlots := 1 }) up)
      (fun t => t.hw.power.hotClock && !t.hw.power.tripped) = true ∧
    after (.accountSlot (List.replicate 16 2240)) up (fun t => t.hw.power.tripped) = true := by decide +kernel

/-- R415, R416: a probe slice after slice 63 is slice 0. -/
theorem test_probe_slice : after (.probeSliceComplete 0 true 0) (withCores onProbe up)
    (fun t => (coreOf t.hw 0).slice == 0 && t.hw.health.cnt.probeSlices == 1) = true := by decide +kernel

/-- R408: a program of the window clears bits of an erased byte; one that starts at 0x2000 is dropped with WINDOW_ERR. -/
theorem test_port_program : after (.rvyProgram 0x1810000 [0xF3]) (recovering { wel := true } up)
      (fun t => byteAt t .flash 0x1810000 == some 0xF3 && t.hw.rvy.busy) = true ∧
    after (.rvyProgram 0x2000 [1]) (recovering { wel := true } up)
      (fun t => byteAt t .flash 0x2000 == some 0xFF && t.hw.rvy.windowErr) = true := by decide +kernel

/-- R422, R425: ACK clears the four causes that are ACK bits and no other. -/
theorem test_ack : after (.healthReadAck (slot 10 [2, 0xFFFF])) (onHealth (fun h => { h with causes := 8191 }) (posted up))
    (fun t => t.hw.health.causes == 8191 - (64 + 256 + 512 + 1024)) = true := by decide +kernel

/-- R340: LINK_NAK replays what follows the last good frame. -/
theorem test_nak : after (.linkNak .east (frame 4 3 []))
    (inRing { formed with east := { upPort with retry := [{ lseq := 3 }, { lseq := 4 }] } } up)
    (fun t => t.hw.sent.map (fun x => x.2.lseq) == [4]) = true := by decide +kernel

/-- R325: a member applies the unit that follows the last one. -/
theorem test_unit : after (.winUnit .west { frame 5 1 (unit 64 [1, 2, 3]) with crossed := true })
    (inRing { formed with winOpen := true } up)
    (fun t => bytesAt t .window 64 3 == [1, 2, 3] && t.hw.ring.winSeq == 1) = true := by decide +kernel

/-- R352: a PUT leaves its bytes where it says. -/
theorem test_put : after (.putData .west { frame 4 0x100 [1, 2, 3, 4] with addrHi := 0 } true) (inRing formed up)
    (fun t => bytesAt t .dram 0x100 4 == [1, 2, 3, 4]) = true := by decide +kernel

/-- R60: a full-scale sine at a tap's centre, over whole half-periods of a 10 ms beat at GAIN 0, gives 41,721; half of full
scale is a half and rounds up. -/
theorem test_tap_code : tapCode 0 245760 (12732395447 / 10000000000 * 245760) 0 = 41721 ∧
    linearCode 0 1 = 32768 := by decide +kernel

/-- R332: four lanes are lanes 0 to 3 where they all pass, else 4 to 7; two are the first pair that passes. -/
theorem test_lanes : chooseLanes 8 0x7F = some (4, 0x0F) ∧ chooseLanes 8 0xF7 = some (4, 0xF0) ∧
    chooseLanes 8 0x34 = some (2, 0x30) ∧ chooseLanes 2 0xFF = some (2, 0x03) ∧ chooseLanes 8 0x5A = none := by decide

/-- R358, R364: a device without work goes IDLE and gates its empty islands. -/
theorem test_idle : after .idleEntry (withCores { powered := true } up)
    (fun t => t.hw.power.dev == .idle && t.hw.sched.cores.all (fun c => !c.powered)) = true := by decide +kernel

/-- R392: the signed image of an installed node is accepted, and not under another key. -/
theorem test_image : (slotImage (installed up).mem (installed up).hw activeBase).isSome = true ∧
    (let s := onBoard (fun b => { b with keyHash := [] }) (installed up)
    slotImage s.mem s.hw activeBase = none) := by decide +kernel

/-- No row of the table gives bits. -/
theorem test_no_word : decodeTableWord 32 0 = none := by decide

/-- Every quota is zero right after reset. -/
theorem test_ZeroQuotaAdmitsNothing_is_met : State.reset.hw.sched.quotas.getD 0 0 = 0 := by decide

/-- AON without power, a latch that is set at an edge of RESET_N, one that is clear in reset and one that is clear at a boot. -/
theorem test_TheWakeFailLatchClears_is_met :
    (let s := onBoard (fun b => { b with aonOn := false }) State.reset
     Settled s ∧ s.hw.board.aonOn = false) ∧
    (let s := onPower (fun p => { p with wakeFail := some (default, 0) }) State.reset
     Settled s ∧ s.hw.board.aonOn ∧ s.hw.board.resetN = false ∧ s.hw.board.railLow = none ∧ s.hw.power.wakeFail.isSome) ∧
    (let s := onBoard (fun b => { b with resetN := true }) State.reset
     Settled s ∧ s.hw.board.aonOn ∧ s.hw.board.resetN ∧ s.hw.power.wakeFail = none) := by decide

/-- R380: the edge that meets a latch leads to RECOVERY with the cause, and the latch is clear. -/
theorem test_wake_fail_edge :
    after (.resetNRise {}) (onPower (fun p => { p with wakeFail := some (default, 0) }) State.reset)
      (fun t => t.hw.power.dev == .recovery && t.hw.power.cause == some .wakeFail && t.hw.power.wakeFail.isNone) = true := by
  decide +kernel

end Sys2Proof.Tests
end

/-! PROOFS. What every step keeps of the outboxes and of the event queue. -/

namespace Sys2Proof.Proofs

open Sys2Proof Sys2Proof.Machine Sys2Proof.Laws

/-- The end of a command carries out every outbox (log 8). -/
theorem commit_settled (s : State) (h : Hw) : Settled (commit s h) := ⟨rfl, rfl, rfl, rfl⟩

/-- No command's end leaves more than 64 events waiting (R38). -/
theorem commit_finish_queueFits (s : State) (h : Hw) : QueueFits (commit s (finish h)) := Run.finish_queue_length h

/-- A tick leaves the outboxes and the event queue alone. -/
theorem box_tick (s : State) : Exec.box (tick s).hw = Exec.box s.hw := Exec.box_pass 1 s.hw

theorem settled_of_box {s t : State} (e : Exec.box t.hw = Exec.box s.hw) (hs : Settled s) : Settled t := by
  obtain ⟨hw, hwi, hra, hre, -⟩ : _ ∧ _ ∧ _ ∧ _ ∧ _ := by simpa only [Exec.box, Prod.mk.injEq] using e
  exact ⟨hw.trans hs.1, hwi.trans hs.2.1, hra.trans hs.2.2.1, hre.trans hs.2.2.2⟩

theorem queueFits_of_box {s t : State} (e : Exec.box t.hw = Exec.box s.hw) (hs : QueueFits s) : QueueFits t := by
  have hq : t.hw.sq.queue = s.hw.sq.queue := congrArg (fun b => b.2.2.2.2) e
  rw [QueueFits, hq]
  exact hs

/-- What a step answers: the end of an effect, or the outboxes and the event queue as they were. -/
theorem step_ends_or_keeps_box {s t : State} (e : step s = .next t) :
    (∃ u h, t = commit u (finish h)) ∨ Exec.box t.hw = Exec.box s.hw := by
  unfold step at e
  split at e
  · cases e
    exact .inr (box_tick s)
  next c rest _ =>
    rcases Exec.exec_answers c { s with pending := rest } with ⟨h, eh⟩ | ⟨h, eh, hb⟩
    · rw [eh] at e
      cases e
      exact .inl ⟨_, h, rfl⟩
    · rw [eh] at e
      cases e
      exact .inr hb

/-- Settles O4: a step ends an effect, which empties the outboxes and queues at most 64 events, or touches neither. -/
theorem stepKeepsWhatIsReportedBounded : Obligations.StepKeepsWhatIsReportedBounded := by
  unfold Obligations.StepKeepsWhatIsReportedBounded
  constructor
  · intro s t hs e
    rcases step_ends_or_keeps_box e with ⟨u, h, rfl⟩ | hb
    · exact commit_settled u (finish h)
    · exact settled_of_box hb hs
  · intro s t hs e
    rcases step_ends_or_keeps_box e with ⟨u, h, rfl⟩ | hb
    · exact commit_finish_queueFits u h
    · exact queueFits_of_box hb hs

end Sys2Proof.Proofs

/-! PROOFS. The input pins and the vehicle supply. -/

namespace Sys2Proof.Proofs

open Sys2Proof Sys2Proof.Machine Sys2Proof.Laws

/-! ## Calibration, as VSENSE_HV meets it -/

/-- The start of a run's next turn, or the run's end, changes calibration and completes at most the run's slot (R134). -/
theorem calNext_eq (r : CalRun) (cs : List Nat) (h : Hw) : ∃ c rs, calNext r cs h = { h with cal := c, records := rs } := by
  induction cs generalizing r with
  | nil =>
    simp only [calNext, endRun, completeOwned]
    repeat' split
    all_goals exact ⟨_, _, rfl⟩
  | cons x xs ih =>
    simp only [calNext]
    split
    · exact ⟨_, _, rfl⟩
    · exact ih _

/-- HV_LOW during a turn changes calibration and releases the spare (R134). -/
theorem calHvLow_eq (h : Hw) : ∃ c a b rs, calHvLow h =
    { h with cal := c, drum := { h.drum with spareFor := a, spareSeen := b }, records := rs } := by
  have turnEnds (r : CalRun) (b : Bool) : ∃ c x y rs,
      (if b then calNext { r with skippedMask := setBit r.skippedMask r.channel true } r.rest
        (releaseSpare true (restoreOld r h)) else h) =
      { h with cal := c, drum := { h.drum with spareFor := x, spareSeen := y }, records := rs } := by
    split
    · obtain ⟨c, rs, e⟩ := calNext_eq { r with skippedMask := setBit r.skippedMask r.channel true } r.rest
        (releaseSpare true (restoreOld r h))
      exact ⟨c, _, _, rs, e⟩
    · exact ⟨_, _, _, _, rfl⟩
  unfold calHvLow
  split
  · exact turnEnds _ _
  · exact ⟨_, _, _, _, rfl⟩

/-! ## The end of a run command, field by field -/

theorem commit_finish_board (s : State) (h : Hw) : (commit s (Machine.finish h)).hw.board = h.board := Run.finish_board h
theorem commit_finish_drum (s : State) (h : Hw) : (commit s (Machine.finish h)).hw.drum = h.drum := Run.finish_drum h

/-- A run command whose effect changes nothing leaves all but the reports as it was. -/
theorem run_id_only (s : State) : OnlyChanges reporting s (commit s (Machine.finish { s.hw with sent := [] })) :=
  Slots.run_only [] s _ rfl

/-- VSENSE_HV below its threshold, whatever the loss does to the inputs (R21, R69, R134). -/
theorem hvFall_run (s : State) (b : Board) :
    let t := commit s (Machine.finish (calHvLow (hvFall { s.hw with sent := [], board := b })))
    t.hw.board = { b with hvLow := true } ∧ t.hw.drum.hvLowSeen = true ∧
      t.hw.drum.channels = s.hw.drum.channels.map hvFallChannel ∧
      OnlyChanges (reporting ++ [Portion.board, Portion.drum, Portion.cal]) s t := by
  obtain ⟨c, x, y, rs, e⟩ := calHvLow_eq (hvFall { s.hw with sent := [], board := b })
  rw [e]
  dsimp only
  rw [commit_finish_board, commit_finish_drum]
  exact ⟨rfl, rfl, rfl, Slots.run_only [Portion.board, Portion.drum, Portion.cal] s _ rfl⟩

/-- The vehicle-input block takes a level where it is powered (R20). -/
theorem quiet_board {f : Hw → Hw} {s : State} {p : Prop} [Decidable p] {b : Board}
    (e : f { s.hw with sent := [] } = if p then { s.hw with sent := [], board := b } else { s.hw with sent := [] }) :
    quiet f s = .next { s with hw := { s.hw with sent := [], board := if p then b else s.hw.board } } := by
  rw [Run.quiet_answers, e]
  split <;> rfl

theorem inputsPowered_iff (h : Hw) : inputsPowered h = true ↔ h.board.hvPresent = true ∧ h.board.aonOn = true := by
  simp only [inputsPowered, Bool.and_eq_true]

/-- Settles O6, clause by clause. -/
theorem inputPinsReachTheirRegisters : Obligations.InputPinsReachTheirRegisters := by
  unfold Obligations.InputPinsReachTheirRegisters
  refine ⟨⟨?_, ?_, ?_, fun _ => rfl, fun _ => rfl, fun _ => rfl, fun _ _ _ _ => rfl⟩, ?_, ?_, ?_⟩
  · intro s l
    exact quiet_board (by simp only [inputsPowered_iff])
  · intro s l
    exact quiet_board (by simp only [inputsPowered_iff])
  · intro s v
    exact quiet_board (by simp only [inputsPowered_iff])
  · intro s mv
    constructor
    · intro hmv
      refine ⟨_, rfl, ?_⟩
      simp only [mayFallLow, hmv, decide_true, if_true]
      exact hvFall_run s s.hw.board
    · intro hmv
      refine ⟨_, rfl, ?_⟩
      simp only [mayFallLow, Nat.not_lt.2 hmv, decide_false, Bool.false_eq_true, if_false]
      exact run_id_only s
  · intro s
    exact ⟨_, rfl, hvFall_run s (inputsAbsent s.hw.board)⟩
  · intro s mv
    constructor
    · intro hmv
      refine ⟨_, rfl, ?_⟩
      simp only [mayRiseBack, hmv, decide_true, if_true]
      rw [commit_finish_board, commit_finish_drum]
      exact ⟨rfl, rfl, Slots.run_only [Portion.board, Portion.drum] s _ rfl⟩
    · intro hmv
      refine ⟨_, rfl, ?_⟩
      simp only [mayRiseBack, Nat.not_lt.2 hmv, decide_false, Bool.false_eq_true, if_false]
      exact run_id_only s

end Sys2Proof.Proofs

/-! PROOFS. The end of a command where nothing is held: what it leaves as it was, and what it makes of one record. -/

namespace Sys2Proof.Proofs

open Sys2Proof Sys2Proof.Machine Sys2Proof.Laws

/-! ## Hardware with nothing to carry out -/

/-- The outboxes are empty, no EVENT_POST is held and no record waits for the ring. -/
structure Clear (h : Hw) : Prop where
  writes : h.writes = []
  wipe : h.wipe = none
  raised : h.raised = []
  records : h.records = []
  posts : h.sq.posts = []
  held : h.sq.heldRecords = []

/-- As a command's effect meets a state in which nothing is held. -/
theorem clear_of_nothingHeld {s : State} (hs : NothingHeld s) : Clear { s.hw with sent := [] } := by
  obtain ⟨⟨hw, hi, ha, hr⟩, hp, hh⟩ := hs
  exact ⟨hw, hi, ha, hr, hp, hh⟩

/-! ## A command that reports nothing -/

/-- Nothing to carry out: the state is the command's hardware. -/
theorem commit_clear (s : State) {h : Hw} (c : Clear h) : commit s h = { s with hw := h } := by
  obtain ⟨hw, hi, ha, hr, -, -⟩ := c
  have e : { h with writes := [], wipe := none, raised := [], records := [] } = h := by rw [← hw, ← hi, ← ha, ← hr]
  simp only [commit, e, hw, hi, applyWrites, wipeMems, List.foldl_nil]

/-- Events that no EVENT_POST takes go back into the queue in their order (R38). -/
theorem foldl_deliver_requeues (es : List Event) (h : Hw) (hp : h.sq.posts = [])
    (hq : h.sq.queue.length + es.length ≤ 64) :
    (es.map fun e => ({ event := some e } : Raised)).foldl deliver h =
      { h with sq := { h.sq with queue := h.sq.queue ++ es } } := by
  induction es generalizing h with
  | nil => simp
  | cons e es ih =>
    simp only [List.length_cons] at hq
    have one : deliver h { event := some e } = { h with sq := { h.sq with queue := h.sq.queue ++ [e] } } := by
      have room : h.sq.queue.length < 64 := by omega
      simp only [deliver, deliverEvent, hp, List.find?_nil, enqueue, room, if_true, ite_self]
    have rest := ih { h with sq := { h.sq with queue := h.sq.queue ++ [e] } } hp (by simp; omega)
    rw [List.map_cons, List.foldl_cons, one, rest]
    simp

/-- Where nothing is held, the end of a command that neither completes nor raises anything does nothing. -/
theorem finish_unreported {h : Hw} (c : Clear h) (hq : h.sq.queue.length ≤ 64) : Machine.finish h = h := by
  obtain ⟨-, -, ha, hr, hp, hh⟩ := c
  have d := foldl_deliver_requeues h.sq.queue
    { h with records := [], raised := [], sq := { h.sq with queue := [] } } hp (by simpa using hq)
  simp only [Machine.finish, Run.flushHeld_nil h hh, hr, ha, List.foldl_nil, List.append_nil]
  rw [d, Run.releasePosts_nil]
  · simp only [List.nil_append, ← hr, ← ha]
  · exact hp

/-! ## Fields that the end of a command keeps -/

theorem commit_finish_producer (s : State) (h : Hw) :
    (commit s (Machine.finish h)).hw.sq.producer = h.sq.producer := Run.finish_producer h
theorem commit_finish_fetch (s : State) (h : Hw) : (commit s (Machine.finish h)).hw.sq.fetch = h.sq.fetch :=
  Run.finish_fetch h

/-- A counter other than that of lost events. -/
theorem commit_finish_doorbellRejects (s : State) (h : Hw) :
    (commit s (Machine.finish h)).hw.health.cnt.doorbellRejects = h.health.cnt.doorbellRejects := by
  have e := congrArg Counters.doorbellRejects (Run.finish_cnt h)
  exact e

/-! ## A command that completes nothing -/

/-- Where nothing is held and nothing completes, no byte of memory changes and every slot stays as owned as it was. -/
theorem commit_finish_raises (s : State) (h : Hw) (hw : h.writes = []) (hi : h.wipe = none) (hr : h.records = [])
    (hp : h.sq.posts = []) (hh : h.sq.heldRecords = []) (hq : h.sq.queue.length + h.raised.length ≤ 64) :
    (commit s (Machine.finish h)).mem = s.mem ∧ (commit s (Machine.finish h)).hw.sq.owned = h.sq.owned := by
  obtain ⟨fw, fo, -, -⟩ := Run.finish_plain h hp hh (.inr hr) hq
  rw [hw, hr] at fw
  rw [hr] at fo
  refine ⟨?_, fo⟩
  simp only [commit, Run.finish_wipe, hi, fw, wipeMems, applyWrites, List.map_nil, List.append_nil, List.foldl_nil]

/-! ## What an effect raises -/

/-- An effect has raised an event with a status and a detail. -/
def Raises (h : Hw) (st : Status) (d : Detail) : Prop :=
  ∃ r ∈ h.raised, ∃ e, r.event = some e ∧ e.status = st ∧ e.detail = d

theorem raises_raiseHealth (d : Detail) (subject cls p0 p1 : Nat) (h : Hw) :
    Raises (raiseHealth d subject cls p0 p1 h) .eventHealth d :=
  ⟨_, List.mem_append_right _ (List.mem_singleton_self _), _, rfl, rfl, rfl⟩

theorem raises_raiseEvent (st : Status) (d : Detail) (ws : List Word) (h : Hw) : Raises (raiseEvent st d ws h) st d :=
  ⟨_, List.mem_append_right _ (List.mem_singleton_self _), _, rfl, rfl, rfl⟩

/-- Where no EVENT_POST is held and there is room, what an effect has raised is reported. -/
theorem reports_of_raises (s : State) {h : Hw} {st : Status} {d : Detail} (hr : Raises h st d) (hp : h.sq.posts = [])
    (hh : h.sq.heldRecords = []) (hw : h.writesRecords = true ∨ h.records = [])
    (hq : h.sq.queue.length + h.raised.length ≤ 64) : Reports (commit s (Machine.finish h)) st d := by
  obtain ⟨r, mem, e, he, rfl, rfl⟩ := hr
  exact Run.commit_reports s h r e mem he hp hh hw hq

/-! ## The doorbell (R29 to R31) -/

/-- The frame of a doorbell write. -/
theorem blank_doorbell (m v : Nat) (h : Hw) :
    blank (reporting ++ [Portion.slots, Portion.health]) (doorbell m v h) =
      blank (reporting ++ [Portion.slots, Portion.health]) h := by
  unfold doorbell
  split <;> rfl

theorem doorbell_of_accepts {m v : Nat} {h : Hw} (ha : doorbellAccepts h v = true) :
    doorbell m v h = { h with sq := { h.sq with
      producer := v, owned := h.sq.owned ++ newlyOwned h.sq.producer m ((v + 65536 - h.sq.producer) % 65536) } } :=
  if_pos ha

theorem doorbell_of_not_accepts {m v : Nat} {h : Hw} (ha : doorbellAccepts h v = false) :
    doorbell m v h = raiseHealth .doorbellReject 0 0 v h.sq.producer
      { h with health := { h.health with cnt := { h.health.cnt with
          doorbellRejects := satAdd 16 h.health.cnt.doorbellRejects 1 } } } :=
  if_neg (Bool.eq_false_iff.1 ha)

/-- A doorbell write that is accepted moves P and hands over the slots in between, and no more. -/
theorem commit_doorbell_accepted (s : State) {h : Hw} {m v : Nat} (ha : doorbellAccepts h v = true) (c : Clear h)
    (hq : h.sq.queue.length ≤ 64) : commit s (Machine.finish (doorbell m v h)) = { s with hw := { h with
      sq := { h.sq with
        producer := v, owned := h.sq.owned ++ newlyOwned h.sq.producer m ((v + 65536 - h.sq.producer) % 65536) } } } := by
  have c' : Clear (doorbell m v h) := by
    rw [doorbell_of_accepts ha]
    exact ⟨c.writes, c.wipe, c.raised, c.records, c.posts, c.held⟩
  have q : (doorbell m v h).sq.queue = h.sq.queue := by rw [doorbell_of_accepts ha]
  rw [finish_unreported c' (q ▸ hq), commit_clear s c', doorbell_of_accepts ha]

/-- A doorbell write that is not accepted is counted and reported, and changes nothing else. -/
theorem commit_doorbell_rejected (s : State) {h : Hw} {m v : Nat} (ha : doorbellAccepts h v = false) (c : Clear h)
    (hq : h.sq.queue.length ≤ 63) :
    let t := commit s (Machine.finish (doorbell m v h))
    t.hw.sq.producer = h.sq.producer ∧ t.hw.sq.owned = h.sq.owned ∧ t.mem = s.mem ∧
      t.hw.health.cnt.doorbellRejects = min (h.health.cnt.doorbellRejects + 1) 65535 ∧
      Reports t .eventHealth .doorbellReject := by
  have e := doorbell_of_not_accepts (m := m) ha
  generalize doorbell m v h = g at e ⊢
  have one : g.raised.length = 1 := by rw [e]; simp [raiseHealth, c.raised]
  have room : g.sq.queue.length + g.raised.length ≤ 64 := by
    have : g.sq.queue = h.sq.queue := by rw [e]; rfl
    rw [this]
    omega
  have posts : g.sq.posts = [] := by rw [e]; exact c.posts
  have held : g.sq.heldRecords = [] := by rw [e]; exact c.held
  have records : g.records = [] := by rw [e]; exact c.records
  obtain ⟨em, eo⟩ := commit_finish_raises s g (by rw [e]; exact c.writes) (by rw [e]; exact c.wipe) records posts held room
  refine ⟨?_, ?_, em, ?_, ?_⟩
  · rw [commit_finish_producer, e]
    rfl
  · rw [eo, e]
    rfl
  · rw [commit_finish_doorbellRejects, e]
    rfl
  · exact reports_of_raises s (e ▸ raises_raiseHealth _ _ _ _ _ _) posts held (.inr records) room

/-- Settles O7: R30's test is `doorbellAccepts`, and each of its outcomes is a lemma above. -/
theorem doorbellJudgesTheProducerIndex : Obligations.DoorbellJudgesTheProducerIndex := by
  unfold Obligations.DoorbellJudgesTheProducerIndex
  constructor
  · intro s fn v seen hs p o n accepted
    have test : doorbellAccepts s.hw v.toNat = true ↔ accepted := by
      simp only [doorbellAccepts, Bool.and_eq_true, decide_eq_true_eq]
      exact Iff.rfl
    obtain ⟨h, eh⟩ : ∃ h : Hw, h = { s.hw with sent := [] } := ⟨_, rfl⟩
    have answer : exec (.doorbellWrite fn v) s = .next (commit s (Machine.finish (doorbell (fnMaster fn) v.toNat h))) := by
      rw [eh]
      exact congrArg (fun g => Host.Outcome.next (commit s (Machine.finish g))) (if_pos seen)
    have c : Clear h := by rw [eh]; exact clear_of_nothingHeld hs.1
    have room : h.sq.queue.length ≤ 32 := by rw [eh]; exact hs.2
    refine ⟨_, answer, ?_, ?_, ?_⟩
    · refine Slots.run_only [.slots, .health] s _ ((blank_doorbell _ _ h).trans ?_)
      rw [eh]
      rfl
    · intro ha
      have fits : doorbellAccepts h v.toNat = true := by rw [eh]; exact test.2 ha
      rw [commit_doorbell_accepted s fits c (by omega), eh]
      refine ⟨rfl, rfl, rfl, rfl, ?_⟩
      intro hv
      simp [newlyOwned, hv, p]
    · intro hn
      have fails : doorbellAccepts h v.toNat = false := by
        rw [eh]
        exact Bool.eq_false_iff.2 fun ha => hn (test.1 ha)
      have r := commit_doorbell_rejected s (m := fnMaster fn) fails c (by omega)
      rw [eh] at r ⊢
      exact r
  · intro s fn v unseen hs hq
    have c := clear_of_nothingHeld hs
    have answer : exec (.doorbellWrite fn v) s = .next (commit s (Machine.finish { s.hw with sent := [] })) :=
      congrArg (fun g => Host.Outcome.next (commit s (Machine.finish g))) (if_neg (Bool.eq_false_iff.1 unseen))
    have empty : s.hw.sq.queue.length ≤ 64 := by rw [hq]; decide
    rw [answer, finish_unreported c empty, commit_clear s c]

end Sys2Proof.Proofs

/-! PROOFS. Slots: what a fetched slot that R34 refuses leaves, and a slot whose fetch fails. -/

namespace Sys2Proof.Proofs

open Sys2Proof Sys2Proof.Machine Sys2Proof.Laws

/-! ## One record -/

/-- A record that is written is in its slot when the command ends, and the slot is the host's (R28, R35). -/
theorem completes_writeRecord (s : State) (g : Hw) (r : Record) : Completes (commit s (writeRecord r g)) r := by
  constructor
  · have last := Run.read_last (wipeMems g.wipe s.mem) g.writes
      ⟨ringSpace g, slotAddr g r.pos, wordsBytes ((stampLevel g r).words g.power.time)⟩
    have long : (wordsBytes ((stampLevel g r).words g.power.time)).length = 128 := by
      rw [Run.wordsBytes_length, Run.words_length]
    rwa [long] at last
  · intro o ho
    simpa using (List.mem_filter.1 (show o ∈ g.sq.owned.filter (fun x => x.pos != r.pos) from ho)).2

/-- An effect that completes one slot and wipes nothing writes nothing but that slot's record. -/
theorem commit_finishes (s : State) {h : Hw} {r : Record} (hw : h.writes = []) (hi : h.wipe = none) (hr : h.records = [r])
    (hp : h.sq.posts = []) (hh : h.sq.heldRecords = []) (hq : h.sq.queue.length + h.raised.length ≤ 64)
    (wr : h.writesRecords = true) (him : h.image = s.hw.image) : Finishes s (commit s (Machine.finish h)) r := by
  refine ⟨Run.commit_completes s h r hr hp hh wr hq, ?_⟩
  obtain ⟨fw, -, -, -⟩ := Run.finish_plain h hp hh (.inl wr) hq
  rw [hw, hr] at fw
  have space : ringSpace h = ringSpace s.hw := by simp only [ringSpace, him]
  have addr : slotAddr h r.pos = slotAddr s.hw r.pos := by simp only [slotAddr, him]
  have mem : (commit s (Machine.finish h)).mem = applyWrites s.mem
      [⟨ringSpace s.hw, slotAddr s.hw r.pos, wordsBytes ((stampLevel h r).words h.power.time)⟩] := by
    simp only [commit, Run.finish_wipe, hi, wipeMems, fw, List.nil_append, List.map_cons, List.map_nil, space, addr]
  intro sp b out
  rw [byteAt, mem]
  refine Run.read_outside _ _ _ _ ?_
  intro w hw same
  obtain rfl := List.mem_singleton.1 hw
  rw [Run.wordsBytes_length, Run.words_length]
  exact out.resolve_left (fun ne => ne same.symm)

/-! ## A fetch -/

/-- What a slot that can be fetched says of the device: CTRL serves and the ring is within reach (R34). -/
theorem reach_of_nextSlot {h : Hw} {o : Owned} (hn : nextSlot h = some o) : h.ringReach = true ∧ h.power.ctrlOn = true := by
  unfold nextSlot at hn
  split at hn
  next can =>
    simp only [Hw.up, Bool.and_eq_true] at can
    exact ⟨can.1.2, can.1.1.1.1⟩
  · cases hn

theorem nextSlot_of_fetches {s : State} {slot : Slot} {f : Fetched} (hf : Fetches s slot f) :
    ∃ o, nextSlot s.hw = some o ∧ o.pos = f.pos ∧ o.master = f.master := by
  obtain ⟨o, ho, e⟩ := Option.map_eq_some_iff.1 hf.1
  exact ⟨o, ho, Prod.mk.inj e⟩

/-- Records can be written while a slot can be fetched and no entry is in progress. -/
theorem writesRecords_of_reach {h : Hw} (hr : h.ringReach = true) (hc : h.power.ctrlOn = true)
    (he : h.power.entry = none) : h.writesRecords = true := by
  simp only [Hw.writesRecords, Hw.saving, hr, hc, he, Bool.not_false, Bool.and_self]

/-- A slot that is fetched without an error, by the checks of R34 in their order. -/
theorem withSlotOf_fetches {s : State} {slot : Slot} {f : Fetched} (hf : Fetches s slot f)
    (res : Fetched → Hw → List Word) (mine : List Word → Bool) (act : Mems → Fetched → Hw → Hw)
    (hm : mine f.words = true) :
    withSlotOf res mine slot act s.mem { s.hw with sent := [] } =
      if slotFormatOk f.words = false then
        complete (f.record .refusedFormat .none (res f (Slots.begun f s.hw))) (Slots.begun f s.hw)
      else if slotPermitted s.hw (slotKind f.words) f.master = false then
        complete (f.record .refusedAccess .none (res f (Slots.begun f s.hw))) (Slots.begun f s.hw)
      else act s.mem f (Slots.begun f s.hw) := by
  obtain ⟨o, ho, hpos, hmas⟩ := nextSlot_of_fetches hf
  obtain ⟨-, words, clean⟩ := hf
  obtain ⟨g, hg⟩ : ∃ g : Hw, g = { s.hw with sent := [] } := ⟨_, rfl⟩
  have next : nextSlot g = some o := by rw [hg]; exact ho
  have inDram : g.image.system.sqInDram = s.hw.image.system.sqInDram := by rw [hg]
  have read : slotWords s.mem g f.pos slot = f.words := by rw [hg]; exact words
  have fixed : (if g.image.system.sqInDram = true then corrected .dram slot.fixed g else g) = g := by
    split
    next hd => rw [(clean (inDram ▸ hd)).2.1]; rfl
    · rfl
  have good : (g.image.system.sqInDram && slot.bad) = false := by
    cases hd : g.image.system.sqInDram
    · rfl
    · rw [(clean (inDram ▸ hd)).1]; rfl
  have noHit : (g.image.system.sqInDram && hitsBad g .dram (slotAddr g f.pos) 128) = false := by
    cases hd : g.image.system.sqInDram
    · rfl
    · rw [hg]
      exact (clean (inDram ▸ hd)).2.2
  have start : startSlot o (slotKind f.words) (wordAt f.words 1) g = Slots.begun f s.hw := by
    rw [Slots.begun, ← hg]
    simp only [startSlot, hpos]
  have perm : slotPermitted (Slots.begun f s.hw) (slotKind f.words) f.master =
      slotPermitted s.hw (slotKind f.words) f.master := by
    simp only [slotPermitted, Slots.begun, Slots.startSlot_image]
  rw [← hg]
  simp only [withSlotOf, next, fixed, good, noHit, read, hm, start, hpos, hmas, perm, Bool.false_eq_true, if_false, if_true,
    Bool.not_eq_true']

/-! ## A slot that R34 refuses -/

/-- Nothing of the RESULT words of R251, R289 and R302 depends on what the start of a slot changes. -/
theorem kindWords_begun (f : Fetched) (h : Hw) : kindWords f (Slots.begun f h) = kindWords f h := by
  rw [Slots.begun_eq]
  rfl

/-- A slot that completes as it starts: its record alone is written, and the next slot is fetched. -/
theorem begun_completes {s : State} {slot : Slot} {f : Fetched} (hf : Fetches s slot f) (hs : RoomToReport s)
    (he : s.hw.power.entry = none) (r : Record) :
    let t := commit s (Machine.finish (complete r (Slots.begun f s.hw)))
    Finishes s t r ∧ t.hw.sq.fetch = (s.hw.sq.fetch + 1) % 65536 ∧ t.hw.sq.posts = [] ∧
      OnlyChanges (reporting ++ [Portion.slots, Portion.power]) s t := by
  obtain ⟨o, ho, -⟩ := nextSlot_of_fetches hf
  obtain ⟨reach, on⟩ := reach_of_nextSlot ho
  obtain ⟨⟨⟨hw, hi, hra, hre⟩, hp, hh⟩, hq⟩ := hs
  have begun := Slots.begun_eq f s.hw
  generalize Slots.begun f s.hw = g at begun ⊢
  have posts : (complete r g).sq.posts = [] := by rw [begun]; exact hp
  have held : (complete r g).sq.heldRecords = [] := by rw [begun]; exact hh
  have records : (complete r g).records = [r] := by rw [begun]; simp [hre]
  have room : (complete r g).sq.queue.length + (complete r g).raised.length ≤ 64 := by
    rw [begun]
    simp only [complete_sq, complete_raised, hra, List.length_nil]
    omega
  have writes : (complete r g).writesRecords = true := by
    rw [begun]
    exact writesRecords_of_reach reach on he
  refine ⟨?_, ?_, (Run.finish_plain _ posts held (.inl writes) room).2.2.2, ?_⟩
  · exact commit_finishes s (by rw [begun]; exact hw) (by rw [begun]; exact hi) records posts held room writes
      (by rw [begun]; rfl)
  · rw [commit_finish_fetch, begun]
    rfl
  · refine Slots.run_only [.slots, .power] s _ ?_
    rw [begun]
    rfl

/-! ## A slot whose fetch fails (R328) -/

/-- Corrected errors change counts of health and raise one event at most, ECC_STORM (R422, R428). -/
theorem corrected_eq (x : Memory) (n : Nat) (h : Hw) : ∃ storm win cnt causes raised, corrected x n h =
    { h with health := { h.health with storm := storm, stormWin := win, cnt := cnt, causes := causes }, raised := raised } ∧
      raised.length ≤ h.raised.length + 1 := by
  simp only [corrected]
  generalize (if h.health.stormWin = h.power.time / ticksPerSecond then fitTo 6 0 h.health.storm
    else List.replicate 6 0) = old
  split
  · exact ⟨_, _, _, _, _, rfl, Nat.le_succ _⟩
  · split
    · exact ⟨_, _, _, _, _, rfl, by simp [raiseHealth]⟩
    · exact ⟨_, _, _, _, _, rfl, Nat.le_succ _⟩

/-- A range that meets a bad unit still does when more units are bad. -/
theorem hitsBad_markBad {h : Hw} {sp : Space} {a n : Nat} (as : List Nat) (hb : hitsBad h sp a n = true) :
    hitsBad (markBad as h) sp a n = true := by
  obtain ⟨u, hu, meets⟩ := List.any_eq_true.1 hb
  refine List.any_eq_true.2 ⟨u, ?_, meets⟩
  exact List.mem_eraseDups.2 (List.mem_append_left _ hu)

/-- What a failed fetch leaves of the hardware: the slot has started, and at most the count of corrected errors and the
marks of bad units have changed besides. -/
structure FailedFetch (o : Owned) (h g : Hw) : Prop where
  fetch : g.sq.fetch = (h.sq.fetch + 1) % 65536
  posts : g.sq.posts = h.sq.posts
  held : g.sq.heldRecords = h.sq.heldRecords
  queue : g.sq.queue = h.sq.queue
  linkUp : g.sq.linkUp = h.sq.linkUp
  image : g.image = h.image
  ctrlOn : g.power.ctrlOn = h.power.ctrlOn
  entry : g.power.entry = h.power.entry
  records : g.records = h.records
  raised : g.raised.length ≤ h.raised.length + 1

/-- The start of a slot moves the fetch position, marks the slot and may end IDLE (R34, R364). -/
theorem startSlot_eq (o : Owned) (k : Nat) (t : Word) (h : Hw) : ∃ dev, startSlot o k t h = { h with
    sq := { h.sq with
      fetch := (h.sq.fetch + 1) % 65536
      owned := h.sq.owned.map fun x => if x.pos = o.pos then { x with started := true, kind := k, tag := t } else x }
    power := { h.power with dev := dev } } := by
  simp only [startSlot, goActive]
  repeat' split
  all_goals exact ⟨_, rfl⟩

theorem startSlot_failedFetch (o : Owned) (k : Nat) (t : Word) {h g : Hw} (hsq : g.sq = h.sq) (hi : g.image = h.image)
    (hp : g.power = h.power) (hr : g.records = h.records) (ha : g.raised.length ≤ h.raised.length + 1) :
    FailedFetch o h (startSlot o k t g) := by
  obtain ⟨dev, e⟩ := startSlot_eq o k t g
  rw [e]
  refine ⟨?_, ?_, ?_, ?_, ?_, hi, ?_, ?_, hr, ha⟩
  all_goals simp only [hsq, hp]

/-- A slot in DRAM that meets an uncorrectable error completes with FAIL_ECC, its KIND and TAG being free (log 13). -/
theorem withSlotOf_failEcc {h : Hw} {o : Owned} (hn : nextSlot h = some o) (hd : h.image.system.sqInDram = true)
    (hb : hitsBad h .dram (slotAddr h o.pos) 128 = true) (res : Fetched → Hw → List Word) (mine : List Word → Bool)
    (slot : Slot) (act : Mems → Fetched → Hw → Hw) (m : Mems) :
    ∃ k tag g, k < 256 ∧ FailedFetch o h g ∧ ∃ a, withSlotOf res mine slot act m h =
      complete { pos := o.pos, kind := k, status := .failEcc, tag := tag } (uncorrected .dram a g) := by
  obtain ⟨g, hg⟩ : ∃ g, g = if slot.bad = true then markBad [slotAddr h o.pos] (corrected .dram slot.fixed h)
      else corrected .dram slot.fixed h := ⟨_, rfl⟩
  obtain ⟨storm, win, cnt, causes, raised, fixed, short⟩ := corrected_eq .dram slot.fixed h
  have same : g.sq = h.sq ∧ g.image = h.image ∧ g.power = h.power ∧ g.records = h.records ∧
      g.raised.length ≤ h.raised.length + 1 := by
    rw [hg, fixed]
    split <;> exact ⟨rfl, rfl, rfl, rfl, short⟩
  have hit : hitsBad g .dram (slotAddr h o.pos) 128 = true := by
    rw [hg, fixed]
    split
    · exact hitsBad_markBad _ hb
    · exact hb
  obtain ⟨hsq, hi, hp, hr, ha⟩ := same
  have addr : slotAddr g o.pos = slotAddr h o.pos := by simp only [slotAddr, hi]
  have cAddr : slotAddr (corrected .dram slot.fixed h) o.pos = slotAddr h o.pos := by
    rw [fixed]; rfl
  obtain ⟨k, hk⟩ : ∃ k, k = (drawNat g).1 % 256 := ⟨_, rfl⟩
  obtain ⟨tag, ht⟩ : ∃ t, t = w32 (drawNat (drawNat g).2).1 := ⟨_, rfl⟩
  obtain ⟨x, hx⟩ : ∃ x, x = startSlot o k tag (drawNat (drawNat g).2).2 := ⟨_, rfl⟩
  refine ⟨k, tag, x, by omega, hx ▸ startSlot_failedFetch o k tag hsq hi hp hr ha, firstBad x (slotAddr x o.pos) 128, ?_⟩
  simp only [withSlotOf, hn, hd, if_true, Bool.true_and, cAddr, ← hg, addr, hit, ← hk, ← ht, ← hx]

/-! ## The statement -/

/-- Settles O9: R34 refuses a fetched slot through `withSlotOf_fetches`, and a failed fetch is `withSlotOf_failEcc`. -/
theorem brokenSlotsAreRefused : Obligations.BrokenSlotsAreRefused := by
  unfold Obligations.BrokenSlotsAreRefused
  refine ⟨?_, ?_, ?_, ?_⟩
  · intro s slot f hf unknown hs he ends
    have refused (st : Status) (out : withSlotOf kindWords isUnknown slot
        (fun _ f h => complete (f.record .refusedFormat .none (kindWords f h)) h) s.mem { s.hw with sent := [] } =
          complete (f.record st .none (kindWords f (Slots.begun f s.hw))) (Slots.begun f s.hw)) : ends st := by
      rw [kindWords_begun] at out
      obtain ⟨done, fetch, -, frame⟩ := begun_completes hf hs he (f.record st .none (kindWords f s.hw))
      exact ⟨_, congrArg (fun g => Host.Outcome.next (commit s (Machine.finish g))) out, done, fetch, frame⟩
    have checks := withSlotOf_fetches hf kindWords isUnknown
      (fun _ f h => complete (f.record .refusedFormat .none (kindWords f h)) h) unknown
    constructor
    · intro permitted
      refine refused .refusedFormat (checks.trans ?_)
      cases hform : slotFormatOk f.words
      · rfl
      · simp only [permitted hform, Bool.true_eq_false, if_false]
    · intro hform denied
      refine refused .refusedAccess (checks.trans ?_)
      simp only [hform, denied, Bool.true_eq_false, if_false, if_true]
  · intro s slot f hf hk hform denied hs he
    have out := withSlotOf_fetches hf (fun _ _ => []) (isKind kEventPost)
      (fun _ f h => { h with sq := { h.sq with
        posts := h.sq.posts ++ [{ pos := f.pos, mask := fld (wordAt f.words 4) 0 7, tag := f.tag }] } })
      (by rw [isKind, hk]; rfl)
    simp only [hform, hk, denied, Bool.true_eq_false, if_false, if_true] at out
    obtain ⟨done, -, posts, -⟩ := begun_completes hf hs he (f.record .refusedAccess .none [])
    exact ⟨_, congrArg (fun g => Host.Outcome.next (commit s (Machine.finish g))) out, done.1, posts⟩
  · intro s slot f hf hk hform denied hs he
    have out := withSlotOf_fetches hf (fun _ _ => []) (isKind kCalibrate) (fun _ f h => calibrateEffect f h)
      (by rw [isKind, hk]; rfl)
    simp only [hform, hk, denied, Bool.true_eq_false, if_false, if_true] at out
    obtain ⟨done, -, -, frame⟩ := begun_completes hf hs he (f.record .refusedAccess .none [])
    exact ⟨_, congrArg (fun g => Host.Outcome.next (commit s (Machine.finish g))) out, done.1, frame⟩
  · intro s slot o ho hd hb hs he
    obtain ⟨reach, on⟩ := reach_of_nextSlot ho
    have c := clear_of_nothingHeld hs.1
    obtain ⟨k, tag, g, hk, failed, a, out⟩ := withSlotOf_failEcc (h := { s.hw with sent := [] }) ho hd hb
      (fun _ _ => []) (isKind kEventPost) slot (fun _ f h => { h with sq := { h.sq with
        posts := h.sq.posts ++ [{ pos := f.pos, mask := fld (wordAt f.words 4) 0 7, tag := f.tag }] } }) s.mem
    obtain ⟨r, hr⟩ : ∃ r : Record, r = { pos := o.pos, kind := k, status := .failEcc, tag := tag } := ⟨_, rfl⟩
    obtain ⟨w, hw⟩ : ∃ w, w = complete r (uncorrected .dram a g) := ⟨_, rfl⟩
    rw [← hr, ← hw] at out
    have posts : w.sq.posts = [] := by rw [hw]; exact failed.posts.trans c.posts
    have held : w.sq.heldRecords = [] := by rw [hw]; exact failed.held.trans c.held
    have records : w.records = [r] := by
      rw [hw]
      exact congrArg (· ++ [r]) (failed.records.trans c.records)
    have room : w.sq.queue.length + w.raised.length ≤ 64 := by
      have h1 := failed.raised
      have h2 : g.sq.queue.length ≤ 32 := by rw [failed.queue]; exact hs.2
      rw [c.raised] at h1
      rw [hw]
      simp [uncorrected, raiseHealth] at h1 ⊢
      omega
    have writes : w.writesRecords = true := by
      rw [hw]
      refine writesRecords_of_reach ?_ (failed.ctrlOn.trans on) (failed.entry.trans he)
      simp only [Hw.ringReach, uncorrected, complete_image, complete_sq, setCause_image, setCause_sq, raiseHealth_image,
        raiseHealth_sq, failed.image, failed.linkUp]
      exact reach
    have raises : Raises w .eventHealth .eccUncorrected := by
      rw [hw]
      exact raises_raiseHealth .eccUncorrected _ _ _ _ _
    refine ⟨_, congrArg (fun g => Host.Outcome.next (commit s (Machine.finish g))) out, ⟨k, tag, hk, ?_⟩, ?_, ?_, ?_⟩
    · rw [← hr]
      exact Run.commit_completes s w r records posts held writes room
    · exact reports_of_raises s raises posts held (.inl writes) room
    · rw [commit_finish_fetch, hw]
      exact failed.fetch
    · exact (Run.finish_plain w posts held (.inl writes) room).2.2.2

end Sys2Proof.Proofs

/-! PROOFS. EVENT_POST: held, taken by a waiting event, or released (R37 to R39). -/

namespace Sys2Proof.Proofs

open Sys2Proof Sys2Proof.Machine Sys2Proof.Laws

/-! ## The release of R39 -/

/-- While more than 128 slots are free nothing is released. -/
theorem releasePosts_of_free (n : Nat) {h : Hw} (hf : 128 < freeSlots h) : releasePosts n h = h := by
  cases n with
  | zero => rfl
  | succ n =>
    have no : ¬freeSlots h ≤ 128 := Nat.not_le.2 hf
    simp only [releasePosts, no, decide_false, Bool.false_and, Bool.false_eq_true, if_false]
    split
    · split <;> rfl
    · rfl

/-- The oldest owned slot is a held EVENT_POST. -/
def HeadHeld (h : Hw) : Prop := ∃ p ∈ h.sq.posts, (h.sq.owned.head?).map (·.pos) = some p.pos

/-- The rule of R39 applies: 128 or fewer slots are free while CTRL is on and no save runs. -/
def Releases (h : Hw) : Prop := h.power.ctrlOn = true ∧ h.saving = false ∧ freeSlots h ≤ 128

/-- A release takes one EVENT_POST from those that are held. -/
theorem posts_filter_lt {p : Post} {ps : List Post} (hp : p ∈ ps) : (ps.filter fun q => q.pos != p.pos).length < ps.length := by
  refine List.length_filter_lt_length_iff_exists.2 ⟨p, hp, ?_⟩
  simp

/-- As often as there are held EVENT_POSTs is often enough: then none of them is the oldest owned slot (R39). -/
theorem releasePosts_headless (n : Nat) (h : Hw) (hn : h.sq.posts.length ≤ n) (hr : Releases (releasePosts n h)) :
    ¬HeadHeld (releasePosts n h) := by
  induction n generalizing h with
  | zero =>
    rintro ⟨p, hp, -⟩
    have none_held : h.sq.posts = [] := List.length_eq_zero_iff.1 (Nat.le_zero.1 hn)
    rw [releasePosts, none_held] at hp
    cases hp
  | succ n ih =>
    cases ho : h.sq.owned with
    | nil =>
      have same : releasePosts (n + 1) h = h := by simp only [releasePosts, ho]
      rw [same]
      rintro ⟨p, -, hp⟩
      rw [ho] at hp
      cases hp
    | cons o os =>
      cases hf : h.sq.posts.find? (fun p => p.pos == o.pos) with
      | none =>
        have same : releasePosts (n + 1) h = h := by simp only [releasePosts, ho, hf]
        rw [same]
        rintro ⟨p, hp, head⟩
        rw [ho] at head
        have other := List.find?_eq_none.1 hf p hp
        exact other (by simpa using (Option.some.inj head).symm)
      | some p =>
        by_cases can : (decide (freeSlots h ≤ 128) && h.power.ctrlOn && !h.saving) = true
        · have one : releasePosts (n + 1) h = releasePosts n (completeNow { pos := p.pos, kind := 0x07, tag := p.tag }
              { h with sq := { h.sq with posts := h.sq.posts.filter (fun q => q.pos != p.pos) } }) := by
            simp only [releasePosts, ho, hf, can, if_true]
          rw [one] at hr ⊢
          refine ih _ ?_ hr
          rw [(Run.completeNow_sq _ _).1]
          exact Nat.le_of_lt_succ (Nat.lt_of_lt_of_le (posts_filter_lt (List.mem_of_find?_eq_some hf)) hn)
        · have same : releasePosts (n + 1) h = h := by simp only [releasePosts, ho, hf, can, Bool.false_eq_true, if_false]
          rw [same] at hr
          obtain ⟨on, idle, few⟩ := hr
          exact absurd (by simp only [on, idle, few, decide_true, Bool.not_false, Bool.and_self]) can

/-- No command's end leaves the oldest owned slot a held EVENT_POST while R39 applies. -/
theorem finish_headless (h : Hw) (hr : Releases (Machine.finish h)) : ¬HeadHeld (Machine.finish h) :=
  releasePosts_headless _ _ (Nat.le_refl _) hr

/-! ## One EVENT_POST -/

/-- The hardware once an EVENT_POST is held. -/
def holdPost (f : Fetched) (h : Hw) : Hw :=
  { h with sq := { h.sq with
      posts := h.sq.posts ++ [{ pos := f.pos, mask := fld (wordAt f.words 4) 0 7, tag := wordAt f.words 1 }] } }

/-- An EVENT_POST that R34 accepts is held, and then the command ends. -/
theorem exec_eventPost {s : State} {slot : Slot} {f : Fetched} (ha : Accepts s slot f kEventPost) :
    exec (.eventPost slot) s = .next (commit s (Machine.finish (holdPost f (Slots.begun f s.hw)))) := by
  have out := Slots.withSlot_accepts ha (isKind kEventPost) (fun _ f h => holdPost f h)
    (by rw [isKind, ha.2.1]; rfl)
  exact congrArg (fun g => Host.Outcome.next (commit s (Machine.finish g))) out

/-- An EVENT_POST that starts moves the fetch position and marks its slot, and no more (R34, R364). -/
theorem begun_eventPost {f : Fetched} (hk : slotKind f.words = kEventPost) (h : Hw) : Slots.begun f h = { h with
    sent := []
    sq := { h.sq with
      fetch := (h.sq.fetch + 1) % 65536
      owned := h.sq.owned.map fun x =>
        if x.pos = f.pos then { x with started := true, kind := slotKind f.words, tag := wordAt f.words 1 } else x } } := by
  rw [Slots.begun_eq, if_pos hk]

/-- Marking a slot as started moves no slot. -/
theorem oldest_map (f : Owned → Owned) (hf : ∀ x, (f x).pos = x.pos) (os : List Owned) :
    ((os.map f).head?).map (·.pos) = (os.head?).map (·.pos) := by
  cases os with
  | nil => rfl
  | cons o os => simp [hf]

theorem freeSlots_eq (h : Hw) :
    freeSlots h = 1024 - (h.sq.producer + 65536 - ((h.sq.owned.head?).map (·.pos)).getD h.sq.producer) % 65536 := by
  unfold freeSlots
  cases h.sq.owned <;> rfl

/-! ## The end of an EVENT_POST -/

theorem commit_mem (s : State) {h : Hw} (hw : h.writes = []) (hi : h.wipe = none) : (commit s h).mem = s.mem := by
  simp only [commit, hw, hi, wipeMems, applyWrites, List.foldl_nil]

/-- With neither record nor event, a command ends with the release of R39. -/
theorem finish_releases {h : Hw} (hr : h.records = []) (ha : h.raised = []) (hh : h.sq.heldRecords = [])
    (hq : h.sq.queue = []) : Machine.finish h = releasePosts h.sq.posts.length h := by
  simp only [Machine.finish, Run.flushHeld_nil h hh, hr, ha, hq, List.foldl_nil, List.map_nil, List.append_nil]
  rw [← hr, ← ha, ← hq]

/-- The only held EVENT_POST takes the only waiting event that it accepts (R38). -/
theorem finish_takes {h : Hw} {p : Post} {e : Event} (hr : h.records = []) (ha : h.raised = [])
    (hh : h.sq.heldRecords = []) (hp : h.sq.posts = [p]) (hq : h.sq.queue = [e]) (hacc : accepts p.mask e.status = true)
    (on : h.power.ctrlOn = true) (idle : h.saving = false) (wr : h.writesRecords = true) :
    Machine.finish h = writeRecord { pos := p.pos, kind := 0x07, status := e.status, tag := p.tag, detail := e.detail
                                     lost := h.sq.lost, result := e.result }
      { h with sq := { h.sq with posts := [], queue := [], lost := 0 } } := by
  obtain ⟨k, hk⟩ : ∃ k : Hw, k = { h with records := [], raised := [], sq := { h.sq with queue := [] } } := ⟨_, rfl⟩
  have taken : deliver k { event := some e } =
      writeRecord { pos := p.pos, kind := 0x07, status := e.status, tag := p.tag, detail := e.detail
                    lost := k.sq.lost, result := e.result } { k with sq := { k.sq with posts := [], lost := 0 } } := by
    have go : (k.power.ctrlOn && !k.saving) = true := by
      rw [hk]
      exact Bool.and_eq_true_iff.2 ⟨on, by simpa [Hw.saving] using idle⟩
    have held : k.sq.posts = [p] := by rw [hk]; exact hp
    have rest : [p].filter (fun q => q.pos != p.pos) = [] := by simp
    have writes : Hw.writesRecords { k with sq := { k.sq with posts := [], lost := 0 } } = true := by rw [hk]; exact wr
    simp only [deliver, deliverEvent, go, held, List.find?_cons, hacc, if_true, rest, completeNow, writes]
  have unreleased : ∀ n, releasePosts n (deliver k { event := some e }) = deliver k { event := some e } := by
    intro n
    refine Run.releasePosts_nil n _ ?_
    rw [taken]
    rfl
  simp only [Machine.finish, Run.flushHeld_nil h hh, hr, ha, hq, List.foldl_nil, List.map_cons, List.map_nil,
    List.append_nil, List.foldl_cons]
  rw [← hk, unreleased, taken, hk]

/-- The only held EVENT_POST completes with no event where it is the oldest owned slot and R39 applies. -/
theorem finish_releases_head {h : Hw} {p : Post} (hr : h.records = []) (ha : h.raised = [])
    (hh : h.sq.heldRecords = []) (hp : h.sq.posts = [p]) (hq : h.sq.queue = [])
    (ho : (h.sq.owned.head?).map (·.pos) = some p.pos) (hf : freeSlots h ≤ 128)
    (on : h.power.ctrlOn = true) (idle : h.saving = false) (wr : h.writesRecords = true) :
    Machine.finish h = writeRecord { pos := p.pos, kind := 0x07, tag := p.tag }
      { h with sq := { h.sq with posts := [] } } := by
  obtain ⟨o, head, pos⟩ := Option.map_eq_some_iff.1 ho
  obtain ⟨os, owned⟩ := List.head?_eq_some_iff.1 head
  have rest : [p].filter (fun q => q.pos != p.pos) = [] := by simp
  have found : [p].find? (fun q => q.pos == o.pos) = some p := by simp [pos]
  rw [finish_releases hr ha hh hq, hp]
  simp only [List.length_singleton, releasePosts, owned, hp, found, hf, on, idle, decide_true, Bool.not_false,
    Bool.and_self, if_true, rest, completeNow]
  exact if_pos wr

/-- Settles O8: an EVENT_POST is held (`exec_eventPost`), and its end is one of the lemmas above. -/
theorem eventPostsAreHeldTakenOrReleased : Obligations.EventPostsAreHeldTakenOrReleased := by
  unfold Obligations.EventPostsAreHeldTakenOrReleased
  have owned_pos (f : Fetched) (h : Hw) (hk : slotKind f.words = kEventPost) :
      ((Slots.begun f h).sq.owned.head?).map (·.pos) = (h.sq.owned.head?).map (·.pos) := by
    rw [begun_eventPost hk]
    exact oldest_map _ (fun x => by split <;> rfl) _
  refine ⟨⟨?_, ?_⟩, ?_, ?_⟩
  · intro s slot f ha hs hh hq free
    obtain ⟨hw, hi, hra, hre⟩ := hs
    have keep := owned_pos f s.hw ha.2.1
    have begun := begun_eventPost (h := s.hw) ha.2.1
    refine ⟨_, exec_eventPost ha, ?_⟩
    generalize Slots.begun f s.hw = b at keep begun ⊢
    have same : Machine.finish (holdPost f b) = holdPost f b := by
      rw [finish_releases (by rw [begun]; exact hre) (by rw [begun]; exact hra) (by rw [begun]; exact hh)
        (by rw [begun]; exact hq)]
      refine releasePosts_of_free _ ?_
      have producer : b.sq.producer = s.hw.sq.producer := by rw [begun]
      rw [freeSlots_eq] at free ⊢
      simpa only [holdPost, keep, producer] using free
    have mem : (commit s (holdPost f b)).mem = s.mem :=
      commit_mem s (by rw [begun]; exact hw) (by rw [begun]; exact hi)
    rw [same]
    refine ⟨?_, ?_, mem, ?_, .inr mem, rfl⟩ <;> rw [begun] <;> rfl
  · intro s slot f e ha hs he hq hacc
    obtain ⟨o, ho, -⟩ := nextSlot_of_fetches ha.1
    obtain ⟨reach, on⟩ := reach_of_nextSlot ho
    have c := clear_of_nothingHeld hs
    have begun := begun_eventPost (h := s.hw) ha.2.1
    refine ⟨_, exec_eventPost ha, ?_⟩
    generalize Slots.begun f s.hw = b at begun ⊢
    have idle : s.hw.saving = false := by simp only [Hw.saving, he]
    have held : (holdPost f b).sq.posts = [{ pos := f.pos, mask := fld (wordAt f.words 4) 0 7, tag := wordAt f.words 1 }] := by
      rw [begun]
      exact congrArg (· ++ [_]) c.posts
    rw [finish_takes (p := { pos := f.pos, mask := fld (wordAt f.words 4) 0 7, tag := wordAt f.words 1 }) (e := e)
      (by rw [begun]; exact c.records) (by rw [begun]; exact c.raised) (by rw [begun]; exact c.held)
      held (by rw [begun]; exact hq) hacc (by rw [begun]; exact on)
      (by rw [begun]; exact idle) (by rw [begun]; exact writesRecords_of_reach reach on he)]
    have lost : (holdPost f b).sq.lost = s.hw.sq.lost := by rw [begun]; rfl
    rw [lost]
    exact ⟨completes_writeRecord s _ _, rfl, rfl, rfl⟩
  · intro s slot f ha hs he hq head few
    obtain ⟨o, ho, -⟩ := nextSlot_of_fetches ha.1
    obtain ⟨reach, on⟩ := reach_of_nextSlot ho
    have c := clear_of_nothingHeld hs
    have keep := owned_pos f s.hw ha.2.1
    have begun := begun_eventPost (h := s.hw) ha.2.1
    refine ⟨_, exec_eventPost ha, ?_⟩
    generalize Slots.begun f s.hw = b at keep begun ⊢
    have idle : s.hw.saving = false := by simp only [Hw.saving, he]
    have few' : freeSlots (holdPost f b) ≤ 128 := by
      have producer : b.sq.producer = s.hw.sq.producer := by rw [begun]
      rw [freeSlots_eq] at few ⊢
      simpa only [holdPost, keep, producer] using few
    have held : (holdPost f b).sq.posts = [{ pos := f.pos, mask := fld (wordAt f.words 4) 0 7, tag := wordAt f.words 1 }] := by
      rw [begun]
      exact congrArg (· ++ [_]) c.posts
    rw [finish_releases_head (h := holdPost f b) (p := { pos := f.pos, mask := fld (wordAt f.words 4) 0 7, tag := wordAt f.words 1 })
      (by rw [begun]; exact c.records) (by rw [begun]; exact c.raised) (by rw [begun]; exact c.held)
      held (by rw [begun]; exact hq) (keep.trans head) few'
      (by rw [begun]; exact on) (by rw [begun]; exact idle) (by rw [begun]; exact writesRecords_of_reach reach on he)]
    exact ⟨completes_writeRecord s _ _, rfl⟩
  · intro s t c hc e on idle few p hp head
    obtain ⟨h, eh⟩ : ∃ h, exec c s = .next (commit s (Machine.finish h)) := by
      rcases hc with ⟨fn, v, rfl⟩ | ⟨slot, rfl⟩
      · exact ⟨_, rfl⟩
      · exact ⟨_, rfl⟩
    rw [eh] at e
    cases e
    exact finish_headless h ⟨on, idle, few⟩ ⟨p, hp, head⟩

end Sys2Proof.Proofs

/-! PROOFS. Wake events in a device that is awake. -/

namespace Sys2Proof.Proofs

open Sys2Proof Sys2Proof.Machine Sys2Proof.Laws

/-! ## Commands with the scheduler, at rest -/

/-- A state at rest leaves the scheduler nothing to issue or to end. -/
theorem idle_of_atRest {s : State} (hs : AtRest s) : Sched.Idle s.hw := by
  obtain ⟨⟨-, -, graphs, notices, ended, -, streams⟩, -⟩ := hs
  exact ⟨fun g hg => ⟨(graphs g hg).1, (graphs g hg).2.1⟩, notices, ended, streams⟩

/-- What an idle run of the scheduler leaves of the outboxes and of what is held. -/
theorem clear_of_calm {k g : Hw} (e : Sched.calm k = Sched.calm g) (c : Clear g) : Clear k :=
  ⟨(congrArg Hw.writes e).trans c.writes, (congrArg Hw.wipe e).trans c.wipe, (congrArg Hw.raised e).trans c.raised,
    (congrArg Hw.records e).trans c.records, (congrArg (fun h => h.sq.posts) e).trans c.posts,
    (congrArg (fun h => h.sq.heldRecords) e).trans c.held⟩

/-- Fields that an idle run of the scheduler keeps. -/
theorem calm_board {k g : Hw} (e : Sched.calm k = Sched.calm g) : k.board = g.board :=
  show (Sched.calm k).board = (Sched.calm g).board by rw [e]
theorem calm_cascade {k g : Hw} (e : Sched.calm k = Sched.calm g) : k.cascade = g.cascade :=
  show (Sched.calm k).cascade = (Sched.calm g).cascade by rw [e]
theorem calm_sq {k g : Hw} (e : Sched.calm k = Sched.calm g) : k.sq = g.sq :=
  show (Sched.calm k).sq = (Sched.calm g).sq by rw [e]
theorem calm_raised {k g : Hw} (e : Sched.calm k = Sched.calm g) : k.raised = g.raised :=
  show (Sched.calm k).raised = (Sched.calm g).raised by rw [e]
theorem calm_dev {k g : Hw} (e : Sched.calm k = Sched.calm g) : k.power.dev = g.power.dev :=
  show (Sched.calm k).power.dev = (Sched.calm g).power.dev by rw [e]
theorem calm_alarm {k g : Hw} (e : Sched.calm k = Sched.calm g) : k.power.alarm = g.power.alarm :=
  show (Sched.calm k).power.alarm = (Sched.calm g).power.alarm by rw [e]
theorem calm_time {k g : Hw} (e : Sched.calm k = Sched.calm g) : k.power.time = g.power.time :=
  show (Sched.calm k).power.time = (Sched.calm g).power.time by rw [e]

/-- An effect at rest that reports nothing leaves every byte of memory. -/
theorem rest_silent_mem (s : State) {k g : Hw} (e : Sched.calm k = Sched.calm g) (c : Clear g)
    (hq : g.sq.queue.length ≤ 64) : (commit s (Machine.finish k)).mem = s.mem := by
  have c' := clear_of_calm e c
  rw [finish_unreported c' (by rw [calm_sq e]; exact hq), commit_clear s c']

/-- An effect at rest that raises an event reports it and leaves every byte of memory. -/
theorem rest_reports (s : State) {k h : Hw} {d : Detail} {ws : List Word}
    (e : Sched.calm k = Sched.calm (raiseEvent .eventWake d ws h)) (c : Clear h) (hq : h.sq.queue.length ≤ 32) :
    Reports (commit s (Machine.finish k)) .eventWake d ∧ (commit s (Machine.finish k)).mem = s.mem := by
  have raised : k.raised = h.raised ++ [_] := calm_raised e
  have sq : k.sq = h.sq := (calm_sq e).trans rfl
  have room : k.sq.queue.length + k.raised.length ≤ 64 := by
    rw [raised, sq, c.raised]
    exact Nat.le_trans (Nat.succ_le_succ hq) (by decide)
  have posts : k.sq.posts = [] := by rw [sq]; exact c.posts
  have held : k.sq.heldRecords = [] := by rw [sq]; exact c.held
  have records : k.records = [] := (congrArg Hw.records e).trans c.records
  obtain ⟨mem, -⟩ := commit_finish_raises s k ((congrArg Hw.writes e).trans c.writes) ((congrArg Hw.wipe e).trans c.wipe)
    records posts held room
  refine ⟨reports_of_raises s ?_ posts held (.inr records) room, mem⟩
  obtain ⟨r, raises, named⟩ := raises_raiseEvent .eventWake d ws h
  exact ⟨r, by rw [calm_raised e]; exact raises, named⟩

/-! ## T2 (R156) -/

theorem calm_powerIslands (h : Hw) : Sched.calm (powerIslands h) = Sched.calm h := by
  refine Sched.calm_foldl _ (fun h k => ?_) _ h
  simp only [askIsland, askGroup]
  repeat' split
  all_goals rfl

/-- The rise to T2 changes the ring and asks for islands; it begins with the ring DOWN, so that no roll is broken. -/
theorem bringT2_calm (h : Hw) : ∃ ring, Sched.calm (bringT2 h) = Sched.calm { h with ring := ring } := by
  unfold bringT2
  split
  next down =>
    have noRoll : breakRoll h = h := if_neg (by rw [down]; decide)
    simp only [ringUp, ringDown, noRoll]
    split
    · exact ⟨_, calm_powerIslands _⟩
    · exact ⟨_, calm_powerIslands _⟩
  · exact ⟨h.ring, calm_powerIslands h⟩

/-! ## Where the event arrives (R374) -/

/-- A device that serves is in no stay. -/
theorem not_asleep_of_up {h : Hw} (up : h.up = true) : asleep h = false := by
  simp only [Hw.up, Bool.and_eq_true, Bool.or_eq_true, beq_iff_eq] at up
  rcases up.2 with dev | dev
  · simp [asleep, dev]
  · simp [asleep, dev]

theorem wakeEvent_awake {h : Hw} (up : h.up = true) (noEntry : h.power.entry = none) (noWakes : h.power.wakes = [])
    (src : WakeSource) (time : Nat) (env : WakeEnv) (m : Mems) : wakeEvent src time env m h =
      actAwake m { source := src, time := time, prior := h.power.dev, heldBad := env.heldBad } h := by
  simp only [wakeEvent, not_asleep_of_up up, noEntry, noWakes, up, List.isEmpty_nil, Bool.not_true, Bool.false_eq_true,
    if_false, if_true]

/-! ## The statement -/

theorem commit_finish_cascade (s : State) (h : Hw) : (commit s (Machine.finish h)).hw.cascade = h.cascade :=
  Run.finish_cascade h
theorem commit_finish_power (s : State) (h : Hw) : (commit s (Machine.finish h)).hw.power = h.power :=
  Run.finish_power h
theorem commit_finish_hwBoard (s : State) (h : Hw) : (commit s (Machine.finish h)).hw.board = h.board :=
  Run.finish_board h

/-- Time that passes up to the alarm, which is not behind, brings device time there (R383). -/
theorem passToTime_eq {h : Hw} {t : Nat} (on : h.board.aonOn = true) (ahead : h.power.time ≤ t) (fits : t < 2 ^ 64) :
    passToTime t h = { h with power := { h.power with
      time := t, elapsed := h.power.elapsed + (t - h.power.time) } } := by
  have there : (h.power.time + (t - h.power.time)) % 2 ^ 64 = t := by omega
  simp only [passToTime, Machine.pass, on, if_true, there]

/-- The effect of WAKE_N_ACCEPT. -/
def wakeNEffect (env : WakeEnv) (m : Mems) (h : Hw) : Hw :=
  if h.board.resetN then wakeEvent .wakeN h.power.time env m h else h

theorem exec_wakeN (env : WakeEnv) (s : State) : exec (.wakeNAccept env) s = runSched (wakeNEffect env) s := rfl

/-- The effect of VWAKE_ACCEPT. -/
def vwakeEffect (env : WakeEnv) (m : Mems) (h : Hw) : Hw :=
  if inputsPowered h then wakeEvent .vwake h.power.time env m { h with board := { h.board with vwake := true } } else h

theorem exec_vwake (env : WakeEnv) (s : State) : exec (.vwakeAccept env) s = runSched (vwakeEffect env) s := rfl

/-- Outside its quiet time a pulse is forwarded, and the event has the time of its edge (R158, R163). -/
theorem rwakeEffect_heeded {h : Hw} (on : h.board.aonOn = true) (heeded : h.board.rwakeQuiet = false) (env : WakeEnv)
    (m : Mems) : rwakeEffect env m h = wakeEvent .rwakeIn (rwakeEdge h).1 env m (pulseOut (rwakeEdge h).2) := by
  simp only [rwakeEffect, on, heeded, Bool.not_true, Bool.false_eq_true, if_false]

/-! ## Each event at rest -/

section Awake

variable {s : State} (env : WakeEnv) (up : s.hw.up = true) (on : s.hw.board.aonOn = true)
  (noWakes : s.hw.power.wakes = []) (hs : AtRest s)

theorem atRest_clear (hs : AtRest s) : Clear { s.hw with sent := [] } := clear_of_nothingHeld hs.1.1

theorem atRest_noEntry (hs : AtRest s) : s.hw.power.entry = none := hs.1.2.2.2.2.2.1

theorem atRest_room (hs : AtRest s) : s.hw.sq.queue.length ≤ 64 := Nat.le_trans hs.2 (by decide)

include up noWakes hs

/-- WAKE_N ends what a STAY left, and at T1 brings the device to T2 (R160, R374). -/
theorem wakeNEffect_awake (high : s.hw.board.resetN = true) :
    wakeNEffect env s.mem { s.hw with sent := [] } =
      if atT1 s.hw then bringT2 { s.hw with sent := [], cascade := { s.hw.cascade with stay := none } }
      else { s.hw with sent := [], cascade := { s.hw.cascade with stay := none } } := by
  refine (if_pos high).trans ?_
  rw [wakeEvent_awake (h := { s.hw with sent := [] }) up (atRest_noEntry hs) noWakes]
  simp only [actAwake, hs.1.2.1.1]
  rfl

theorem wakeN_awake (high : s.hw.board.resetN = true) : Answers (.wakeNAccept env) s fun t =>
    t.hw.power.dev = s.hw.power.dev ∧ t.hw.cascade = { s.hw.cascade with stay := none } ∧
      (atT1 s.hw = false → t.mem = s.mem ∧ OnlyChanges (reporting ++ resting ++ [Portion.cascade]) s t) := by
  have c := atRest_clear hs
  have out := wakeNEffect_awake env up noWakes hs high
  obtain ⟨g, hg⟩ : ∃ g, g = if atT1 s.hw then bringT2 { s.hw with sent := [], cascade := { s.hw.cascade with stay := none } }
      else { s.hw with sent := [], cascade := { s.hw.cascade with stay := none } } := ⟨_, rfl⟩
  rw [← hg] at out
  obtain ⟨ring, calm⟩ : ∃ ring, Sched.calm g =
      Sched.calm { s.hw with sent := [], cascade := { s.hw.cascade with stay := none }, ring := ring } := by
    rw [hg]
    split
    · exact bringT2_calm _
    · exact ⟨s.hw.ring, rfl⟩
  obtain ⟨k, hk, e⟩ := Slots.runSched_calm _ s g out (Sched.idle_of_calm calm (idle_of_atRest hs))
  have hk' := hk.trans calm
  refine ⟨_, (exec_wakeN env s).trans e, ?_, ?_, ?_⟩
  · rw [commit_finish_power, calm_dev hk']
  · rw [commit_finish_cascade, calm_cascade hk']
  · intro notT1
    have plain : g = { s.hw with sent := [], cascade := { s.hw.cascade with stay := none } } := by
      rw [hg, notT1, if_neg Bool.false_ne_true]
    rw [plain] at hk
    exact ⟨rest_silent_mem s hk ⟨c.writes, c.wipe, c.raised, c.records, c.posts, c.held⟩ (atRest_room hs),
      Slots.calm_only [Portion.cascade] s _ k hk rfl⟩

theorem vwake_awake (powered : inputsPowered s.hw = true) : Answers (.vwakeAccept env) s fun t =>
    t.hw.board = { s.hw.board with vwake := true } ∧ Reports t .eventWake .vehicleWake ∧ t.mem = s.mem ∧
      OnlyChanges (reporting ++ resting ++ [Portion.board]) s t := by
  have c := atRest_clear hs
  obtain ⟨h, hh⟩ : ∃ h : Hw, h = { s.hw with sent := [], board := { s.hw.board with vwake := true } } := ⟨_, rfl⟩
  have out : vwakeEffect env s.mem { s.hw with sent := [] } = reportHost .vehicleWake .vwake 0 h.power.dev h.power.time h := by
    rw [hh]
    refine (if_pos powered).trans ?_
    exact wakeEvent_awake (h := { s.hw with sent := [], board := { s.hw.board with vwake := true } }) up
      (atRest_noEntry hs) noWakes _ _ _ _
  have idle : Sched.Idle h := by rw [hh]; exact idle_of_atRest hs
  have clear : Clear h := by rw [hh]; exact ⟨c.writes, c.wipe, c.raised, c.records, c.posts, c.held⟩
  obtain ⟨k, hk, e⟩ := Slots.runSched_calm _ s _ out idle
  obtain ⟨reports, mem⟩ := rest_reports s hk clear (by rw [hh]; exact hs.2)
  refine ⟨_, (exec_vwake env s).trans e, ?_, reports, mem, ?_⟩
  · rw [commit_finish_hwBoard, calm_board hk, hh]
    rfl
  · refine Slots.calm_only [Portion.board] s _ k hk ?_
    rw [hh]
    rfl

include on

theorem alarm_awake {v : Nat} (alarm : s.hw.power.alarm = some v) (ahead : s.hw.power.time ≤ 24000 * v)
    (fits : 24000 * v < 2 ^ 64) : Answers (.rtcAlarm env) s fun t =>
      t.hw.power.alarm = none ∧ t.hw.power.time = 24000 * v ∧ Reports t .eventWake .rtcAlarm ∧ t.mem = s.mem ∧
        OnlyChanges (reporting ++ resting) s t := by
  have c := atRest_clear hs
  obtain ⟨h, hh⟩ : ∃ h : Hw, h = { s.hw with sent := [], power := { s.hw.power with
    time := 24000 * v, elapsed := s.hw.power.elapsed + (24000 * v - s.hw.power.time), alarm := none } } := ⟨_, rfl⟩
  have out : rtcEffect env s.mem { s.hw with sent := [] } = reportHost .rtcAlarm .rtc 0 h.power.dev h.power.time h := by
    have passed := passToTime_eq (h := { s.hw with sent := [] }) (t := alarmTicks v) on ahead fits
    simp only [rtcEffect, alarm, on, if_true, passed]
    rw [hh]
    exact wakeEvent_awake (h := { s.hw with sent := [], power := { s.hw.power with
      time := 24000 * v, elapsed := s.hw.power.elapsed + (24000 * v - s.hw.power.time), alarm := none } }) up
      (atRest_noEntry hs) noWakes _ _ _ _
  have idle : Sched.Idle h := by rw [hh]; exact idle_of_atRest hs
  have clear : Clear h := by rw [hh]; exact ⟨c.writes, c.wipe, c.raised, c.records, c.posts, c.held⟩
  obtain ⟨k, hk, e⟩ := Slots.runSched_calm _ s _ out idle
  obtain ⟨reports, mem⟩ := rest_reports s hk clear (by rw [hh]; exact hs.2)
  refine ⟨_, e, ?_, ?_, reports, mem, ?_⟩
  · rw [commit_finish_power, calm_alarm hk, hh]
    rfl
  · rw [commit_finish_power, calm_time hk, hh]
    rfl
  · refine Slots.calm_only [] s _ k hk ?_
    rw [hh]
    rfl

theorem rwake_heeded (heeded : s.hw.board.rwakeQuiet = false) : Answers (.rwakeInAccept env) s fun t =>
    t.hw.board = { s.hw.board with rwakeOut := true, rwakeQuiet := true } ∧ t.mem = s.mem ∧
      OnlyChanges (reporting ++ resting ++ [Portion.board]) s t := by
  have c := atRest_clear hs
  obtain ⟨h, hh⟩ : ∃ h : Hw, h = { s.hw with
    sent := [], draws := s.hw.draws + 1, board := { s.hw.board with rwakeOut := true, rwakeQuiet := true } } := ⟨_, rfl⟩
  have out : rwakeEffect env s.mem { s.hw with sent := [] } = h := by
    rw [hh]
    refine (rwakeEffect_heeded (h := { s.hw with sent := [] }) on heeded env s.mem).trans ?_
    exact wakeEvent_awake (h := { s.hw with
      sent := [], draws := s.hw.draws + 1, board := { s.hw.board with rwakeOut := true, rwakeQuiet := true } }) up
      (atRest_noEntry hs) noWakes _ _ _ _
  have idle : Sched.Idle h := by rw [hh]; exact idle_of_atRest hs
  have clear : Clear h := by rw [hh]; exact ⟨c.writes, c.wipe, c.raised, c.records, c.posts, c.held⟩
  obtain ⟨k, hk, e⟩ := Slots.runSched_calm _ s _ out idle
  refine ⟨_, e, ?_, rest_silent_mem s hk clear (by rw [hh]; exact atRest_room hs), ?_⟩
  · rw [commit_finish_hwBoard, calm_board hk, hh]
  · refine Slots.calm_only [Portion.board] s _ k hk ?_
    rw [hh]
    rfl

omit up noWakes in
theorem rwake_quiet (quiet : s.hw.board.rwakeQuiet = true) : Answers (.rwakeInAccept env) s fun t =>
    t.hw.board = s.hw.board ∧ t.mem = s.mem ∧ OnlyChanges (reporting ++ resting) s t := by
  have out : rwakeEffect env s.mem { s.hw with sent := [] } = { s.hw with sent := [] } := by
    simp only [rwakeEffect, on, quiet, Bool.not_true, Bool.false_eq_true, if_false, if_true]
  obtain ⟨k, hk, e⟩ := Slots.runSched_calm _ s _ out (idle_of_atRest hs)
  refine ⟨_, e, ?_, rest_silent_mem s hk (atRest_clear hs) (atRest_room hs), Slots.calm_only [] s _ k hk rfl⟩
  rw [commit_finish_hwBoard, calm_board hk]

end Awake

/-- Settles O19: an awake device at rest takes each event by `actAwake`, and the scheduler finds nothing to do. -/
theorem wakeEventsInAnAwakeDevice : Obligations.WakeEventsInAnAwakeDevice := by
  unfold Obligations.WakeEventsInAnAwakeDevice
  intro s env up on noWakes high hs
  exact ⟨wakeN_awake env up noWakes hs high, vwake_awake env up noWakes hs,
    fun _ alarm ahead fits => alarm_awake env up on noWakes hs alarm ahead fits, rwake_heeded env up on noWakes hs,
    rwake_quiet env on hs⟩

end Sys2Proof.Proofs

/-! PROOFS. What a full boot clears, and where it goes from there (R18, R364, R368). -/

namespace Sys2Proof.Proofs

open Sys2Proof Sys2Proof.Machine Sys2Proof.Laws

/-! ## The end of a command that completes nothing -/

/-- What writing records touches. -/
def written (h : Hw) : List Write × List Owned × List Post := (h.writes, h.sq.owned, h.sq.posts)

theorem written_logAdd (q : LogReq) (h : Hw) : written (logAdd q h).1 = written h := by
  simp only [logAdd]
  split
  · rfl
  · split <;> rfl

theorem written_stampSeq (e : Event) (n : Option Nat) (h : Hw) : written (stampSeq e n h).2 = written h := by
  simp only [stampSeq]
  split <;> rfl

theorem written_enqueue (e : Event) (h : Hw) : written (enqueue e h) = written h := by
  simp only [enqueue]
  split <;> rfl

theorem written_deliverEvent (e : Event) {h : Hw} (hp : h.sq.posts = []) : written (deliverEvent e h) = written h := by
  simp only [deliverEvent, hp, List.find?_nil, ite_self]
  exact written_enqueue e h

theorem posts_of_written {g h : Hw} (e : written g = written h) (hp : h.sq.posts = []) : g.sq.posts = [] :=
  (congrArg (fun x => x.2.2) e).trans hp

theorem written_deliver (r : Raised) {h : Hw} (hp : h.sq.posts = []) : written (deliver h r) = written h := by
  obtain ⟨event, entry⟩ := r
  cases entry with
  | none =>
    cases event with
    | none => rfl
    | some e => exact written_deliverEvent e hp
  | some q =>
    have log := written_logAdd q h
    cases event with
    | none => exact log
    | some e =>
      have stamp := (written_stampSeq e (logAdd q h).2 (logAdd q h).1).trans log
      exact (written_deliverEvent _ (posts_of_written stamp hp)).trans stamp

theorem written_foldl_deliver (rs : List Raised) {h : Hw} (hp : h.sq.posts = []) :
    written (rs.foldl deliver h) = written h := by
  induction rs generalizing h with
  | nil => rfl
  | cons r rs ih =>
    have one := written_deliver r hp
    exact (ih (posts_of_written one hp)).trans one

/-- Where nothing is held and nothing completes, no record is written, however many events there are. -/
theorem written_finish {h : Hw} (hr : h.records = []) (hp : h.sq.posts = []) (hh : h.sq.heldRecords = []) :
    written (Machine.finish h) = written h := by
  have all := written_foldl_deliver ((h.sq.queue.map fun e => ({ event := some e } : Raised)) ++ h.raised)
    (h := { h with records := [], raised := [], sq := { h.sq with queue := [] } }) hp
  simp only [Machine.finish, Run.flushHeld_nil h hh, hr, List.foldl_nil]
  rw [Run.releasePosts_nil]
  · exact all
  · exact posts_of_written all hp

/-! ## The straps (R13, R16, R18) -/

/-- Levels that every pin has are latched as they are, without a free value. -/
theorem latchLevels_of_stable {ps : List (Option Nat)} (h : Hw) (hp : ∀ p ∈ ps, p.isSome) :
    latchLevels ps h = (ps.map fun p => p.getD 0, h) := by
  induction ps with
  | nil => rfl
  | cons p ps ih =>
    obtain ⟨n, rfl⟩ := Option.isSome_iff_exists.1 (hp p List.mem_cons_self)
    simp only [latchLevels, ih fun q hq => hp q (List.mem_cons_of_mem _ hq), List.map_cons, Option.getD_some]

theorem unstableMask_of_stable {ps : List (Option Nat)} (hp : ∀ p ∈ ps, p.isSome) : unstableMask ps = 0 := by
  induction ps with
  | nil => rfl
  | cons p ps ih =>
    obtain ⟨n, rfl⟩ := Option.isSome_iff_exists.1 (hp p List.mem_cons_self)
    have rest : unstableMask ps = 0 := ih fun q hq => hp q (List.mem_cons_of_mem _ hq)
    exact show 2 * unstableMask ps + 0 = 0 by rw [rest]

theorem unstableMask_of_unstable {ps : List (Option Nat)} (hp : none ∈ ps) : unstableMask ps ≠ 0 := by
  induction ps with
  | nil => exact absurd hp List.not_mem_nil
  | cons p ps ih =>
    have cons : unstableMask (p :: ps) = 2 * unstableMask ps + b2n p.isNone := rfl
    rw [cons]
    rcases List.mem_cons.1 hp with rfl | rest
    · exact Nat.succ_ne_zero _
    · have := ih rest
      omega

/-- A pin that was unstable leads to RECOVERY. -/
theorem strapCause_of_unstable {b : Board} (hb : b.unstable ≠ 0) :
    ∃ k, strapCause b = some k ∧ (k = .strapUnstable ∨ k = .strapInvalid) := by
  simp only [strapCause, bne_iff_ne, ne_eq, hb, not_false_eq_true, if_true]
  split
  · exact ⟨_, rfl, .inr rfl⟩
  · exact ⟨_, rfl, .inl rfl⟩

/-- The pins' samples where every pin is stable. -/
theorem sampleStraps_of_stable {ss : List StrapSample} (h : Hw)
    (hp : ∀ p ∈ (fitTo 7 {} ss).map pinLevel, p.isSome) :
    sampleStraps ss h = { h with board := { h.board with
      straps := strapsOf (((fitTo 7 {} ss).map pinLevel).map fun p => p.getD 0), unstable := 0, strapsLatched := true } } := by
  simp only [sampleStraps, latchLevels_of_stable h hp, unstableMask_of_stable hp]

theorem latchLevels_eq (ps : List (Option Nat)) (h : Hw) : ∃ n, (latchLevels ps h).2 = { h with draws := n } := by
  induction ps generalizing h with
  | nil => exact ⟨h.draws, rfl⟩
  | cons p ps ih =>
    cases p with
    | some n => exact ih h
    | none => exact ih (drawNat h).2

/-- The pins' samples, unstable pins and all. -/
theorem sampleStraps_eq (ss : List StrapSample) (h : Hw) : ∃ n straps, sampleStraps ss h = { h with
    draws := n, board := { h.board with
      straps := straps, unstable := unstableMask ((fitTo 7 {} ss).map pinLevel), strapsLatched := true } } := by
  obtain ⟨n, drawn⟩ := latchLevels_eq ((fitTo 7 {} ss).map pinLevel) h
  simp only [sampleStraps, drawn]
  exact ⟨n, _, rfl⟩

/-! ## What a boot clears (R368) -/

theorem findLog_eq (m : Mems) (h : Hw) : ∃ a b c d, findLog m h = { h with health := { h.health with
    logNext := a, logOldest := b, logPos := c, boots := d } } := by
  simp only [findLog]
  split
  · exact ⟨_, _, _, _, rfl⟩
  · exact ⟨_, _, _, _, rfl⟩

/-- A node that a boot has just cleared. -/
structure Cleared (p : Power) (b : Board) (last : Nat) (g : Hw) : Prop where
  board : g.board = b
  time : g.power.time = p.time
  alarm : g.power.alarm = p.alarm
  sq : g.sq = {}
  sched : g.sched = {}
  streams : g.streams = []
  ring : g.ring = {}
  records : g.records = []
  writes : g.writes = []
  lastBoot : g.health.lastBoot = last
  bootTime : g.health.bootTime = p.time
  /-- None, or WAKE_FAIL, or AVS, or both. -/
  causes : g.health.causes ∈ [0, 4, 8, 12]

/-- The state that `clearForBoot` leaves, but for where it found the end of the log. -/
theorem clearForBoot_eq (edge : Bool) (last : Nat) (rail : Option Rail) (m : Mems) (h : Hw) :
    ∃ a b c d, clearForBoot edge last rail m h = raiseLog 0x0300 0 0 last { domainsOff h with
      cal := { (domainsOff h).cal with stuck := if edge then 0 else h.cal.stuck }
      board := { h.board with resetHeld := false, railLow := none }
      health := { (domainsOff h).health with
        lastBoot := last, bootTime := h.power.time, resetRail := if rail.isSome then rail else h.health.resetRail
        logNext := a, logOldest := b, logPos := c, boots := d } } := by
  obtain ⟨a, b, c, d, log⟩ := findLog_eq m (domainsOff h)
  refine ⟨a, b, c, d, ?_⟩
  simp only [clearForBoot, log]
  rfl

theorem clearForBoot_board (edge : Bool) (last : Nat) (rail : Option Rail) (m : Mems) (h : Hw) :
    (clearForBoot edge last rail m h).board = { h.board with resetHeld := false, railLow := none } := by
  obtain ⟨_, _, _, _, e⟩ := clearForBoot_eq edge last rail m h
  rw [e]
  rfl

theorem clearForBoot_power (edge : Bool) (last : Nat) (rail : Option Rail) (m : Mems) (h : Hw) :
    (clearForBoot edge last rail m h).power =
      { time := h.power.time, elapsed := h.power.elapsed, alarm := h.power.alarm, wakeFail := h.power.wakeFail } := by
  obtain ⟨_, _, _, _, e⟩ := clearForBoot_eq edge last rail m h
  rw [e]
  rfl

/-! ## What a boot ends in before the flash is read -/

/-- `earlyCause` in the order of its tests: the latched WAKE_FAIL at an edge, the straps, BOOT_SEL, the AVSBus. -/
def earlyOf (edge : Bool) (wakeFail : Option (WakeFailure × Nat)) (b : Board) (acked : Bool) : Option Cause :=
  if edge ∧ wakeFail.isSome then some .wakeFail
  else if (strapCause b).isSome then strapCause b
  else if b.straps.bootSel = 15 then some .bootSel
  else if acked = false then some .avsFail
  else none

theorem earlyCause_eq (edge acked : Bool) (h : Hw) :
    earlyCause edge (strapCause h.board) acked h = earlyOf edge h.power.wakeFail h.board acked := by
  simp only [earlyCause, earlyOf, Bool.and_eq_true]
  cases strapCause h.board with
  | some c => rfl
  | none => cases acked <;> rfl

/-- The AVSBus's cause is marked where it is the cause. -/
def markAvs (early : Option Cause) (h : Hw) : Hw := if early = some .avsFail then setCause causeAvs h else h

/-- A latched WAKE_FAIL is gone at an edge of RESET_N. -/
def dropWakeFail (edge : Bool) (h : Hw) : Hw :=
  if edge ∧ h.power.wakeFail.isSome then clearCause causeWakeFail { h with power := { h.power with wakeFail := none } }
  else h

/-- What a boot has cleared when it knows where it goes. -/
def clearedHw (edge : Bool) (last : Nat) (rail : Option Rail) (early : Option Cause) (m : Mems) (h : Hw) : Hw :=
  dropWakeFail edge (markAvs early (clearForBoot edge last rail m h))

theorem cleared_clearForBoot (edge : Bool) (last : Nat) (rail : Option Rail) (m : Mems) {h : Hw} (hw : h.writes = [])
    (hr : h.records = []) :
    Cleared h.power { h.board with resetHeld := false, railLow := none } last (clearForBoot edge last rail m h) := by
  obtain ⟨_, _, _, _, e⟩ := clearForBoot_eq edge last rail m h
  rw [e]
  refine ⟨rfl, rfl, rfl, rfl, rfl, rfl, rfl, hr, hw, rfl, rfl, ?_⟩
  show (if h.power.wakeFail.isSome then 2 ^ causeWakeFail else 0) ∈ [0, 4, 8, 12]
  split <;> decide

section Cleared

variable {p : Power} {b : Board} {last : Nat} {g : Hw}

theorem Cleared.markAvs (c : Cleared p b last g) (early : Option Cause) : Cleared p b last (markAvs early g) := by
  have causes : ∀ n ∈ [0, 4, 8, 12], setBit n causeAvs true ∈ [0, 4, 8, 12] := by decide
  simp only [Proofs.markAvs]
  split
  · exact { c with causes := causes _ c.causes }
  · exact c

theorem Cleared.dropWakeFail (c : Cleared p b last g) (edge : Bool) : Cleared p b last (dropWakeFail edge g) := by
  have causes : ∀ n ∈ [0, 4, 8, 12], setBit n causeWakeFail false ∈ [0, 4, 8, 12] := by decide
  simp only [Proofs.dropWakeFail]
  split
  · exact { c with causes := causes _ c.causes }
  · exact c

theorem Cleared.notRecovery (c : Cleared p b last g) : bitOf g.health.causes causeRecovery = false := by
  have causes : ∀ n ∈ [0, 4, 8, 12], bitOf n causeRecovery = false := by decide
  exact causes _ c.causes

end Cleared

theorem cleared_clearedHw (edge : Bool) (last : Nat) (rail : Option Rail) (early : Option Cause) (m : Mems) {h : Hw}
    (hw : h.writes = []) (hr : h.records = []) :
    Cleared h.power { h.board with resetHeld := false, railLow := none } last (clearedHw edge last rail early m h) :=
  ((cleared_clearForBoot edge last rail m hw hr).markAvs early).dropWakeFail edge

/-! ## Where a boot goes -/

section FullBoot

variable (edge sample : Bool) (last : Nat) (rail : Option Rail) (env : BootEnv) (m : Mems) {h g : Hw}
  (sampled : (if sample || !h.board.strapsLatched then sampleStraps env.straps h else h) = g)
  (hw : g.writes = []) (hr : g.records = [])
  (early : Option Cause)
  (found : earlyOf edge g.power.wakeFail { g.board with resetHeld := false, railLow := none } (bootAcked env.avs) = early)

include sampled hw hr found

/-- A full boot as the one choice that it makes. -/
theorem fullBoot_eq : fullBoot edge sample last rail env m h =
    early.elim
      (if g.board.straps.bootSel = 7 then startRingBoot (wipeAll (clearedHw edge last rail early m g))
       else flashBoot env.flashOk env.swap m (clearedHw edge last rail early m g))
      fun c => enterRecovery c (wipeAll (clearedHw edge last rail early m g)) := by
  have cause : earlyCause edge (strapCause g.board) (bootAcked env.avs) (clearForBoot edge last rail m g) = early := by
    have e := earlyCause_eq edge (bootAcked env.avs) (clearForBoot edge last rail m g)
    rw [clearForBoot_board, clearForBoot_power] at e
    exact e.trans found
  have board := (cleared_clearedHw edge last rail early m hw hr).board
  simp only [fullBoot, sampled, cause]
  rw [← show (clearedHw edge last rail early m g).board.straps = g.board.straps by rw [board]]
  cases early <;> rfl

end FullBoot

/-! ## After the effect of a boot -/

/-- Nothing is left for the scheduler, for the records or for the EVENT_POSTs. -/
structure Vacant (g : Hw) : Prop where
  graphs : g.sched.graphs = []
  notices : g.sched.notices = []
  ended : g.sched.ended = []
  streams : g.streams = []
  owned : g.sq.owned = []
  posts : g.sq.posts = []
  held : g.sq.heldRecords = []
  records : g.records = []

/-- What a state shows of the hardware with which a boot ended. -/
structure Shows (s : State) (g : Hw) (t : State) : Prop where
  board : t.hw.board = g.board
  image : t.hw.image = g.image
  ring : t.hw.ring = g.ring
  rvy : t.hw.rvy = g.rvy
  dev : t.hw.power.dev = g.power.dev
  cause : t.hw.power.cause = g.power.cause
  ctrlOn : t.hw.power.ctrlOn = g.power.ctrlOn
  memOn : t.hw.power.memOn = g.power.memOn
  rail : t.hw.power.rail = g.power.rail
  time : t.hw.power.time = g.power.time
  alarm : t.hw.power.alarm = g.power.alarm
  graphs : t.hw.sched.graphs = []
  quotas : t.hw.sched.quotas = g.sched.quotas
  owned : t.hw.sq.owned = []
  lastBoot : t.hw.health.lastBoot = g.health.lastBoot
  lastRecovery : t.hw.health.lastRecovery = g.health.lastRecovery
  bootTime : t.hw.health.bootTime = g.health.bootTime
  causes : t.hw.health.causes = g.health.causes
  mem : t.mem = applyWrites (wipeMems g.wipe s.mem) g.writes

theorem idle_of_vacant {g : Hw} (i : Vacant g) : Sched.Idle g := by
  refine ⟨?_, i.notices, i.ended, ?_⟩
  · rw [i.graphs]
    exact List.forall_mem_nil _
  · rw [i.streams]
    exact List.forall_mem_nil _

/-- The end of a command and its writes, after a scheduler that found nothing to do. -/
theorem shows_of_calm (s : State) {k g : Hw} (i : Vacant g) (e : Sched.calm k = Sched.calm g) :
    Shows s g (commit s (Machine.finish k)) := by
  have keeps {α : Type} (p : Hw → α) : p (Sched.calm k) = p (Sched.calm g) := congrArg p e
  have sq : k.sq = g.sq := keeps Hw.sq
  have health : k.health = g.health := keeps Hw.health
  have unwritten := written_finish (h := k) ((keeps Hw.records).trans i.records) (by rw [sq, i.posts])
    (by rw [sq, i.held])
  have writes : (Machine.finish k).writes = g.writes := (congrArg Prod.fst unwritten).trans (keeps Hw.writes)
  have owned : (Machine.finish k).sq.owned = k.sq.owned := congrArg (fun x => x.2.1) unwritten
  have power := Run.finish_power k
  have sched := Run.finish_sched k
  exact {
    board := (Run.finish_board k).trans (keeps Hw.board)
    image := (Run.finish_image k).trans (keeps Hw.image)
    ring := (Run.finish_ring k).trans (keeps Hw.ring)
    rvy := (Run.finish_rvy k).trans (keeps Hw.rvy)
    dev := (congrArg Power.dev power).trans (keeps fun h => h.power.dev)
    cause := (congrArg Power.cause power).trans (keeps fun h => h.power.cause)
    ctrlOn := (congrArg Power.ctrlOn power).trans (keeps fun h => h.power.ctrlOn)
    memOn := (congrArg Power.memOn power).trans (keeps fun h => h.power.memOn)
    rail := (congrArg Power.rail power).trans (keeps fun h => h.power.rail)
    time := (congrArg Power.time power).trans (keeps fun h => h.power.time)
    alarm := (congrArg Power.alarm power).trans (keeps fun h => h.power.alarm)
    graphs := (congrArg Sched.graphs sched).trans ((keeps fun h => h.sched.graphs).trans i.graphs)
    quotas := (congrArg Sched.quotas sched).trans (keeps fun h => h.sched.quotas)
    owned := owned.trans (by rw [sq, i.owned])
    lastBoot := (Run.finish_lastBoot k).trans (by rw [health])
    lastRecovery := (Run.finish_lastRecovery k).trans (by rw [health])
    bootTime := (Run.finish_bootTime k).trans (by rw [health])
    causes := (Run.finish_causes k).trans (by rw [health])
    mem := by simp only [commit, Run.finish_wipe, writes, show k.wipe = g.wipe from keeps Hw.wipe] }

/-- The answer of a command whose effect leaves nothing to do. -/
theorem answers_of_vacant {c : Instr} {s : State} {f : Mems → Hw → Hw} {g : Hw} (he : exec c s = runSched f s)
    (hf : f s.mem { s.hw with sent := [] } = g) (i : Vacant g) {p : State → Prop} (hp : ∀ t, Shows s g t → p t) :
    Answers c s p := by
  obtain ⟨k, calm, e⟩ := Slots.runSched_calm f s g hf (idle_of_vacant i)
  exact ⟨_, he.trans e, hp _ (shows_of_calm s i calm)⟩

/-! ## RECOVERY and the ring boot -/

theorem Cleared.wipeAll {p : Power} {b : Board} {last : Nat} {g : Hw} (c : Cleared p b last g) :
    Cleared p b last (wipeAll g) := { c with }

theorem Cleared.vacant_ring {p : Power} {b : Board} {last : Nat} {g : Hw} (c : Cleared p b last g) :
    Vacant (startRingBoot g) where
  graphs := congrArg Sched.graphs c.sched
  notices := congrArg Sched.notices c.sched
  ended := congrArg Sched.ended c.sched
  streams := c.streams
  owned := congrArg Ring1024.owned c.sq
  posts := congrArg Ring1024.posts c.sq
  held := congrArg Ring1024.heldRecords c.sq
  records := c.records

/-- RECOVERY as a state of the hardware. -/
theorem enterRecovery_eq (k : Cause) (h : Hw) : ∃ x, enterRecovery k h = { domainsOff h with
    power := { (domainsOff h).power with dev := .recovery, cause := some k }
    rvy := { opening := true }
    health := { (domainsOff h).health with
      causes := if k = .bootSel then h.health.causes else setBit h.health.causes causeRecovery true
      buffer := h.health.buffer, lastRecovery := k.code }
    raised := x } := by
  simp only [enterRecovery]
  split
  · exact ⟨_, rfl⟩
  · exact ⟨_, rfl⟩

theorem vacant_enterRecovery (k : Cause) {h : Hw} (hr : h.records = []) : Vacant (enterRecovery k h) := by
  obtain ⟨x, e⟩ := enterRecovery_eq k h
  rw [e]
  exact ⟨rfl, rfl, rfl, rfl, rfl, rfl, rfl, hr⟩

/-- What a boot that ends in RECOVERY leaves (R18, R26, R357). -/
def Recovers (s : State) (k : Cause) (b : Board) (last : Nat → Prop) (t : State) : Prop :=
  t.hw.power.dev = .recovery ∧ t.hw.power.cause = some k ∧ t.hw.power.ctrlOn = false ∧ t.hw.board = b ∧
    t.hw.health.lastRecovery = k.code ∧ last t.hw.health.lastBoot ∧ t.hw.rvy.opening = true ∧
    bitOf t.hw.health.causes causeRecovery = decide (k ≠ .bootSel) ∧ ∀ a, byteAt t .flash a = byteAt s .flash a

theorem wipeMems_flash (w : Option Wipe) (m : Mems) : (wipeMems w m).flash = m.flash := by
  cases w <;> rfl

theorem recovers_of_cleared {p : Power} {b : Board} {n : Nat} {last : Nat → Prop} (hl : last n) {s : State} {g : Hw}
    (k : Cause) (c : Cleared p b n g) {t : State} (v : Shows s (enterRecovery k g) t) : Recovers s k b last t := by
  obtain ⟨x, e⟩ := enterRecovery_eq k g
  rw [e] at v
  refine ⟨v.dev, v.cause, v.ctrlOn, v.board.trans c.board, v.lastRecovery, (v.lastBoot.trans c.lastBoot) ▸ hl, by rw [v.rvy], ?_,
    fun a => ?_⟩
  · rw [v.causes]
    show bitOf (if k = .bootSel then g.health.causes else setBit g.health.causes causeRecovery true) causeRecovery =
      decide (k ≠ .bootSel)
    split
    next bootSel => rw [c.notRecovery, bootSel]; rfl
    next other => rw [Sched.bitOf_setBit, decide_eq_true other]
  · have mem : t.mem = applyWrites (wipeMems g.wipe s.mem) g.writes := v.mem
    rw [c.writes] at mem
    have flash : t.mem.flash = s.mem.flash := (congrArg Mems.flash mem).trans (wipeMems_flash g.wipe s.mem)
    exact congrArg (fun x => memRead Space.flash.fill x a) flash

end Sys2Proof.Proofs

/-! PROOFS. The boot from the flash, and the full boots (R22, R368, R396, R402). -/

namespace Sys2Proof.Proofs

open Sys2Proof Sys2Proof.Machine Sys2Proof.Laws

/-! ## What the flash shows depends on the board and the writes alone -/

section Congr

variable {g h : Hw} (hb : g.board = h.board) (hw : g.writes = h.writes)

include hw

theorem flashRead_congr (m : Mems) (a n : Nat) : flashRead m g a n = flashRead m h a n := by
  simp only [flashRead, readN, hw]

theorem flashWords_congr (m : Mems) (a n : Nat) : flashWords m g a n = flashWords m h a n := by
  simp only [flashWords, readWords, readN, hw]

theorem rulingRecord_congr (m : Mems) : rulingRecord m g = rulingRecord m h := by
  simp only [rulingRecord, flashRead_congr hw]

include hb

omit hw in
theorem checkedImage_congr (anyNode : Bool) (part : List Byte) :
    checkedImage g anyNode part = checkedImage h anyNode part := by
  cases g
  cases h
  cases hb
  rfl

theorem slotImage_congr (m : Mems) (base : Nat) : slotImage m g base = slotImage m h base := by
  have manifest : manifestAt m g base = manifestAt m h base := by simp only [manifestAt, flashWords_congr hw]
  have node : g.nodeId = h.nodeId := by simp only [Hw.nodeId, hb]
  simp only [slotImage, manifest, node, flashRead_congr hw, checkedImage_congr hb]

omit hw in
theorem imageOf_congr (img : List Byte) : imageOf g img = imageOf h img := by
  simp only [imageOf, Hw.capMw, Hw.hasHost, Hw.standalone, hb]

end Congr

/-! ## The boot record asks for nothing (R396) -/

theorem bootRecords_of_settled {m : Mems} {h : Hw} {r : BootRec} {inB : Bool} (hr : rulingRecord m h = some (r, inB))
    (hs : r.state = .confirmed ∨ r.state = .staged) (ho : r.stagingOld = false) (ok : Bool) (stop : Option SwapStop) :
    bootRecords true ok stop m h = (h, .done) := by
  have found : bootRec m h = r := by simp only [bootRec, hr]
  have corrupt : corruptStep ok stop m h = (h, .done) := by
    simp only [corruptStep, found, ho, Bool.and_false, Bool.false_and, Bool.false_eq_true, if_false]
  have step : recordStep true ok stop m h = (h, .done) := by
    simp only [recordStep, found]
    rcases hs with hs | hs
    · rw [hs]
    · rw [hs]
  simp only [bootRecords, hr, Option.isNone_some, Bool.false_and, Bool.false_eq_true, if_false, and_self, if_true, corrupt,
    step]

theorem flashBoot_of_settled {m : Mems} {h : Hw} {r : BootRec} {inB : Bool} (hr : rulingRecord m h = some (r, inB))
    (hs : r.state = .confirmed ∨ r.state = .staged) (ho : r.stagingOld = false) (ok : Bool) (stop : Option SwapStop) :
    flashBoot ok stop m h = (slotImage m h activeBase).elim (enterRecovery .imageInvalid h)
      fun img => fullBootDone ok m ringUp (startImage false ok m img h) := by
  unfold flashBoot
  rw [bootRecords_of_settled hr hs ho]
  dsimp only
  cases slotImage m h activeBase with
  | none => rw [Option.elim_none]
  | some img => rw [Option.elim_some]

/-! ## What the steps that start a node leave alone -/

/-- All but the units of SENSE, what is raised, what is written to the flash, and the free values. -/
def bootKeep (h : Hw) : Hw :=
  { h with
    drum := {}, raw := {}, cal := {}, bell := {}, draws := 0, raised := []
    writes := h.writes.filter fun w => decide (w.space ≠ .flash)
    health := { h.health with badUnits := [], written := [] } }

theorem bootKeep_putFlash (a : Nat) (bs : List Byte) (h : Hw) : bootKeep (put .flash a bs h) = bootKeep h := by
  have writes : (h.writes ++ [(⟨.flash, a, bs⟩ : Write)]).filter (fun w => decide (w.space ≠ .flash)) =
      h.writes.filter fun w => decide (w.space ≠ .flash) := by
    rw [List.filter_append]
    exact List.append_nil _
  simp only [bootKeep, put, writes]

theorem bootKeep_writeRec (m : Mems) (r : BootRec) (h : Hw) : bootKeep (writeRec true m r h) = bootKeep h := by
  simp only [writeRec, if_true, flashProgram, flashErase, bootKeep_putFlash]

theorem bootKeep_writeSettings (m : Mems) (inB : Bool) (r : SetRec) (h : Hw) :
    bootKeep (writeSettings true m inB r h) = bootKeep h := by
  simp only [writeSettings, if_true, flashProgram, flashErase, bootKeep_putFlash]

theorem bootKeep_foldl {α : Type} (f : Hw → α → Hw) (hf : ∀ h x, bootKeep (f h x) = bootKeep h) (xs : List α) (h : Hw) :
    bootKeep (xs.foldl f h) = bootKeep h := by
  induction xs generalizing h with
  | nil => rfl
  | cons x xs ih => rw [List.foldl_cons, ih, hf]

theorem bootKeep_logConfigFaults (h : Hw) : bootKeep (logConfigFaults h) = bootKeep h :=
  bootKeep_foldl _ (fun h n => by split <;> rfl) _ h

theorem bootKeep_selectSettings (m : Mems) (h : Hw) : bootKeep (selectSettings true m h).2 = bootKeep h := by
  have save (r r' : BootRec) (g : Hw) : bootKeep (if r' = r then g else writeRec true m r' g) = bootKeep g := by
    split
    · rfl
    · exact bootKeep_writeRec m r' g
  simp only [selectSettings]
  split
  · rfl
  · split
    · exact (save _ _ _).trans (bootKeep_writeSettings m _ _ h)
    · split
      · exact save _ _ _
      · rfl

theorem bootKeep_loadCalRecord (m : Mems) (keep : Bool) (h : Hw) : bootKeep (loadCalRecord keep m h) = bootKeep h := by
  simp only [loadCalRecord]
  repeat' split
  all_goals rfl

theorem bootKeep_senseAtBoot (h : Hw) : bootKeep (senseAtBoot h) = bootKeep h := by
  simp only [senseAtBoot]
  split <;> rfl

theorem bootKeep_autostart (h : Hw) : bootKeep (autostart h) = bootKeep h := by
  simp only [autostart]
  split
  · exact bootKeep_foldl _ (fun h n => by split <;> rfl) _ h
  · rfl

theorem bootKeep_clearIf {b : List Byte} (h : Hw) : bootKeep (if h.bell.blob = b then h else bellClear h) = bootKeep h := by
  split <;> rfl

/-! ## The image starts (R27, R288, R359, R368) -/

/-- The image is in force: its settings are selected, Bell's model and the trims are chosen. -/
def inForce (m : Mems) (img : List Byte) (h : Hw) : Hw :=
  let (es, g) := selectSettings true m (logConfigFaults { h with image := imageOf h img })
  let g := if (chooseModel es g).bell.blob = g.bell.blob then chooseModel es g else bellClear (chooseModel es g)
  loadCalRecord false m (drawNat g).2

theorem bootKeep_inForce (m : Mems) (img : List Byte) (h : Hw) :
    bootKeep (inForce m img h) = bootKeep { h with image := imageOf h img } := by
  have kept := (bootKeep_selectSettings m _).trans (bootKeep_logConfigFaults { h with image := imageOf h img })
  unfold inForce
  generalize selectSettings true m (logConfigFaults { h with image := imageOf h img }) = p at kept ⊢
  obtain ⟨es, g⟩ := p
  exact (bootKeep_loadCalRecord m false _).trans ((bootKeep_clearIf _).trans kept)

/-- The domains come up once the image is in force. -/
def comesUp (m : Mems) (img : List Byte) (h : Hw) : Hw := freshRaw (freshSched (domainsUp (inForce m img h)))

theorem startImage_eq (m : Mems) (img : List Byte) (h : Hw) : ∃ nonce, startImage false true m img h =
    { comesUp m img h with
      ring := { (comesUp m img h).ring with nonce := nonce }
      drum := { (comesUp m img h).drum with latest := none, accessRaised := false } } := by
  simp only [startImage, comesUp, inForce, Bool.false_and]
  generalize selectSettings true m (logConfigFaults { h with image := imageOf h img }) = p
  exact ⟨_, rfl⟩

theorem phyUp_eq (h : Hw) : ∃ n d, phyUp h = { h with power := { h.power with phy := n }, draws := d } := by
  simp only [phyUp]
  split
  · exact ⟨_, _, rfl⟩
  · exact ⟨_, _, rfl⟩

/-- The ring comes up from DOWN, so that no roll is broken. -/
theorem ringUp_eq {h : Hw} (down : h.ring.st = .down) : ∃ ring, ringUp h = { h with ring := ring } := by
  have noRoll : breakRoll h = h := if_neg (by rw [down]; decide)
  simp only [ringUp, ringDown, noRoll]
  split
  · exact ⟨_, rfl⟩
  · exact ⟨_, rfl⟩

/-! ## A node that serves after its boot -/

/-- The node serves an image: what a boot from the flash leaves, but for the memories (R288, R359, R368). -/
structure Serves (p : Power) (b : Board) (last : Nat) (img : Image) (g : Hw) : Prop where
  image : g.image = img
  board : g.board = b
  dev : g.power.dev = .idle
  ctrlOn : g.power.ctrlOn = true
  memOn : g.power.memOn = true
  rail : g.power.rail = 0
  time : g.power.time = p.time
  alarm : g.power.alarm = p.alarm
  quotas : g.sched.quotas = (img.quotas.getD {}).init
  lastBoot : g.health.lastBoot = last
  bootTime : g.health.bootTime = p.time
  vacant : Vacant g
  onlyFlash : g.writes.filter (fun w => decide (w.space ≠ .flash)) = []

section Serves

variable {p : Power} {b : Board} {last : Nat} {i : Image} {g h : Hw}

/-- A node serves on through every step that leaves alone what `bootKeep` keeps. -/
theorem Serves.of_bootKeep (e : bootKeep g = bootKeep h) (v : Serves p b last i h) : Serves p b last i g := by
  have keeps {α : Type} (f : Hw → α) : f (bootKeep g) = f (bootKeep h) := congrArg f e
  have sq : g.sq = h.sq := keeps Hw.sq
  have sched : g.sched = h.sched := keeps Hw.sched
  have power : g.power = h.power := keeps Hw.power
  exact {
    image := (keeps Hw.image).trans v.image
    board := (keeps Hw.board).trans v.board
    dev := by rw [power, v.dev]
    ctrlOn := by rw [power, v.ctrlOn]
    memOn := by rw [power, v.memOn]
    rail := by rw [power, v.rail]
    time := by rw [power, v.time]
    alarm := by rw [power, v.alarm]
    quotas := by rw [sched, v.quotas]
    lastBoot := (keeps fun x => x.health.lastBoot).trans v.lastBoot
    bootTime := (keeps fun x => x.health.bootTime).trans v.bootTime
    vacant :=
      { graphs := by rw [sched, v.vacant.graphs]
        notices := by rw [sched, v.vacant.notices]
        ended := by rw [sched, v.vacant.ended]
        streams := (keeps Hw.streams).trans v.vacant.streams
        owned := by rw [sq, v.vacant.owned]
        posts := by rw [sq, v.vacant.posts]
        held := by rw [sq, v.vacant.held]
        records := (keeps Hw.records).trans v.vacant.records }
    onlyFlash := (keeps Hw.writes).trans v.onlyFlash }

/-- A cleared node serves the image once its domains are up. -/
theorem serves_comesUp (m : Mems) (img : List Byte) (c : Cleared p b last h) :
    Serves p b last (imageOf h img) (comesUp m img h) := by
  have e := bootKeep_inForce m img h
  unfold comesUp
  generalize inForce m img h = x at e ⊢
  have keeps {α : Type} (f : Hw → α) : f (bootKeep x) = f (bootKeep { h with image := imageOf h img }) := congrArg f e
  have image : x.image = imageOf h img := keeps Hw.image
  have sq : x.sq = {} := (keeps Hw.sq).trans c.sq
  obtain ⟨n, d, phy⟩ := phyUp_eq x
  simp only [domainsUp, phy]
  exact {
    image := image
    board := (keeps Hw.board).trans c.board
    dev := rfl
    ctrlOn := rfl
    memOn := rfl
    rail := rfl
    time := (keeps fun x => x.power.time).trans c.time
    alarm := (keeps fun x => x.power.alarm).trans c.alarm
    quotas := by rw [← image]; rfl
    lastBoot := (keeps fun x => x.health.lastBoot).trans c.lastBoot
    bootTime := (keeps fun x => x.health.bootTime).trans c.bootTime
    vacant :=
      { graphs := rfl
        notices := rfl
        ended := rfl
        streams := (keeps Hw.streams).trans c.streams
        owned := congrArg Ring1024.owned sq
        posts := congrArg Ring1024.posts sq
        held := congrArg Ring1024.heldRecords sq
        records := (keeps Hw.records).trans c.records }
    onlyFlash := (keeps Hw.writes).trans (congrArg (List.filter _) c.writes) }

theorem comesUp_down (m : Mems) (img : List Byte) (c : Cleared p b last h) : (comesUp m img h).ring.st = .down := by
  have e := congrArg Hw.ring (bootKeep_inForce m img h)
  unfold comesUp
  generalize inForce m img h = x at e ⊢
  have ring : x.ring = {} := e.trans c.ring
  obtain ⟨n, d, phy⟩ := phyUp_eq x
  simp only [domainsUp, phy]
  exact congrArg RingIf.st ring

theorem serves_startImage (m : Mems) (img : List Byte) (c : Cleared p b last h) :
    Serves p b last (imageOf h img) (startImage false true m img h) ∧ (startImage false true m img h).ring.st = .down := by
  obtain ⟨nonce, e⟩ := startImage_eq m img h
  have v := serves_comesUp m img c
  have down := comesUp_down m img c
  rw [e]
  generalize comesUp m img h = y at v down ⊢
  exact ⟨{ v with vacant := { v.vacant with } }, down⟩

/-- The ring and the chains start on wiped memories (R86, R308, R327, R346). -/
theorem serves_fullBootDone (m : Mems) (v : Serves p b last i g) (down : g.ring.st = .down)
    (member : b.straps.ringRole ≠ 15) : Serves p b last i (fullBootDone true m ringUp g) ∧
      (fullBootDone true m ringUp g).wipe = some {} := by
  have sensed := v.of_bootKeep (bootKeep_senseAtBoot g)
  obtain ⟨ring, up⟩ := ringUp_eq (h := wipeAll (senseAtBoot g))
    ((congrArg (fun x => x.ring.st) (bootKeep_senseAtBoot g)).trans down)
  have ringed : Serves p b last i { wipeAll (senseAtBoot g) with ring := ring } :=
    { sensed with vacant := { sensed.vacant with } }
  have keeps := bootKeep_autostart { wipeAll (senseAtBoot g) with ring := ring }
  have started := ringed.of_bootKeep keeps
  have inRing : (autostart { wipeAll (senseAtBoot g) with ring := ring }).standalone = false := by
    simp only [Hw.standalone, started.board, beq_eq_false_iff_ne, ne_eq, member, not_false_eq_true]
  have done : fullBootDone true m ringUp g = autostart { wipeAll (senseAtBoot g) with ring := ring } := by
    simp only [fullBootDone, up, agreeAtBoot, inRing, Bool.false_eq_true, if_false]
  rw [done]
  exact ⟨started, congrArg Hw.wipe keeps⟩

end Serves

/-! ## The memories after a boot -/

theorem applyWrites_flash_dram {ws : List Write} (hw : ws.filter (fun w => decide (w.space ≠ .flash)) = []) (m : Mems) :
    (applyWrites m ws).dram = m.dram := by
  induction ws generalizing m with
  | nil => rfl
  | cons w ws ih =>
    have only := List.filter_eq_nil_iff.1 hw
    have flash : w.space = .flash := by simpa using only w List.mem_cons_self
    have one : (applyWrite m w).dram = m.dram := by simp only [applyWrite, flash]
    have rest : ws.filter (fun w => decide (w.space ≠ .flash)) = [] :=
      List.filter_eq_nil_iff.2 fun x hx => only x (List.mem_cons_of_mem _ hx)
    exact (ih rest (applyWrite m w)).trans one

/-- General DRAM reads zero (R308). -/
theorem dram_of_wiped {s t : State} {ws : List Write} (hm : t.mem = applyWrites (wipeMems (some {}) s.mem) ws)
    (hw : ws.filter (fun w => decide (w.space ≠ .flash)) = []) (a : Nat) : byteAt t .dram a = some 0 := by
  have dram : t.mem.dram = [] := by
    rw [hm, applyWrites_flash_dram hw]
    exact List.filter_eq_nil_iff.2 fun _ _ => Bool.false_ne_true
  simp only [byteAt, Mems.of, dram]
  rfl

/-- What a boot from the flash leaves of a node that is not standalone (R288, R359, R368). -/
def Boots (s : State) (img : Image) (b : Board) (last : Nat → Prop) (t : State) : Prop :=
  t.hw.image = img ∧ t.hw.power.dev = .idle ∧ t.hw.power.ctrlOn = true ∧ t.hw.power.memOn = true ∧
    t.hw.power.rail = 0 ∧ t.hw.power.time = s.hw.power.time ∧ t.hw.power.alarm = s.hw.power.alarm ∧
    t.hw.sched.graphs = [] ∧ t.hw.sched.quotas = (quotasCfg t.hw).init ∧ t.hw.sq.owned = [] ∧
    last t.hw.health.lastBoot ∧ t.hw.health.bootTime = s.hw.power.time ∧ t.hw.board = b ∧
    ∀ a, byteAt t .dram a = some 0

theorem boots_of_serves {s t : State} {i : Image} {b : Board} {n : Nat} {last : Nat → Prop} (hl : last n) {g : Hw}
    (v : Serves s.hw.power b n i g) (wiped : g.wipe = some {}) (w : Shows s g t) : Boots s i b last t := by
  have image := w.image.trans v.image
  have quotas : t.hw.sched.quotas = (quotasCfg t.hw).init := by
    rw [w.quotas, v.quotas, quotasCfg, image]
  have mem := w.mem
  rw [wiped] at mem
  exact ⟨image, w.dev.trans v.dev, w.ctrlOn.trans v.ctrlOn, w.memOn.trans v.memOn, w.rail.trans v.rail,
    w.time.trans v.time, w.alarm.trans v.alarm, w.graphs, quotas, w.owned, (w.lastBoot.trans v.lastBoot) ▸ hl,
    w.bootTime.trans v.bootTime, w.board.trans v.board, dram_of_wiped mem v.onlyFlash⟩

/-! ## The commands that boot -/

/-- The board as the straps are sampled, or as they stay latched (R13, R386). -/
def sampledBoard (sample : Bool) (ss : List StrapSample) (b : Board) : Board :=
  { b with
    straps := if sample then strapsOf (((fitTo 7 {} ss).map pinLevel).map fun p => p.getD 0) else b.straps
    unstable := if sample then 0 else b.unstable, strapsLatched := true }

/-- The board after a boot: nothing holds it back any more. -/
def bootBoard (sample : Bool) (ss : List StrapSample) (b : Board) : Board :=
  { sampledBoard sample ss b with resetHeld := false, railLow := none }

/-- A command whose effect is a full boot from a state of the hardware. -/
structure BootCommand (c : Instr) (s : State) (env : BootEnv) (edge sample : Bool) (last : Nat) (h : Hw) : Prop where
  effect : ∃ f rail, exec c s = runSched f s ∧
    f s.mem { s.hw with sent := [] } = fullBoot edge sample last rail env s.mem h
  power : h.power = s.hw.power
  writes : h.writes = []
  records : h.records = []
  latched : sample = false → h.board.strapsLatched = true

section BootCommand

variable {c : Instr} {s : State} {env : BootEnv} {edge sample : Bool} {n : Nat} {last : Nat → Prop} {h : Hw}

/-- The sampled hardware, where every pin that is sampled is stable. -/
theorem sampled_of_stable (bc : BootCommand c s env edge sample n h)
    (stable : sample = true → ∀ p ∈ (fitTo 7 {} env.straps).map pinLevel, p.isSome) :
    (if sample || !h.board.strapsLatched then sampleStraps env.straps h else h) =
      { h with board := sampledBoard sample env.straps h.board } := by
  cases sample with
  | true => exact sampleStraps_of_stable h (stable rfl)
  | false =>
    have latched := bc.latched rfl
    have board : sampledBoard false env.straps h.board = h.board := by
      show { h.board with strapsLatched := true } = h.board
      rw [← latched]
    simp only [latched, Bool.not_true, Bool.or_self, Bool.false_eq_true, if_false, board]

/-- A boot with an unstable pin and no latched WAKE_FAIL. -/
theorem boot_unstable (bc : BootCommand c s env edge sample n h) (hs : sample = true)
    (unstable : none ∈ (fitTo 7 {} env.straps).map pinLevel) (noFail : s.hw.power.wakeFail = none) :
    Answers c s fun t => t.hw.power.dev = .recovery ∧
      (t.hw.power.cause = some .strapUnstable ∨ t.hw.power.cause = some .strapInvalid) := by
  obtain ⟨f, rail, he, hf⟩ := bc.effect
  obtain ⟨draws, straps, pins⟩ := sampleStraps_eq env.straps h
  obtain ⟨b, hb⟩ : ∃ b : Board, b = { h.board with
      straps := straps, unstable := unstableMask ((fitTo 7 {} env.straps).map pinLevel), strapsLatched := true } := ⟨_, rfl⟩
  rw [← hb] at pins
  have sampled : (if sample || !h.board.strapsLatched then sampleStraps env.straps h else h) = _ :=
    (if_pos (by rw [hs, Bool.true_or])).trans pins
  obtain ⟨k, cause, named⟩ := strapCause_of_unstable (b := { b with resetHeld := false, railLow := none })
    (by rw [hb]; exact unstableMask_of_unstable unstable)
  have early : earlyOf edge h.power.wakeFail { b with resetHeld := false, railLow := none } (bootAcked env.avs) = some k := by
    simp only [earlyOf, bc.power, noFail, cause, Option.isSome_none, Bool.false_eq_true, and_false, if_false,
      Option.isSome_some, if_true]
  have goes := fullBoot_eq edge sample n rail env s.mem sampled bc.writes bc.records (some k) early
  have cleared := cleared_clearedHw edge n rail (some k) s.mem (h := { h with draws := draws, board := b })
    bc.writes bc.records
  refine answers_of_vacant he (hf.trans goes) (vacant_enterRecovery k cleared.wipeAll.records) fun t v => ?_
  obtain ⟨dev, is, -⟩ := recovers_of_cleared (last := (· = n)) rfl k cleared.wipeAll v
  rw [is]
  exact ⟨dev, named.imp (congrArg some) (congrArg some)⟩

section Stable

variable (bc : BootCommand c s env edge sample n h)
  (stable : sample = true → ∀ p ∈ (fitTo 7 {} env.straps).map pinLevel, p.isSome) (hl : last n)

include bc stable

/-- Where the boot goes. -/
theorem boot_goes {early : Option Cause}
    (found : earlyOf edge s.hw.power.wakeFail (bootBoard sample env.straps h.board) (bootAcked env.avs) = early) :
    ∃ f g, exec c s = runSched f s ∧ Cleared s.hw.power (bootBoard sample env.straps h.board) n g ∧
      f s.mem { s.hw with sent := [] } = early.elim
        (if (sampledBoard sample env.straps h.board).straps.bootSel = 7 then startRingBoot (wipeAll g)
          else flashBoot env.flashOk env.swap s.mem g)
        fun k => enterRecovery k (wipeAll g) := by
  obtain ⟨f, rail, he, hf⟩ := bc.effect
  have goes := fullBoot_eq edge sample n rail env s.mem (sampled_of_stable bc stable) bc.writes bc.records early
    (by rw [← found, ← bc.power]; rfl)
  have cleared := cleared_clearedHw edge n rail early s.mem (h := { h with board := sampledBoard sample env.straps h.board })
    bc.writes bc.records
  rw [← bc.power]
  exact ⟨f, _, he, cleared, hf.trans goes⟩

include hl

theorem boot_early {k : Cause}
    (found : earlyOf edge s.hw.power.wakeFail (bootBoard sample env.straps h.board) (bootAcked env.avs) = some k) :
    Answers c s (Recovers s k (bootBoard sample env.straps h.board) last) := by
  obtain ⟨f, g, he, cleared, hf⟩ := boot_goes bc stable found
  exact answers_of_vacant he hf (vacant_enterRecovery k cleared.wipeAll.records)
    fun t v => recovers_of_cleared hl k cleared.wipeAll v

theorem boot_ring
    (found : earlyOf edge s.hw.power.wakeFail (bootBoard sample env.straps h.board) (bootAcked env.avs) = none)
    (sel : (bootBoard sample env.straps h.board).straps.bootSel = 7) : Answers c s fun t =>
      t.hw.power.ctrlOn = true ∧ t.hw.ring.bootBytes = some [] ∧ t.hw.ring.west.st = .training ∧
        last t.hw.health.lastBoot ∧ t.hw.board = bootBoard sample env.straps h.board := by
  obtain ⟨f, g, he, cleared, hf⟩ := boot_goes bc stable found
  have ring := hf.trans (if_pos sel)
  exact answers_of_vacant he ring cleared.wipeAll.vacant_ring fun t v =>
    ⟨v.ctrlOn, by rw [v.ring]; rfl, by rw [v.ring]; rfl, (v.lastBoot.trans cleared.lastBoot) ▸ hl,
      v.board.trans cleared.board⟩

theorem boot_flash {r : BootRec} {inB : Bool} {x : Hw} (board : x.board = bootBoard sample env.straps h.board)
    (writes : x.writes = []) (ok : env.flashOk = true)
    (found : earlyOf edge s.hw.power.wakeFail (bootBoard sample env.straps h.board) (bootAcked env.avs) = none)
    (sel : (bootBoard sample env.straps h.board).straps.bootSel ≠ 7) (hr : rulingRecord s.mem x = some (r, inB))
    (hs : r.state = .confirmed ∨ r.state = .staged) (ho : r.stagingOld = false) :
    (slotImage s.mem x activeBase = none →
      Answers c s (Recovers s .imageInvalid (bootBoard sample env.straps h.board) last)) ∧
    ∀ img, slotImage s.mem x activeBase = some img → (bootBoard sample env.straps h.board).straps.ringRole ≠ 15 →
      Answers c s (Boots s (imageOf x img) (bootBoard sample env.straps h.board) last) := by
  obtain ⟨f, g, he, cleared, hf⟩ := boot_goes bc stable found
  have sameBoard : g.board = x.board := cleared.board.trans board.symm
  have sameWrites : g.writes = x.writes := cleared.writes.trans writes.symm
  have flash := hf.trans (if_neg sel)
  rw [flashBoot_of_settled ((rulingRecord_congr sameWrites s.mem).trans hr) hs ho,
    slotImage_congr sameBoard sameWrites s.mem activeBase, ok] at flash
  refine ⟨fun none => ?_, fun img some member => ?_⟩
  · rw [none, Option.elim_none] at flash
    exact answers_of_vacant he flash (vacant_enterRecovery .imageInvalid cleared.records)
      fun t v => recovers_of_cleared hl .imageInvalid cleared v
  · rw [some, Option.elim_some] at flash
    obtain ⟨started, down⟩ := serves_startImage s.mem img cleared
    obtain ⟨serves, wiped⟩ := serves_fullBootDone s.mem started down member
    rw [imageOf_congr sameBoard] at serves
    exact answers_of_vacant he flash serves.vacant fun t v => boots_of_serves hl serves wiped v

end Stable

end BootCommand

end Sys2Proof.Proofs

/-! PROOFS. When a full boot follows (R364, R368, R386, R402, R441). -/

namespace Sys2Proof.Proofs

open Sys2Proof Sys2Proof.Machine Sys2Proof.Laws

/-! ## The commands that start a full boot -/

section Starts

variable {s : State} (env : BootEnv) (settled : Settled s) (on : s.hw.board.aonOn = true)

include settled on

theorem resetNRise_boots (low : s.hw.board.resetN = false) (good : s.hw.board.railLow = none) :
    BootCommand (.resetNRise env) s env true true (b2n s.hw.board.strapsLatched)
      { s.hw with sent := [], board := { s.hw.board with resetN := true } } where
  effect := ⟨resetRiseEffect env, none, rfl, by
    simp only [resetRiseEffect, low, on, good, Bool.not_true, Option.isSome_none, Bool.false_eq_true, if_false]⟩
  power := rfl
  writes := settled.1
  records := settled.2.2.2
  latched := nofun

theorem resetHoldEnd_boots (held : s.hw.board.resetHeld = true) (high : s.hw.board.resetN = true) :
    BootCommand (.resetHoldEnd env) s env true true 2 { s.hw with sent := [] } where
  effect := ⟨holdEndEffect env, s.hw.board.railLow, rfl, by
    simp only [holdEndEffect, held, on, high, Bool.and_self, if_true]⟩
  power := rfl
  writes := settled.1
  records := settled.2.2.2
  latched := nofun

theorem supplyResetReboot_boots (fell : s.hw.board.railLow.isSome = true) (free : s.hw.board.resetHeld = false)
    (high : s.hw.board.resetN = true) (noStay : s.hw.power.slot = none) (latched : s.hw.board.strapsLatched = true) :
    BootCommand (.supplyResetReboot env) s env false false 2 { s.hw with sent := [] } where
  effect := ⟨rebootEffect env, s.hw.board.railLow, rfl, by
    simp only [rebootEffect, on, fell, free, high, noStay, Option.isNone_none, Bool.not_false, Bool.and_self, if_true]⟩
  power := rfl
  writes := settled.1
  records := settled.2.2.2
  latched := fun _ => latched

omit on in
theorem activationRestart_boots (up : s.hw.up = true) (restart : s.hw.update.restart = true)
    (latched : s.hw.board.strapsLatched = true) :
    BootCommand (.activationRestart env) s env false false (Config.freeNat s.hw.draws % 16)
      { s.hw with sent := [], draws := s.hw.draws + 1 } where
  effect := ⟨activationEffect env, none, rfl, by
    have serves : ({ s.hw with sent := [] } : Hw).up = true := up
    simp only [activationEffect, serves, restart, Bool.and_self, if_true, drawNat]⟩
  power := rfl
  writes := settled.1
  records := settled.2.2.2
  latched := fun _ => latched

end Starts

/-! ## A rail below its level (R364, R441) -/

/-- An effect at rest that changes the board alone. -/
theorem board_at_rest {c : Instr} {s : State} {f : Mems → Hw → Hw} {b : Board} (he : exec c s = runSched f s)
    (hf : f s.mem { s.hw with sent := [] } = { s.hw with sent := [], board := b }) (rest : AtRest s) :
    Answers c s fun t => t.hw.board = b ∧ t.hw.power.dev = s.hw.power.dev := by
  obtain ⟨k, calm, e⟩ := Slots.runSched_calm f s _ hf (idle_of_atRest rest)
  refine ⟨_, he.trans e, ?_, ?_⟩
  · rw [commit_finish_hwBoard, calm_board calm]
  · rw [commit_finish_power, calm_dev calm]

theorem resetNRise_held {s : State} (env : BootEnv) (on : s.hw.board.aonOn = true) (low : s.hw.board.resetN = false)
    (bad : s.hw.board.railLow.isSome = true) (rest : AtRest s) : Answers (.resetNRise env) s fun t =>
      t.hw.board = { s.hw.board with resetN := true, resetHeld := true } ∧ t.hw.power.dev = s.hw.power.dev := by
  refine board_at_rest (f := resetRiseEffect env) rfl ?_ rest
  simp only [resetRiseEffect, low, on, bad, Bool.not_true, Bool.false_eq_true, if_false, if_true]

theorem supplyResetReboot_waits {s : State} (env : BootEnv) (on : s.hw.board.aonOn = true)
    (fell : s.hw.board.railLow.isSome = true) (free : s.hw.board.resetHeld = false) (low : s.hw.board.resetN = false)
    (rest : AtRest s) : Answers (.supplyResetReboot env) s fun t =>
      t.hw.board = { s.hw.board with railLow := none } ∧ t.hw.power.dev = s.hw.power.dev := by
  refine board_at_rest (f := rebootEffect env) rfl ?_ rest
  simp only [rebootEffect, on, fell, free, low, Bool.not_false, Bool.and_self, Bool.false_and, Bool.false_eq_true,
    if_false, if_true]

/-! ## The statement -/

/-- Settles O58: each command that boots is a `BootCommand`, and such a command goes where `boot_goes` says. -/
theorem fullBootsStartOrRecover : Obligations.FullBootsStartOrRecover := by
  unfold Obligations.FullBootsStartOrRecover
  intro s env settled on ok pins levels boots
  have goes {c : Instr} {edge sample : Bool} {n : Nat} (last : Nat → Prop) {h : Hw} {b : Board}
      (bc : BootCommand c s env edge sample n h) (board : h.board = b) (straps : b.straps = s.hw.board.straps)
      (hl : last n) : boots c edge sample last b := by
    subst board
    unfold boots
    rw [← straps]
    refine ⟨fun hs ⟨p, mem, gone⟩ noFail => boot_unstable bc hs (gone ▸ mem) noFail, fun stable => ⟨fun k early => ?_,
      fun early sel => ?_, fun r inB early sel hr hs ho => ?_⟩⟩
    · exact boot_early bc stable hl early
    · exact boot_ring bc stable hl early sel
    · exact boot_flash bc stable hl (x := { s.hw with sent := [], board := bootBoard sample env.straps h.board }) rfl
        settled.1 ok early sel hr hs ho
  refine ⟨fun low good => ?_, fun low bad rest => resetNRise_held env on low bad rest, fun held high => ?_,
    fun fell free high noStay latched => ?_, fun fell free low rest => supplyResetReboot_waits env on fell free low rest,
    fun up restart latched _ => ?_⟩
  · exact goes (· = b2n s.hw.board.strapsLatched) (resetNRise_boots env settled on low good) rfl rfl rfl
  · exact goes (· = 2) (resetHoldEnd_boots env settled on held high) rfl rfl rfl
  · exact goes (· = 2) (supplyResetReboot_boots env settled on fell free high noStay latched) rfl rfl rfl
  · exact goes (· < 16) (activationRestart_boots env settled up restart latched) rfl rfl (Nat.mod_lt _ (by decide))

end Sys2Proof.Proofs

/-! PROOFS. Drumhead's channel states and its copy of device time. -/

namespace Sys2Proof.Proofs

open Sys2Proof Sys2Proof.Machine Sys2Proof.Laws

/-! ## Time that passes to an instant -/

/-- The hardware with its two clocks, device time and elapsed time, at given values. -/
def atClocks (time el : Nat) (h : Hw) : Hw := { h with power := { h.power with time := time, elapsed := el } }

/-- Time that passes up to an instant that is not past brings elapsed time there, and device time moves along (R41, R382). -/
theorem passUntil_eq {h : Hw} {el : Nat} (on : h.board.aonOn = true) (ahead : h.power.elapsed ≤ el) :
    passUntil el h = atClocks ((h.power.time + (el - h.power.elapsed)) % 2 ^ 64) el h := by
  have there : h.power.elapsed + (el - h.power.elapsed) = el := Nat.add_sub_cancel' ahead
  simp only [passUntil, Machine.pass, on, if_true, there, atClocks]

/-! ## A run command that reports nothing -/

/-- A run command whose effect leaves nothing to carry out answers that effect's hardware. -/
theorem run_clear {f : Mems → Hw → Hw} {s : State} {g : Hw} (hf : f s.mem { s.hw with sent := [] } = g) (c : Clear g)
    (hq : g.sq.queue.length ≤ 64) : run f s = .next { s with hw := g } := by
  rw [Run.run_answers, hf, finish_unreported c hq, commit_clear s c]

/-! ## A run command that raises one event of health -/

theorem commit_finish_cal (s : State) (h : Hw) : (commit s (Machine.finish h)).hw.cal = h.cal := Run.finish_cal h
theorem commit_finish_raw (s : State) (h : Hw) : (commit s (Machine.finish h)).hw.raw = h.raw := Run.finish_raw h

/-- A counter of health other than that of lost events. -/
theorem commit_finish_counter {α : Type} (p : Counters → α) (hp : ∀ c, p { c with eventsLost := 0 } = p c) (s : State)
    (h : Hw) : p (commit s (Machine.finish h)).hw.health.cnt = p h.health.cnt := by
  have e := congrArg p (Run.finish_cnt h)
  rwa [hp, hp] at e

/-- Where nothing else is to be carried out, the event is reported and no byte of memory changes. -/
theorem commit_raisesHealth (s : State) (d : Detail) (subject cls p0 p1 : Nat) {g : Hw} (c : Clear g)
    (hq : g.sq.queue.length ≤ 32) :
    let t := commit s (Machine.finish (raiseHealth d subject cls p0 p1 g))
    t.mem = s.mem ∧ t.hw.sq.owned = g.sq.owned ∧ Reports t .eventHealth d := by
  have room : (raiseHealth d subject cls p0 p1 g).sq.queue.length +
      (raiseHealth d subject cls p0 p1 g).raised.length ≤ 64 := by
    simp only [raiseHealth, c.raised, List.nil_append, List.length_singleton]
    omega
  obtain ⟨mem, owned⟩ := commit_finish_raises s (raiseHealth d subject cls p0 p1 g) c.writes c.wipe c.records c.posts
    c.held room
  exact ⟨mem, owned, reports_of_raises s (raises_raiseHealth ..) c.posts c.held (.inr c.records) room⟩

/-! ## Settling (R69) -/

theorem settled_iff (h : Hw) (n el c : Nat) (ch : Channel) : settled h n el c ch = true ↔
    ch.state = .settling ∧ streamCloses h n (channelCfg h c).stream = true ∧
      ch.since + settleTicks (channelCfg h c).vibration ≤
        max (el - streamDivider h (channelCfg h c).stream * basePeriod h) h.drum.resetEl := by
  simp only [settled, Bool.and_eq_true, beq_iff_eq, decide_eq_true_eq, and_assoc]

/-- The elapsed tick of the next base-beat boundary. -/
def boundaryEl (h : Hw) : Nat := h.power.elapsed + ((h.drum.nextBeat + 1) * basePeriod h - h.power.time)

theorem elapsed_le_boundaryEl (h : Hw) : h.power.elapsed ≤ boundaryEl h := Nat.le_add_right ..

/-- The effect of CHANNEL_SETTLED where the frame path runs. -/
def settledEffect (c : Nat) (h : Hw) : Hw :=
  if settled h h.drum.nextBeat (boundaryEl h) c (h.drum.channels.getD c {}) then
    let h := passUntil (boundaryEl h) h
    { h with drum := { h.drum with channels := modifyAt c (fun x => { x with state := .live }) h.drum.channels } }
  else h

theorem exec_channelSettled (s : State) (c : Nat) (runs : framesRun s.hw = true) :
    exec (.channelSettled c) s = .next { s with hw := settledEffect c { s.hw with sent := [] } } := by
  have quietly : exec (.channelSettled c) s = quiet (fun h => if framesRun h then settledEffect c h else h) s := rfl
  have runs' : framesRun { s.hw with sent := [] } = true := runs
  rw [quietly, Run.quiet_answers, if_pos runs']

theorem settledEffect_settled {h : Hw} {c : Nat} (on : h.board.aonOn = true)
    (test : settled h h.drum.nextBeat (boundaryEl h) c (h.drum.channels.getD c {}) = true) :
    ∃ time, settledEffect c h = { atClocks time (boundaryEl h) h with
      drum := { h.drum with channels := modifyAt c (fun x => { x with state := .live }) h.drum.channels } } := by
  unfold settledEffect
  rw [if_pos test, passUntil_eq on (elapsed_le_boundaryEl h)]
  exact ⟨_, rfl⟩

theorem settledEffect_other {h : Hw} {c : Nat} (other : (h.drum.channels.getD c {}).state ≠ .settling) :
    settledEffect c h = h :=
  if_neg fun test => other ((settled_iff ..).1 test).1

/-! ## The device-time copy (R42) -/

/-- The next check is not past. -/
theorem elapsed_le_copyCheckDue (h : Hw) : h.power.elapsed ≤ copyCheckDue h := by
  simp only [copyCheckDue]
  omega

theorem calReload_eq (h : Hw) :
    calReload h = { h with cal := { h.cal with run := h.cal.run.map fun r => { r with step := true } } } := by
  unfold calReload
  split
  next r e => rw [e]; rfl
  next e => rw [e, Option.map_none, ← e]

/-- What a check does once time has come to its instant. -/
def copyJudged (diff : Int) (due : Nat) (h : Hw) : Hw :=
  let h := { h with drum := { h.drum with copyCheck := due } }
  if 1 < diff.natAbs then
    let h := { h with
      drum := { h.drum with copyDiff := 0, timeStep := true }
      health := { h.health with cnt := { h.health.cnt with timeDrifts := satAdd 16 h.health.cnt.timeDrifts 1 } } }
    raiseHealth .timeDrift 0 0 (patternOf 32 diff) 0 (calReload (resetRunning (edgeFrom h.power.time) true h))
  else { h with drum := { h.drum with copyDiff := diff } }

theorem timeCopyEffect_eq {h : Hw} (diff : Int) (sense : h.drum.senseOn = true) (on : h.board.aonOn = true) :
    ∃ time, timeCopyEffect diff h = copyJudged diff (copyCheckDue h) (atClocks time (copyCheckDue h) h) :=
  ⟨_, (if_pos sense).trans
    (congrArg (copyJudged diff (copyCheckDue h)) (passUntil_eq on (elapsed_le_copyCheckDue h)))⟩

/-- A copy that is right to a tick is kept. -/
theorem copyJudged_kept {diff : Int} (due : Nat) (h : Hw) (right : diff.natAbs ≤ 1) :
    copyJudged diff due h = { h with drum := { h.drum with copyDiff := diff, copyCheck := due } } :=
  if_neg (Nat.not_lt.2 right)

/-- The hardware once a copy that is wrong has been reloaded. -/
def copyReloaded (due : Nat) (h : Hw) : Hw :=
  { h with
    drum := { h.drum with copyDiff := 0, timeStep := true, copyCheck := due }
    raw := (resetRunning (edgeFrom h.power.time) true h).raw
    cal := { h.cal with run := h.cal.run.map fun r => { r with step := true } }
    health := { h.health with cnt := { h.health.cnt with timeDrifts := satAdd 16 h.health.cnt.timeDrifts 1 } } }

/-- A copy that is wrong is reloaded with TIME_DRIFT. -/
theorem copyJudged_reloads {diff : Int} (due : Nat) (h : Hw) (wrong : 1 < diff.natAbs) :
    copyJudged diff due h = raiseHealth .timeDrift 0 0 (patternOf 32 diff) 0 (copyReloaded due h) :=
  (if_pos wrong).trans (congrArg (raiseHealth .timeDrift 0 0 (patternOf 32 diff) 0) (calReload_eq _))

theorem exec_timeCopyCheck (diff : Int) (s : State) :
    exec (.timeCopyCheck diff) s = run (fun _ h => timeCopyEffect diff h) s := rfl

/-- A check answers what `copyJudged` makes of the hardware at its instant. -/
theorem answer_timeCopyCheck {s : State} (diff : Int) (sense : s.hw.drum.senseOn = true) (on : s.hw.board.aonOn = true) :
    ∃ time, exec (.timeCopyCheck diff) s =
      run (fun _ h => copyJudged diff (copyCheckDue s.hw) (atClocks time (copyCheckDue s.hw) h)) s := by
  obtain ⟨time, e⟩ := timeCopyEffect_eq (h := { s.hw with sent := [] }) diff sense on
  exact ⟨time, (exec_timeCopyCheck diff s).trans (congrArg (fun g => Host.Outcome.next (commit s (Machine.finish g))) e)⟩

theorem timeCopy_kept {s : State} {diff : Int} (sense : s.hw.drum.senseOn = true) (hs : RoomToReport s)
    (on : s.hw.board.aonOn = true) (right : diff.natAbs ≤ 1) : Answers (.timeCopyCheck diff) s fun t =>
      t.hw.drum = { s.hw.drum with copyDiff := diff, copyCheck := copyCheckDue s.hw } ∧
        t.hw.power.elapsed = copyCheckDue s.hw ∧ t.mem = s.mem ∧
        OnlyChanges (reporting ++ [Portion.drum, Portion.power]) s t := by
  obtain ⟨time, answer⟩ := answer_timeCopyCheck diff sense on
  generalize copyCheckDue s.hw = due at answer ⊢
  obtain ⟨writes, wipe, raised, records, posts, held⟩ := clear_of_nothingHeld hs.1
  have out := run_clear (s := s) (f := fun _ h => copyJudged diff due (atClocks time due h)) (copyJudged_kept due _ right)
    ⟨writes, wipe, raised, records, posts, held⟩ (Nat.le_trans hs.2 (by decide))
  exact ⟨_, answer.trans out, rfl, rfl, rfl, rfl, .inl (List.mem_cons_self ..), rfl⟩

theorem timeCopy_reloads {s : State} {diff : Int} (sense : s.hw.drum.senseOn = true) (hs : RoomToReport s)
    (on : s.hw.board.aonOn = true) (wrong : 1 < diff.natAbs) : Answers (.timeCopyCheck diff) s fun t =>
      t.hw.drum = { s.hw.drum with copyDiff := 0, timeStep := true, copyCheck := copyCheckDue s.hw } ∧
        t.hw.power.elapsed = copyCheckDue s.hw ∧
        t.hw.cal.run = s.hw.cal.run.map (fun r => { r with step := true }) ∧ Reports t .eventHealth .timeDrift ∧
        t.hw.health.cnt.timeDrifts = min (s.hw.health.cnt.timeDrifts + 1) 65535 ∧
        t.hw.raw.chains = s.hw.raw.chains.map (fun c =>
          if c.running then resetChain (edgeFrom t.hw.power.time) true c else c) ∧ t.mem = s.mem ∧
        OnlyChanges (reporting ++ [Portion.drum, Portion.raw, Portion.cal, Portion.power, Portion.health]) s t := by
  obtain ⟨time, answer⟩ := answer_timeCopyCheck diff sense on
  generalize copyCheckDue s.hw = due at answer ⊢
  obtain ⟨g, hg⟩ : ∃ g, g = copyReloaded due (atClocks time due { s.hw with sent := [] }) := ⟨_, rfl⟩
  have out : copyJudged diff due (atClocks time due { s.hw with sent := [] }) =
      raiseHealth .timeDrift 0 0 (patternOf 32 diff) 0 g := by
    rw [hg]
    exact copyJudged_reloads due _ wrong
  have c : Clear g := by
    obtain ⟨writes, wipe, raised, records, posts, held⟩ := clear_of_nothingHeld hs.1
    rw [hg]
    exact ⟨writes, wipe, raised, records, posts, held⟩
  obtain ⟨mem, -, reports⟩ := commit_raisesHealth s .timeDrift 0 0 (patternOf 32 diff) 0 c (by rw [hg]; exact hs.2)
  refine ⟨_, answer.trans (congrArg (fun g => Host.Outcome.next (commit s (Machine.finish g))) out),
    ?_, ?_, ?_, reports, ?_, ?_, mem, ?_⟩
  · rw [commit_finish_drum, hg]; rfl
  · rw [commit_finish_power, hg]; rfl
  · rw [commit_finish_cal, hg]; rfl
  · rw [commit_finish_counter (·.timeDrifts) fun _ => rfl, hg]; rfl
  · rw [commit_finish_raw, commit_finish_power, hg]; rfl
  · refine Slots.run_only [.drum, .raw, .cal, .power, .health] s _ ?_
    rw [hg]
    rfl

/-- Settles O35: CHANNEL_SETTLED tests `settled`, and a check of the copy is one of the two lemmas above. -/
theorem channelsSettleAndTheTimeCopyHolds : Obligations.ChannelsSettleAndTheTimeCopyHolds := by
  unfold Obligations.ChannelsSettleAndTheTimeCopyHolds
  constructor
  · intro s c runs on n el ch
    constructor
    · intro settling closes due
      have test : settled s.hw n el c ch = true := (settled_iff ..).2 ⟨settling, closes, due⟩
      obtain ⟨time, out⟩ := settledEffect_settled (h := { s.hw with sent := [] }) on test
      have answer := (exec_channelSettled s c runs).trans
        (congrArg (fun h : Hw => Host.Outcome.next { s with hw := h }) out)
      refine ⟨_, answer, rfl, ?_, rfl, rfl, .inr rfl, rfl⟩
      rfl
    · intro other
      rw [exec_channelSettled s c runs, settledEffect_other (h := { s.hw with sent := [] }) other]
  · intro s diff sense hs on due
    constructor
    · intro ⟨low, high⟩
      exact timeCopy_kept sense hs on (by omega)
    · intro off
      exact timeCopy_reloads sense hs on (by omega)

end Sys2Proof.Proofs

/-! PROOFS. Bytes of words, reads of the first bytes of a range, and the end of a command that has only written. -/

namespace Sys2Proof.Proofs

open Sys2Proof Sys2Proof.Machine Sys2Proof.Laws

/-! ## Little-endian words (R23) -/

theorem leNat_leBytes (n v : Nat) : leNat (leBytes n v) = v % 256 ^ n := by
  induction n generalizing v with
  | zero => simp only [leBytes, leNat, Nat.pow_zero, Nat.mod_one]
  | succ n ih => 
    rw [leBytes, leNat, ih, BitVec.toNat_ofNat, pow_succ' 256 n]
    exact (Nat.mod_mul (a := 256)).symm

theorem wordsBytes_append (xs ys : List Word) : wordsBytes (xs ++ ys) = wordsBytes xs ++ wordsBytes ys := by
  induction xs with
  | nil => rfl
  | cons x xs ih => simp only [List.cons_append, wordsBytes, ih, List.append_assoc]

/-- Words come back from their bytes. -/
theorem bytesWords_wordsBytes (ws : List Word) : bytesWords (wordsBytes ws) = ws := by
  induction ws with
  | nil => rfl
  | cons w ws ih =>
    have number : leNat (leBytes 4 w.toNat) = w.toNat := by
      rw [leNat_leBytes]
      exact Nat.mod_eq_of_lt w.isLt
    have first : bytesWords (wordsBytes (w :: ws)) = w32 (leNat (leBytes 4 w.toNat)) :: bytesWords (wordsBytes ws) := rfl
    rw [first, number, ih, w32, BitVec.ofNat_toNat, BitVec.setWidth_eq]

/-! ## Equal parts joined -/

/-- Element k of part c, where every part has n elements. -/
theorem getElem?_flatMap_parts {α β : Type} {n : Nat} (f : α → List β) (hf : ∀ x, (f x).length = n) (xs : List α)
    (c : Nat) {k : Nat} (hk : k < n) : (xs.flatMap f)[n * c + k]? = xs[c]?.bind fun x => (f x)[k]? := by
  induction xs generalizing c with
  | nil => rfl
  | cons x xs ih =>
    rw [List.flatMap_cons]
    cases c with
    | zero =>
      rw [Nat.mul_zero, Nat.zero_add, List.getElem?_append_left (by rw [hf]; exact hk)]
      rfl
    | succ c =>
      have later : n * (c + 1) + k - (f x).length = n * c + k := by rw [hf, Nat.mul_succ]; omega
      rw [List.getElem?_append_right (by rw [hf, Nat.mul_succ]; omega), later, ih]
      rfl

/-! ## The first bytes of a range -/

theorem take_readCells (fill : Byte) (n k a : Nat) (m : Mem) :
    (readCells fill (n + k) a m).take n = readCells fill n a m := by
  induction n generalizing a m with
  | zero => rfl
  | succ n ih =>
    rw [Nat.succ_add]
    cases m with
    | nil => simp only [readCells, List.take_succ_cons, ih]
    | cons c m =>
      simp only [readCells]
      split
      · rw [List.take_succ_cons, ih]
      · rw [List.take_succ_cons, ih]

theorem take_memReadN (fill : Byte) (m : Mem) (a n k : Nat) : (memReadN fill m a (n + k)).take n = memReadN fill m a n :=
  take_readCells ..

/-! ## A command that has only written -/

/-- Where nothing is held, raised or completed, the memories take the effect's writes and no other. -/
theorem commit_finish_writes (s : State) {h : Hw} (hi : h.wipe = none) (ha : h.raised = []) (hr : h.records = [])
    (hp : h.sq.posts = []) (hh : h.sq.heldRecords = []) (hq : h.sq.queue.length ≤ 64) :
    (commit s (Machine.finish h)).mem = applyWrites s.mem h.writes := by
  obtain ⟨fw, -⟩ := Run.finish_plain h hp hh (.inr hr) (by rw [ha]; exact hq)
  simp only [commit, Run.finish_wipe, hi, wipeMems, fw, hr, List.map_nil, List.append_nil]

end Sys2Proof.Proofs

/-! PROOFS. Drumhead's frames: published, held or lost (R45, R60 to R77). -/

namespace Sys2Proof.Proofs

open Sys2Proof Sys2Proof.Machine Sys2Proof.Laws

/-! ## The bytes of a sealed record (R72, R73) -/

/-- The header words of a sealed record: HELD and DROPPED are set. -/
def sealedHeader (held : Bool) (dropped : Nat) (ws : List Word) : List Word :=
  modifyAt 10 (fun _ => w32 (min dropped 65535)) (modifyAt 9 (fun w => if held then w ||| w32 (2 ^ 18) else w) ws)

/-- The first words of the header are the beat and its time, sealed or not. -/
theorem sealedHeader_headerWords (held : Bool) (dropped : Nat) (h : Hw) (n : Nat) : ∃ rest, rest.length = 11 ∧
    sealedHeader held dropped (headerWords h n) = (w64 n ++ w64 ((n + 1) * basePeriod h)) ++ rest :=
  ⟨_, rfl, rfl⟩

theorem headerWords_length (h : Hw) (n : Nat) : (wordsBytes (headerWords h n)).length = 60 :=
  Run.wordsBytes_length _

/-- A sealed record: 60 bytes of header, the CRC in a word, and the frame. -/
theorem sealRecord_openRecord (held : Bool) (dropped : Nat) (h : Hw) (n : Nat) :
    ∃ rest crc, rest.length = 11 ∧ sealRecord held dropped (openRecord h n) =
      wordsBytes ((w64 n ++ w64 ((n + 1) * basePeriod h)) ++ rest) ++ wordsBytes [crc] ++ frameBytes h := by
  obtain ⟨rest, long, e⟩ := sealedHeader_headerWords held dropped h n
  have header : ((openRecord h n).bytes.take 60) = wordsBytes (headerWords h n) := List.take_left' (headerWords_length h n)
  have frame : ((openRecord h n).bytes.drop 60) = frameBytes h := List.drop_left' (headerWords_length h n)
  have parts : sealRecord held dropped (openRecord h n) =
      let head := wordsBytes (sealedHeader held dropped (headerWords h n))
      head ++ wordsBytes [w32 (crc16 (head ++ frameBytes h))] ++ frameBytes h := by
    unfold sealRecord
    rw [header, frame, bytesWords_wordsBytes]
    rfl
  rw [e] at parts
  exact ⟨rest, _, long, parts⟩

theorem frameBytes_length (h : Hw) : (frameBytes h).length = 576 := by
  simp [frameBytes]

/-- The byte of a channel's tap in the frame. -/
theorem getElem?_frameBytes (h : Hw) {c k : Nat} (hc : c < 32) (hk : k < 16) : (frameBytes h)[16 * c + k]? =
    some (if validNow h c then BitVec.ofNat 8 ((h.drum.channels.getD c {}).bands.getD k 0) else 0) := by
  unfold frameBytes
  dsimp only
  rw [List.append_assoc, List.getElem?_append_left (by simp; omega),
    getElem?_flatMap_parts _ (fun x => by simp) _ _ hk]
  simp [hc, hk]

theorem sealRecord_length (held : Bool) (dropped : Nat) (h : Hw) (n : Nat) :
    (sealRecord held dropped (openRecord h n)).length = 640 := by
  obtain ⟨rest, crc, long, e⟩ := sealRecord_openRecord held dropped h n
  rw [e]
  simp [Run.wordsBytes_length, frameBytes_length, long, w64]

theorem take_sealRecord (held : Bool) (dropped : Nat) (h : Hw) (n : Nat) :
    (sealRecord held dropped (openRecord h n)).take 16 = wordsBytes (w64 n ++ w64 ((n + 1) * basePeriod h)) := by
  obtain ⟨rest, crc, long, e⟩ := sealRecord_openRecord held dropped h n
  rw [e, wordsBytes_append, List.append_assoc, List.append_assoc]
  exact List.take_left' (Run.wordsBytes_length _)

theorem getElem?_sealRecord (held : Bool) (dropped : Nat) (h : Hw) (n : Nat) {c k : Nat} (hc : c < 32) (hk : k < 16) :
    (sealRecord held dropped (openRecord h n))[64 + 16 * c + k]? =
      some (if validNow h c then BitVec.ofNat 8 ((h.drum.channels.getD c {}).bands.getD k 0) else 0) := by
  obtain ⟨rest, crc, long, e⟩ := sealRecord_openRecord held dropped h n
  have head : (wordsBytes ((w64 n ++ w64 ((n + 1) * basePeriod h)) ++ rest) ++ wordsBytes [crc]).length = 64 := by
    simp [Run.wordsBytes_length, long, w64]
  rw [e, List.getElem?_append_right (by rw [head]; omega), head, ← getElem?_frameBytes h hc hk]
  congr 1
  omega

/-! ## The hardware as its record is stored (R65 to R75) -/

/-- Time has come to the boundary, and the streams that close are converted. -/
def beatConverted (samples : List ChannelSample) (h : Hw) : Hw :=
  let g := passToTime ((h.drum.nextBeat + 1) * basePeriod h) h
  closeStreams h.drum.nextBeat samples (settleDue h.drum.nextBeat g.power.elapsed g)

/-- The frame is counted and offered to Bell as well. -/
def beatClosed (samples : List ChannelSample) (h : Hw) : Hw :=
  bellOffer h.drum.nextBeat (countFrame h.drum.nextBeat (beatConverted samples h))

theorem beatEffect_eq (samples : List ChannelSample) (ok : Bool) {h : Hw} (runs : framesRun h = true) :
    beatEffect samples ok h = openBeat h.drum.nextBeat
      (storeRecord ok (openRecord (beatConverted samples h) h.drum.nextBeat) (beatClosed samples h)) :=
  if_pos runs

/-- Time that passes to a device time changes the two clocks alone. -/
theorem passToTime_clocks (t : Nat) (h : Hw) : ∃ time el, passToTime t h = atClocks time el h ∧
    (h.board.aonOn = true → h.power.time ≤ t → t < 2 ^ 64 → time = t) := by
  by_cases on : h.board.aonOn = true
  · by_cases ahead : h.power.time ≤ t ∧ t < 2 ^ 64
    · exact ⟨t, _, passToTime_eq on ahead.1 ahead.2, fun _ _ _ => rfl⟩
    · exact ⟨_, _, if_pos on, fun _ low high => absurd ⟨low, high⟩ ahead⟩
  · exact ⟨_, _, if_neg on, fun h => absurd h on⟩

theorem beatConverted_eq (samples : List ChannelSample) (h : Hw) : ∃ time el chs,
    beatConverted samples h = { atClocks time el h with drum := { h.drum with channels := chs } } ∧
      (h.board.aonOn = true → h.power.time ≤ (h.drum.nextBeat + 1) * basePeriod h →
        (h.drum.nextBeat + 1) * basePeriod h < 2 ^ 64 → time = (h.drum.nextBeat + 1) * basePeriod h) := by
  unfold beatConverted
  obtain ⟨time, el, e, there⟩ := passToTime_clocks ((h.drum.nextBeat + 1) * basePeriod h) h
  rw [e]
  exact ⟨time, el, _, rfl, there⟩

theorem bellTakeModel_eq (h : Hw) : ∃ bell, bellTakeModel h = { h with bell := bell } := by
  unfold bellTakeModel
  split
  · exact ⟨_, rfl⟩
  · exact ⟨_, rfl⟩

theorem bellBeat_eq (n : Nat) (step : Bool) (h : Hw) : ∃ bell, bellBeat n step h = { h with bell := bell } := by
  obtain ⟨bell, e⟩ := bellTakeModel_eq h
  unfold bellBeat
  rw [e]
  split
  · exact ⟨_, rfl⟩
  · exact ⟨_, rfl⟩

/-- Bell takes a frame into its own state. -/
theorem bellOffer_eq (n : Nat) (h : Hw) : ∃ bell, bellOffer n h = { h with bell := bell } := by
  have cleared (step : Bool) : ∃ bell, (if step then bellClear h else h) = { h with bell := bell } := by
    split
    · exact ⟨_, rfl⟩
    · exact ⟨_, rfl⟩
  unfold bellOffer
  split
  · obtain ⟨bell, e⟩ := cleared (h.drum.timeStep || h.drum.copyDiff != 0)
    dsimp only
    rw [e]
    split
    · exact bellBeat_eq ..
    · exact ⟨bell, rfl⟩
  · exact ⟨_, rfl⟩

theorem countFrame_eq (n : Nat) (h : Hw) : ∃ biased low, countFrame n h = { h with
    health := { h.health with cnt := { h.health.cnt with biasBeats := biased, hvLowBeats := low } } } := ⟨_, _, rfl⟩

theorem beatClosed_eq (samples : List ChannelSample) (h : Hw) : ∃ time el chs bell biased low,
    beatClosed samples h = { atClocks time el h with
      drum := { h.drum with channels := chs }
      bell := bell
      health := { h.health with cnt := { h.health.cnt with biasBeats := biased, hvLowBeats := low } } } ∧
      (h.board.aonOn = true → h.power.time ≤ (h.drum.nextBeat + 1) * basePeriod h →
        (h.drum.nextBeat + 1) * basePeriod h < 2 ^ 64 → time = (h.drum.nextBeat + 1) * basePeriod h) := by
  obtain ⟨time, el, chs, e, there⟩ := beatConverted_eq samples h
  obtain ⟨biased, low, counted⟩ := countFrame_eq h.drum.nextBeat (beatConverted samples h)
  rw [e] at counted
  obtain ⟨bell, offered⟩ := bellOffer_eq h.drum.nextBeat (countFrame h.drum.nextBeat (beatConverted samples h))
  rw [e, counted] at offered
  refine ⟨time, el, chs, bell, biased, low, ?_, there⟩
  rw [beatClosed, e, counted]
  exact offered

/-- What the boundary leaves of the hardware, as its record meets it. -/
structure BeatOpen (h g : Hw) : Prop where
  image : g.image = h.image
  memOn : g.power.memOn = h.power.memOn
  saving : g.saving = h.saving
  holding : g.drum.holding = h.drum.holding
  dropped : g.drum.dropped = h.drum.dropped
  latest : g.drum.latest = h.drum.latest
  accessRaised : g.drum.accessRaised = h.drum.accessRaised
  barrierCrc : g.health.cnt.barrierCrc = h.health.cnt.barrierCrc

/-- The access tables judge the record where they judged it before the boundary. -/
theorem BeatOpen.granted {h g : Hw} (b : BeatOpen h g) (n : Nat) :
    Machine.granted g AFE_DMA false true (frameAddr g n) 640 = Machine.granted h AFE_DMA false true (frameAddr h n) 640 := by
  simp only [Machine.granted, frameAddr, frameDepth, channelsCfg, b.image]

theorem beatClosed_open (samples : List ChannelSample) (h : Hw) : BeatOpen h (beatClosed samples h) := by
  obtain ⟨time, el, chs, bell, biased, low, e, -⟩ := beatClosed_eq samples h
  rw [e]
  exact ⟨rfl, rfl, rfl, rfl, rfl, rfl, rfl, rfl⟩

theorem exec_beatBoundary {s : State} (samples : List ChannelSample) (ok : Bool) (runs : framesRun s.hw = true) :
    exec (.beatBoundary samples ok) s = .next (commit s (Machine.finish (openBeat s.hw.drum.nextBeat (storeRecord ok
      (openRecord (beatConverted samples { s.hw with sent := [] }) s.hw.drum.nextBeat)
      (beatClosed samples { s.hw with sent := [] }))))) :=
  congrArg (fun g => Host.Outcome.next (commit s (Machine.finish g)))
    (beatEffect_eq samples ok (h := { s.hw with sent := [] }) runs)

/-! ## A record that is not published (R45, R75 to R77) -/

/-- Only the frame path's state and counts of health tell that the record met its boundary. -/
def unpublished (d : Drum) (cn : Counters) (g : Hw) : Hw := { g with drum := d, health := { g.health with cnt := cn } }

/-- What every frame that is not published leaves as it was. -/
def FrameKept (n : Nat) (s t : State) : Prop :=
  t.hw.drum.latest = s.hw.drum.latest ∧ t.hw.drum.nextBeat = n + 1 ∧ t.mem = s.mem ∧
    OnlyChanges (reporting ++ [Portion.drum, Portion.bell, Portion.power, Portion.health]) s t

theorem storeRecord_lost {g : Hw} (r : FrameRec) (up : g.power.memOn = true) (awake : g.saving = false) :
    storeRecord false r g = unpublished { g.drum with dropped := satAdd 16 g.drum.dropped 1 }
      { g.health.cnt with barrierCrc := satAdd 16 g.health.cnt.barrierCrc 1 } g := by
  simp only [storeRecord, up, awake, crossBarrier, Bool.not_false, Bool.and_self, if_true, Bool.false_eq_true, if_false]
  rfl

theorem storeRecord_held {g : Hw} (ok : Bool) (r : FrameRec) (down : g.power.memOn = false ∨ g.saving = true) :
    storeRecord ok r g = unpublished (if g.drum.holding.length < 32 then { g.drum with holding := g.drum.holding ++ [r] }
      else { g.drum with holding := g.drum.holding.drop 1 ++ [r], dropped := satAdd 16 g.drum.dropped 1 })
      g.health.cnt g := by
  have closed : ¬(g.power.memOn && !g.saving) = true := by
    rcases down with h | h
    · simp [h]
    · simp [h]
  rw [storeRecord, if_neg closed, holdRecord]
  split
  · rfl
  · rfl

theorem countRefusal_eq (master a : Nat) (h : Hw) :
    ∃ cn, countRefusal master a h = { h with health := { h.health with cnt := cn } } := ⟨_, rfl⟩

/-- What a refused record leaves of the frame path. -/
def refusedDrum (d : Drum) : Drum := { d with dropped := satAdd 16 d.dropped 1, accessRaised := true }

/-- A record that the access tables refuse is discarded; the first of a boot raises FRAME_ACCESS. -/
theorem storeRecord_refused {g : Hw} (r : FrameRec) (up : g.power.memOn = true) (awake : g.saving = false)
    (no : granted g AFE_DMA false true (frameAddr g r.beat) 640 = false) : ∃ cn, storeRecord true r g =
      if g.drum.accessRaised then unpublished (refusedDrum g.drum) cn g
      else raiseHealth .frameAccess 0 0 0 0 (unpublished (refusedDrum g.drum) cn g) := by
  obtain ⟨cn, counted⟩ := countRefusal_eq AFE_DMA (frameAddr g r.beat) { g with drum := refusedDrum g.drum }
  have discarded : publishRecord false g r = unpublished (refusedDrum g.drum) cn g := by
    simp only [publishRecord, no, Bool.false_and, Bool.false_eq_true, if_false]
    exact counted
  refine ⟨cn, ?_⟩
  simp only [storeRecord, up, awake, crossBarrier, Bool.not_false, Bool.and_self, if_true, publish, discarded]
  cases g.drum.accessRaised
  · rfl
  · rfl

section Unpublished

variable {s : State} (samples : List ChannelSample) (runs : framesRun s.hw = true) (hs : RoomToReport s)

include hs in
/-- Once the next beat runs nothing is to be carried out, and the frame is right. -/
theorem unpublished_clear {d : Drum} (cn : Counters) (hd : d.latest = s.hw.drum.latest) :
    let k := openBeat s.hw.drum.nextBeat (unpublished d cn (beatClosed samples { s.hw with sent := [] }))
    Clear k ∧ k.sq.queue.length ≤ 32 ∧ k.drum.latest = s.hw.drum.latest ∧ k.drum.nextBeat = s.hw.drum.nextBeat + 1 ∧
      blank (reporting ++ [Portion.drum, Portion.bell, Portion.power, Portion.health]) k =
        blank (reporting ++ [Portion.drum, Portion.bell, Portion.power, Portion.health]) s.hw := by
  obtain ⟨time, el, chs, bell, biased, low, e, -⟩ := beatClosed_eq samples { s.hw with sent := [] }
  obtain ⟨writes, wipe, raised, records, posts, held⟩ := clear_of_nothingHeld hs.1
  rw [e]
  exact ⟨⟨writes, wipe, raised, records, posts, held⟩, hs.2, hd, rfl, rfl⟩

include runs hs in
/-- A record that leaves neither an event nor a write. -/
theorem beat_unpublished {ok : Bool} {d : Drum} {cn : Counters}
    (stored : storeRecord ok (openRecord (beatConverted samples { s.hw with sent := [] }) s.hw.drum.nextBeat)
      (beatClosed samples { s.hw with sent := [] }) = unpublished d cn (beatClosed samples { s.hw with sent := [] }))
    (hd : d.latest = s.hw.drum.latest) :
    Answers (.beatBoundary samples ok) s fun t => FrameKept s.hw.drum.nextBeat s t ∧ t.hw.drum.dropped = d.dropped ∧
      t.hw.drum.holding = d.holding ∧ t.hw.drum.accessRaised = d.accessRaised ∧ t.hw.health.cnt = cn := by
  obtain ⟨c, room, latest, next, frame⟩ := unpublished_clear samples hs cn hd
  have answer := exec_beatBoundary samples ok runs
  rw [stored, finish_unreported c (Nat.le_trans room (by decide)), commit_clear s c] at answer
  exact ⟨_, answer, ⟨latest, next, rfl, frame, .inl (List.mem_cons_self ..), rfl⟩, rfl, rfl, rfl, rfl⟩

include runs hs in
/-- A record that leaves an event of health. -/
theorem beat_unpublished_raises {ok : Bool} {d : Drum} {cn : Counters} {x : Detail}
    (stored : storeRecord ok (openRecord (beatConverted samples { s.hw with sent := [] }) s.hw.drum.nextBeat)
      (beatClosed samples { s.hw with sent := [] }) =
        raiseHealth x 0 0 0 0 (unpublished d cn (beatClosed samples { s.hw with sent := [] })))
    (hd : d.latest = s.hw.drum.latest) :
    Answers (.beatBoundary samples ok) s fun t => FrameKept s.hw.drum.nextBeat s t ∧ t.hw.drum.dropped = d.dropped ∧
      t.hw.drum.accessRaised = d.accessRaised ∧ Reports t .eventHealth x := by
  obtain ⟨c, room, latest, next, frame⟩ := unpublished_clear samples hs cn hd
  have answer := exec_beatBoundary samples ok runs
  have last (h : Hw) : openBeat s.hw.drum.nextBeat (raiseHealth x 0 0 0 0 h) =
      raiseHealth x 0 0 0 0 (openBeat s.hw.drum.nextBeat h) := rfl
  rw [stored, last] at answer
  obtain ⟨mem, -, reports⟩ := commit_raisesHealth s x 0 0 0 0 c room
  refine ⟨_, answer, ⟨?_, ?_, mem, ?_⟩, ?_, ?_, reports⟩
  · rw [commit_finish_drum]; exact latest
  · rw [commit_finish_drum]; exact next
  · exact Slots.run_only [.drum, .bell, .power, .health] s _ frame
  · rw [commit_finish_drum]; rfl
  · rw [commit_finish_drum]; rfl

end Unpublished

/-! ## A record that is published (R60, R61, R72 to R75) -/

theorem putDev_dram {a : Nat} (bs : List Byte) (h : Hw) (ha : a < dramEnd) : putDev a bs h = put .dram a bs h := by
  have below : ¬host1Base ≤ a ∧ ¬host0Base ≤ a ∧ ¬windowBase ≤ a ∧ ¬coreStoreBase ≤ a := by
    simp only [dramEnd, host1Base, host0Base, windowBase, coreStoreBase] at ha ⊢
    omega
  obtain ⟨h1, h0, w, c⟩ := below
  rw [putDev, if_neg h1, if_neg h0, if_neg w, if_neg c]

/-- A record that is published is written at its place in the ring, and is the latest. -/
theorem storeRecord_published {g : Hw} {r : FrameRec} (up : g.power.memOn = true) (awake : g.saving = false)
    (yes : granted g AFE_DMA false true (frameAddr g r.beat) 640 = true) (fits : frameAddr g r.beat + 640 ≤ dramEnd) :
    ∃ cores bad touched, storeRecord true r g = { g with
      sched := { g.sched with cores := cores }
      health := { g.health with badUnits := bad, written := touched }
      writes := g.writes ++ [⟨.dram, frameAddr g r.beat, sealRecord false g.drum.dropped r⟩]
      drum := { g.drum with dropped := 0, latest := some r.beat } } := by
  have target : (targetOf g (frameAddr g r.beat) 640).isSome = true := by
    rw [targetOf, if_pos fits]
    rfl
  have there : frameAddr g r.beat < dramEnd := by omega
  simp only [storeRecord, up, awake, crossBarrier, Bool.not_false, Bool.and_self, if_true, publish, publishRecord, yes,
    target, writeDev, putDev_dram _ _ there]
  rw [if_neg (by simp [invalidateTiles])]
  exact ⟨_, _, _, rfl⟩

/-- The state that a published frame leaves: its record is in memory, and nothing else of it has changed. -/
theorem beat_published {s : State} (samples : List ChannelSample) (runs : framesRun s.hw = true) (hs : RoomToReport s)
    (up : s.hw.power.memOn = true) (awake : s.hw.saving = false)
    (yes : granted s.hw AFE_DMA false true (frameAddr s.hw s.hw.drum.nextBeat) 640 = true)
    (fits : frameAddr s.hw s.hw.drum.nextBeat + 640 ≤ dramEnd) :
    let n := s.hw.drum.nextBeat
    Answers (.beatBoundary samples true) s fun t =>
      (s.hw.board.aonOn = true → s.hw.power.time ≤ (n + 1) * basePeriod s.hw → (n + 1) * basePeriod s.hw < 2 ^ 64 →
        t.hw.power.time = (n + 1) * basePeriod s.hw) ∧
      t.hw.drum.nextBeat = n + 1 ∧ t.hw.drum.latest = some n ∧ t.hw.drum.dropped = 0 ∧
      t.mem = applyWrites s.mem [⟨.dram, frameAddr s.hw n, sealRecord false s.hw.drum.dropped
        (openRecord (beatConverted samples { s.hw with sent := [] }) n)⟩] ∧
      OnlyChanges (reporting ++ [Portion.drum, Portion.bell, Portion.power, Portion.health, Portion.sched]) s t := by
  intro n
  have answer := exec_beatBoundary samples true runs
  obtain ⟨r, hr⟩ : ∃ r, r = openRecord (beatConverted samples { s.hw with sent := [] }) n := ⟨_, rfl⟩
  have beat : r.beat = n := by rw [hr]; rfl
  obtain ⟨time, el, chs, bell, biased, low, e, there⟩ := beatClosed_eq samples { s.hw with sent := [] }
  obtain ⟨cores, bad, touched, stored⟩ := storeRecord_published (r := r) (g := beatClosed samples { s.hw with sent := [] })
    (by rw [e]; exact up) (by rw [e]; exact awake) (by rw [e, beat]; exact yes) (by rw [e, beat]; exact fits)
  rw [← hr, stored, e, beat] at answer
  rw [← hr]
  obtain ⟨writes, wipe, raised, records, posts, held⟩ := clear_of_nothingHeld hs.1
  refine ⟨_, answer, ?_, ?_, ?_, ?_, ?_, ?_⟩
  · rw [commit_finish_power]
    exact there
  · rw [commit_finish_drum]; rfl
  · rw [commit_finish_drum]; rfl
  · rw [commit_finish_drum]; rfl
  · refine (commit_finish_writes s ?_ ?_ ?_ ?_ ?_ ?_).trans (congrArg (fun ws => applyWrites s.mem (ws ++ [_])) writes)
    · exact wipe
    · exact raised
    · exact records
    · exact posts
    · exact held
    · exact Nat.le_trans hs.2 (by decide)
  · refine Slots.run_only [.drum, .bell, .power, .health, .sched] s _ ?_
    rfl

/-! ## The features of a LIVE channel (R60, R61, R66) -/

theorem getD_mapIdx {α β : Type} (f : Nat → α → β) {xs : List α} {i : Nat} {x : α} (d : β) (hx : xs[i]? = some x) :
    (xs.mapIdx f).getD i d = f i x := by
  rw [List.getD_eq_getElem?_getD, List.getElem?_mapIdx, hx]
  rfl

/-- A LIVE channel is one of the list. -/
theorem getElem?_of_live {cs : List Channel} {c : Nat} (live : (cs.getD c {}).state = .live) :
    cs[c]? = some (cs.getD c {}) := by
  rw [List.getD_eq_getElem?_getD] at live ⊢
  cases e : cs[c]? with
  | none => rw [e] at live; cases live
  | some x => rfl

/-- A LIVE channel whose stream closes takes its features from the beat's samples. -/
theorem beatConverted_channel (samples : List ChannelSample) {h : Hw} {c : Nat}
    (live : (h.drum.channels.getD c {}).state = .live)
    (closes : streamCloses h h.drum.nextBeat (channelCfg h c).stream = true) :
    (beatConverted samples h).drum.channels.getD c {} = closeChannel (channelCfg h c)
      (streamDivider h (channelCfg h c).stream * basePeriod h) (samples.getD c {}) (h.drum.channels.getD c {}) := by
  unfold beatConverted
  obtain ⟨time, el, e, -⟩ := passToTime_clocks ((h.drum.nextBeat + 1) * basePeriod h) h
  rw [e]
  have waits : settled (atClocks time el h) h.drum.nextBeat el c (h.drum.channels.getD c {}) ≠ true :=
    fun due => absurd (live.symm.trans ((settled_iff ..).1 due).1) (by decide)
  have stays : (settleDue h.drum.nextBeat el (atClocks time el h)).drum.channels[c]? =
      some (h.drum.channels.getD c {}) := by
    refine (List.getElem?_mapIdx ..).trans ?_
    rw [show (atClocks time el h).drum.channels[c]? = _ from getElem?_of_live live]
    exact congrArg some (if_neg waits)
  refine (getD_mapIdx _ _ stays).trans (if_pos ?_)
  exact closes

theorem closeChannel_live (cfg : ChannelCfg) (t : Nat) (x : ChannelSample) {c : Channel} (live : c.state = .live) :
    (closeChannel cfg t x c).state = .live ∧ (closeChannel cfg t x c).bands = bandCodes cfg t x := by
  obtain ⟨state, since, bands, peak, xing, clip, bias, armed⟩ := c
  obtain rfl : state = .live := live
  exact ⟨rfl, rfl⟩

theorem getD_bandCodes (cfg : ChannelCfg) (t : Nat) (x : ChannelSample) {k : Nat} (hk : k < 16)
    (on : tapEnabled cfg.tapEn k = true) :
    (bandCodes cfg t x).getD k 0 = logCode (tapCode cfg.gain t (x.areas.getD k 0) (x.errs.getD k 0)) := by
  simp only [bandCodes, List.getD_eq_getElem?_getD, List.getElem?_map, List.getElem?_range hk, Option.map_some,
    Option.getD_some, on, if_true]

/-- The byte of a tap of a LIVE channel in its record. -/
theorem sealRecord_feature (samples : List ChannelSample) (dropped : Nat) {h : Hw} {c k : Nat} (hc : c < 32) (hk : k < 16)
    (live : (h.drum.channels.getD c {}).state = .live) (valid : h.drum.validOff = false)
    (closes : streamCloses h h.drum.nextBeat (channelCfg h c).stream = true)
    (on : tapEnabled (channelCfg h c).tapEn k = true) :
    (sealRecord false dropped (openRecord (beatConverted samples h) h.drum.nextBeat))[64 + 16 * c + k]? =
      some (BitVec.ofNat 8 (logCode (tapCode (channelCfg h c).gain
        (streamDivider h (channelCfg h c).stream * basePeriod h)
        ((samples.getD c {}).areas.getD k 0) ((samples.getD c {}).errs.getD k 0)))) := by
  have channel := beatConverted_channel samples live closes
  obtain ⟨state, bands⟩ := closeChannel_live (channelCfg h c) (streamDivider h (channelCfg h c).stream * basePeriod h)
    (samples.getD c {}) live
  have off : (beatConverted samples h).drum.validOff = false := by
    obtain ⟨_, _, _, e, -⟩ := beatConverted_eq samples h
    rw [e]
    exact valid
  have isValid : validNow (beatConverted samples h) c = true := by
    rw [validNow, channel, state, off]
    rfl
  rw [getElem?_sealRecord false dropped _ _ hc hk, if_pos isValid, channel, bands, getD_bandCodes _ _ _ hk on]

/-! ## One write to DRAM, read back -/

section OneWrite

variable {s t : State} {sp : Space} {a : Nat} {bs : List Byte} (hm : t.mem = applyWrites s.mem [⟨sp, a, bs⟩])

include hm

theorem mem_of_write : t.mem.of sp = memWrite sp.fill (s.mem.of sp) a bs := by
  rw [hm]
  exact Run.applyWrite_of s.mem ⟨sp, a, bs⟩

theorem byteAt_write {i : Nat} {b : Byte} (hb : bs[i]? = some b) : byteAt t sp (a + i) = some b := by
  obtain ⟨hi, rfl⟩ := List.getElem?_eq_some_iff.1 hb
  rw [byteAt, mem_of_write hm, Memory.memRead_memWrite_same _ _ _ _ _ hi]

theorem byteAt_write_outside {b : Nat} (out : b < a ∨ a + bs.length ≤ b) : byteAt t sp b = byteAt s sp b := by
  rw [byteAt, mem_of_write hm, Memory.memRead_memWrite_other _ _ _ _ _ out, byteAt]

/-- The first n bytes. -/
theorem bytesAt_write {n : Nat} (hn : n ≤ bs.length) : bytesAt t sp a n = bs.take n := by
  have all := Memory.memReadN_memWrite sp.fill (s.mem.of sp) a bs
  rw [← mem_of_write hm, ← Nat.add_sub_cancel' hn] at all
  rw [bytesAt, ← take_memReadN _ _ _ n (bs.length - n), all]

end OneWrite

/-! ## Each way of a record -/

section Ways

variable {s : State} (samples : List ChannelSample) (runs : framesRun s.hw = true) (hs : RoomToReport s)

include runs hs

theorem frame_lost (up : s.hw.power.memOn = true) (awake : s.hw.saving = false) :
    Answers (.beatBoundary samples false) s fun t => FrameKept s.hw.drum.nextBeat s t ∧
      t.hw.drum.dropped = satAdd 16 s.hw.drum.dropped 1 ∧ t.hw.drum.holding = s.hw.drum.holding ∧
      t.hw.health.cnt.barrierCrc = satAdd 16 s.hw.health.cnt.barrierCrc 1 := by
  have o := beatClosed_open samples { s.hw with sent := [] }
  obtain ⟨t, answer, kept, dropped, holding, -, cnt⟩ := beat_unpublished samples runs hs
    (storeRecord_lost _ (o.memOn.trans up) (o.saving.trans awake)) o.latest
  refine ⟨t, answer, kept, ?_, holding.trans o.holding, ?_⟩
  · rw [dropped, o.dropped]
  · rw [cnt, o.barrierCrc]

theorem frame_held (ok : Bool) (down : s.hw.power.memOn = false ∨ s.hw.saving = true) :
    Answers (.beatBoundary samples ok) s fun t => FrameKept s.hw.drum.nextBeat s t ∧ ∃ r : FrameRec,
      r.beat = s.hw.drum.nextBeat ∧
      (s.hw.drum.holding.length < 32 → t.hw.drum.holding = s.hw.drum.holding ++ [r] ∧
        t.hw.drum.dropped = s.hw.drum.dropped) ∧
      (s.hw.drum.holding.length = 32 → t.hw.drum.holding = s.hw.drum.holding.drop 1 ++ [r] ∧
        t.hw.drum.dropped = satAdd 16 s.hw.drum.dropped 1) := by
  have o := beatClosed_open samples { s.hw with sent := [] }
  obtain ⟨r, hr⟩ : ∃ r, r = openRecord (beatConverted samples { s.hw with sent := [] }) s.hw.drum.nextBeat := ⟨_, rfl⟩
  have stored := storeRecord_held (g := beatClosed samples { s.hw with sent := [] }) ok r
    (by rw [o.memOn, o.saving]; exact down)
  rw [hr] at stored
  obtain ⟨t, answer, kept, dropped, holding, -⟩ := beat_unpublished samples runs hs stored (by split <;> exact o.latest)
  rw [← hr, o.holding, o.dropped] at dropped holding
  refine ⟨t, answer, kept, r, by rw [hr]; rfl, fun room => ?_, fun full => ?_⟩
  · rw [if_pos room] at dropped holding
    exact ⟨holding, dropped.trans o.dropped⟩
  · have noRoom : ¬s.hw.drum.holding.length < 32 := by omega
    rw [if_neg noRoom] at dropped holding
    exact ⟨holding, dropped⟩

theorem frame_refused (up : s.hw.power.memOn = true) (awake : s.hw.saving = false)
    (no : granted s.hw AFE_DMA false true (frameAddr s.hw s.hw.drum.nextBeat) 640 = false) :
    Answers (.beatBoundary samples true) s fun t => FrameKept s.hw.drum.nextBeat s t ∧
      t.hw.drum.dropped = satAdd 16 s.hw.drum.dropped 1 ∧ t.hw.drum.accessRaised = true ∧
      (s.hw.drum.accessRaised = false → Reports t .eventHealth .frameAccess) := by
  have o := beatClosed_open samples { s.hw with sent := [] }
  obtain ⟨cn, stored⟩ := storeRecord_refused
    (openRecord (beatConverted samples { s.hw with sent := [] }) s.hw.drum.nextBeat)
    (o.memOn.trans up) (o.saving.trans awake) ((o.granted _).trans no)
  rw [o.accessRaised] at stored
  cases raised : s.hw.drum.accessRaised with
  | false =>
    rw [if_neg (Bool.eq_false_iff.1 raised)] at stored
    obtain ⟨t, answer, kept, dropped, access, reports⟩ := beat_unpublished_raises samples runs hs stored o.latest
    exact ⟨t, answer, kept, dropped.trans (congrArg (satAdd 16 · 1) o.dropped), access, fun _ => reports⟩
  | true =>
    rw [if_pos raised] at stored
    obtain ⟨t, answer, kept, dropped, -, access, -⟩ := beat_unpublished samples runs hs stored o.latest
    exact ⟨t, answer, kept, dropped.trans (congrArg (satAdd 16 · 1) o.dropped), access, fun fresh => nomatch fresh⟩

end Ways

/-! ## The statement -/

/-- Settles O34: a boundary's record is published, lost, held or refused, and each is a lemma above. -/
theorem framesArePublishedHeldOrLost : Obligations.FramesArePublishedHeldOrLost := by
  unfold Obligations.FramesArePublishedHeldOrLost
  constructor
  · intro s samples runs on hs n edge a ahead fits64 up yes fits _ awake
    obtain ⟨t, answer, time, next, latest, dropped, mem, frame⟩ := beat_published samples runs hs up awake yes fits
    have long := sealRecord_length false s.hw.drum.dropped (beatConverted samples { s.hw with sent := [] }) n
    refine ⟨t, answer, time on ahead fits64, next, latest, dropped, ?_, ?_, ?_, frame⟩
    · rw [bytesAt_write mem (by rw [long]; decide), take_sealRecord]
      obtain ⟨_, _, _, e, -⟩ := beatConverted_eq samples { s.hw with sent := [] }
      rw [e]
      rfl
    · intro c hc k hk live valid cfg x ticks closes tap
      rw [Nat.add_assoc, Nat.add_assoc, ← Nat.add_assoc 64]
      exact byteAt_write mem
        (sealRecord_feature samples _ (h := { s.hw with sent := [] }) hc hk live valid closes tap)
    · intro b out
      exact byteAt_write_outside mem (by rw [long]; exact out)
  · intro s samples runs hs n a lost kept
    exact ⟨frame_lost samples runs hs, frame_held samples runs hs, frame_refused samples runs hs⟩

end Sys2Proof.Proofs

/-! PROOFS. Slots and drains of a state at rest that complete, and SENSE's power (R69, R137, R140, R144, R369, R370, R387). -/

namespace Sys2Proof.Proofs

open Sys2Proof Sys2Proof.Machine Sys2Proof.Laws

/-! ## What the end of a command at rest keeps -/

theorem commit_finish_bell (s : State) (h : Hw) : (commit s (Machine.finish h)).hw.bell = h.bell := Run.finish_bell h

/-- What a state has of the hardware that an effect at rest left: the sense path, and the power of SENSE. -/
structure RestKeeps (g : Hw) (t : State) : Prop where
  drum : t.hw.drum = g.drum
  raw : t.hw.raw = g.raw
  cal : t.hw.cal = g.cal
  bell : t.hw.bell = g.bell
  senseOff : t.hw.power.senseOff = g.power.senseOff
  senseDrain : t.hw.power.senseDrain = g.power.senseDrain

section Calm

variable {k g : Hw} (e : Sched.calm k = Sched.calm g)

include e

theorem calm_drum : k.drum = g.drum := show (Sched.calm k).drum = (Sched.calm g).drum by rw [e]
theorem calm_raw : k.raw = g.raw := show (Sched.calm k).raw = (Sched.calm g).raw by rw [e]
theorem calm_cal : k.cal = g.cal := show (Sched.calm k).cal = (Sched.calm g).cal by rw [e]
theorem calm_bell : k.bell = g.bell := show (Sched.calm k).bell = (Sched.calm g).bell by rw [e]
theorem calm_image : k.image = g.image := show (Sched.calm k).image = (Sched.calm g).image by rw [e]
theorem calm_writes : k.writes = g.writes := show (Sched.calm k).writes = (Sched.calm g).writes by rw [e]
theorem calm_wipe : k.wipe = g.wipe := show (Sched.calm k).wipe = (Sched.calm g).wipe by rw [e]
theorem calm_records : k.records = g.records := show (Sched.calm k).records = (Sched.calm g).records by rw [e]
theorem calm_senseOff : k.power.senseOff = g.power.senseOff :=
  show (Sched.calm k).power.senseOff = (Sched.calm g).power.senseOff by rw [e]
theorem calm_senseDrain : k.power.senseDrain = g.power.senseDrain :=
  show (Sched.calm k).power.senseDrain = (Sched.calm g).power.senseDrain by rw [e]
/-- Whether records can be written is nothing that an idle run of the scheduler changes. -/
theorem calm_writesRecords : k.writesRecords = g.writesRecords :=
  show (Sched.calm k).writesRecords = (Sched.calm g).writesRecords by rw [e]

theorem rest_keeps (s : State) : RestKeeps g (commit s (Machine.finish k)) where
  drum := (commit_finish_drum s k).trans (calm_drum e)
  raw := (commit_finish_raw s k).trans (calm_raw e)
  cal := (commit_finish_cal s k).trans (calm_cal e)
  bell := (commit_finish_bell s k).trans (calm_bell e)
  senseOff := by rw [commit_finish_power, calm_senseOff e]
  senseDrain := by rw [commit_finish_power, calm_senseDrain e]

end Calm

/-- A command at rest whose effect ends in one completion: the record is written, and nothing else in memory. -/
theorem rest_completes {c : Instr} {s : State} {eff : Mems → Hw → Hw} {h : Hw} {r : Record} (he : exec c s = runSched eff s)
    (out : eff s.mem { s.hw with sent := [] } = complete r h) (idle : Sched.Idle h) (clear : Clear h)
    (room : h.sq.queue.length ≤ 64) (wr : h.writesRecords = true) (him : h.image = s.hw.image) (ps : List Portion)
    (frame : blank (reporting ++ resting ++ ps) h = blank (reporting ++ resting ++ ps) s.hw) :
    Answers c s fun t => RestKeeps h t ∧ Finishes s t r ∧ OnlyChanges (reporting ++ resting ++ ps) s t := by
  obtain ⟨k, hk, e⟩ := Slots.runSched_calm eff s _ out idle
  have sq : k.sq = h.sq := (calm_sq hk).trans (complete_sq r h)
  have raised : k.raised = [] := (calm_raised hk).trans clear.raised
  have records : k.records = [r] := (calm_records hk).trans (congrArg (· ++ [r]) clear.records)
  obtain ⟨drum, raw, cal, bell, senseOff, senseDrain⟩ := rest_keeps hk s
  refine ⟨_, he.trans e, ⟨drum, raw, cal, bell, senseOff, senseDrain⟩, ?_, Slots.calm_only ps s _ k hk frame⟩
  exact commit_finishes s ((calm_writes hk).trans clear.writes) ((calm_wipe hk).trans clear.wipe) records
    (by rw [sq]; exact clear.posts) (by rw [sq]; exact clear.held) (by rw [sq, raised]; exact room)
    ((calm_writesRecords hk).trans wr) ((calm_image hk).trans him)

/-! ## A POWER slot at rest (R369, R370) -/

/-- The hardware as a POWER slot acts on it: the slot has started, IDLE and a STAY may have ended (R34, R160, R364). -/
def powerStarted (f : Fetched) (dev : DevState) (stay : Option (Nat × DevState)) (h : Hw) : Hw :=
  { h with
    sent := []
    sq := { h.sq with
      fetch := (h.sq.fetch + 1) % 65536
      owned := h.sq.owned.map fun x =>
        if x.pos = f.pos then { x with started := true, kind := slotKind f.words, tag := wordAt f.words 1 } else x }
    power := { h.power with dev := dev }
    cascade := { h.cascade with stay := stay } }

theorem releaseStay_begun (f : Fetched) (h : Hw) :
    ∃ dev stay, releaseStay (Slots.begun f h) = powerStarted f dev stay h := by
  obtain ⟨dev, e⟩ := startSlot_eq { pos := f.pos, master := f.master } (slotKind f.words) (wordAt f.words 1)
    { h with sent := [] }
  rw [Slots.begun, e, releaseStay]
  split
  · exact ⟨_, _, rfl⟩
  · exact ⟨_, _, rfl⟩

/-- A POWER slot that passes checks 1 and 2 runs its OP's own part. -/
theorem power_accepted {s : State} {slot : Slot} {f : Fetched} {op : Nat} (ha : AcceptsOp s slot f kPower 0 3 op)
    (fields : powerFieldsOk f.words = true) (free : powerBusy s.hw = false) (act : Mems → Fetched → Hw → Hw) :
    ∃ dev stay, withSlot (isOp kPower 0 3 op) slot (powerChecked act) s.mem { s.hw with sent := [] } =
      act s.mem f (powerStarted f dev stay s.hw) := by
  obtain ⟨dev, stay, started⟩ := releaseStay_begun f s.hw
  obtain ⟨accepts, hop⟩ := ha
  have mine : isOp kPower 0 3 op f.words = true := by
    simp only [isOp, accepts.2.1, hop, beq_self_eq_true, Bool.and_self]
  have free' : powerBusy (Slots.begun f s.hw) = false := by
    rw [Slots.begun_eq]
    exact free
  refine ⟨dev, stay, ?_⟩
  rw [Slots.withSlot_accepts accepts _ _ mine, powerChecked, fields, free', started]
  rfl

section Started

variable {s : State} {slot : Slot} {f : Fetched} (hs : AtRest s) (dev : DevState) (stay : Option (Nat × DevState))

include hs

theorem powerStarted_idle : Sched.Idle (powerStarted f dev stay s.hw) := idle_of_atRest hs

theorem powerStarted_clear : Clear (powerStarted f dev stay s.hw) := by
  obtain ⟨writes, wipe, raised, records, posts, held⟩ := atRest_clear hs
  exact ⟨writes, wipe, raised, records, posts, held⟩

theorem powerStarted_room : (powerStarted f dev stay s.hw).sq.queue.length ≤ 64 := atRest_room hs

/-- A slot that is fetched at rest can be completed. -/
theorem writesRecords_of_fetches (hf : Fetches s slot f) : s.hw.writesRecords = true := by
  obtain ⟨o, next, -⟩ := nextSlot_of_fetches hf
  obtain ⟨reach, ctrl⟩ := reach_of_nextSlot next
  exact writesRecords_of_reach reach ctrl (atRest_noEntry hs)

end Started

/-! ## SENSE_ON (R144, R369, R370) -/

/-- SENSE is powered where it was not. -/
theorem senseOnEffect_fitted {h : Hw} (f : Fetched) (fitted : h.senseFitted = true) : senseOnEffect f h =
    complete (f.record .done .none []) (if h.drum.senseOn then { h with power := { h.power with senseOff := false } }
      else senseUp { h with power := { h.power with senseOff := false } }) := by
  simp only [senseOnEffect, fitted, Bool.not_true, Bool.false_eq_true, if_false]
  rfl

theorem senseOnEffect_unfitted {h : Hw} (f : Fetched) (unfitted : h.senseFitted = false) :
    senseOnEffect f h = complete (f.record .refusedState .senseOff []) h := by
  simp only [senseOnEffect, unfitted, Bool.not_false, if_true]
  rfl

theorem exec_powerSenseOn (slot : Slot) (s : State) : exec (.powerSenseOn slot) s =
    runSched (withSlot (isOp kPower 0 3 5) slot (powerChecked fun _ f h => senseOnEffect f h)) s := rfl

section SenseOn

variable {s : State} {slot : Slot} {f : Fetched} (ha : AcceptsOp s slot f kPower 0 3 5)
  (fields : powerFieldsOk f.words = true) (free : powerBusy s.hw = false) (hs : AtRest s)

include ha fields free hs

theorem senseOn_unfitted (unfitted : s.hw.senseFitted = false) : Answers (.powerSenseOn slot) s fun t =>
    t.hw.power.senseOff = s.hw.power.senseOff ∧ t.hw.drum.senseOn = s.hw.drum.senseOn ∧
      Finishes s t (f.record .refusedState .senseOff []) := by
  obtain ⟨dev, stay, out⟩ := power_accepted ha fields free fun _ f h => senseOnEffect f h
  obtain ⟨t, answer, keeps, done, -⟩ := rest_completes (exec_powerSenseOn slot s)
    (out.trans (senseOnEffect_unfitted f unfitted)) (powerStarted_idle hs dev stay) (powerStarted_clear hs dev stay)
    (powerStarted_room hs dev stay) (writesRecords_of_fetches hs ha.1.1) rfl [.slots, .cascade] rfl
  exact ⟨t, answer, keeps.senseOff, congrArg Drum.senseOn keeps.drum, done⟩

theorem senseOn_fitted (fitted : s.hw.senseFitted = true) : Answers (.powerSenseOn slot) s fun t =>
    t.hw.power.senseOff = false ∧ t.hw.drum.senseOn = true ∧ Finishes s t (f.record .done .none []) ∧
      (s.hw.drum.senseOn = false → t.hw.drum.channels = (List.range 32).map (powerUpChannel s.hw) ∧
        t.hw.cal = (reloadTrims s.hw).cal) ∧
      (s.hw.drum.senseOn → t.hw.drum = s.hw.drum ∧ t.hw.cal = s.hw.cal ∧ t.hw.bell = s.hw.bell) ∧
      OnlyChanges (reporting ++ resting ++
        [Portion.slots, Portion.drum, Portion.cal, Portion.bell, Portion.cascade]) s t := by
  obtain ⟨dev, stay, out⟩ := power_accepted ha fields free fun _ f h => senseOnEffect f h
  have effect := out.trans (senseOnEffect_fitted f fitted)
  have wr := writesRecords_of_fetches hs ha.1.1
  obtain ⟨writes, wipe, raised, records, posts, held⟩ := atRest_clear hs
  cases on : s.hw.drum.senseOn with
  | true =>
    rw [if_pos (by exact on)] at effect
    obtain ⟨t, answer, keeps, done, frame⟩ := rest_completes (exec_powerSenseOn slot s) effect
      (idle_of_atRest hs) ⟨writes, wipe, raised, records, posts, held⟩ (atRest_room hs) wr rfl
      [.slots, .drum, .cal, .bell, .cascade] rfl
    exact ⟨t, answer, keeps.senseOff, (congrArg Drum.senseOn keeps.drum).trans on, done,
      fun off => absurd off (by decide), fun _ => ⟨keeps.drum, keeps.cal, keeps.bell⟩, frame⟩
  | false =>
    rw [if_neg (by exact Bool.eq_false_iff.1 on)] at effect
    obtain ⟨t, answer, keeps, done, frame⟩ := rest_completes (exec_powerSenseOn slot s) effect
      (idle_of_atRest hs) ⟨writes, wipe, raised, records, posts, held⟩ (atRest_room hs) wr rfl
      [.slots, .drum, .cal, .bell, .cascade] rfl
    exact ⟨t, answer, keeps.senseOff, congrArg Drum.senseOn keeps.drum, done,
      fun _ => ⟨congrArg Drum.channels keeps.drum, keeps.cal⟩, fun on => absurd on (by decide), frame⟩

end SenseOn

/-! ## The end of SENSE's drain (R69, R387) -/

theorem exec_domainDrainEnd (s : State) : exec .domainDrainEnd s = runSched (fun _ h => drainEffect h) s := rfl

/-- The completion of a slot that is owned. -/
theorem completeOwned_owned {h : Hw} {pos : Nat} {o : Owned} (ho : h.sq.owned.find? (fun x => x.pos == pos) = some o)
    (st : Status) (d : Detail) (ws : List Word) : completeOwned pos st d ws h =
      complete { pos := pos, kind := o.kind, status := st, tag := o.tag, detail := d, result := ws } h := by
  simp only [completeOwned, ho]

theorem drainEffect_sense {h : Hw} {pos : Nat} {tag : Word} (entry : h.power.entry = none)
    (drain : h.power.senseDrain = some (pos, tag)) : drainEffect h =
      completeOwned pos .done .none [] (senseDown { h with power := { h.power with senseDrain := none } }) := by
  simp only [drainEffect, entry, drain, drainEffect.others]

theorem senseDrain_ends {s : State} {pos : Nat} {tag : Word} {o : Owned} (drain : s.hw.power.senseDrain = some (pos, tag))
    (hs : AtRest s) (wr : s.hw.writesRecords = true) (ho : s.hw.sq.owned.find? (fun x => x.pos == pos) = some o) :
    Answers .domainDrainEnd s fun t =>
      t.hw.power.senseDrain = none ∧ t.hw.drum.senseOn = false ∧
      t.hw.drum.channels = s.hw.drum.channels.map powerDownChannel ∧ t.hw.drum.holding = [] ∧ t.hw.bell.due = none ∧
      Finishes s t { pos := pos, kind := o.kind, status := .done, tag := o.tag } ∧
      OnlyChanges (reporting ++ resting ++ [Portion.drum, Portion.raw, Portion.bell]) s t := by
  have out := (drainEffect_sense (h := { s.hw with sent := [] }) (atRest_noEntry hs) drain).trans
    (completeOwned_owned (by exact ho) .done .none [])
  obtain ⟨writes, wipe, raised, records, posts, held⟩ := atRest_clear hs
  obtain ⟨t, answer, keeps, done, frame⟩ := rest_completes (exec_domainDrainEnd s) out
    (idle_of_atRest hs) ⟨writes, wipe, raised, records, posts, held⟩ (atRest_room hs) wr rfl [.drum, .raw, .bell] rfl
  exact ⟨t, answer, keeps.senseDrain, congrArg Drum.senseOn keeps.drum, congrArg Drum.channels keeps.drum,
    congrArg Drum.holding keeps.drum, congrArg Bell.due keeps.bell, done, frame⟩

/-! ## What SENSE_OFF ends: a calibration run, SYNC slots, the chains (R86, R137, R140) -/

theorem completeOwned_eq (pos : Nat) (st : Status) (d : Detail) (ws : List Word) (h : Hw) :
    ∃ rs, completeOwned pos st d ws h = { h with records := rs } := by
  unfold completeOwned
  split
  · exact ⟨_, rfl⟩
  · exact ⟨_, rfl⟩

/-- The slots that wait in Drumhead complete, and nothing else changes. -/
theorem failRawSlots_eq (h : Hw) : ∃ rs, failRawSlots h = { h with records := rs } := by
  have each (ps : List Nat) (h : Hw) : ∃ rs, ps.foldl (fun h p => completeOwned p .failDomainOff .none [] h) h =
      { h with records := rs } := by
    induction ps generalizing h with
    | nil => exact ⟨_, rfl⟩
    | cons p ps ih =>
      obtain ⟨_, e⟩ := completeOwned_eq p .failDomainOff .none [] h
      rw [List.foldl_cons, e]
      exact ih _
  exact each _ h

theorem stopAllChains_complete (r : Record) (h : Hw) : stopAllChains (complete r h) = complete r (stopAllChains h) := rfl

/-- No SYNC, START or STOP slot waits in Drumhead. -/
def RawIdle (h : Hw) : Prop := h.raw.waits = [] ∧ ∀ c ∈ h.raw.chains, c.resetSlot = none ∧ c.stopSlots = []

theorem failRawSlots_idle {h : Hw} (idle : RawIdle h) : failRawSlots h = h := by
  obtain ⟨waits, chains⟩ := idle
  have starts : h.raw.chains.filterMap (·.resetSlot) = [] := List.filterMap_eq_nil_iff.2 fun c hc => (chains c hc).1
  have stops : h.raw.chains.flatMap (·.stopSlots) = [] := List.flatMap_eq_nil_iff.2 fun c hc => (chains c hc).2
  simp only [failRawSlots, waits, starts, stops, List.map_nil, List.append_nil, List.eraseDups_nil, List.foldl_nil]

/-- The end of a run changes calibration and completes at most its slot; a run that is left awaits its store. -/
theorem endRun_eq (r : CalRun) (h : Hw) : ∃ run rs, endRun r h = { h with cal := { h.cal with run := run }, records := rs } ∧
    ∀ x, run = some x → x.phase = .store := by
  unfold endRun
  split
  · exact ⟨_, _, rfl, fun x hx => by cases hx; rfl⟩
  · obtain ⟨rs, e⟩ := completeOwned_eq r.slot .done .none (calResult r none) (setRun none h)
    exact ⟨none, rs, e, fun x hx => nomatch hx⟩

/-- Where no store is due, the end of a run is the end of its slot. -/
theorem endRun_unstored {r : CalRun} (h : Hw) (unstored : r.doneMask = 0 ∨ r.noStore = true) :
    endRun r h = completeOwned r.slot .done .none (calResult r none) (setRun none h) := by
  refine if_neg ?_
  rcases unstored with zero | off
  · simp [zero]
  · simp [off]

/-- The channel in progress gets its old codes back or is STUCK, and the spare is released (R130, R137). -/
def turnAborted (r : CalRun) (h : Hw) : Hw :=
  releaseSpare true (if r.phase = .stuckWait then channelDead r.channel h else restoreOld r h)

theorem turnAborted_eq (r : CalRun) (h : Hw) : ∃ loaded chs a b, turnAborted r h =
    { h with cal := { h.cal with loaded := loaded }, drum := { h.drum with channels := chs, spareFor := a, spareSeen := b } } := by
  unfold turnAborted
  split
  · exact ⟨_, _, _, _, rfl⟩
  · exact ⟨_, _, _, _, rfl⟩

/-- What the end of a run makes of it (R140). -/
def abortedRun (r : CalRun) : CalRun := { r with aborted := true, skippedMask := leftOver r }

theorem calAbort_running {h : Hw} {r : CalRun} (run : h.cal.run = some r) (going : r.phase ≠ .store) :
    calAbort h = endRun (abortedRun r) (turnAborted r h) := by
  simp only [calAbort, run, going, if_false]
  rfl

/-- A run without anything to store ends with its slot (R140). -/
theorem calAbort_completes {h : Hw} {r : CalRun} {o : Owned} (run : h.cal.run = some r) (going : r.phase ≠ .store)
    (unstored : r.doneMask = 0 ∨ r.noStore = true) (ho : h.sq.owned.find? (fun x => x.pos == r.slot) = some o) :
    ∃ loaded chs a b, calAbort h = complete
      { pos := r.slot, kind := o.kind, status := .done, tag := o.tag, result := calResult (abortedRun r) none }
      { h with
        cal := { h.cal with run := none, loaded := loaded }
        drum := { h.drum with channels := chs, spareFor := a, spareSeen := b } } := by
  obtain ⟨loaded, chs, a, b, aborted⟩ := turnAborted_eq r h
  refine ⟨loaded, chs, a, b, ?_⟩
  rw [calAbort_running run going, endRun_unstored (r := abortedRun r) _ unstored, aborted]
  exact completeOwned_owned (by exact ho) .done .none (calResult (abortedRun r) none)

/-- Without a run, or with one that only awaits its store, nothing ends. -/
theorem calAbort_resting {h : Hw} (rests : ∀ r, h.cal.run = some r → r.phase = .store) : calAbort h = h := by
  unfold calAbort
  split
  next r run => exact if_pos (rests r run)
  · rfl

/-- The end of a run changes calibration and the channels, and completes at most its slot. -/
theorem calAbort_eq (h : Hw) : ∃ cal chs a b rs, calAbort h =
    { h with cal := cal, drum := { h.drum with channels := chs, spareFor := a, spareSeen := b }, records := rs } ∧
      ∀ r, cal.run = some r → r.phase = .store := by
  by_cases rests : ∀ r, h.cal.run = some r → r.phase = .store
  · exact ⟨h.cal, h.drum.channels, h.drum.spareFor, h.drum.spareSeen, h.records, calAbort_resting rests, rests⟩
  · push Not at rests
    obtain ⟨r, run, going⟩ := rests
    obtain ⟨loaded, chs, a, b, aborted⟩ := turnAborted_eq r h
    obtain ⟨last, rs, ended, due⟩ := endRun_eq (abortedRun r) (turnAborted r h)
    rw [calAbort_running run going, ended, aborted]
    exact ⟨_, chs, a, b, rs, rfl, due⟩

/-! ## SENSE_OFF (R69, R137, R140, R369, R370) -/

theorem exec_powerSenseOff (slot : Slot) (s : State) : exec (.powerSenseOff slot) s =
    runSched (withSlot (isOp kPower 0 3 4) slot (powerChecked fun _ f h => senseOffEffect f h)) s := rfl

theorem senseOffEffect_unfitted {h : Hw} (f : Fetched) (unfitted : h.senseFitted = false) :
    senseOffEffect f h = complete (f.record .refusedState .senseOff []) h := by
  simp only [senseOffEffect, unfitted, Bool.not_false, if_true]
  rfl

theorem senseOffEffect_down {h : Hw} (f : Fetched) (fitted : h.senseFitted = true) (down : h.drum.senseOn = false) :
    senseOffEffect f h = complete (f.record .done .none []) { h with power := { h.power with senseOff := true } } := by
  simp only [senseOffEffect, fitted, down, Bool.not_true, Bool.false_eq_true, if_false]
  rfl

/-- SENSE begins its drain. -/
def drainBegun (f : Fetched) (h : Hw) : Hw :=
  { h with power := { h.power with senseOff := true, senseDrain := some (f.pos, f.tag) } }

theorem senseOffEffect_up {h : Hw} (f : Fetched) (fitted : h.senseFitted = true) (up : h.drum.senseOn = true) :
    senseOffEffect f h = stopAllChains (failRawSlots (calAbort (drainBegun f h))) := by
  simp only [senseOffEffect, fitted, up, Bool.not_true, Bool.false_eq_true, if_false, if_true]
  rfl

/-- The slot that an owner search finds is another than the one that starts. -/
theorem find?_powerStarted {f : Fetched} {h : Hw} {pos : Nat} {o : Owned} (dev : DevState)
    (stay : Option (Nat × DevState)) (ho : h.sq.owned.find? (fun x => x.pos == pos) = some o) (other : pos ≠ f.pos) :
    (powerStarted f dev stay h).sq.owned.find? (fun x => x.pos == pos) = some o := by
  have here : o.pos = pos := by simpa using List.find?_some ho
  have same : (fun x : Owned => x.pos == pos) ∘ (fun x => if x.pos = f.pos then
      { x with started := true, kind := slotKind f.words, tag := wordAt f.words 1 } else x) = fun x => x.pos == pos := by
    funext x
    simp only [Function.comp]
    split
    · rfl
    · rfl
  refine (List.find?_map ..).trans ?_
  rw [same, ho, Option.map_some, if_neg (by rw [here]; exact other)]

section SenseOff

variable {s : State} {slot : Slot} {f : Fetched} (ha : AcceptsOp s slot f kPower 0 3 4)
  (fields : powerFieldsOk f.words = true) (free : powerBusy s.hw = false) (hs : AtRest s)

include ha fields free hs

theorem senseOff_unfitted (unfitted : s.hw.senseFitted = false) : Answers (.powerSenseOff slot) s fun t =>
    t.hw.power.senseOff = s.hw.power.senseOff ∧ t.hw.drum.senseOn = s.hw.drum.senseOn ∧
      Finishes s t (f.record .refusedState .senseOff []) := by
  obtain ⟨dev, stay, out⟩ := power_accepted ha fields free fun _ f h => senseOffEffect f h
  obtain ⟨t, answer, keeps, done, -⟩ := rest_completes (exec_powerSenseOff slot s)
    (out.trans (senseOffEffect_unfitted f unfitted)) (powerStarted_idle hs dev stay) (powerStarted_clear hs dev stay)
    (powerStarted_room hs dev stay) (writesRecords_of_fetches hs ha.1.1) rfl [.slots, .cascade] rfl
  exact ⟨t, answer, keeps.senseOff, congrArg Drum.senseOn keeps.drum, done⟩

theorem senseOff_down (fitted : s.hw.senseFitted = true) (down : s.hw.drum.senseOn = false) :
    Answers (.powerSenseOff slot) s fun t =>
      t.hw.power.senseOff = true ∧ t.hw.drum.senseOn = false ∧ Finishes s t (f.record .done .none []) ∧
      OnlyChanges (reporting ++ resting ++ [Portion.slots, Portion.cascade]) s t := by
  obtain ⟨dev, stay, out⟩ := power_accepted ha fields free fun _ f h => senseOffEffect f h
  obtain ⟨writes, wipe, raised, records, posts, held⟩ := atRest_clear hs
  obtain ⟨t, answer, keeps, done, frame⟩ := rest_completes (exec_powerSenseOff slot s)
    (out.trans (senseOffEffect_down f fitted down)) (idle_of_atRest hs) ⟨writes, wipe, raised, records, posts, held⟩
    (atRest_room hs) (writesRecords_of_fetches hs ha.1.1) rfl [.slots, .cascade] rfl
  exact ⟨t, answer, keeps.senseOff, (congrArg Drum.senseOn keeps.drum).trans down, done, frame⟩

/-- What a powered SENSE has ended as its drain begins, whatever waited. -/
theorem senseOff_drains (fitted : s.hw.senseFitted = true) (up : s.hw.drum.senseOn = true) :
    Answers (.powerSenseOff slot) s fun t => t.hw.power.senseOff = true ∧
      t.hw.power.senseDrain = some (f.pos, wordAt f.words 1) ∧ t.hw.drum.senseOn = true ∧
      t.hw.raw.chains = s.hw.raw.chains.map stopChain ∧ t.hw.raw.waits = [] ∧
      (∀ r, t.hw.cal.run = some r → r.phase = .store) ∧ OnlyChanges (reporting ++ resting ++
        [Portion.slots, Portion.drum, Portion.raw, Portion.cal, Portion.cascade]) s t := by
  obtain ⟨dev, stay, out⟩ := power_accepted ha fields free fun _ f h => senseOffEffect f h
  have effect := out.trans (senseOffEffect_up f fitted up)
  obtain ⟨cal, chs, a, b, rs, aborted, phase⟩ := calAbort_eq (drainBegun f (powerStarted f dev stay s.hw))
  obtain ⟨rs', failed⟩ := failRawSlots_eq (calAbort (drainBegun f (powerStarted f dev stay s.hw)))
  rw [failed, aborted] at effect
  obtain ⟨k, hk, answer⟩ := Slots.runSched_calm _ s _ effect (idle_of_atRest hs)
  have keeps := rest_keeps hk s
  exact ⟨_, (exec_powerSenseOff slot s).trans answer, keeps.senseOff, keeps.senseDrain,
    (congrArg Drum.senseOn keeps.drum).trans up, congrArg Raw.chains keeps.raw, congrArg Raw.waits keeps.raw,
    fun r run => phase r ((congrArg Cal.run keeps.cal).symm.trans run),
    Slots.calm_only [.slots, .drum, .raw, .cal, .cascade] s _ k hk rfl⟩

/-- A calibration run without anything to store ends with its slot. -/
theorem senseOff_endsRun (fitted : s.hw.senseFitted = true) (up : s.hw.drum.senseOn = true) (idle : RawIdle s.hw)
    {r : CalRun} {o : Owned} (run : s.hw.cal.run = some r) (going : r.phase ≠ .store)
    (unstored : r.doneMask = 0 ∨ r.noStore = true) (ho : s.hw.sq.owned.find? (fun x => x.pos == r.slot) = some o)
    (other : r.slot ≠ f.pos) : Answers (.powerSenseOff slot) s fun t => t.hw.cal.run = none ∧
      Finishes s t { pos := r.slot, kind := o.kind, status := .done, tag := o.tag, result := calResult (abortedRun r) none } := by
  obtain ⟨dev, stay, out⟩ := power_accepted ha fields free fun _ f h => senseOffEffect f h
  have effect := out.trans (senseOffEffect_up f fitted up)
  obtain ⟨loaded, chs, a, b, ended⟩ := calAbort_completes (h := drainBegun f (powerStarted f dev stay s.hw)) run going
    unstored (find?_powerStarted dev stay ho other)
  rw [failRawSlots_idle (by rw [ended]; exact idle), ended, stopAllChains_complete] at effect
  obtain ⟨writes, wipe, raised, records, posts, held⟩ := atRest_clear hs
  obtain ⟨t, answer, keeps, done, -⟩ := rest_completes (exec_powerSenseOff slot s) effect (idle_of_atRest hs)
    ⟨writes, wipe, raised, records, posts, held⟩ (atRest_room hs) (writesRecords_of_fetches hs ha.1.1) rfl
    [.slots, .drum, .raw, .cal, .cascade] rfl
  exact ⟨t, answer, congrArg Cal.run keeps.cal, done⟩

/-- Where nothing waits and no run is in progress, memory, calibration and the channels stay as they are. -/
theorem senseOff_silent (fitted : s.hw.senseFitted = true) (up : s.hw.drum.senseOn = true) (idle : RawIdle s.hw)
    (run : s.hw.cal.run = none) : Answers (.powerSenseOff slot) s fun t =>
      t.mem = s.mem ∧ t.hw.cal = s.hw.cal ∧ t.hw.drum = s.hw.drum := by
  obtain ⟨dev, stay, out⟩ := power_accepted ha fields free fun _ f h => senseOffEffect f h
  have effect := out.trans (senseOffEffect_up f fitted up)
  have noRun : ∀ r, s.hw.cal.run = some r → r.phase = .store := fun r hr => nomatch run.symm.trans hr
  have same := calAbort_resting (h := drainBegun f (powerStarted f dev stay s.hw)) noRun
  rw [failRawSlots_idle (by rw [same]; exact idle), same] at effect
  obtain ⟨k, hk, answer⟩ := Slots.runSched_calm _ s _ effect (idle_of_atRest hs)
  obtain ⟨writes, wipe, raised, records, posts, held⟩ := atRest_clear hs
  have keeps := rest_keeps hk s
  exact ⟨_, (exec_powerSenseOff slot s).trans answer,
    rest_silent_mem s hk ⟨writes, wipe, raised, records, posts, held⟩ (atRest_room hs), keeps.cal, keeps.drum⟩

end SenseOff

/-! ## The statement -/

/-- A command has one answer. -/
theorem of_answers {c : Instr} {s t : State} {p : State → Prop} (h : Answers c s p) (e : exec c s = .next t) : p t := by
  obtain ⟨u, eu, hu⟩ := h
  cases eu.symm.trans e
  exact hu

/-- Settles O16: SENSE_OFF, the drain's end and SENSE_ON are the lemmas above, clause by clause. -/
theorem senseGoesOffAndOn : Obligations.SenseGoesOffAndOn := by
  unfold Obligations.SenseGoesOffAndOn
  refine ⟨fun s slot f ha fields free hs => ⟨senseOff_unfitted ha fields free hs, senseOff_down ha fields free hs,
    fun fitted up => ?_⟩, fun s pos tag o drain hs wr ho => senseDrain_ends drain hs wr ho,
    fun s slot f ha fields free hs => ⟨senseOn_unfitted ha fields free hs, senseOn_fitted ha fields free hs⟩⟩
  obtain ⟨t, answer, off, drain, on, chains, waits, phase, frame⟩ := senseOff_drains ha fields free hs fitted up
  refine ⟨t, answer, off, drain, on, chains, waits, phase, fun r o idle run going unstored ho other => ?_,
    fun idle run => ?_, frame⟩
  · exact of_answers (senseOff_endsRun ha fields free hs fitted up idle run going unstored ho other) answer
  · exact of_answers (senseOff_silent ha fields free hs fitted up idle run) answer

end Sys2Proof.Proofs

/-! PROOFS. A write of device time whose edge of BEAT does not come (R107, R381). -/

namespace Sys2Proof.Proofs

open Sys2Proof Sys2Proof.Machine Sys2Proof.Laws

theorem exec_timeBeatTimeout (s : State) : exec .timeBeatTimeout s = runSched (fun _ h => timeBeatEffect h) s := rfl

/-- A write that gives up at this very instant: no tick passes, but device time is taken modulo 2^64. -/
theorem timeBeatEffect_due {h : Hw} {w : TimeWait} (one : h.power.timeWaits = [w]) (on : h.board.aonOn = true)
    (due : h.power.elapsed = timeWaitDue w) : timeBeatEffect h =
      let g := atClocks (h.power.time % 2 ^ 64) h.power.elapsed h
      complete { pos := w.pos, kind := kTime, status := .failTimeout, tag := w.tag, detail := .beatTimeout
                 result := timeWords g.power.time g.power.time g }
        { g with power := { g.power with timeWaits := [] } } := by
  have now := passUntil_eq (h := h) (el := timeWaitDue w) on (Nat.le_of_eq due)
  rw [due, Nat.sub_self, Nat.add_zero, ← due] at now
  have first : minBy (fun w => [(timeWaitDue w : Int)]) [w] = some w := rfl
  simp only [timeBeatEffect, one, first, ← due, now, atClocks, List.erase_cons_head, timeWords]

/-- What the end of such a wait makes of device time. -/
theorem timeBeatTimeout_time {s : State} {w : TimeWait} (hs : AtRest s) (one : s.hw.power.timeWaits = [w])
    (on : s.hw.board.aonOn = true) (due : s.hw.power.elapsed = timeWaitDue w) :
    Answers .timeBeatTimeout s fun t => t.hw.power.time = s.hw.power.time % 2 ^ 64 := by
  obtain ⟨k, hk, answer⟩ := Slots.runSched_calm (fun _ h => timeBeatEffect h) s _
    (timeBeatEffect_due (h := { s.hw with sent := [] }) one on due) (idle_of_atRest hs)
  exact ⟨_, (exec_timeBeatTimeout s).trans answer, (congrArg Power.time (commit_finish_power s k)).trans (calm_time hk)⟩

/-- A write of device time that gives up as it starts to wait. -/
def spentWait : TimeWait := { pos := 0, waitMs := 0 }

/-- A device at rest whose device time does not fit its 64 bits, which the statement does not exclude. -/
def beyondClock : State :=
  { State.reset with hw := { State.reset.hw with
    board := { State.reset.hw.board with aonOn := true }
    sq := { State.reset.hw.sq with linkUp := true }
    power := { State.reset.hw.power with ctrlOn := true, time := 2 ^ 64, elapsed := 0, timeWaits := [spentWait] } } }

theorem beyondClock_atRest : AtRest beyondClock := by decide

/-- Refutes O33: the statement holds device time to no range, and at 2^64, a value that no device time of 64 bits has, the
wait's end leaves it at 0 and not unchanged. -/
theorem not_beatEdgesApplyWaitingWrites : ¬ Obligations.BeatEdgesApplyWaitingWrites := by
  unfold Obligations.BeatEdgesApplyWaitingWrites
  rintro ⟨writes, -⟩
  obtain ⟨-, timeout⟩ := writes beyondClock spentWait beyondClock_atRest rfl rfl rfl
  obtain ⟨t, answer, unchanged, -⟩ := timeout rfl
  have wrapped : t.hw.power.time = 2 ^ 64 % 2 ^ 64 :=
    of_answers (timeBeatTimeout_time beyondClock_atRest rfl rfl rfl) answer
  exact absurd (unchanged.symm.trans wrapped) (by decide)

end Sys2Proof.Proofs

/-! PROOFS. The raw path's chains: one rule per operation on a chain, and commands on one chain (R85 to R123). -/

namespace Sys2Proof.Proofs

open Sys2Proof Sys2Proof.Machine Sys2Proof.Laws

/-! ## A chain among the eight -/

theorem modifyAt_eq_modify {α : Type} (i : Nat) (f : α → α) (xs : List α) : modifyAt i f xs = xs.modify i f := by
  induction xs generalizing i with
  | nil => cases i <;> rfl
  | cons x xs ih =>
    cases i with
    | zero => rfl
    | succ i => exact congrArg (x :: ·) (ih i)

theorem getD_modifyAt_same {α : Type} {i : Nat} (f : α → α) {xs : List α} (d : α) (hi : i < xs.length) :
    (modifyAt i f xs).getD i d = f (xs.getD i d) := by
  simp [modifyAt_eq_modify, List.getD_eq_getElem?_getD, hi]

theorem getD_modifyAt_other {α : Type} {i j : Nat} (f : α → α) (xs : List α) (d : α) (ne : j ≠ i) :
    (modifyAt i f xs).getD j d = xs.getD j d := by
  simp [modifyAt_eq_modify, List.getD_eq_getElem?_getD, ne.symm]

theorem length_modifyAt {α : Type} (i : Nat) (f : α → α) (xs : List α) : (modifyAt i f xs).length = xs.length := by
  rw [modifyAt_eq_modify, List.length_modify]

theorem chainOf_setChain_same {n : Nat} (f : Chain → Chain) {h : Hw} (hn : n < h.raw.chains.length) :
    chainOf (setChain n f h) n = f (chainOf h n) := getD_modifyAt_same f {} hn

theorem chainOf_setChain_other {n j : Nat} (f : Chain → Chain) (h : Hw) (ne : j ≠ n) :
    chainOf (setChain n f h) j = chainOf h j := getD_modifyAt_other f _ {} ne

theorem length_setChain (n : Nat) (f : Chain → Chain) (h : Hw) :
    (setChain n f h).raw.chains.length = h.raw.chains.length := length_modifyAt ..

theorem chainOf_commit_finish (s : State) (h : Hw) (n : Nat) :
    chainOf (commit s (Machine.finish h)).hw n = chainOf h n :=
  congrArg (fun r : Raw => r.chains.getD n {}) (commit_finish_raw s h)

/-- A chain that the list holds is the chain of some number. -/
theorem exists_chainOf {h : Hw} {c : Chain} (hc : c ∈ h.raw.chains) : ∃ n, chainOf h n = c := by
  obtain ⟨n, hn, rfl⟩ := List.getElem_of_mem hc
  exact ⟨n, by simp [chainOf, List.getD_eq_getElem?_getD, hn]⟩

/-- The mask of running chains depends on nothing but which of them run (R123). -/
theorem runningMask_congr {g h : Hw} (same : ∀ n, (chainOf g n).running = (chainOf h n).running) :
    runningMask g = runningMask h := by
  simp only [runningMask, same]

theorem runningMask_setChain {n : Nat} {f : Chain → Chain} {h : Hw} (hn : n < h.raw.chains.length)
    (keeps : (f (chainOf h n)).running = (chainOf h n).running) : runningMask (setChain n f h) = runningMask h := by
  refine runningMask_congr fun j => ?_
  by_cases e : j = n
  · subst e
    rw [chainOf_setChain_same f hn, keeps]
  · rw [chainOf_setChain_other f h e]

/-! ## Each operation on a chain, said once -/

/-- A block that closes, or an empty one that leaves nothing (R112, R115). -/
theorem closeBlock_eq (short timeStep : Bool) (c : Chain) : ∃ closed seq valid spare, closeBlock short timeStep c =
    { c with closed := closed, seq := seq, block := [], blockValid := valid, blockSpare := spare } := by
  unfold closeBlock
  split
  next empty => exact ⟨c.closed, c.seq, c.blockValid, c.blockSpare, by rw [← List.isEmpty_iff.1 empty]⟩
  · exact ⟨_, _, _, _, rfl⟩

theorem requestPair_eq (p : Pair) (c : Chain) : ∃ inForce fade pending,
    (requestPair p c).1 = { c with inForce := inForce, fade := fade, pending := pending } := by
  unfold requestPair
  repeat' split
  all_goals exact ⟨_, _, _, rfl⟩

theorem endFade_eq (c : Chain) : ∃ inForce fade pending,
    endFade c = { c with inForce := inForce, fade := fade, pending := pending } := by
  unfold endFade
  split
  next t _ =>
    split
    next p _ => exact requestPair_eq p { c with inForce := t, fade := none, pending := none }
    · exact ⟨_, _, _, rfl⟩
  · exact ⟨_, _, _, rfl⟩

theorem quietReturn_eq (cfg : RawCfg) (c : Chain) : ∃ rank reqs,
    quietReturn cfg c = { c with spikeRank := rank, spikeReqs := reqs } := by
  unfold quietReturn
  split
  · exact ⟨_, _, rfl⟩
  · exact ⟨_, _, rfl⟩

theorem spikeDetect_eq (cfg : RawCfg) (c : Chain) : ∃ lvl quiet rank reqs,
    spikeDetect cfg c = { c with lvl := lvl, quiet := quiet, spikeRank := rank, spikeReqs := reqs } := by
  simp only [spikeDetect]
  repeat' split
  all_goals exact ⟨_, _, _, _, rfl⟩

theorem applySpike_eq (c : Chain) : ∃ inForce fade pending,
    applySpike c = { c with inForce := inForce, fade := fade, pending := pending, spikeReqs := [] } := by
  have requests (rs : List Bool) (c : Chain) : ∃ inForce fade pending,
      rs.foldl (fun c r => (requestPair { requestBase c with rank := r } c).1) c =
        { c with inForce := inForce, fade := fade, pending := pending } := by
    induction rs generalizing c with
    | nil => exact ⟨_, _, _, rfl⟩
    | cons r rs ih =>
      obtain ⟨_, _, _, one⟩ := requestPair_eq { requestBase c with rank := r } c
      rw [List.foldl_cons, one]
      exact ih _
  exact requests c.spikeReqs { c with spikeReqs := [] }

theorem endMuffle_eq (c : Chain) : ∃ muffled, endMuffle c = { c with muffled := muffled } := by
  unfold endMuffle
  split
  · exact ⟨_, rfl⟩
  · exact ⟨_, rfl⟩

theorem filterSample_eq (c : Chain) : ∃ fade, (filterSample c).1 = { c with fade := fade } := by
  unfold filterSample
  split
  · exact ⟨_, rfl⟩
  · exact ⟨_, rfl⟩

theorem thresholdStep_eq (cfg : RawCfg) (y stamp : Int) (c : Chain) : ∃ env run runStamp runPeak,
    thresholdStep cfg y stamp c = { c with env := env, run := run, runStamp := runStamp, runPeak := runPeak } := by
  simp only [thresholdStep]
  split
  · exact ⟨_, _, _, _, rfl⟩
  · exact ⟨_, _, _, _, rfl⟩

/-- The last sample's mark changes blocks alone (R114). -/
theorem markLast_eq (b : Bool) (c : Chain) : ∃ closed block, markLast b c = { c with closed := closed, block := block } := by
  simp only [markLast]
  split
  · exact ⟨_, _, rfl⟩
  · exact ⟨_, _, rfl⟩

/-! ## Completions and free values -/

/-- A run command that completes one slot and raises nothing: the record is written, and nothing else in memory. -/
theorem run_completes {c : Instr} {s : State} {eff : Mems → Hw → Hw} {h : Hw} {r : Record} (he : exec c s = run eff s)
    (out : eff s.mem { s.hw with sent := [] } = complete r h) (clear : Clear h) (room : h.sq.queue.length ≤ 64)
    (wr : h.writesRecords = true) (him : h.image = s.hw.image) (ps : List Portion)
    (frame : blank (reporting ++ ps) h = blank (reporting ++ ps) s.hw) :
    Answers c s fun t => t.hw.raw = h.raw ∧ t.hw.power = h.power ∧ Finishes s t r ∧
      OnlyChanges (reporting ++ ps) s t := by
  obtain ⟨writes, wipe, raised, records, posts, held⟩ := clear
  refine ⟨commit s (Machine.finish (complete r h)), ?_, commit_finish_raw .., commit_finish_power .., ?_,
    Slots.run_only ps s _ frame⟩
  · rw [he, Run.run_answers, out]
  · exact commit_finishes s writes wipe (congrArg (· ++ [r]) records) posts held
      (by rw [complete_raised, raised]; exact room) wr him

end Sys2Proof.Proofs

/-! PROOFS. Chains start, reset and take samples (R88, R89, R95, R98, R104, R107 to R110, R123). -/

namespace Sys2Proof.Proofs

open Sys2Proof Sys2Proof.Machine Sys2Proof.Laws

/-! ## Resets (R107, R110) -/

theorem resetChain_running (t : Nat) (timeStep : Bool) (c : Chain) : (resetChain t timeStep c).running = c.running := by
  obtain ⟨_, _, _, _, closed⟩ := closeBlock_eq true timeStep c
  rw [resetChain, closed]

/-- What a chain's start leaves of it (R109, R110, R123). -/
theorem startChain_fresh (t : Nat) (c : Chain) :
    let d := startChain t c
    (d.running = true ∧ d.resetAt = none ∧ d.resetTick = t ∧ d.nFilt = 0 ∧ d.nHalf = 0 ∧ d.muffled = true ∧
      d.inForce = { rank := false, resp := c.selected }) ∧ d.resetSlot = none := by
  obtain ⟨_, _, _, _, closed⟩ := closeBlock_eq true false { c with
    running := true, stopping := false, resetAt := none, resetSlot := none
    inForce := { rank := false, resp := c.selected }, pending := none, fade := none }
  rw [startChain, resetChain, closed]
  exact ⟨⟨rfl, rfl, rfl, rfl, rfl, rfl, rfl⟩, rfl⟩

theorem chainOf_resetRunning (t : Nat) (timeStep : Bool) (h : Hw) (n : Nat) : chainOf (resetRunning t timeStep h) n =
    if (chainOf h n).running then resetChain t timeStep (chainOf h n) else chainOf h n := by
  simp only [chainOf, resetRunning, List.getD_eq_getElem?_getD, List.getElem?_map]
  cases h.raw.chains[n]? with
  | none => rfl
  | some c => rfl

theorem runningMask_resetRunning (t : Nat) (timeStep : Bool) (h : Hw) :
    runningMask (resetRunning t timeStep h) = runningMask h := by
  refine runningMask_congr fun n => ?_
  rw [chainOf_resetRunning]
  split
  · exact resetChain_running ..
  · rfl

/-- A START's slot completes as the last chain that waited for it starts. -/
theorem startDone_last {h : Hw} {w : RawWait} {o : Owned} (t : Nat) (one : h.raw.waits = [w]) (inTime : w.late = false)
    (last : ∀ n, (chainOf h n).resetSlot ≠ some w.pos) (ho : h.sq.owned.find? (fun x => x.pos == w.pos) = some o) :
    startDone w.pos t h = complete
      { pos := w.pos, kind := o.kind, status := .done, tag := o.tag, result := syncResult t (runningMask h) 0 }
      { h with raw := { h.raw with waits := [] } } := by
  have noneWaits : h.raw.chains.any (fun c => c.resetSlot == some w.pos) = false := by
    simp only [List.any_eq_false, beq_iff_eq]
    intro c hc
    obtain ⟨n, rfl⟩ := exists_chainOf hc
    exact last n
  rw [startDone, if_neg (Bool.eq_false_iff.1 noneWaits)]
  simp only [one, List.any_cons, List.any_nil, inTime, Bool.and_false, Bool.or_self, Bool.false_eq_true, if_false]
  rw [List.filter_cons_of_neg (by simp), List.filter_nil]
  exact completeOwned_owned (h := { h with raw := { h.raw with waits := [] } }) ho .done .none _

/-- At its reset instant a chain whose START waits starts, and the START's last chain completes its slot. -/
theorem chainResetEffect_start {h : Hw} {n at_ : Nat} {w : RawWait} {o : Owned} (hn : n < h.raw.chains.length)
    (on : h.board.aonOn = true) (ahead : h.power.time ≤ at_) (fits : at_ < 2 ^ 64)
    (waits : (chainOf h n).resetAt = some at_) (slot : (chainOf h n).resetSlot = some w.pos)
    (others : ∀ j, j ≠ n → (chainOf h j).resetSlot ≠ some w.pos) (one : h.raw.waits = [w]) (inTime : w.late = false)
    (ho : h.sq.owned.find? (fun x => x.pos == w.pos) = some o) :
    let g := setChain n (startChain at_) (atClocks at_ (h.power.elapsed + (at_ - h.power.time)) h)
    chainResetEffect n h = complete
      { pos := w.pos, kind := o.kind, status := .done, tag := o.tag, result := syncResult at_ (runningMask g) 0 }
      { g with raw := { g.raw with waits := [] } } := by
  intro g
  have last : ∀ j, (chainOf g j).resetSlot ≠ some w.pos := by
    intro j
    by_cases e : j = n
    · rw [e, show chainOf g n = _ from chainOf_setChain_same _ hn, (startChain_fresh at_ _).2]
      exact fun none => nomatch none
    · rw [show chainOf g j = _ from chainOf_setChain_other _ _ e]
      exact others j e
  rw [← startDone_last (h := g) at_ one inTime last ho]
  simp only [chainResetEffect, waits, slot, passToTime_eq on ahead fits]
  rfl

theorem firstSync_one {h : Hw} {w : RawWait} (one : h.raw.waits = [w]) (sync : w.sync = true) : firstSync h = some w := by
  simp [firstSync, one, sync]

/-- At the instant of a SYNC every running chain resets, and its slot completes. -/
theorem chainResetEffect_sync {h : Hw} {n : Nat} {w : RawWait} {o : Owned} (on : h.board.aonOn = true)
    (ahead : h.power.time ≤ w.instant) (fits : w.instant < 2 ^ 64) (noStart : (chainOf h n).resetAt = none)
    (runs : (chainOf h n).running = true) (one : h.raw.waits = [w]) (sync : w.sync = true) (inTime : w.late = false)
    (ho : h.sq.owned.find? (fun x => x.pos == w.pos) = some o) :
    let g := resetRunning w.instant false (atClocks w.instant (h.power.elapsed + (w.instant - h.power.time)) h)
    chainResetEffect n h = complete
      { pos := w.pos, kind := o.kind, status := .done, tag := o.tag, result := syncResult w.instant (runningMask h) 0 }
      { g with raw := { g.raw with waits := [] } } := by
  intro g
  have waits : g.raw.waits.filter (fun x => x.pos != w.pos) = [] := by
    rw [show g.raw.waits = [w] from one, List.filter_cons_of_neg (by simp), List.filter_nil]
  have mask : runningMask g = runningMask h := runningMask_resetRunning ..
  have done := completeOwned_owned (h := { g with raw := { g.raw with waits := [] } }) ho .done .none
    (syncResult w.instant (runningMask g) 0)
  rw [mask] at done
  rw [← done]
  simp only [chainResetEffect, noStart, firstSync_one one sync, runs, inTime, Bool.false_eq_true,
    if_false, passToTime_eq on ahead fits]
  rw [← waits, ← mask]
  rfl

theorem exec_chainReset (n : Nat) (s : State) : exec (.chainReset n) s = run (fun _ h => chainResetEffect n h) s := rfl

/-! ## Commands on one running chain that report nothing -/

/-- A quiet command on a running chain. -/
theorem answers_quietChain {c : Instr} {s : State} {n : Nat} {f : Hw → Chain → Chain}
    (he : exec c s = quiet (fun h => if (chainOf h n).running then setChain n (f h) h else h) s)
    (hn : n < s.hw.raw.chains.length) (runs : (chainOf s.hw n).running = true) : Answers c s fun t =>
      chainOf t.hw n = f { s.hw with sent := [] } (chainOf s.hw n) ∧ t.mem = s.mem ∧ OnlyChanges [.raw] s t := by
  have answer := he.trans (Run.quiet_answers _ s)
  rw [if_pos (by exact runs)] at answer
  exact ⟨_, answer, chainOf_setChain_same _ hn, rfl, rfl, .inr rfl, rfl⟩

theorem exec_spikeQuietReturn (n : Nat) (s : State) : exec (.spikeQuietReturn n) s =
    quiet (fun h => if (chainOf h n).running then setChain n (quietReturn (rawCfg h n)) h else h) s := rfl

theorem exec_fadeEnd (n : Nat) (s : State) : exec (.fadeEnd n) s =
    quiet (fun h => if (chainOf h n).running then setChain n endFade h else h) s := rfl

theorem exec_muffleEnd (n : Nat) (s : State) : exec (.muffleEnd n) s =
    quiet (fun h => if (chainOf h n).running then setChain n endMuffle h else h) s := rfl

/-- A fade that has made its 64 samples brings its target into force (R104). -/
theorem endFade_ends {c : Chain} {p : Pair} (fade : c.fade = some (p, 64)) (alone : c.pending = none) :
    endFade c = { c with inForce := p, fade := none, pending := none } := by
  simp only [endFade, fade, alone]

/-- A fade that has not goes on. -/
theorem endFade_goesOn {c : Chain} {p : Pair} {i : Nat} (fade : c.fade = some (p, i)) (short : i < 64) : endFade c = c := by
  unfold endFade
  split
  next full =>
    rw [fade] at full
    cases full
    exact absurd short (Nat.lt_irrefl 64)
  · rfl

/-! ## Halfband samples (R88, R89) -/

theorem saturate24_bounds (x : Int) : -8388607 ≤ (saturate24 x).1 ∧ (saturate24 x).1 ≤ 8388607 := by
  unfold saturate24
  split
  · exact ⟨by decide, by decide⟩
  · split
    · exact ⟨by decide, by decide⟩
    · exact ⟨by omega, by omega⟩

theorem halfOutput_bounds (cic : List SSample) : -8388607 ≤ (halfOutput cic).x ∧ (halfOutput cic).x ≤ 8388607 :=
  saturate24_bounds _

/-- What 32 modulator bits make of a chain. -/
def halfbandStep (cfg : RawCfg) (bits : Word) (c : Chain) : Chain :=
  let c := cicStep (fld bits 16 16) (cicStep (fld bits 0 16) (quietReturn cfg c))
  spikeDetect cfg { c with half := (halfOutput c.cic :: c.half).take 383, nHalf := c.nHalf + 1 }

theorem halfbandStep_sample (cfg : RawCfg) (bits : Word) (c : Chain) :
    let d := halfbandStep cfg bits c
    d.nHalf = c.nHalf + 1 ∧ d.half = (halfOutput d.cic :: c.half).take 383 := by
  obtain ⟨_, _, back⟩ := quietReturn_eq cfg c
  obtain ⟨_, _, _, _, detected⟩ := spikeDetect_eq cfg (
    let c := cicStep (fld bits 16 16) (cicStep (fld bits 0 16) (quietReturn cfg c))
    { c with half := (halfOutput c.cic :: c.half).take 383, nHalf := c.nHalf + 1 })
  rw [halfbandStep, detected, back]
  exact ⟨rfl, rfl⟩

theorem exec_halfbandSample (n : Nat) (bits : Word) (s : State) : exec (.halfbandSample n bits) s =
    quiet (fun h => if (chainOf h n).running then
      setChain n (halfbandStep (rawCfg h n) bits)
        (passToTime ((chainOf h n).resetTick + 256 * (chainOf h n).nHalf + 248) h)
    else h) s := rfl

theorem halfbandSample_answers {s : State} {n : Nat} (hn : n < s.hw.raw.chains.length)
    (runs : (chainOf s.hw n).running = true) (bits : Word) : Answers (.halfbandSample n bits) s fun t =>
      chainOf t.hw n = halfbandStep (rawCfg s.hw n) bits (chainOf s.hw n) ∧ t.mem = s.mem ∧
      OnlyChanges [.raw, .power] s t := by
  have answer := (exec_halfbandSample n bits s).trans (Run.quiet_answers _ s)
  rw [if_pos (by exact runs)] at answer
  obtain ⟨_, _, passed, -⟩ := passToTime_clocks
    ((chainOf s.hw n).resetTick + 256 * (chainOf s.hw n).nHalf + 248) { s.hw with sent := [] }
  have out := answer.trans (congrArg (fun h => Host.Outcome.next { s with
    hw := setChain n (halfbandStep (rawCfg s.hw n) bits) h }) passed)
  exact ⟨_, out, chainOf_setChain_same _ hn, rfl, rfl, .inr rfl, rfl⟩

/-! ## Filter samples (R98, R110) -/

/-- How many filter samples a chain has made, and its resampler's accumulator. -/
def resampled (c : Chain) : Nat × Nat := (c.nFilt, c.acc)

theorem resampled_closeBlock (short timeStep : Bool) (c : Chain) :
    resampled (closeBlock short timeStep c) = resampled c := by
  obtain ⟨_, _, _, _, e⟩ := closeBlock_eq short timeStep c
  rw [e, resampled, resampled]

/-- An output sample is emitted without a step of the resampler. -/
theorem resampled_emitSample (cfg : RawCfg) (valid spare : Bool) (y : Int) (sat : Bool) (stamp : Int) (c : Chain) :
    resampled (emitSample cfg valid spare y sat stamp c) = resampled c := by
  obtain ⟨_, _, _, _, e⟩ := thresholdStep_eq cfg y stamp c
  simp only [emitSample, e]
  split
  · exact resampled_closeBlock ..
  · rfl

/-- A filter sample advances the accumulator by NUM, modulo DEN (R98). -/
theorem resampled_filterStep (cfg : RawCfg) (valid spare : Bool) (c : Chain) : resampled (filterStep cfg valid spare c) =
    (c.nFilt + 1, if cfg.den ≤ c.acc + cfg.num then c.acc + cfg.num - cfg.den else c.acc + cfg.num) := by
  obtain ⟨_, muffle⟩ := endMuffle_eq c
  obtain ⟨_, _, _, spikes⟩ := applySpike_eq (endMuffle c)
  obtain ⟨_, sample⟩ := filterSample_eq (applySpike (endMuffle c))
  obtain ⟨d, hd⟩ : ∃ d, d = (filterSample (applySpike (endMuffle c))).1 := ⟨_, rfl⟩
  have counts : d.nFilt = c.nFilt ∧ d.acc = c.acc := by
    rw [hd, sample, spikes, muffle]
    exact ⟨rfl, rfl⟩
  simp only [filterStep, ← hd, counts.1, counts.2]
  split
  · split
    · rfl
    · exact resampled_emitSample ..
  · rfl

/-- The hardware but for the chains, the clocks and what a command reports. -/
def outsideRaw (h : Hw) : Hw :=
  { h with
    raw := { h.raw with chains := [] }, power := { h.power with time := 0, elapsed := 0 }, raised := [], records := [] }

theorem outsideRaw_passToTime (t : Nat) (h : Hw) : outsideRaw (passToTime t h) = outsideRaw h := by
  obtain ⟨_, _, e, -⟩ := passToTime_clocks t h
  rw [e]
  rfl

theorem outsideRaw_turnThreshold (n : Nat) (rise : Bool) (h : Hw) :
    outsideRaw (turnThreshold n rise h) = outsideRaw h := by
  simp only [turnThreshold]
  split
  · rfl
  · rfl

theorem length_turnThreshold (n : Nat) (rise : Bool) (h : Hw) :
    (turnThreshold n rise h).raw.chains.length = h.raw.chains.length := by
  simp only [turnThreshold]
  split
  · exact length_modifyAt ..
  · rfl

/-- Without a run that has reached THR_MIN nothing turns (R117). -/
theorem turnThreshold_notDue {n : Nat} {h : Hw} (rise : Bool) (early : thresholdDue (rawCfg h n) (chainOf h n) = false) :
    turnThreshold n rise h = h := by
  simp only [turnThreshold, early, Bool.and_false, Bool.false_eq_true, if_false]

/-- A STOP stops its chain and completes slots (R110). -/
theorem stopAt_eq (n t : Nat) (h : Hw) : ∃ rs, stopAt n t h = { setChain n stopChain h with records := rs } := by
  have each (ps : List Nat) (h : Hw) : ∃ rs, ps.foldl (fun h pos =>
      if h.raw.chains.any (fun c => c.stopSlots.contains pos) then h
      else completeOwned pos .done .none (syncResult t (runningMask h) 0) h) h = { h with records := rs } := by
    induction ps generalizing h with
    | nil => exact ⟨_, rfl⟩
    | cons p ps ih =>
      rw [List.foldl_cons]
      split
      · exact ih h
      · obtain ⟨_, e⟩ := completeOwned_eq p .done .none (syncResult t (runningMask h) 0) h
        rw [e]
        exact ih _
  exact each _ _

theorem outsideRaw_stopAt (n t : Nat) (h : Hw) : outsideRaw (stopAt n t h) = outsideRaw h := by
  obtain ⟨_, e⟩ := stopAt_eq n t h
  rw [e]
  rfl

theorem chainOf_stopAt {n : Nat} (t : Nat) {h : Hw} (hn : n < h.raw.chains.length) :
    chainOf (stopAt n t h) n = stopChain (chainOf h n) := by
  obtain ⟨_, e⟩ := stopAt_eq n t h
  rw [e]
  exact chainOf_setChain_same stopChain hn

/-- A chain that stops leaves no open block (R115). -/
theorem stopChain_stopped (c : Chain) :
    (stopChain c).running = false ∧ (stopChain c).stopping = false ∧ (stopChain c).block = [] := by
  obtain ⟨_, _, _, _, closed⟩ := closeBlock_eq true false c
  rw [stopChain, closed]
  exact ⟨rfl, rfl, rfl⟩

/-- What a filter sample finds: time has come to it, and what earlier samples made due has been carried out (log 17). -/
def filterReady (n : Nat) (h : Hw) : Hw :=
  setChain n (fun c => endFade (quietReturn (rawCfg h n) c)) (turnThreshold n false (turnThreshold n true
    (passToTime (filterTick (chainOf h n) (chainOf h n).nFilt) h)))

theorem outsideRaw_filterReady (n : Nat) (h : Hw) : outsideRaw (filterReady n h) = outsideRaw h :=
  (outsideRaw_turnThreshold ..).trans ((outsideRaw_turnThreshold ..).trans (outsideRaw_passToTime ..))

theorem length_filterReady (n : Nat) (h : Hw) : (filterReady n h).raw.chains.length = h.raw.chains.length := by
  rw [filterReady, length_setChain, length_turnThreshold, length_turnThreshold, passToTime, pass_raw]

/-- Without thresholds the chain has made as many filter samples as before. -/
theorem resampled_filterReady {n : Nat} {h : Hw} (hn : n < h.raw.chains.length) (noThr : (rawCfg h n).thrEn = false) :
    resampled (chainOf (filterReady n h) n) = resampled (chainOf h n) := by
  obtain ⟨time, el, passed, -⟩ := passToTime_clocks (filterTick (chainOf h n) (chainOf h n).nFilt) h
  have early : thresholdDue (rawCfg (atClocks time el h) n) (chainOf (atClocks time el h) n) = false := by
    rw [thresholdDue, show rawCfg (atClocks time el h) n = rawCfg h n from rfl, noThr, Bool.false_and]
  obtain ⟨_, _, back⟩ := quietReturn_eq (rawCfg h n) (chainOf h n)
  obtain ⟨_, _, _, faded⟩ := endFade_eq (quietReturn (rawCfg h n) (chainOf h n))
  rw [filterReady, passed, turnThreshold_notDue true early, turnThreshold_notDue false early,
    chainOf_setChain_same _ (by exact hn), show chainOf (atClocks time el h) n = chainOf h n from rfl, faded, back]
  rfl

/-- Once its two halfband samples are there a filter sample stops the chain or steps it. -/
theorem rawFilterEffect_ready {h : Hw} {n : Nat} (runs : (chainOf h n).running = true)
    (there : 2 * ((chainOf h n).nFilt + 1) ≤ (chainOf h n).nHalf) : ∃ valid spare, rawFilterEffect n h =
      if (chainOf h n).stopping then stopAt n (filterTick (chainOf h n) (chainOf h n).nFilt) (filterReady n h)
      else setChain n (filterStep (rawCfg h n) valid spare) (filterReady n h) :=
  ⟨_, _, if_pos (by rw [runs, decide_eq_true there]; rfl)⟩

theorem rawFilterEffect_early {h : Hw} {n : Nat} (early : (chainOf h n).nHalf < 2 * ((chainOf h n).nFilt + 1)) :
    rawFilterEffect n h = h :=
  if_neg (by rw [decide_eq_false (Nat.not_le.2 early), Bool.and_false]; exact Bool.false_ne_true)

theorem exec_rawFilterSample (n : Nat) (s : State) :
    exec (.rawFilterSample n) s = run (fun _ h => rawFilterEffect n h) s := rfl

/-- The frame of a filter sample: chains, clocks and what it reports. -/
theorem rawFilter_only {s : State} {g : Hw} (e : outsideRaw g = outsideRaw { s.hw with sent := [] }) :
    OnlyChanges (reporting ++ [Portion.raw, Portion.power]) s (commit s (Machine.finish g)) := by
  have frame := congrArg (blank (reporting ++ [Portion.raw, Portion.power])) e
  exact Slots.run_only [.raw, .power] s g frame

section FilterSample

variable {h : Hw} {n : Nat} (hn : n < h.raw.chains.length) (runs : (chainOf h n).running = true)
  (there : 2 * ((chainOf h n).nFilt + 1) ≤ (chainOf h n).nHalf)

include hn runs there

theorem rawFilterEffect_steps (noThr : (rawCfg h n).thrEn = false) (going : (chainOf h n).stopping = false) :
    outsideRaw (rawFilterEffect n h) = outsideRaw h ∧ resampled (chainOf (rawFilterEffect n h) n) =
      ((chainOf h n).nFilt + 1, if (rawCfg h n).den ≤ (chainOf h n).acc + (rawCfg h n).num
        then (chainOf h n).acc + (rawCfg h n).num - (rawCfg h n).den else (chainOf h n).acc + (rawCfg h n).num) := by
  obtain ⟨valid, spare, out⟩ := rawFilterEffect_ready runs there
  rw [if_neg (Bool.eq_false_iff.1 going)] at out
  obtain ⟨nFilt, acc⟩ := Prod.mk.inj (resampled_filterReady hn noThr)
  rw [out, chainOf_setChain_same _ (by rw [length_filterReady]; exact hn), resampled_filterStep, nFilt, acc]
  exact ⟨outsideRaw_filterReady n h, rfl⟩

theorem rawFilterEffect_stops (stopping : (chainOf h n).stopping = true) :
    outsideRaw (rawFilterEffect n h) = outsideRaw h ∧ (chainOf (rawFilterEffect n h) n).running = false ∧
      (chainOf (rawFilterEffect n h) n).stopping = false ∧ (chainOf (rawFilterEffect n h) n).block = [] := by
  obtain ⟨_, _, out⟩ := rawFilterEffect_ready runs there
  rw [out, if_pos stopping, outsideRaw_stopAt, chainOf_stopAt _ (by rw [length_filterReady]; exact hn)]
  exact ⟨outsideRaw_filterReady n h, stopChain_stopped _⟩

end FilterSample

section FilterAnswer

variable {s : State} {n : Nat} (hn : n < s.hw.raw.chains.length) (runs : (chainOf s.hw n).running = true)
  (there : 2 * ((chainOf s.hw n).nFilt + 1) ≤ (chainOf s.hw n).nHalf)

include hn runs there

theorem rawFilterSample_steps (noThr : (rawCfg s.hw n).thrEn = false) (going : (chainOf s.hw n).stopping = false) :
    Answers (.rawFilterSample n) s fun t =>
      let c := chainOf s.hw n
      let cfg := rawCfg s.hw n
      (chainOf t.hw n).nFilt = c.nFilt + 1 ∧
        (chainOf t.hw n).acc = (if cfg.den ≤ c.acc + cfg.num then c.acc + cfg.num - cfg.den else c.acc + cfg.num) ∧
        OnlyChanges (reporting ++ [Portion.raw, Portion.power]) s t := by
  obtain ⟨frame, counts⟩ := rawFilterEffect_steps (h := { s.hw with sent := [] }) hn runs there noThr going
  have chain := chainOf_commit_finish s (rawFilterEffect n { s.hw with sent := [] }) n
  exact ⟨_, (exec_rawFilterSample n s).trans (Run.run_answers _ s),
    (congrArg Chain.nFilt chain).trans (congrArg Prod.fst counts),
    (congrArg Chain.acc chain).trans (congrArg Prod.snd counts), rawFilter_only frame⟩

theorem rawFilterSample_stops (stopping : (chainOf s.hw n).stopping = true) :
    Answers (.rawFilterSample n) s fun t => (chainOf t.hw n).running = false ∧ (chainOf t.hw n).stopping = false ∧
      (chainOf t.hw n).block = [] ∧ OnlyChanges (reporting ++ [Portion.raw, Portion.power]) s t := by
  obtain ⟨frame, stopped⟩ := rawFilterEffect_stops (h := { s.hw with sent := [] }) hn runs there stopping
  rw [← chainOf_commit_finish s] at stopped
  obtain ⟨off, clear, block⟩ := stopped
  exact ⟨_, (exec_rawFilterSample n s).trans (Run.run_answers _ s), off, clear, block, rawFilter_only frame⟩

end FilterAnswer

theorem rawFilterSample_waits {s : State} {n : Nat}
    (early : (chainOf s.hw n).nHalf < 2 * ((chainOf s.hw n).nFilt + 1)) : Answers (.rawFilterSample n) s fun t =>
      chainOf t.hw n = chainOf s.hw n ∧ OnlyChanges (reporting ++ [Portion.raw]) s t := by
  refine ⟨_, (exec_rawFilterSample n s).trans (Run.run_answers _ s), ?_⟩
  rw [rawFilterEffect_early (h := { s.hw with sent := [] }) early]
  exact ⟨chainOf_commit_finish .., Slots.run_only [.raw] s _ rfl⟩

/-! ## Each end of a wait -/

section Reset

variable {s : State} {n at_ : Nat} {o : Owned} {w : RawWait} (on : s.hw.board.aonOn = true) (hs : RoomToReport s)
  (wr : s.hw.writesRecords = true) (ho : s.hw.sq.owned.find? (fun x => x.pos == w.pos) = some o)
  (one : s.hw.raw.waits = [w]) (inTime : w.late = false)

include on hs wr ho one inTime

theorem chainReset_starts (hn : n < s.hw.raw.chains.length) (ahead : s.hw.power.time ≤ at_) (fits : at_ < 2 ^ 64)
    (waits : (chainOf s.hw n).resetAt = some at_) (slot : (chainOf s.hw n).resetSlot = some w.pos)
    (others : ∀ j, j ≠ n → (chainOf s.hw j).resetSlot ≠ some w.pos) : Answers (.chainReset n) s fun t =>
      chainOf t.hw n = startChain at_ (chainOf s.hw n) ∧ (∀ j, j ≠ n → chainOf t.hw j = chainOf s.hw j) ∧
        t.hw.power.time = at_ ∧ t.hw.raw.waits = [] ∧
        Finishes s t { pos := w.pos, kind := o.kind, status := .done, tag := o.tag
                       result := syncResult at_ (runningMask t.hw) 0 } ∧
        OnlyChanges (reporting ++ [Portion.raw, Portion.power]) s t := by
  obtain ⟨writes, wipe, raised, records, posts, held⟩ := clear_of_nothingHeld hs.1
  obtain ⟨t, answer, raw, power, done, frame⟩ := run_completes (exec_chainReset n s)
    (chainResetEffect_start (h := { s.hw with sent := [] }) hn on ahead fits waits slot others one inTime ho)
    ⟨writes, wipe, raised, records, posts, held⟩ (Nat.le_trans hs.2 (by decide)) wr rfl [.raw, .power] rfl
  have chain (j : Nat) : chainOf t.hw j = _ := congrArg (fun r : Raw => r.chains.getD j {}) raw
  have mask : runningMask t.hw = _ := runningMask_congr fun j => congrArg Chain.running (chain j)
  refine ⟨t, answer, (chain n).trans (chainOf_setChain_same _ hn), fun j ne => (chain j).trans
    (chainOf_setChain_other _ _ ne), congrArg Power.time power, congrArg Raw.waits raw, ?_, frame⟩
  rw [mask]
  exact done

theorem chainReset_syncs (ahead : s.hw.power.time ≤ w.instant) (fits : w.instant < 2 ^ 64)
    (noStart : (chainOf s.hw n).resetAt = none) (runs : (chainOf s.hw n).running = true) (sync : w.sync = true) :
    Answers (.chainReset n) s fun t =>
      t.hw.raw.chains = s.hw.raw.chains.map (fun c => if c.running then resetChain w.instant false c else c) ∧
        t.hw.power.time = w.instant ∧ t.hw.raw.waits = [] ∧
        Finishes s t { pos := w.pos, kind := o.kind, status := .done, tag := o.tag
                       result := syncResult w.instant (runningMask s.hw) 0 } ∧
        OnlyChanges (reporting ++ [Portion.raw, Portion.power]) s t := by
  obtain ⟨writes, wipe, raised, records, posts, held⟩ := clear_of_nothingHeld hs.1
  obtain ⟨t, answer, raw, power, done, frame⟩ := run_completes (exec_chainReset n s)
    (chainResetEffect_sync (h := { s.hw with sent := [] }) on ahead fits noStart runs one sync inTime ho)
    ⟨writes, wipe, raised, records, posts, held⟩ (Nat.le_trans hs.2 (by decide)) wr rfl [.raw, .power] rfl
  exact ⟨t, answer, congrArg Raw.chains raw, congrArg Power.time power, congrArg Raw.waits raw, done, frame⟩

end Reset

/-! ## The statement -/

/-- Settles O36: the end of each wait, and each command on a running chain, is a lemma above. -/
theorem chainsStartResetAndTakeSamples : Obligations.ChainsStartResetAndTakeSamples := by
  unfold Obligations.ChainsStartResetAndTakeSamples
  constructor
  · intro s n pos at_ o w hn on hs _ wr ho ahead fits one here inTime
    subst here
    constructor
    · intro waits slot others
      obtain ⟨t, answer, chain, kept, rest⟩ := chainReset_starts on hs wr ho one inTime hn ahead fits waits slot others
      obtain ⟨⟨running, noReset, tick, nFilt, nHalf, muffled, inForce⟩, -⟩ := startChain_fresh at_ (chainOf s.hw n)
      refine ⟨t, answer, ?_⟩
      dsimp only
      rw [chain]
      exact ⟨running, noReset, tick, nFilt, nHalf, muffled, inForce, kept, rest⟩
    · intro noStart runs sync instant
      subst instant
      exact chainReset_syncs on hs wr ho one inTime ahead fits noStart runs sync
  · intro s n hn runs on c cfg
    refine ⟨fun bits => ?_, fun due => ?_, fun p fade alone => ?_, fun p i fade short => ?_, fun made => ?_,
      fun there noThr going => rawFilterSample_steps hn runs there noThr going,
      fun there stopping => rawFilterSample_stops hn runs there stopping, rawFilterSample_waits⟩
    · obtain ⟨t, answer, chain, mem, frame⟩ := halfbandSample_answers hn runs bits
      obtain ⟨nHalf, half⟩ := halfbandStep_sample cfg bits c
      obtain ⟨low, high⟩ := halfOutput_bounds (halfbandStep cfg bits c).cic
      refine ⟨t, answer, ?_⟩
      dsimp only
      rw [chain]
      exact ⟨nHalf, half, high, low, mem, frame⟩
    · have out := answers_quietChain (exec_spikeQuietReturn n s) hn runs
      rw [show quietReturn (rawCfg { s.hw with sent := [] } n) (chainOf s.hw n) = _ from if_pos due] at out
      exact out
    · have out := answers_quietChain (f := fun _ => endFade) (exec_fadeEnd n s) hn runs
      rwa [endFade_ends fade alone] at out
    · have out := answers_quietChain (f := fun _ => endFade) (exec_fadeEnd n s) hn runs
      rwa [endFade_goesOn fade short] at out
    · have out := answers_quietChain (f := fun _ => endMuffle) (exec_muffleEnd n s) hn runs
      rwa [show endMuffle (chainOf s.hw n) = _ from if_pos made] at out

end Sys2Proof.Proofs

/-! PROOFS. Thresholds turn, and blocks are published or lost (R113 to R118). -/

namespace Sys2Proof.Proofs

open Sys2Proof Sys2Proof.Machine Sys2Proof.Laws

/-! ## A run command that raises one event without a log entry -/

/-- Where nothing is held or completed, events without log entries wait in the queue in their order (R38). -/
theorem finish_raises (es : List Event) {h : Hw} (ha : h.raised = es.map fun e => ({ event := some e } : Raised))
    (hr : h.records = []) (hp : h.sq.posts = []) (hh : h.sq.heldRecords = [])
    (hq : h.sq.queue.length + es.length ≤ 64) :
    Machine.finish h = { h with raised := [], sq := { h.sq with queue := h.sq.queue ++ es } } := by
  have delivered := foldl_deliver_requeues (h.sq.queue ++ es)
    { h with records := [], raised := [], sq := { h.sq with queue := [] } } hp (by simpa using hq)
  rw [List.map_append, ← ha] at delivered
  simp only [Machine.finish, Run.flushHeld_nil h hh, hr, List.foldl_nil]
  rw [delivered, Run.releasePosts_nil]
  · simp only [List.nil_append, ← hr]
  · exact hp

theorem run_raisesEvent {c : Instr} {s : State} {eff : Mems → Hw → Hw} {h : Hw} {st : Status} {d : Detail}
    {ws : List Word} (he : exec c s = run eff s) (out : eff s.mem { s.hw with sent := [] } = raiseEvent st d ws h)
    (clear : Clear h) (hq : h.sq.queue.length ≤ 63) : exec c s = .next { s with hw := { h with
      raised := []
      sq := { h.sq with queue := h.sq.queue ++ [{ status := st, detail := d, result := ws }] } } } := by
  obtain ⟨writes, wipe, raised, records, posts, held⟩ := clear
  have ended := finish_raises [{ status := st, detail := d, result := ws }] (h := raiseEvent st d ws h)
    (congrArg (· ++ [_]) raised) records posts held (Nat.succ_le_succ hq)
  rw [he, Run.run_answers, out, ended]
  exact congrArg _ (commit_clear s ⟨writes, wipe, rfl, records, posts, held⟩)

/-! ## Thresholds (R117, R118) -/

theorem exec_thresholdRise (n : Nat) (s : State) :
    exec (.thresholdRise n) s = run (fun _ h => turnThreshold n true h) s := rfl

theorem exec_thresholdFall (n : Nat) (s : State) :
    exec (.thresholdFall n) s = run (fun _ h => turnThreshold n false h) s := rfl

theorem thresholdDue_iff (cfg : RawCfg) (c : Chain) :
    thresholdDue cfg c = true ↔ cfg.thrEn = true ∧ max cfg.thrMin 1 ≤ c.run := by
  rw [thresholdDue, Bool.and_eq_true, decide_eq_true_eq]

/-- A state already reached does not turn again. -/
theorem turnThreshold_there {n : Nat} {rise : Bool} {h : Hw} (there : (chainOf h n).on = rise) :
    turnThreshold n rise h = h := by
  simp only [turnThreshold, there, bne_self_eq_false, Bool.and_false, Bool.false_and, Bool.false_eq_true, if_false]

/-- What the turn of its threshold makes of a chain. -/
def turned (rise : Bool) (c : Chain) : Chain :=
  markLast rise { c with on := rise, run := 0, runPeak := if rise then c.env else 0 }

theorem turned_state (rise : Bool) (c : Chain) : (turned rise c).on = rise ∧ (turned rise c).run = 0 := by
  obtain ⟨_, _, e⟩ := markLast_eq rise { c with on := rise, run := 0, runPeak := if rise then c.env else 0 }
  rw [turned, e]
  exact ⟨rfl, rfl⟩

/-- The words of EVENT_THRESHOLD (R118). -/
def thresholdWords (n : Nat) (cfg : RawCfg) (rise : Bool) (stamp : Int) (peak : Nat) : List Word :=
  [w32 (n + cfg.channel * 8 + b2n rise * 256)] ++ w64 (patternOf 64 (stamp / 256)) ++ [w32 (patternOf 8 stamp), w32 peak]

theorem turnThreshold_turns {n : Nat} {rise : Bool} {h : Hw} (runs : (chainOf h n).running = true)
    (other : (chainOf h n).on = !rise) (due : thresholdDue (rawCfg h n) (chainOf h n) = true) : turnThreshold n rise h =
      raiseEvent .eventThreshold .none (thresholdWords n (rawCfg h n) rise (chainOf h n).runStamp
        (if rise then 0 else (chainOf h n).runPeak)) (setChain n (turned rise) h) := by
  refine if_pos ?_
  rw [runs, other, due]
  cases rise <;> rfl

/-- A threshold state that is due turns, with its event. -/
theorem threshold_turns {c : Instr} {s : State} {n : Nat} {rise : Bool}
    (he : exec c s = run (fun _ h => turnThreshold n rise h) s) (hn : n < s.hw.raw.chains.length) (hs : RoomToReport s)
    (runs : (chainOf s.hw n).running = true) (other : (chainOf s.hw n).on = !rise)
    (due : thresholdDue (rawCfg s.hw n) (chainOf s.hw n) = true) : Answers c s fun t =>
      (chainOf t.hw n).on = rise ∧ (chainOf t.hw n).run = 0 ∧ (∀ j, j ≠ n → chainOf t.hw j = chainOf s.hw j) ∧
      (∃ x ∈ t.hw.sq.queue, x.status = .eventThreshold ∧
        wordAt x.result 0 = w32 (n + (rawCfg s.hw n).channel * 8 + b2n rise * 256) ∧
        wordAt x.result 4 = w32 (if rise then 0 else (chainOf s.hw n).runPeak)) ∧
      t.mem = s.mem ∧ OnlyChanges (reporting ++ [Portion.raw]) s t := by
  obtain ⟨writes, wipe, raised, records, posts, held⟩ := clear_of_nothingHeld hs.1
  have answer := run_raisesEvent he (turnThreshold_turns (h := { s.hw with sent := [] }) runs other due)
    ⟨writes, wipe, raised, records, posts, held⟩ (Nat.le_trans hs.2 (by decide))
  obtain ⟨on, run⟩ := turned_state rise (chainOf s.hw n)
  have chain := chainOf_setChain_same (turned rise) (h := s.hw) hn
  exact ⟨_, answer, (congrArg Chain.on chain).trans on, (congrArg Chain.run chain).trans run,
    fun j ne => chainOf_setChain_other (turned rise) s.hw ne,
    ⟨_, List.mem_append_right _ (List.mem_singleton_self _), rfl, rfl, rfl⟩, rfl, rfl, .inl (List.mem_cons_self ..), rfl⟩

/-- One that is not due, or is there already, stays. -/
theorem threshold_stays {c : Instr} {s : State} {n : Nat} {rise : Bool}
    (he : exec c s = run (fun _ h => turnThreshold n rise h) s) (hs : RoomToReport s)
    (idle : thresholdDue (rawCfg s.hw n) (chainOf s.hw n) = false ∨ (chainOf s.hw n).on = rise) : Answers c s fun t =>
      t.hw.raw = s.hw.raw ∧ t.mem = s.mem ∧ OnlyChanges reporting s t := by
  have same : turnThreshold n rise { s.hw with sent := [] } = { s.hw with sent := [] } := by
    rcases idle with early | there
    · exact turnThreshold_notDue rise early
    · exact turnThreshold_there there
  exact ⟨_, he.trans (run_clear same (clear_of_nothingHeld hs.1) (Nat.le_trans hs.2 (by decide))), rfl, rfl, rfl,
    .inl (List.mem_cons_self ..), rfl⟩

/-! ## Blocks (R113 to R116) -/

theorem blockBytes_length (n : Nat) (cfg : RawCfg) (lost : Nat) (b : RawBlock) :
    (blockBytes n cfg lost b).length = 1024 := by
  simp only [blockBytes, List.length_append, Run.wordsBytes_length, fitTo, List.length_take, List.length_replicate, w64,
    List.length_cons, List.length_nil]
  omega

/-- The address of a block in its chain's raw ring (R113). -/
def blockAddr (cfg : RawCfg) (b : RawBlock) : Nat := cfg.base + 1024 * (b.seq % 2 ^ cfg.depthLog2)

/-- The oldest closed block has left its chain. -/
def oldestTaken (bs : List RawBlock) (c : Chain) : Chain := { c with closed := bs }

/-- The samples of a block are lost and counted (R116). -/
def samplesLost (b : RawBlock) (c : Chain) : Chain := { c with lost := satAdd 32 c.lost b.samples.length }

theorem setChain_setChain (n : Nat) (f g : Chain → Chain) (h : Hw) :
    setChain n f (setChain n g h) = setChain n (fun c => f (g c)) h := by
  simp only [setChain, modifyAt_eq_modify, List.modify_modify_eq]
  rfl

theorem shipBlock_oldest {h : Hw} {n : Nat} {b : RawBlock} {bs : List RawBlock} (oldest : (chainOf h n).closed = b :: bs)
    (ok : Bool) : shipBlock n ok h = publishBlock n ok b (setChain n (oldestTaken bs) h) := by
  simp only [shipBlock, oldest]
  rfl

/-- A block that fails its CRC at the barrier is lost (R116). -/
theorem publishBlock_lost (n : Nat) (b : RawBlock) (h : Hw) :
    publishBlock n false b h = setChain n (samplesLost b) h := rfl

/-- A block that the access tables refuse is lost; the first of a boot raises RAW_ACCESS (R116). -/
theorem publishBlock_refused {n : Nat} {b : RawBlock} {h : Hw} (up : h.power.memOn = true)
    (no : granted h AFE_DMA false true (blockAddr (rawCfg h n) b) 1024 = false) : publishBlock n true b h =
      let g := countRefusal AFE_DMA (blockAddr (rawCfg h n) b)
        (setChain n (samplesLost b) { h with raw := { h.raw with accessRaised := true } })
      if h.raw.accessRaised then g else raiseHealth .rawAccess n 0 0 0 g := by
  rw [blockAddr] at no ⊢
  simp only [publishBlock, up, no, Bool.not_true, Bool.or_self, Bool.false_and, Bool.false_eq_true, if_false]
  cases h.raw.accessRaised
  · rfl
  · rfl

/-- A block that the tables grant is written at its place in DRAM (R113, R115). -/
theorem publishBlock_published {n : Nat} {b : RawBlock} {h : Hw} (up : h.power.memOn = true)
    (yes : granted h AFE_DMA false true (blockAddr (rawCfg h n) b) 1024 = true)
    (fits : blockAddr (rawCfg h n) b + 1024 ≤ dramEnd) : publishBlock n true b h =
      let bytes := blockBytes n (rawCfg h n) (chainOf h n).lost b
      setChain n (fun c => { c with lost := 0 })
        (put .dram (blockAddr (rawCfg h n) b) bytes (invalidateTiles (blockAddr (rawCfg h n) b) bytes.length h)) := by
  have target : (targetOf h (blockAddr (rawCfg h n) b) 1024).isSome = true := by
    rw [targetOf, if_pos fits]
    rfl
  have there : blockAddr (rawCfg h n) b < dramEnd := by omega
  dsimp only
  rw [← putDev_dram _ _ there]
  rw [blockAddr] at yes target ⊢
  simp only [publishBlock, up, yes, target, writeDev, Bool.not_true, Bool.or_self, Bool.and_self, Bool.false_eq_true,
    if_false, if_true]

theorem exec_rawBlockClose (n : Nat) (ok : Bool) (s : State) :
    exec (.rawBlockClose n ok) s = run (fun _ h => shipBlock n ok h) s := rfl

section Close

variable {s : State} {n : Nat} {b : RawBlock} {bs : List RawBlock} (hn : n < s.hw.raw.chains.length)
  (hs : RoomToReport s) (oldest : (chainOf s.hw n).closed = b :: bs)

include oldest in
/-- The oldest block goes its way. -/
theorem answer_rawBlockClose (ok : Bool) : exec (.rawBlockClose n ok) s =
    run (fun _ h => publishBlock n ok b (setChain n (oldestTaken bs) h)) s :=
  (exec_rawBlockClose n ok s).trans (congrArg (fun g => Host.Outcome.next (commit s (Machine.finish g)))
    (shipBlock_oldest (h := { s.hw with sent := [] }) oldest ok))

include hn in
/-- A chain whose oldest block is lost. -/
theorem chainOf_lost : chainOf (setChain n (samplesLost b) (setChain n (oldestTaken bs) s.hw)) n =
    { chainOf s.hw n with closed := bs, lost := satAdd 32 (chainOf s.hw n).lost b.samples.length } := by
  rw [setChain_setChain, chainOf_setChain_same _ hn]
  rfl

include hn hs oldest

theorem rawBlockClose_lost : Answers (.rawBlockClose n false) s fun t =>
    chainOf t.hw n = { chainOf s.hw n with closed := bs, lost := satAdd 32 (chainOf s.hw n).lost b.samples.length } ∧
      t.mem = s.mem ∧ OnlyChanges (reporting ++ [Portion.raw]) s t := by
  obtain ⟨writes, wipe, raised, records, posts, held⟩ := clear_of_nothingHeld hs.1
  have answer := (answer_rawBlockClose oldest false).trans (run_clear
    (publishBlock_lost n b (setChain n (oldestTaken bs) { s.hw with sent := [] }))
    ⟨writes, wipe, raised, records, posts, held⟩ (Nat.le_trans hs.2 (by decide)))
  exact ⟨_, answer, chainOf_lost hn, rfl, rfl, .inl (List.mem_cons_self ..), rfl⟩

theorem rawBlockClose_published (up : s.hw.power.memOn = true)
    (yes : granted s.hw AFE_DMA false true (blockAddr (rawCfg s.hw n) b) 1024 = true)
    (fits : blockAddr (rawCfg s.hw n) b + 1024 ≤ dramEnd) : Answers (.rawBlockClose n true) s fun t =>
      chainOf t.hw n = { chainOf s.hw n with closed := bs, lost := 0 } ∧
      t.mem = applyWrites s.mem [⟨.dram, blockAddr (rawCfg s.hw n) b,
        blockBytes n (rawCfg s.hw n) (chainOf s.hw n).lost b⟩] ∧
      OnlyChanges (reporting ++ [Portion.raw, Portion.sched]) s t := by
  obtain ⟨writes, wipe, raised, records, posts, held⟩ := clear_of_nothingHeld hs.1
  have out := publishBlock_published (h := setChain n (oldestTaken bs) { s.hw with sent := [] }) up yes fits
  have lost : (chainOf (setChain n (oldestTaken bs) { s.hw with sent := [] }) n).lost = (chainOf s.hw n).lost := by
    rw [chainOf_setChain_same _ (by exact hn)]
    rfl
  rw [lost] at out
  have answer := (answer_rawBlockClose oldest true).trans (Run.run_answers _ s)
  rw [out] at answer
  refine ⟨_, answer, ?_, ?_, Slots.run_only [.raw, .sched] s _ rfl⟩
  · rw [chainOf_commit_finish]
    have twice := setChain_setChain n (fun c => { c with lost := 0 }) (oldestTaken bs) s.hw
    exact (congrArg (fun h => chainOf h n) twice).trans (chainOf_setChain_same _ hn)
  · refine (commit_finish_writes s ?_ ?_ ?_ ?_ ?_ ?_).trans (congrArg (fun ws => applyWrites s.mem (ws ++ [_])) writes)
    exacts [wipe, raised, records, posts, held, Nat.le_trans hs.2 (by decide)]

theorem rawBlockClose_refused (up : s.hw.power.memOn = true)
    (no : granted s.hw AFE_DMA false true (blockAddr (rawCfg s.hw n) b) 1024 = false) :
    Answers (.rawBlockClose n true) s fun t =>
      chainOf t.hw n = { chainOf s.hw n with closed := bs, lost := satAdd 32 (chainOf s.hw n).lost b.samples.length } ∧
      t.hw.raw.accessRaised = true ∧ (s.hw.raw.accessRaised = false → Reports t .eventHealth .rawAccess) ∧
      t.mem = s.mem ∧ OnlyChanges (reporting ++ [Portion.raw, Portion.health]) s t := by
  obtain ⟨writes, wipe, raised, records, posts, held⟩ := clear_of_nothingHeld hs.1
  have out := publishBlock_refused (h := setChain n (oldestTaken bs) { s.hw with sent := [] }) up no
  have clear : Clear (countRefusal AFE_DMA (blockAddr (rawCfg s.hw n) b) (setChain n (samplesLost b)
      { setChain n (oldestTaken bs) { s.hw with sent := [] } with
        raw := { (setChain n (oldestTaken bs) s.hw).raw with accessRaised := true } })) :=
    ⟨writes, wipe, raised, records, posts, held⟩
  have answer := answer_rawBlockClose oldest true
  cases before : s.hw.raw.accessRaised with
  | true =>
    rw [run_clear (out.trans (if_pos before)) clear (Nat.le_trans hs.2 (by decide))] at answer
    exact ⟨_, answer, chainOf_lost hn, rfl, (nomatch ·), rfl, rfl, .inl (List.mem_cons_self ..), rfl⟩
  | false =>
    rw [Run.run_answers, out.trans (if_neg (Bool.eq_false_iff.1 before))] at answer
    obtain ⟨mem, -, reports⟩ := commit_raisesHealth s .rawAccess n 0 0 0 clear hs.2
    refine ⟨_, answer, ?_, ?_, fun _ => reports, mem, Slots.run_only [.raw, .health] s _ rfl⟩
    · rw [chainOf_commit_finish]
      exact chainOf_lost hn
    · rw [commit_finish_raw]
      rfl

end Close

/-! ## One write, and the rest of memory -/

theorem writesOnly_write {s t : State} {sp : Space} {a : Nat} {bs : List Byte}
    (hm : t.mem = applyWrites s.mem [⟨sp, a, bs⟩]) : WritesOnly s t sp a bs.length := by
  intro sp' x out
  rw [byteAt, hm]
  refine Run.read_outside _ _ _ _ fun w hw same => ?_
  obtain rfl := List.mem_singleton.1 hw
  exact out.resolve_left fun ne => ne same.symm

/-! ## The statement -/

/-- Settles O37: a threshold turns or stays, and a block is published, lost or refused, by the lemmas above. -/
theorem thresholdsTurnAndBlocksArePublished : Obligations.ThresholdsTurnAndBlocksArePublished := by
  unfold Obligations.ThresholdsTurnAndBlocksArePublished
  constructor
  · intro s n hn hs runs c cfg due turns stays
    have early (no : ¬due) : thresholdDue cfg c = false := Bool.eq_false_iff.2 fun d => no ((thresholdDue_iff ..).1 d)
    refine ⟨fun off yes => ?_, fun on yes => ?_, fun idle => ?_, fun idle => ?_⟩
    · exact threshold_turns (exec_thresholdRise n s) hn hs runs off ((thresholdDue_iff ..).2 yes)
    · exact threshold_turns (exec_thresholdFall n s) hn hs runs on ((thresholdDue_iff ..).2 yes)
    · exact threshold_stays (exec_thresholdRise n s) hs (idle.imp_left early)
    · exact threshold_stays (exec_thresholdFall n s) hs (idle.imp_left early)
  · intro s n b bs hn hs oldest _ cfg a c lost
    refine ⟨fun up yes fits => ?_, rawBlockClose_lost hn hs oldest, rawBlockClose_refused hn hs oldest⟩
    obtain ⟨t, answer, chain, mem, frame⟩ := rawBlockClose_published hn hs oldest up yes fits
    have long := blockBytes_length n cfg c.lost b
    refine ⟨t, answer, chain, ?_, ?_, frame⟩
    · have read := bytesAt_write mem (Nat.le_of_eq long.symm)
      rwa [List.take_of_length_le (Nat.le_of_eq long)] at read
    · rw [← long]
      exact writesOnly_write mem

end Sys2Proof.Proofs

/-! PROOFS. The SYNC slot: its checks, and what each OP does (R107, R108, R110, R121 to R123). -/

namespace Sys2Proof.Proofs

open Sys2Proof Sys2Proof.Machine Sys2Proof.Laws

/-! ## The checks of R122 in their order -/

/-- The slot names chain n. -/
def syncNames (f : Fetched) (n : Nat) : Bool :=
  if fld (wordAt f.words 4) 0 3 = 3 then fld (wordAt f.words 4) 11 3 == n else bitOf (fld (wordAt f.words 4) 3 8) n

/-- A START or SELECT names a chain that is not enabled. -/
def namesDisabled (f : Fetched) (h : Hw) : Bool :=
  (fld (wordAt f.words 4) 0 3 == 1 || fld (wordAt f.words 4) 0 3 == 3) &&
    (List.range 8).any (fun n => syncNames f n && !(rawCfg h n).enable)

/-- AT lies too far ahead. -/
def atTooFar (f : Fetched) (h : Hw) : Bool :=
  bit (wordAt f.words 4) 19 && decide (h.power.time + 2 ^ 28 < dwordAt f.words 5)

/-- A SELECT asks for a response that its chain does not allow. -/
def responseRefused (f : Fetched) (h : Hw) : Bool :=
  let cfg := rawCfg h (fld (wordAt f.words 4) 11 3)
  let resp := fld (wordAt f.words 4) 14 5
  fld (wordAt f.words 4) 0 3 == 3 && !(if cfg.respAllow = 0 then resp == cfg.response else bitOf cfg.respAllow resp)

theorem syncChecked_eq (f : Fetched) (act : Hw → Hw) (h : Hw) : syncChecked f act h =
    if syncBadForm f.words then refuse f .refusedFormat .none h
    else if !rawAllowed h then refuse f .refusedState .rawOff h
    else if namesDisabled f h then refuse f .refusedState .chainDisabled h
    else if atTooFar f h then refuse f .refusedFormat .none h
    else if responseRefused f h then refuse f .refusedAccess .responseNotAllowed h
    else act h := rfl

/-- A START's mask or a SELECT's number names a chain that is not enabled (R122). -/
theorem namesDisabled_iff (f : Fetched) (h : Hw) : namesDisabled f h = true ↔
    (fld (wordAt f.words 4) 0 3 = 1 ∧ ∃ j < 8, bitOf (fld (wordAt f.words 4) 3 8) j = true ∧ (rawCfg h j).enable = false) ∨
    (fld (wordAt f.words 4) 0 3 = 3 ∧ (rawCfg h (fld (wordAt f.words 4) 11 3)).enable = false) := by
  have small : fld (wordAt f.words 4) 11 3 < 8 := Nat.mod_lt _ (by decide)
  simp only [namesDisabled, syncNames, Bool.and_eq_true, Bool.or_eq_true, beq_iff_eq, List.any_eq_true, List.mem_range,
    Bool.not_eq_true']
  constructor
  · rintro ⟨op | op, j, hj, named, off⟩
    · rw [op, if_neg (by decide)] at named
      exact .inl ⟨op, j, hj, named, off⟩
    · rw [if_pos op, beq_iff_eq] at named
      exact .inr ⟨op, by rw [named]; exact off⟩
  · rintro (⟨op, j, hj, named, off⟩ | ⟨op, off⟩)
    · exact ⟨.inl op, j, hj, by rw [op, if_neg (by decide)]; exact named, off⟩
    · exact ⟨.inr op, _, small, by rw [if_pos op, beq_iff_eq], off⟩

/-- Disabled chains matter to START and SELECT alone. -/
theorem namesDisabled_other {f : Fetched} (h : Hw) (noStart : fld (wordAt f.words 4) 0 3 ≠ 1)
    (noSelect : fld (wordAt f.words 4) 0 3 ≠ 3) : namesDisabled f h = false := by
  rw [namesDisabled, beq_eq_false_iff_ne.2 noStart, beq_eq_false_iff_ne.2 noSelect, Bool.or_self, Bool.false_and]

theorem namesDisabled_enabledStart {f : Fetched} {h : Hw} (op : fld (wordAt f.words 4) 0 3 = 1)
    (enabled : ∀ j < 8, bitOf (fld (wordAt f.words 4) 3 8) j = true → (rawCfg h j).enable = true) :
    namesDisabled f h = false := by
  refine Bool.eq_false_iff.2 fun disabled => ?_
  rcases (namesDisabled_iff f h).1 disabled with ⟨-, j, hj, named, off⟩ | ⟨select, -⟩
  · exact absurd (enabled j hj named) (Bool.eq_false_iff.1 off)
  · exact absurd (op.symm.trans select) (by decide)

theorem namesDisabled_enabledSelect {f : Fetched} {h : Hw} (op : fld (wordAt f.words 4) 0 3 = 3)
    (enabled : (rawCfg h (fld (wordAt f.words 4) 11 3)).enable = true) : namesDisabled f h = false := by
  refine Bool.eq_false_iff.2 fun disabled => ?_
  rcases (namesDisabled_iff f h).1 disabled with ⟨start, -⟩ | ⟨-, off⟩
  · exact absurd (op.symm.trans start) (by decide)
  · exact absurd enabled (Bool.eq_false_iff.1 off)

/-! ## A SYNC slot as it starts (R34) -/

/-- What a slot's start leaves of the hardware, as its OP meets it. -/
structure SyncStarted (s : State) (g : Hw) : Prop where
  clear : Clear g
  room : g.sq.queue.length ≤ 64
  records : g.writesRecords = true
  image : g.image = s.hw.image
  raw : g.raw = s.hw.raw
  time : g.power.time = s.hw.power.time
  elapsed : g.power.elapsed = s.hw.power.elapsed
  frame : blank (reporting ++ [Portion.slots, Portion.raw, Portion.power]) g =
    blank (reporting ++ [Portion.slots, Portion.raw, Portion.power]) s.hw

theorem begun_syncStarted {s : State} {slot : Slot} {f : Fetched} (hf : Fetches s slot f) (hs : RoomToReport s)
    (entry : s.hw.power.entry = none) : SyncStarted s (Slots.begun f s.hw) := by
  obtain ⟨o, next, -⟩ := nextSlot_of_fetches hf
  obtain ⟨reach, ctrl⟩ := reach_of_nextSlot next
  have records := writesRecords_of_reach reach ctrl entry
  obtain ⟨writes, wipe, raised, completed, posts, held⟩ := clear_of_nothingHeld hs.1
  rw [Slots.begun_eq]
  exact ⟨⟨writes, wipe, raised, completed, posts, held⟩, Nat.le_trans hs.2 (by decide), records, rfl, rfl, rfl, rfl, rfl⟩

/-- The checks look at nothing that the start of a slot changes. -/
theorem syncChecked_begun (f : Fetched) (act : Hw → Hw) (h : Hw) : syncChecked f act (Slots.begun f h) =
    if syncBadForm f.words then refuse f .refusedFormat .none (Slots.begun f h)
    else if !rawAllowed h then refuse f .refusedState .rawOff (Slots.begun f h)
    else if namesDisabled f h then refuse f .refusedState .chainDisabled (Slots.begun f h)
    else if atTooFar f h then refuse f .refusedFormat .none (Slots.begun f h)
    else if responseRefused f h then refuse f .refusedAccess .responseNotAllowed (Slots.begun f h)
    else act (Slots.begun f h) := by
  have allowed : rawAllowed (Slots.begun f h) = rawAllowed h := by rw [Slots.begun_eq]; rfl
  have disabled : namesDisabled f (Slots.begun f h) = namesDisabled f h := by rw [Slots.begun_eq]; rfl
  have far : atTooFar f (Slots.begun f h) = atTooFar f h := by rw [Slots.begun_eq]; rfl
  have response : responseRefused f (Slots.begun f h) = responseRefused f h := by rw [Slots.begun_eq]; rfl
  rw [syncChecked_eq, allowed, disabled, far, response]

/-- A SYNC command with its OP. -/
def RunsSync (c : Instr) (slot : Slot) (op : Nat) (act : Fetched → Hw → Hw) (s : State) : Prop :=
  exec c s = run (withSlot (isOp kSync 0 3 op) slot fun _ f h => syncChecked f (act f) h) s

theorem runsSync_sync (slot : Slot) (s : State) : RunsSync (.syncSync slot) slot 0 syncEffect s := rfl
theorem runsSync_start (slot : Slot) (s : State) : RunsSync (.syncStart slot) slot 1 startEffect s := rfl
theorem runsSync_stop (slot : Slot) (s : State) : RunsSync (.syncStop slot) slot 2 stopEffect s := rfl
theorem runsSync_select (slot : Slot) (s : State) : RunsSync (.syncSelect slot) slot 3 selectEffect s := rfl

/-- An accepted SYNC slot is checked as it has started. -/
theorem exec_sync {c : Instr} {s : State} {slot : Slot} {f : Fetched} {op : Nat} {act : Fetched → Hw → Hw}
    (he : RunsSync c slot op act s) (ha : AcceptsOp s slot f kSync 0 3 op) :
    exec c s = run (fun _ _ => syncChecked f (act f) (Slots.begun f s.hw)) s := by
  obtain ⟨accepts, hop⟩ := ha
  have mine : isOp kSync 0 3 op f.words = true := by
    simp only [isOp, accepts.2.1, hop, beq_self_eq_true, Bool.and_self]
  have out := Slots.withSlot_accepts accepts (isOp kSync 0 3 op) (fun _ f h => syncChecked f (act f) h) mine
  exact he.trans (congrArg (fun g => Host.Outcome.next (commit s (Machine.finish g))) out)

/-! ## Refusals -/

/-- A refusal changes no chain, and writes its record. -/
def SyncRefused (c : Instr) (s : State) (f : Fetched) (st : Status) (d : Detail) : Prop :=
  Answers c s fun t => t.hw.raw = s.hw.raw ∧ Finishes s t (f.record st d []) ∧
    OnlyChanges (reporting ++ [Portion.slots, Portion.power]) s t

theorem sync_refused {c : Instr} {s : State} {slot : Slot} {f : Fetched} {op : Nat} {act : Fetched → Hw → Hw} {st : Status}
    {d : Detail} (he : RunsSync c slot op act s) (ha : AcceptsOp s slot f kSync 0 3 op) (hs : RoomToReport s)
    (entry : s.hw.power.entry = none)
    (out : syncChecked f (act f) (Slots.begun f s.hw) = refuse f st d (Slots.begun f s.hw)) : SyncRefused c s f st d := by
  obtain ⟨done, -, -, frame⟩ := begun_completes ha.1.1 hs entry (f.record st d [])
  have answer := (exec_sync he ha).trans (Run.run_answers _ s)
  rw [out] at answer
  refine ⟨_, answer, ?_, done, frame⟩
  rw [commit_finish_raw]
  exact (begun_syncStarted ha.1.1 hs entry).raw

/-- A refusal that no OP escapes. -/
theorem sync_refused_each {s : State} {slot : Slot} {f : Fetched} {st : Status} {d : Detail} (hs : RoomToReport s)
    (entry : s.hw.power.entry = none)
    (out : ∀ act, syncChecked f act (Slots.begun f s.hw) = refuse f st d (Slots.begun f s.hw)) :
    (AcceptsOp s slot f kSync 0 3 0 → SyncRefused (.syncSync slot) s f st d) ∧
    (AcceptsOp s slot f kSync 0 3 1 → SyncRefused (.syncStart slot) s f st d) ∧
    (AcceptsOp s slot f kSync 0 3 2 → SyncRefused (.syncStop slot) s f st d) ∧
    (AcceptsOp s slot f kSync 0 3 3 → SyncRefused (.syncSelect slot) s f st d) :=
  ⟨fun ha => sync_refused (runsSync_sync slot s) ha hs entry (out _),
    fun ha => sync_refused (runsSync_start slot s) ha hs entry (out _),
    fun ha => sync_refused (runsSync_stop slot s) ha hs entry (out _),
    fun ha => sync_refused (runsSync_select slot s) ha hs entry (out _)⟩

/-- An AT is given by SYNC and START alone (R121). -/
theorem noAt_of_form {f : Fetched} (form : syncBadForm f.words = false)
    (op : fld (wordAt f.words 4) 0 3 = 2 ∨ fld (wordAt f.words 4) 0 3 = 3) : bit (wordAt f.words 4) 19 = false := by
  simp only [syncBadForm, Bool.or_eq_false_iff] at form
  obtain ⟨⟨-, noAt⟩, -⟩ := form
  rcases op with op | op
  · simpa [op] using noAt
  · simpa [op] using noAt

/-- Without AT_EN there is no AT (R121). -/
theorem at_zero_of_form {f : Fetched} (form : syncBadForm f.words = false) (off : bit (wordAt f.words 4) 19 = false) :
    dwordAt f.words 5 = 0 := by
  simp only [syncBadForm, Bool.or_eq_false_iff] at form
  obtain ⟨-, zero⟩ := form
  simpa [off] using zero

/-! ## Slots that pass the checks -/

/-- Without AT, an OP acts where the slot names no disabled chain and asks for no response that is not allowed. -/
theorem exec_sync_acts {c : Instr} {s : State} {slot : Slot} {f : Fetched} {op : Nat} {act : Fetched → Hw → Hw}
    (he : RunsSync c slot op act s) (ha : AcceptsOp s slot f kSync 0 3 op) (form : syncBadForm f.words = false)
    (allowed : rawAllowed s.hw = true) (off : bit (wordAt f.words 4) 19 = false)
    (enabled : namesDisabled f s.hw = false) (chosen : responseRefused f s.hw = false) :
    exec c s = run (fun _ _ => act f (Slots.begun f s.hw)) s := by
  have near : atTooFar f s.hw = false := by rw [atTooFar, off, Bool.false_and]
  rw [exec_sync he ha, syncChecked_begun, form, allowed, enabled, near, chosen]
  rfl

/-- The chosen response matters to a SELECT alone. -/
theorem responseRefused_other {f : Fetched} (h : Hw) (other : fld (wordAt f.words 4) 0 3 ≠ 3) :
    responseRefused f h = false := by
  rw [responseRefused, beq_eq_false_iff_ne.2 other, Bool.false_and]

/-- An allowed response is refused by no chain. -/
theorem responseRefused_allowed {f : Fetched} {h : Hw}
    (chosen : if (rawCfg h (fld (wordAt f.words 4) 11 3)).respAllow = 0
      then fld (wordAt f.words 4) 14 5 = (rawCfg h (fld (wordAt f.words 4) 11 3)).response
      else bitOf (rawCfg h (fld (wordAt f.words 4) 11 3)).respAllow (fld (wordAt f.words 4) 14 5) = true) :
    responseRefused f h = false := by
  simp only [responseRefused]
  split at chosen
  next any => rw [if_pos any, chosen, beq_self_eq_true, Bool.not_true, Bool.and_false]
  next some => rw [if_neg some, chosen, Bool.not_true, Bool.and_false]

/-- A response that its chain's list does not allow is refused. -/
theorem responseRefused_denied {f : Fetched} {h : Hw} (op : fld (wordAt f.words 4) 0 3 = 3)
    (some : (rawCfg h (fld (wordAt f.words 4) 11 3)).respAllow ≠ 0)
    (denied : bitOf (rawCfg h (fld (wordAt f.words 4) 11 3)).respAllow (fld (wordAt f.words 4) 14 5) = false) :
    responseRefused f h = true := by
  simp only [responseRefused, op, if_neg some, denied, beq_self_eq_true, Bool.not_false, Bool.and_self]

/-- Without AT a command reaches Drumhead within 50 µs, and is not late (R108, R110). -/
theorem syncArrival_soon {ws : List Word} (off : bit (wordAt ws 4) 19 = false) (h : Hw) : ∃ d < usTicks 50,
    syncArrival ws h = (h.power.time + d, false, { h with draws := h.draws + 1 }) := by
  refine ⟨Config.freeNat h.draws % usTicks 50, Nat.mod_lt _ (by decide), ?_⟩
  simp only [syncArrival, drawNat, off, Bool.false_and]

theorem edgeFrom_bounds (t : Nat) : t ≤ edgeFrom t ∧ edgeFrom t ≤ t + 7 := by
  rw [edgeFrom]
  omega

/-- The wait of a SYNC. -/
def syncWait (f : Fetched) (d : Nat) (h : Hw) : RawWait :=
  { pos := f.pos, instant := edgeFrom (h.power.time + d), sync := true, late := false
    arrive := h.power.elapsed + d, at_ := 0 }

section Effects

variable {f : Fetched} {h : Hw} (off : bit (wordAt f.words 4) 19 = false)

include off

theorem syncEffect_waits (at0 : dwordAt f.words 5 = 0) (runs : runningMask h ≠ 0) : ∃ d < usTicks 50, syncEffect f h =
    { h with draws := h.draws + 1, raw := { h.raw with waits := h.raw.waits ++ [syncWait f d h] } } := by
  obtain ⟨d, hd, arrives⟩ := syncArrival_soon off h
  refine ⟨d, hd, ?_⟩
  have runs' : runningMask { h with draws := h.draws + 1 } ≠ 0 := runs
  simp only [syncEffect, arrives, runs', if_false, at0, Nat.max_zero, Nat.add_sub_cancel_left, syncWait]

theorem syncEffect_done (none : runningMask h = 0) : ∃ k draws, syncEffect f h =
    complete (f.record .done .none (syncResult k 0 0)) { h with draws := draws } := by
  obtain ⟨d, -, arrives⟩ := syncArrival_soon off h
  have none' : runningMask { h with draws := h.draws + 1 } = 0 := none
  have none'' : runningMask { h with draws := h.draws + 2 } = 0 := none
  simp only [syncEffect, arrives, none', if_true, drawNat, Bool.false_eq_true, if_false]
  exact ⟨_, _, congrArg (fun m => complete (f.record .done .none (syncResult _ m 0)) { h with draws := h.draws + 2 }) none''⟩

end Effects

/-! ## Several chains in turn -/

/-- Where what is done to each chain depends on power alone, chains are changed one by one. -/
theorem foldl_setChain {F : Hw → Chain → Chain} (power : ∀ g h : Hw, g.power = h.power → F g = F h) {ns : List Nat}
    (once : ns.Nodup) {h : Hw} (among : ∀ n ∈ ns, n < h.raw.chains.length) : ∃ cs,
      ns.foldl (fun h n => setChain n (F h) h) h = { h with raw := { h.raw with chains := cs } } ∧
      ∀ j, cs.getD j {} = if j ∈ ns then F h (chainOf h j) else chainOf h j := by
  induction ns generalizing h with
  | nil => exact ⟨h.raw.chains, rfl, fun _ => rfl⟩
  | cons n ns ih =>
    obtain ⟨here, once⟩ := List.nodup_cons.1 once
    obtain ⟨cs, e, each⟩ := ih once (h := setChain n (F h) h) fun m hm => by
      rw [length_setChain]
      exact among m (List.mem_cons_of_mem _ hm)
    refine ⟨cs, e, fun j => ?_⟩
    rw [each, power (setChain n (F h) h) h rfl]
    by_cases same : j = n
    · subst same
      rw [if_neg here, if_pos (List.mem_cons_self ..), chainOf_setChain_same _ (among j (List.mem_cons_self ..))]
    · simp only [chainOf_setChain_other _ _ same, List.mem_cons, same, false_or]

/-- The chains of a mask that pass a test. -/
def maskedChains (mask : Nat) (p : Chain → Bool) (h : Hw) : List Nat :=
  (List.range 8).filter fun n => bitOf mask n && p (chainOf h n)

theorem mem_maskedChains {mask : Nat} {p : Chain → Bool} {h : Hw} {j : Nat} :
    j ∈ maskedChains mask p h ↔ j < 8 ∧ bitOf mask j = true ∧ p (chainOf h j) = true := by
  simp only [maskedChains, List.mem_filter, List.mem_range, Bool.and_eq_true]

theorem nodup_maskedChains (mask : Nat) (p : Chain → Bool) (h : Hw) : (maskedChains mask p h).Nodup :=
  List.Nodup.filter _ List.nodup_range

theorem maskedChains_isEmpty {mask : Nat} {p : Chain → Bool} {h : Hw} {j : Nat} (hj : j ∈ maskedChains mask p h) :
    (maskedChains mask p h).isEmpty = false := by
  cases e : maskedChains mask p h with
  | nil => exact absurd (e ▸ hj) (List.not_mem_nil)
  | cons => rfl

/-! ## START (R110) -/

/-- A chain that stands still and waits for no START. -/
def standsStill (c : Chain) : Bool := !c.running && c.resetAt.isNone

theorem standsStill_iff (c : Chain) : standsStill c = true ↔ c.running = false ∧ c.resetAt = none := by
  simp only [standsStill, Bool.and_eq_true, Bool.not_eq_true', Option.isNone_iff_eq_none]

/-- A chain that stands still waits for the first edge 40 µs after the START has reached it (R88, R110). -/
theorem askStart_standsStill (h : Hw) (d : Nat) (slot : Option Nat) {c : Chain} (still : standsStill c = true) :
    askStart h (h.power.elapsed + d) 0 slot c = { c with
      resetAt := some (edgeFrom (h.power.time + d + usTicks 40)), resetSlot := slot
      resetPower := h.power.elapsed + d, resetReady := h.power.elapsed + d + usTicks 40, resetFrom := 0 } := by
  obtain ⟨rests, free⟩ := (standsStill_iff c).1 still
  have ready : h.power.time + (h.power.elapsed + d + usTicks 40 - h.power.elapsed) = h.power.time + d + usTicks 40 := by
    omega
  simp only [askStart, rests, free, Option.isSome_none, Bool.or_self, Bool.false_eq_true, if_false, resetInstant, ready,
    Nat.max_zero]

theorem startEffect_waits {f : Fetched} {h : Hw} (off : bit (wordAt f.words 4) 19 = false)
    (at0 : dwordAt f.words 5 = 0) (eight : h.raw.chains.length = 8) {j : Nat}
    (hj : j ∈ maskedChains (fld (wordAt f.words 4) 3 8) standsStill h) : ∃ d < usTicks 50, ∃ draws waits cs,
      startEffect f h = { h with draws := draws, raw := { h.raw with waits := waits, chains := cs } } ∧
      ∀ j, cs.getD j {} = if j ∈ maskedChains (fld (wordAt f.words 4) 3 8) standsStill h then
        askStart h (h.power.elapsed + d) 0 (some f.pos) (chainOf h j) else chainOf h j := by
  obtain ⟨d, hd, arrives⟩ := syncArrival_soon off h
  obtain ⟨g, hg⟩ : ∃ g : Hw, g = { h with
    draws := h.draws + 1
    raw := { h.raw with waits := h.raw.waits ++ [{
      pos := f.pos, instant := resetInstant h (h.power.elapsed + d + usTicks 40) 0, sync := false, late := false
      arrive := h.power.elapsed + d, at_ := 0 }] } } := ⟨_, rfl⟩
  obtain ⟨cs, folded, each⟩ := foldl_setChain (F := fun k => askStart k (h.power.elapsed + d) 0 (some f.pos))
    (fun g h same => by funext c; simp only [askStart, resetInstant, same])
    (nodup_maskedChains (fld (wordAt f.words 4) 3 8) standsStill h) (h := g)
    (fun n hn => by rw [hg]; exact eight ▸ (mem_maskedChains.1 hn).1)
  refine ⟨d, hd, g.draws, g.raw.waits, cs, ?_, ?_⟩
  · have idle : (List.range 8).filter (fun n => bitOf (fld (wordAt f.words 4) 3 8) n && !(chainOf h n).running &&
        (chainOf h n).resetAt.isNone) = maskedChains (fld (wordAt f.words 4) 3 8) standsStill h := by
      simp only [maskedChains, standsStill, Bool.and_assoc]
    have some := maskedChains_isEmpty hj
    rw [← idle] at folded some
    rw [hg] at folded ⊢
    refine Eq.trans ?_ folded
    simp only [startEffect, arrives, at0, Nat.add_sub_cancel_left]
    exact if_neg (Bool.eq_false_iff.1 some)
  · rw [hg] at each
    exact each

/-! ## STOP (R110) -/

/-- A chain that a STOP has reached. -/
def stopAsked (pos : Nat) (c : Chain) : Chain := { c with stopping := true, stopSlots := c.stopSlots ++ [pos] }

theorem stopEffect_stops {f : Fetched} {h : Hw} (eight : h.raw.chains.length = 8) {j : Nat}
    (hj : j ∈ maskedChains (fld (wordAt f.words 4) 3 8) (·.running) h) : ∃ cs,
      stopEffect f h = { h with raw := { h.raw with chains := cs } } ∧
      ∀ j, cs.getD j {} = if j ∈ maskedChains (fld (wordAt f.words 4) 3 8) (·.running) h then
        stopAsked f.pos (chainOf h j) else chainOf h j := by
  obtain ⟨cs, folded, each⟩ := foldl_setChain (F := fun _ => stopAsked f.pos) (fun _ _ _ => rfl)
    (nodup_maskedChains (fld (wordAt f.words 4) 3 8) (·.running) h) (h := h)
    (fun n hn => eight ▸ (mem_maskedChains.1 hn).1)
  exact ⟨cs, (if_neg (Bool.eq_false_iff.1 (maskedChains_isEmpty hj))).trans folded, each⟩

theorem stopEffect_done {f : Fetched} {h : Hw} (none : maskedChains (fld (wordAt f.words 4) 3 8) (·.running) h = []) :
    ∃ k draws, stopEffect f h =
      complete (f.record .done .none (syncResult k (runningMask h) 0)) { h with draws := draws } :=
  ⟨_, _, if_pos (List.isEmpty_iff.2 none)⟩

/-! ## SELECT (R123) -/

theorem selectEffect_still {f : Fetched} {h : Hw} (eight : h.raw.chains.length = 8)
    (still : (chainOf h (fld (wordAt f.words 4) 11 3)).running = false) : selectEffect f h =
      complete (f.record .done .none (syncResult 0 (runningMask h) 3))
        (setChain (fld (wordAt f.words 4) 11 3) (fun c => { c with selected := fld (wordAt f.words 4) 14 5 }) h) := by
  have among : fld (wordAt f.words 4) 11 3 < h.raw.chains.length := eight ▸ Nat.mod_lt _ (by decide)
  have mask := runningMask_setChain (f := fun c => { c with selected := fld (wordAt f.words 4) 14 5 }) among rfl
  simp only [selectEffect, still, Bool.false_eq_true, if_false, mask, doneWith]

/-! ## Each OP at work -/

section Acts

variable {c : Instr} {s : State} {slot : Slot} {f : Fetched} {op : Nat} {act : Fetched → Hw → Hw}

/-- A SYNC command that reports nothing. -/
theorem sync_silent {g : Hw} (he : exec c s = run (fun _ _ => act f g) s) (b : SyncStarted s g) {raw : Raw} {draws : Nat}
    (out : act f g = { g with draws := draws, raw := raw }) : Answers c s fun t => t.hw.raw = raw ∧ t.mem = s.mem ∧
      OnlyChanges (reporting ++ [Portion.slots, Portion.raw, Portion.power]) s t := by
  obtain ⟨writes, wipe, raised, records, posts, held⟩ := b.clear
  refine ⟨_, he.trans (run_clear out ⟨writes, wipe, raised, records, posts, held⟩ b.room), rfl, rfl, ?_,
    .inl (List.mem_cons_self ..), rfl⟩
  exact b.frame

/-- One that completes. -/
theorem sync_completes {g : Hw} {r : Record} (he : exec c s = run (fun _ _ => act f g) s) (b : SyncStarted s g) {raw : Raw}
    {draws : Nat} (out : act f g = complete r { g with draws := draws, raw := raw }) : Answers c s fun t =>
      t.hw.raw = raw ∧ Finishes s t r ∧
      OnlyChanges (reporting ++ [Portion.slots, Portion.raw, Portion.power]) s t := by
  obtain ⟨writes, wipe, raised, records, posts, held⟩ := b.clear
  obtain ⟨t, answer, raw, -, done, frame⟩ := run_completes he out ⟨writes, wipe, raised, records, posts, held⟩ b.room
    b.records b.image [.slots, .raw, .power] b.frame
  exact ⟨t, answer, raw, done, frame⟩

end Acts

theorem SyncStarted.chain {s : State} {g : Hw} (b : SyncStarted s g) (j : Nat) : chainOf g j = chainOf s.hw j :=
  congrArg (fun r : Raw => r.chains.getD j {}) b.raw

theorem SyncStarted.mask {s : State} {g : Hw} (b : SyncStarted s g) : runningMask g = runningMask s.hw :=
  runningMask_congr fun j => congrArg Chain.running (b.chain j)

theorem SyncStarted.masked {s : State} {g : Hw} (b : SyncStarted s g) (mask : Nat) (p : Chain → Bool) :
    maskedChains mask p g = maskedChains mask p s.hw := by
  simp only [maskedChains, b.chain]

section Ops

variable {s : State} {slot : Slot} {f : Fetched} (hs : RoomToReport s) (entry : s.hw.power.entry = none)
  (form : syncBadForm f.words = false) (allowed : rawAllowed s.hw = true) (off : bit (wordAt f.words 4) 19 = false)

include hs entry form allowed off

theorem syncSync_acts (ha : AcceptsOp s slot f kSync 0 3 0) : SyncStarted s (Slots.begun f s.hw) ∧
    exec (.syncSync slot) s = run (fun _ _ => syncEffect f (Slots.begun f s.hw)) s :=
  ⟨begun_syncStarted ha.1.1 hs entry, exec_sync_acts (runsSync_sync slot s) ha form allowed off
    (namesDisabled_other _ (by rw [ha.2]; decide) (by rw [ha.2]; decide)) (responseRefused_other _ (by rw [ha.2]; decide))⟩

theorem syncSync_waits (ha : AcceptsOp s slot f kSync 0 3 0) (runs : runningMask s.hw ≠ 0) :
    Answers (.syncSync slot) s fun t => (∃ x, t.hw.raw.waits = s.hw.raw.waits ++ [x] ∧ x.pos = f.pos ∧ x.sync = true ∧
      x.late = false ∧ s.hw.power.time ≤ x.instant ∧ x.instant ≤ s.hw.power.time + usTicks 50 + 8) ∧
      t.hw.raw.chains = s.hw.raw.chains ∧ t.mem = s.mem ∧
      OnlyChanges (reporting ++ [Portion.slots, Portion.raw, Portion.power]) s t := by
  obtain ⟨b, he⟩ := syncSync_acts hs entry form allowed off ha
  generalize Slots.begun f s.hw = g at b he
  obtain ⟨d, hd, out⟩ := syncEffect_waits off (at_zero_of_form form off) (b.mask.trans_ne runs)
  obtain ⟨t, answer, raw, mem, frame⟩ := sync_silent he b out
  obtain ⟨low, high⟩ := edgeFrom_bounds (s.hw.power.time + d)
  have instant : (syncWait f d g).instant = edgeFrom (s.hw.power.time + d) := by rw [syncWait, b.time]
  rw [b.raw] at raw
  refine ⟨t, answer, ⟨syncWait f d g, congrArg Raw.waits raw, rfl, rfl, rfl, ?_, ?_⟩, by rw [raw], mem, frame⟩
  · omega
  · omega

theorem syncSync_done (ha : AcceptsOp s slot f kSync 0 3 0) (none : runningMask s.hw = 0) :
    Answers (.syncSync slot) s fun t => t.hw.raw = s.hw.raw ∧
      (∃ k, Finishes s t (f.record .done .none (syncResult k 0 0))) ∧
      OnlyChanges (reporting ++ [Portion.slots, Portion.raw, Portion.power]) s t := by
  obtain ⟨b, he⟩ := syncSync_acts hs entry form allowed off ha
  generalize Slots.begun f s.hw = g at b he
  obtain ⟨k, draws, out⟩ := syncEffect_done off (b.mask.trans none)
  obtain ⟨t, answer, raw, done, frame⟩ := sync_completes (raw := g.raw) he b out
  exact ⟨t, answer, raw.trans b.raw, ⟨k, done⟩, frame⟩

theorem syncStart_waits (eight : s.hw.raw.chains.length = 8) (ha : AcceptsOp s slot f kSync 0 3 1)
    (enabled : ∀ j < 8, bitOf (fld (wordAt f.words 4) 3 8) j = true → (rawCfg s.hw j).enable = true)
    {j : Nat} (hj : j ∈ maskedChains (fld (wordAt f.words 4) 3 8) standsStill s.hw) :
    Answers (.syncStart slot) s fun t => (∃ d < usTicks 50, ∀ j, chainOf t.hw j =
        if j ∈ maskedChains (fld (wordAt f.words 4) 3 8) standsStill s.hw then
          { chainOf s.hw j with
            resetAt := some (edgeFrom (s.hw.power.time + d + usTicks 40)), resetSlot := some f.pos
            resetPower := s.hw.power.elapsed + d, resetReady := s.hw.power.elapsed + d + usTicks 40, resetFrom := 0 }
        else chainOf s.hw j) ∧ t.mem = s.mem ∧
      OnlyChanges (reporting ++ [Portion.slots, Portion.raw, Portion.power]) s t := by
  have b := begun_syncStarted ha.1.1 hs entry
  have he := exec_sync_acts (runsSync_start slot s) ha form allowed off (namesDisabled_enabledStart ha.2 enabled)
    (responseRefused_other _ (by rw [ha.2]; decide))
  generalize Slots.begun f s.hw = g at b he
  obtain ⟨d, hd, draws, waits, cs, out, each⟩ := startEffect_waits off (at_zero_of_form form off) (by rw [b.raw, eight])
    (by rw [b.masked]; exact hj)
  obtain ⟨t, answer, raw, mem, frame⟩ := sync_silent he b out
  refine ⟨t, answer, ⟨d, hd, fun i => ?_⟩, mem, frame⟩
  have chain : chainOf t.hw i = cs.getD i {} := congrArg (fun r : Raw => r.chains.getD i {}) raw
  rw [chain, each, b.masked, b.chain]
  split
  next still =>
    rw [askStart_standsStill g d (some f.pos) (mem_maskedChains.1 still).2.2, b.time, b.elapsed]
  · rfl

theorem syncStop_acts (ha : AcceptsOp s slot f kSync 0 3 2) : SyncStarted s (Slots.begun f s.hw) ∧
    exec (.syncStop slot) s = run (fun _ _ => stopEffect f (Slots.begun f s.hw)) s :=
  ⟨begun_syncStarted ha.1.1 hs entry, exec_sync_acts (runsSync_stop slot s) ha form allowed off
    (namesDisabled_other _ (by rw [ha.2]; decide) (by rw [ha.2]; decide)) (responseRefused_other _ (by rw [ha.2]; decide))⟩

theorem syncStop_stops (eight : s.hw.raw.chains.length = 8) (ha : AcceptsOp s slot f kSync 0 3 2) {j : Nat}
    (hj : j ∈ maskedChains (fld (wordAt f.words 4) 3 8) (·.running) s.hw) : Answers (.syncStop slot) s fun t =>
      (∀ j, chainOf t.hw j = if j ∈ maskedChains (fld (wordAt f.words 4) 3 8) (·.running) s.hw then
        stopAsked f.pos (chainOf s.hw j) else chainOf s.hw j) ∧ t.mem = s.mem ∧
      OnlyChanges (reporting ++ [Portion.slots, Portion.raw, Portion.power]) s t := by
  obtain ⟨b, he⟩ := syncStop_acts hs entry form allowed off ha
  generalize Slots.begun f s.hw = g at b he
  obtain ⟨cs, out, each⟩ := stopEffect_stops (by rw [b.raw, eight]) (by rw [b.masked]; exact hj)
  obtain ⟨t, answer, raw, mem, frame⟩ := sync_silent (draws := g.draws) he b out
  refine ⟨t, answer, fun i => ?_, mem, frame⟩
  have chain : chainOf t.hw i = cs.getD i {} := congrArg (fun r : Raw => r.chains.getD i {}) raw
  rw [chain, each, b.masked, b.chain]

theorem syncStop_done (ha : AcceptsOp s slot f kSync 0 3 2)
    (none : maskedChains (fld (wordAt f.words 4) 3 8) (·.running) s.hw = []) : Answers (.syncStop slot) s fun t =>
      t.hw.raw = s.hw.raw ∧ ∃ k, Finishes s t (f.record .done .none (syncResult k (runningMask s.hw) 0)) := by
  obtain ⟨b, he⟩ := syncStop_acts hs entry form allowed off ha
  generalize Slots.begun f s.hw = g at b he
  obtain ⟨k, draws, out⟩ := stopEffect_done (b.masked _ _ |>.trans none)
  obtain ⟨t, answer, raw, done, -⟩ := sync_completes (raw := g.raw) he b out
  rw [b.mask] at done
  exact ⟨t, answer, raw.trans b.raw, k, done⟩

theorem syncSelect_chooses (eight : s.hw.raw.chains.length = 8) (ha : AcceptsOp s slot f kSync 0 3 3)
    (enabled : (rawCfg s.hw (fld (wordAt f.words 4) 11 3)).enable = true) (chosen : responseRefused f s.hw = false)
    (still : (chainOf s.hw (fld (wordAt f.words 4) 11 3)).running = false) : Answers (.syncSelect slot) s fun t =>
      (∀ j, chainOf t.hw j = if j = fld (wordAt f.words 4) 11 3 then
        { chainOf s.hw (fld (wordAt f.words 4) 11 3) with selected := fld (wordAt f.words 4) 14 5 }
        else chainOf s.hw j) ∧
      Finishes s t (f.record .done .none (syncResult 0 (runningMask s.hw) 3)) ∧
      OnlyChanges (reporting ++ [Portion.slots, Portion.raw, Portion.power]) s t := by
  have b := begun_syncStarted ha.1.1 hs entry
  have he := exec_sync_acts (runsSync_select slot s) ha form allowed off (namesDisabled_enabledSelect ha.2 enabled) chosen
  generalize Slots.begun f s.hw = g at b he
  have among : fld (wordAt f.words 4) 11 3 < g.raw.chains.length := by
    rw [b.raw, eight]
    exact Nat.mod_lt _ (by decide)
  have out := selectEffect_still (f := f) (h := g) (by rw [b.raw, eight]) (by rw [b.chain, still])
  obtain ⟨t, answer, raw, done, frame⟩ := sync_completes (draws := g.draws) he b out
  rw [b.mask] at done
  refine ⟨t, answer, fun j => ?_, done, frame⟩
  have chain : chainOf t.hw j = chainOf (setChain _ _ g) j := congrArg (fun r : Raw => r.chains.getD j {}) raw
  rw [chain]
  split
  next here => rw [here, chainOf_setChain_same _ among, b.chain]
  next other => rw [chainOf_setChain_other _ _ other, b.chain]

end Ops

/-! ## The statement -/

/-- Settles O38: an OP that passes R122's checks acts by one of the lemmas above, and `syncChecked_begun` has the order in
which the checks refuse. -/
theorem syncSlotsActOrAreRefused : Obligations.SyncSlotsActOrAreRefused := by
  unfold Obligations.SyncSlotsActOrAreRefused
  constructor
  · intro s slot f hs entry form allowed off eight w mask n only
    refine ⟨fun ha => ⟨syncSync_waits hs entry form allowed off ha, syncSync_done hs entry form allowed off ha⟩,
      fun ha enabled ⟨j, hj, named, still⟩ => ?_, fun ha => ⟨fun ⟨j, hj, named, runs⟩ => ?_, fun noneRuns => ?_⟩,
      fun ha enabled chosen still => ?_⟩
    · obtain ⟨t, answer, ⟨d, hd, chain⟩, mem, frame⟩ := syncStart_waits hs entry form allowed off eight ha enabled
        (mem_maskedChains.2 ⟨hj, named, (standsStill_iff _).2 still⟩)
      refine ⟨t, answer, ⟨d, hd, fun i hi => ?_⟩, mem, frame⟩
      rw [chain]
      simp only [mem_maskedChains, standsStill_iff, hi, true_and]
      rfl
    · obtain ⟨t, answer, chain, mem, frame⟩ := syncStop_stops hs entry form allowed off eight ha
        (mem_maskedChains.2 ⟨hj, named, runs⟩)
      refine ⟨t, answer, fun i hi => ?_, mem, frame⟩
      rw [chain]
      simp only [mem_maskedChains, hi, true_and]
      rfl
    · refine syncStop_done hs entry form allowed off ha (List.eq_nil_iff_forall_not_mem.2 fun j hj => ?_)
      obtain ⟨low, named, runs⟩ := mem_maskedChains.1 hj
      exact absurd runs (Bool.eq_false_iff.1 (noneRuns j low named))
    · obtain ⟨t, answer, chain, done, frame⟩ := syncSelect_chooses hs entry form allowed off eight ha enabled
        (responseRefused_allowed chosen) still
      exact ⟨t, answer, fun j _ => chain j, done, frame⟩
  · intro s slot f hs entry w n cfg refused each
    refine ⟨fun bad => sync_refused_each hs entry fun act => ?_, fun form => ⟨fun rawOff =>
      sync_refused_each hs entry fun act => ?_, fun allowed => ⟨fun ha disabled => ?_, fun ha atEn far => ?_,
      fun ha disabled => ?_, fun ha enabled some denied => ?_⟩⟩⟩
    · rw [syncChecked_begun, if_pos bad]
    · rw [syncChecked_begun, form, rawOff]
      rfl
    · refine sync_refused (runsSync_start slot s) ha hs entry ?_
      rw [syncChecked_begun, form, allowed, (namesDisabled_iff f s.hw).2 (.inl ⟨ha.2, disabled⟩)]
      rfl
    · refine sync_refused (runsSync_sync slot s) ha hs entry ?_
      rw [syncChecked_begun, form, allowed, namesDisabled_other _ (by rw [ha.2]; decide) (by rw [ha.2]; decide), atTooFar,
        atEn, decide_eq_true far]
      rfl
    · refine sync_refused (runsSync_select slot s) ha hs entry ?_
      rw [syncChecked_begun, form, allowed, (namesDisabled_iff f s.hw).2 (.inr ⟨ha.2, disabled⟩)]
      rfl
    · refine sync_refused (runsSync_select slot s) ha hs entry ?_
      rw [syncChecked_begun, form, allowed, namesDisabled_enabledSelect ha.2 enabled, atTooFar,
        noAt_of_form form (.inr ha.2), responseRefused_denied ha.2 some denied]
      rfl

end Sys2Proof.Proofs

/-! PROOFS. The start of a calibration run, and its measurement beats (R128, R129, R134, R138 to R140). -/

namespace Sys2Proof.Proofs

open Sys2Proof Sys2Proof.Machine Sys2Proof.Laws

/-! ## CALIBRATE's checks in their order (R139) -/

/-- The slot names a channel that is OFF, or sets every SKIP bit and NO_STORE (R139). -/
def calFormWrong (f : Fetched) (h : Hw) : Bool :=
  (List.range 32).any (fun c => bitOf (wordAt f.words 4).toNat c && (channelCfg h c).mode == 0) ||
    fld (wordAt f.words 5) 0 5 == 31

/-- The slot skips the three passes. -/
def skipsAll (f : Fetched) : Bool := bit (wordAt f.words 5) 0 && bit (wordAt f.words 5) 1 && bit (wordAt f.words 5) 2

/-- The run that a slot asks for (R138). -/
def askedRun (f : Fetched) : CalRun :=
  { slot := f.pos, tag := f.tag, skipOffset := bit (wordAt f.words 5) 0, skipCentre := bit (wordAt f.words 5) 1
    skipGain := bit (wordAt f.words 5) 2, skipEqual := bit (wordAt f.words 5) 3, noStore := bit (wordAt f.words 5) 4
    damp := bit (wordAt f.words 5) 5 }

/-- The channels that a slot names. -/
def namedChannels (f : Fetched) (h : Hw) : List Nat := calChannels h (wordAt f.words 4).toNat

/-- The run of which the named channels are all skipped (R140). -/
def skippedRun (f : Fetched) (h : Hw) : CalRun := { askedRun f with skippedMask := maskOf (namedChannels f h) }

theorem calibrateEffect_eq (f : Fetched) (h : Hw) : calibrateEffect f h =
    if !h.senseFitted then refuse f .refusedState .senseOff h
    else if h.cal.run.isSome then refuse f .refusedState .calBusy h
    else if bitOf h.cal.stuck 32 then refuse f .refusedState .spareStuck h
    else if calFormWrong f h then refuse f .refusedFormat .none h
    else if skipsAll f then doneWith f (calResult (skippedRun f h) none) h
    else calNext (askedRun f) (namedChannels f h) h := rfl

/-- The checks look at nothing that the start of a slot changes. -/
theorem calibrateEffect_begun (f : Fetched) (h : Hw) : calibrateEffect f (Slots.begun f h) =
    if !h.senseFitted then refuse f .refusedState .senseOff (Slots.begun f h)
    else if h.cal.run.isSome then refuse f .refusedState .calBusy (Slots.begun f h)
    else if bitOf h.cal.stuck 32 then refuse f .refusedState .spareStuck (Slots.begun f h)
    else if calFormWrong f h then refuse f .refusedFormat .none (Slots.begun f h)
    else if skipsAll f then doneWith f (calResult (skippedRun f h) none) (Slots.begun f h)
    else calNext (askedRun f) (namedChannels f h) (Slots.begun f h) := by
  have fitted : (Slots.begun f h).senseFitted = h.senseFitted := by rw [Slots.begun_eq]; rfl
  have cal : (Slots.begun f h).cal = h.cal := by rw [Slots.begun_eq]
  have wrong : calFormWrong f (Slots.begun f h) = calFormWrong f h := by rw [Slots.begun_eq]; rfl
  have named : namedChannels f (Slots.begun f h) = namedChannels f h := by rw [Slots.begun_eq]; rfl
  rw [calibrateEffect_eq, fitted, cal, wrong, skippedRun, named]
  rfl

theorem calFormWrong_iff (f : Fetched) (h : Hw) : calFormWrong f h = true ↔
    (∃ c < 32, bitOf (wordAt f.words 4).toNat c = true ∧ (channelCfg h c).mode = 0) ∨
      fld (wordAt f.words 5) 0 5 = 31 := by
  simp only [calFormWrong, Bool.or_eq_true, List.any_eq_true, List.mem_range, Bool.and_eq_true, beq_iff_eq]

theorem skipsAll_iff (f : Fetched) : skipsAll f = true ↔
    bit (wordAt f.words 5) 0 = true ∧ bit (wordAt f.words 5) 1 = true ∧ bit (wordAt f.words 5) 2 = true := by
  simp only [skipsAll, Bool.and_eq_true, and_assoc]

/-- The RESULT of a run that has skipped its channels (R140). -/
theorem calResult_skippedRun (f : Fetched) (h : Hw) :
    calResult (skippedRun f h) none = [0, 0, 0, w32 (maskOf (namedChannels f h)), 0, 0, 0] := rfl

/-! ## NEXT (R134) -/

/-- Channels that are not LIVE are skipped, one by one, and the run ends. -/
theorem calNext_skips {cs : List Nat} {h : Hw} (dark : ∀ c ∈ cs, (h.drum.channels.getD c {}).state ≠ .live)
    (r : CalRun) : calNext r cs h = endRun { r with skippedMask := cs.foldl (fun m c => setBit m c true) r.skippedMask } h := by
  induction cs generalizing r with
  | nil => rfl
  | cons c cs ih =>
    have here : ((h.drum.channels.getD c {}).state == .live) = false :=
      beq_eq_false_iff_ne.2 (dark c (List.mem_cons_self ..))
    simp only [calNext, here, Bool.false_and, Bool.false_eq_true, if_false]
    exact ih (fun d hd => dark d (List.mem_cons_of_mem _ hd)) _

/-- The spare's trims as a turn begins. -/
def spareTrims (h : Hw) : Trims := h.cal.defaults.getD 32 nominalTrims

/-- A run whose turn is that of a channel. -/
def turnOf (c : Nat) (cs : List Nat) (h : Hw) (r : CalRun) : CalRun :=
  { r with rest := cs, channel := c, phase := .shadow, old := h.cal.loaded.getD c nominalTrims }

/-- A LIVE channel's turn starts on the spare. -/
theorem calNext_live {c : Nat} {h : Hw} (live : (h.drum.channels.getD c {}).state = .live)
    (good : bitOf h.cal.stuck c = false) (spare : bitOf h.cal.stuck 32 = false) (r : CalRun) (cs : List Nat) :
    calNext r (c :: cs) h = setRun (some (enterMeasure h (spareTrims h) (turnOf c cs h r)))
      { h with cal := { h.cal with loaded := modifyAt 32 (fun _ => spareTrims h) h.cal.loaded } } := by
  simp only [calNext, live, good, spare, beq_self_eq_true, Bool.not_false, Bool.and_self, if_true]
  rfl

theorem setRun_same {r : Option CalRun} {h : Hw} (run : h.cal.run = r) : setRun r h = h := by
  subst run
  rfl

/-! ## The CALIBRATE slot -/

/-- A slot that has started is owned, with its KIND and TAG. -/
theorem find?_begun {s : State} {slot : Slot} {f : Fetched} (hf : Fetches s slot f) : ∃ o : Owned,
    (Slots.begun f s.hw).sq.owned.find? (fun x => x.pos == f.pos) = some o ∧ o.kind = slotKind f.words ∧
      o.tag = wordAt f.words 1 := by
  obtain ⟨o, next, pos, -⟩ := nextSlot_of_fetches hf
  obtain ⟨x, hx⟩ : ∃ x, s.hw.sq.owned.find? (fun x => x.pos == f.pos) = some x := by
    refine Option.isSome_iff_exists.1 (List.find?_isSome.2 ⟨o, ?_, beq_iff_eq.2 pos⟩)
    unfold nextSlot at next
    split at next
    · exact List.mem_of_find?_eq_some next
    · cases next
  have here : x.pos = f.pos := by simpa using List.find?_some hx
  have same : (fun x : Owned => x.pos == f.pos) ∘ (fun x => if x.pos = f.pos then
      { x with started := true, kind := slotKind f.words, tag := wordAt f.words 1 } else x) = fun x => x.pos == f.pos := by
    funext x
    simp only [Function.comp]
    split
    · rfl
    · rfl
  refine ⟨{ x with started := true, kind := slotKind f.words, tag := wordAt f.words 1 }, ?_, rfl, rfl⟩
  rw [Slots.begun_eq]
  refine (List.find?_map ..).trans ?_
  rw [same, hx, Option.map_some, if_pos here]

section Calibrate

variable {s : State} {slot : Slot} {f : Fetched} (ha : Accepts s slot f kCalibrate)

include ha

/-- An accepted CALIBRATE slot is checked as it has started. -/
theorem exec_calibrate : exec (.calibrate slot) s = run (fun _ _ => calibrateEffect f (Slots.begun f s.hw)) s := by
  have mine : isKind kCalibrate f.words = true := beq_iff_eq.2 ha.2.1
  have out := Slots.withSlot_accepts ha (isKind kCalibrate) (fun _ f h => calibrateEffect f h) mine
  exact congrArg (fun g => Host.Outcome.next (commit s (Machine.finish g))) out

/-- One that completes as it starts changes nothing of calibration, and writes its record. -/
theorem calibrate_completes (hs : RoomToReport s) (entry : s.hw.power.entry = none) {st : Status} {d : Detail}
    {ws : List Word}
    (out : calibrateEffect f (Slots.begun f s.hw) = complete (f.record st d ws) (Slots.begun f s.hw)) :
    Answers (.calibrate slot) s fun t => t.hw.cal = s.hw.cal ∧ Finishes s t (f.record st d ws) ∧
      OnlyChanges (reporting ++ [Portion.slots, Portion.power]) s t := by
  obtain ⟨done, -, -, frame⟩ := begun_completes ha.1 hs entry (f.record st d ws)
  have answer := (exec_calibrate ha).trans (Run.run_answers _ s)
  rw [out] at answer
  refine ⟨_, answer, ?_, done, frame⟩
  rw [commit_finish_cal, Slots.begun_eq]
  rfl

/-- Where no named channel is LIVE the slot completes with all of them skipped (R134, R140). -/
theorem calNext_begun_skips (run : s.hw.cal.run = none)
    (dark : ∀ c ∈ namedChannels f s.hw, (s.hw.drum.channels.getD c {}).state ≠ .live) :
    calNext (askedRun f) (namedChannels f s.hw) (Slots.begun f s.hw) =
      complete (f.record .done .none (calResult (skippedRun f s.hw) none)) (Slots.begun f s.hw) := by
  obtain ⟨o, ho, kind, tag⟩ := find?_begun ha.1
  have drum : (Slots.begun f s.hw).drum = s.hw.drum := by rw [Slots.begun_eq]
  have idle : (Slots.begun f s.hw).cal.run = none := by rw [Slots.begun_eq]; exact run
  rw [calNext_skips (by rw [drum]; exact dark), endRun_unstored _ (.inl rfl), setRun_same idle]
  refine (completeOwned_owned ho .done .none (calResult (skippedRun f s.hw) none)).trans ?_
  rw [kind, tag]
  rfl

/-- A named channel that is LIVE starts its turn on the spare, which settles first (R134). -/
theorem calibrate_starts (hs : RoomToReport s) (entry : s.hw.power.entry = none) {c : Nat} {cs : List Nat}
    (live : (s.hw.drum.channels.getD c {}).state = .live) (good : bitOf s.hw.cal.stuck c = false)
    (spare : bitOf s.hw.cal.stuck 32 = false)
    (out : calibrateEffect f (Slots.begun f s.hw) = calNext (askedRun f) (c :: cs) (Slots.begun f s.hw)) :
    Answers (.calibrate slot) s fun t =>
      t.hw.cal.run = some (enterMeasure s.hw (spareTrims s.hw) (turnOf c cs s.hw (askedRun f))) ∧
      t.hw.drum = s.hw.drum ∧ t.mem = s.mem ∧
      OnlyChanges (reporting ++ [Portion.slots, Portion.power, Portion.cal]) s t := by
  obtain ⟨⟨writes, wipe, raised, records, posts, held⟩, room, -⟩ := begun_syncStarted ha.1 hs entry
  have answer := exec_calibrate ha
  have same := Slots.begun_eq f s.hw
  generalize Slots.begun f s.hw = g at *
  rw [calNext_live (by rw [same]; exact live) (by rw [same]; exact good) (by rw [same]; exact spare)] at out
  refine ⟨_, answer.trans (run_clear out ⟨writes, wipe, raised, records, posts, held⟩ room), ?_⟩
  subst same
  exact ⟨rfl, rfl, rfl, rfl, .inr rfl, rfl⟩

end Calibrate

/-! ## Measurement beats (R128, R129) -/

theorem exec_measurementBeat (x : MeasSample) (s : State) : exec (.measurementBeat x) s =
    .next (commit s (Machine.finish (measurementEffect x { s.hw with sent := [] }))) := rfl

/-- The ticks of a run's measurement beats. -/
abbrev beatOf (h : Hw) (r : CalRun) : Nat := measTicks (channelCfg h r.channel).vibration

/-- The elapsed tick of a run's next measurement boundary. -/
def measurementEl (h : Hw) (r : CalRun) : Nat := h.power.elapsed + (r.nextMeas - h.power.time)

theorem elapsed_le_measurementEl (h : Hw) (r : CalRun) : h.power.elapsed ≤ measurementEl h r := Nat.le_add_right ..

/-- In REVERT the channel's old codes are loaded at the boundary (R134). -/
theorem measurementEffect_revert {h : Hw} {r : CalRun} (run : h.cal.run = some r) (phase : r.phase = .revert)
    (x : MeasSample) : measurementEffect x h = { passUntil (measurementEl h r) h with
      cal := { h.cal with
        loaded := modifyAt r.channel (fun _ => r.old) h.cal.loaded
        run := some { r with nextMeas := r.nextMeas + beatOf h r } } } := by
  simp only [measurementEffect, run, if_pos phase, restoreOld, passUntil, pass_cal]
  rfl

/-- The run after a measurement beat that ends no window. -/
def beatEnded (x : MeasSample) (h : Hw) (r : CalRun) : CalRun :=
  { r with
    nextMeas := r.nextMeas + beatOf h r, step := false
    beats := if r.settled + beatOf h r ≤ measurementEl h r then r.beats ++ [measBeat h r x] else r.beats }

theorem phase_of_measuring {r : CalRun} (m : measuring r = true) : r.phase ≠ .revert := by
  rintro revert
  simp [measuring, revert] at m

/-- A unit that measures takes the beat into its open window where it had settled before the beat began. -/
theorem measurementEffect_measuring {h : Hw} {r : CalRun} (run : h.cal.run = some r) (m : measuring r = true)
    (sound : zeroRunOf h (calUnit r).1 < 3) (openWindow : r.beats.length < 15) (x : MeasSample) :
    measurementEffect x h =
      { passUntil (measurementEl h r) h with cal := { h.cal with run := some (beatEnded x h r) } } := by
  have cal : (passUntil (measurementEl h r) h).cal = h.cal := pass_cal ..
  have beat : measBeat (passUntil (measurementEl h r) h) r x = measBeat h r x := by
    simp only [measBeat, passUntil, pass_board]
  have goes : (measuring r && decide (zeroRunOf h (calUnit r).1 < 3)) = true := by
    rw [m, decide_eq_true sound, Bool.and_self]
  have short : (r.beats ++ [measBeat h r x]).length ≠ 16 := by
    rw [List.length_append, List.length_singleton]
    omega
  simp only [measurementEffect, run, if_neg (phase_of_measuring m), goes, if_true]
  rw [show h.power.elapsed + (r.nextMeas - h.power.time) = measurementEl h r from rfl, beat, cal]
  by_cases settled : r.settled + beatOf h r ≤ measurementEl h r
  · rw [if_pos settled, if_neg short, beatEnded, if_pos settled]
  · rw [if_neg settled, beatEnded, if_neg settled]

/-- A measurement beat brings time to its boundary and changes nothing but the run and the codes loaded. -/
theorem measurementBeat_keeps {s : State} {r : CalRun} {x : MeasSample} (on : s.hw.board.aonOn = true) {c : Cal}
    (out : measurementEffect x { s.hw with sent := [] } =
      { passUntil (measurementEl s.hw r) { s.hw with sent := [] } with cal := c }) :
    Answers (.measurementBeat x) s fun t => t.hw.cal = c ∧ t.hw.power.elapsed = measurementEl s.hw r ∧
      OnlyChanges (reporting ++ [Portion.cal, Portion.power]) s t := by
  refine ⟨_, exec_measurementBeat x s, ?_⟩
  dsimp only
  rw [commit_finish_cal, commit_finish_power, out,
    passUntil_eq (h := { s.hw with sent := [] }) on (elapsed_le_measurementEl s.hw r)]
  exact ⟨rfl, rfl, Slots.run_only [.cal, .power] s _ rfl⟩

/-! ## The statement -/

/-- Settles O39: CALIBRATE by its checks in their order, then the two uses of a measurement beat. -/
theorem calibrateMeasuresItsUnits : Obligations.CalibrateMeasuresItsUnits := by
  unfold Obligations.CalibrateMeasuresItsUnits
  constructor
  · intro s slot f ha hs entry mask w used named wrong refused
    have effect := calibrateEffect_begun f s.hw
    have form : ¬wrong → calFormWrong f s.hw = false := fun right =>
      Bool.eq_false_iff.2 fun bad => right ((calFormWrong_iff f s.hw).1 bad)
    refine ⟨fun unused => calibrate_completes ha hs entry ?_, fun fitted busy => calibrate_completes ha hs entry ?_,
      fun fitted run stuck => calibrate_completes ha hs entry ?_,
      fun fitted run spare bad => calibrate_completes ha hs entry ?_, fun fitted run spare right skips => ?_,
      fun c cs fitted run spare right notAll first live good => ?_⟩
    · rw [effect, Bool.eq_false_iff.2 unused]
      rfl
    · rw [effect, fitted, busy]
      rfl
    · rw [effect, fitted, run, stuck]
      rfl
    · rw [effect, fitted, run, spare, (calFormWrong_iff f s.hw).2 bad]
      rfl
    · have out : calibrateEffect f (Slots.begun f s.hw) =
          complete (f.record .done .none (calResult (skippedRun f s.hw) none)) (Slots.begun f s.hw) := by
        rw [effect, fitted, run, spare, form right]
        rcases skips with all | dark
        · rw [(skipsAll_iff f).2 all]
          rfl
        · rw [calNext_begun_skips ha run dark]
          exact ite_self _
      rw [calResult_skippedRun] at out
      exact calibrate_completes ha hs entry out
    · have first : namedChannels f s.hw = c :: cs := first
      rw [fitted, run, spare, form right, Bool.eq_false_iff.2 fun all => notAll ((skipsAll_iff f).1 all), first] at effect
      obtain ⟨t, answer, started, drum, mem, frame⟩ := calibrate_starts ha hs entry live good spare effect
      exact ⟨t, answer, ⟨_, started, rfl, rfl, rfl, rfl, rfl, rfl, rfl, rfl, rfl, rfl⟩, drum, mem, frame⟩
  · intro s x r run on _ cfg m el only
    refine ⟨fun goes sound openWindow => ?_, fun phase => ?_⟩
    · obtain ⟨t, answer, cal, elapsed, frame⟩ := measurementBeat_keeps on
        (measurementEffect_measuring (h := { s.hw with sent := [] }) run goes sound openWindow x)
      refine ⟨t, answer, ⟨beatEnded x s.hw r, congrArg Cal.run cal, rfl, rfl, rfl, rfl, rfl, fun early => ?_,
        fun settled => ?_⟩, elapsed, frame⟩
      · exact if_neg (Nat.not_le.2 early)
      · exact ⟨measBeat s.hw r x, if_pos settled, rfl, rfl, rfl⟩
    · obtain ⟨t, answer, cal, elapsed, frame⟩ := measurementBeat_keeps on
        (measurementEffect_revert (h := { s.hw with sent := [] }) run phase x)
      exact ⟨t, answer, congrArg Cal.loaded cal, congrArg Cal.run cal, elapsed, frame⟩

end Sys2Proof.Proofs

/-! PROOFS. A channel's turn in a calibration run: the takeover by the spare and the hand-back (R134, R135). -/

namespace Sys2Proof.Proofs

open Sys2Proof Sys2Proof.Machine Sys2Proof.Laws

/-! ## The end of settling (R128, R134) -/

theorem exec_calPhaseSettled (s : State) :
    exec .calPhaseSettled s = .next { s with hw := phaseSettledEffect { s.hw with sent := [] } } := rfl

/-- The run once the unit whose passes are done has settled. -/
def passesSettled (r : CalRun) : CalRun := { r with phase := if r.phase = .shadow then .takeoverWait else .handbackWait }

/-- A unit whose passes are done settles, and then waits for its boundary. -/
theorem phaseSettledEffect_finished {h : Hw} {r : CalRun} (run : h.cal.run = some r)
    (phase : r.phase = .shadow ∨ r.phase = .standin) (done : r.pass = .finished) :
    phaseSettledEffect h = setRun (some (passesSettled r)) (passUntil r.settled h) := by
  have turn : ((r.phase == .shadow || r.phase == .standin) && r.pass == .finished) = true := by
    simp only [Bool.and_eq_true, Bool.or_eq_true, beq_iff_eq]
    exact ⟨phase, done⟩
  simp only [phaseSettledEffect, run, turn, if_true]
  rfl

/-! ## The takeover (R134, R135) -/

theorem exec_calTakeover (s : State) :
    exec .calTakeover s = .next { s with hw := takeoverEffect { s.hw with sent := [] } } := rfl

theorem takeoverEffect_atBoundary {h : Hw} {r : CalRun} (run : h.cal.run = some r) (phase : r.phase = .takeoverWait)
    (boundary : atBoundary h r.channel = true) :
    takeoverEffect h = setRun (some (enterMeasure h r.old { r with phase := .standin }))
      { h with drum := { h.drum with spareFor := some r.channel } } := by
  simp only [takeoverEffect, run, phase, boundary, beq_self_eq_true, Bool.and_self, if_true]

/-- Away from the channel's boundary the takeover waits. -/
theorem takeoverEffect_elsewhere {h : Hw} {r : CalRun} (run : h.cal.run = some r)
    (away : atBoundary h r.channel = false) : takeoverEffect h = h := by
  simp only [takeoverEffect, run, away, Bool.and_false, Bool.false_eq_true, if_false]

/-! ## The hand-back (R134, R138, R144) -/

theorem exec_calHandback (s : State) :
    exec .calHandback s = .next (commit s (Machine.finish (handbackEffect { s.hw with sent := [] }))) := rfl

/-- The run with its channel counted as done. -/
def channelDone (r : CalRun) : CalRun := { r with doneMask := setBit r.doneMask r.channel true }

/-- Calibration with a channel's new trims in force. -/
def trimsInForce (r : CalRun) (quietValid : Nat) (quiet : List Int) (c : Cal) : Cal :=
  { c with
    loaded := modifyAt r.channel (fun _ => r.codes) c.loaded
    calDone := setBit c.calDone r.channel true
    quietValid := quietValid, quiet := quiet }

/-- The channel's own features resume, with its new trims. -/
def handedBack (r : CalRun) (quietValid : Nat) (quiet : List Int) (h : Hw) : Hw :=
  { h with
    cal := trimsInForce r quietValid quiet h.cal
    drum := { h.drum with trimmed := setBit h.drum.trimmed r.channel true } }

theorem handbackEffect_waiting {h : Hw} {r : CalRun} (run : h.cal.run = some r) (phase : r.phase = .handbackWait)
    (boundary : atBoundary h r.channel = true) : ∃ quietValid quiet, handbackEffect h =
      calNext (channelDone r) r.rest (releaseSpare false (if r.noStore then handedBack r quietValid quiet h
        else keepTrims r.channel r.codes (handedBack r quietValid quiet h))) := by
  unfold handbackEffect
  split
  next q same =>
    obtain rfl := Option.some.inj (run.symm.trans same)
    dsimp only
    rw [boundary, if_neg (by decide), if_pos phase]
    exact ⟨_, _, rfl⟩
  next noRun => exact absurd (run.symm.trans noRun) (by simp)

/-- The run of which nothing is left but its store (R145). -/
def awaitsStore (el : Nat) (r : CalRun) : CalRun := { r with phase := .store, rest := [], timer := el }

/-- A run with a channel done ends with its store, which is due now. -/
theorem endRun_stored {r : CalRun} (h : Hw) (counted : r.doneMask ≠ 0) (store : r.noStore = false) :
    endRun r h = setRun (some (awaitsStore h.power.elapsed r)) h := by
  simp only [endRun, store, bne_iff_ne.2 counted, Bool.not_false, Bool.and_self, if_true, awaitsStore]

theorem channelDone_doneMask (r : CalRun) : bitOf (channelDone r).doneMask r.channel = true := Sched.bitOf_setBit ..

/-- A mask with a bit is not zero. -/
theorem ne_zero_of_bitOf {n k : Nat} (set : bitOf n k = true) : n ≠ 0 := by
  rintro rfl
  simp [bitOf] at set

section Handback

variable {s : State} {r : CalRun} (run : s.hw.cal.run = some r) (phase : r.phase = .handbackWait)
  (boundary : atBoundary s.hw r.channel = true) (last : r.rest = [])

include run phase boundary last

/-- The last channel's new trims are in force and kept, and the store follows. -/
theorem calHandback_stores (hs : RoomToReport s) (store : r.noStore = false)
    (kept : r.channel < s.hw.cal.trims.length) (loaded : r.channel < s.hw.cal.loaded.length) :
    Answers .calHandback s fun t =>
      t.hw.cal.trims.getD r.channel {} = r.codes ∧ t.hw.cal.loaded.getD r.channel {} = r.codes ∧
      bitOf t.hw.cal.calDone r.channel = true ∧
      (∀ d, d ≠ r.channel → t.hw.cal.trims.getD d {} = s.hw.cal.trims.getD d {}) ∧
      t.hw.drum.spareFor = none ∧ bitOf t.hw.drum.trimmed r.channel = true ∧
      (∃ r', t.hw.cal.run = some r' ∧ r'.phase = .store ∧ bitOf r'.doneMask r.channel = true) ∧ t.mem = s.mem ∧
      OnlyChanges (reporting ++ [Portion.cal, Portion.drum]) s t := by
  obtain ⟨quietValid, quiet, out⟩ := handbackEffect_waiting (h := { s.hw with sent := [] }) run phase boundary
  rw [last, store, if_neg (by decide), calNext,
    endRun_stored _ (ne_zero_of_bitOf (channelDone_doneMask r)) (by exact store)] at out
  obtain ⟨writes, wipe, raised, records, posts, held⟩ := clear_of_nothingHeld hs.1
  have clear : Clear (handbackEffect { s.hw with sent := [] }) := by
    rw [out]
    exact ⟨writes, wipe, raised, records, posts, held⟩
  have room : (handbackEffect { s.hw with sent := [] }).sq.queue.length ≤ 64 := by
    rw [out]
    exact Nat.le_trans hs.2 (by decide)
  refine ⟨_, (exec_calHandback s).trans (run_clear (f := fun _ => handbackEffect) rfl clear room), ?_⟩
  dsimp only
  rw [out]
  exact ⟨getD_modifyAt_same _ _ kept, getD_modifyAt_same _ _ loaded, Sched.bitOf_setBit .., fun d ne =>
    getD_modifyAt_other _ _ _ ne, rfl, Sched.bitOf_setBit .., ⟨_, rfl, rfl, channelDone_doneMask r⟩, rfl, rfl,
    .inr rfl, rfl⟩

/-- Under NO_STORE the last channel's new trims are in force only, and the run ends (R138). -/
theorem calHandback_noStore (off : r.noStore = true) (loaded : r.channel < s.hw.cal.loaded.length) :
    Answers .calHandback s fun t =>
      t.hw.cal.trims = s.hw.cal.trims ∧ t.hw.cal.keptDone = s.hw.cal.keptDone ∧
      t.hw.cal.loaded.getD r.channel {} = r.codes ∧ t.hw.cal.run = none ∧
      OnlyChanges (reporting ++ [Portion.cal, Portion.drum]) s t := by
  obtain ⟨quietValid, quiet, out⟩ := handbackEffect_waiting (h := { s.hw with sent := [] }) run phase boundary
  rw [last, if_pos off, calNext, endRun_unstored _ (.inr (by exact off))] at out
  obtain ⟨records, ended⟩ := completeOwned_eq (channelDone r).slot .done .none (calResult (channelDone r) none)
    (setRun none (releaseSpare false (handedBack r quietValid quiet { s.hw with sent := [] })))
  refine ⟨_, exec_calHandback s, ?_⟩
  dsimp only
  rw [commit_finish_cal, out, ended]
  exact ⟨rfl, rfl, getD_modifyAt_same _ _ loaded, rfl, Slots.run_only [.cal, .drum] s _ rfl⟩

end Handback

/-! ## The statement -/

/-- Settles O41, clause by clause. -/
theorem turnsTakeOverAndHandBack : Obligations.TurnsTakeOverAndHandBack := by
  unfold Obligations.TurnsTakeOverAndHandBack
  intro s r run on
  refine ⟨fun done ahead phase => ?_, fun phase boundary => ?_, fun phase boundary hs last store kept loaded =>
    calHandback_stores run phase boundary last hs store kept loaded, fun phase boundary _ last off loaded =>
    calHandback_noStore run phase boundary last off loaded, fun away => ?_⟩
  · refine ⟨_, exec_calPhaseSettled s, ?_⟩
    dsimp only
    rw [phaseSettledEffect_finished (h := { s.hw with sent := [] }) run phase done,
      passUntil_eq (h := { s.hw with sent := [] }) on ahead]
    exact ⟨rfl, rfl, rfl, rfl, .inr rfl, rfl⟩
  · refine ⟨_, exec_calTakeover s, ?_⟩
    dsimp only
    rw [takeoverEffect_atBoundary (h := { s.hw with sent := [] }) run phase boundary]
    exact ⟨rfl, ⟨_, rfl, rfl, rfl, rfl, rfl, rfl⟩, rfl, rfl, .inr rfl, rfl⟩
  · rw [exec_calTakeover, takeoverEffect_elsewhere (h := { s.hw with sent := [] }) run away]

end Sys2Proof.Proofs

/-! PROOFS. The store of a calibration run's record (R142 to R146). -/

namespace Sys2Proof.Proofs

open Sys2Proof Sys2Proof.Machine Sys2Proof.Laws

/-! ## The flash at the end of a command -/

/-- The submission ring lies in device DRAM or in host memory (R28). -/
theorem ringSpace_ne_flash (h : Hw) : ringSpace h ≠ .flash := by
  unfold ringSpace
  split
  · decide
  · decide

/-- Writes to other spaces leave a space alone. -/
theorem applyWrites_of_other {sp : Space} {ws : List Write} (m : Mems) (other : ∀ w ∈ ws, w.space ≠ sp) :
    (applyWrites m ws).of sp = m.of sp := by
  induction ws generalizing m with
  | nil => rfl
  | cons w ws ih =>
    have rest := ih (applyWrite m w) fun v hv => other v (List.mem_cons_of_mem _ hv)
    exact rest.trans (Run.applyWrite_of_other m w sp (other w (List.mem_cons_self ..)).symm)

/-- Completion records leave the flash as a command's effect wrote it. -/
theorem flash_commit_finish (s : State) {h : Hw} (wipe : h.wipe = none) (posts : h.sq.posts = [])
    (held : h.sq.heldRecords = []) (wr : h.writesRecords = true ∨ h.records = [])
    (room : h.sq.queue.length + h.raised.length ≤ 64) :
    (commit s (Machine.finish h)).mem.of .flash = (applyWrites s.mem h.writes).of .flash := by
  obtain ⟨writes, -⟩ := Run.finish_plain h posts held wr room
  have mem : (commit s (Machine.finish h)).mem = applyWrites (applyWrites s.mem h.writes)
      (h.records.map fun r => ⟨ringSpace h, slotAddr h r.pos, wordsBytes ((stampLevel h r).words h.power.time)⟩) := by
    simp only [commit, Run.finish_wipe, wipe, wipeMems, writes, applyWrites, List.foldl_append]
  rw [mem]
  refine applyWrites_of_other _ fun w hw => ?_
  obtain ⟨r, -, rfl⟩ := List.mem_map.1 hw
  exact ringSpace_ne_flash h

/-! ## A sector of the flash -/

/-- Every write is to the sector of the flash at an address. -/
def InSector (a : Nat) (ws : List Write) : Prop :=
  ∀ w ∈ ws, w.space = .flash ∧ a ≤ w.addr ∧ w.addr + w.bytes.length ≤ a + 4096

theorem inSector_nil (a : Nat) : InSector a [] := fun _ hw => absurd hw (List.not_mem_nil)

/-- A further write from the sector's start. -/
theorem inSector_append {a : Nat} {ws : List Write} (sector : InSector a ws) {bs : List Byte}
    (fits : bs.length ≤ 4096) : InSector a (ws ++ [⟨.flash, a, bs⟩]) := by
  intro w hw
  rcases List.mem_append.1 hw with hw | hw
  · exact sector w hw
  · obtain rfl := List.mem_singleton.1 hw
    exact ⟨rfl, Nat.le_refl _, Nat.add_le_add_left fits a⟩

/-- An erase of the sector, or of a part from its start. -/
theorem inSector_erase {a n : Nat} {ws : List Write} (sector : InSector a ws) (hn : n ≤ 4096) :
    InSector a (ws ++ [⟨.flash, a, List.replicate n 0xFF⟩]) :=
  inSector_append sector (Nat.le_trans (Nat.le_of_eq (List.length_replicate ..)) hn)

/-- A store changes one sector of the flash and calibration, and reports. -/
def StoresIn (a : Nat) (s t : State) : Prop :=
  (∀ b, b < a ∨ a + 4096 ≤ b → byteAt t .flash b = byteAt s .flash b) ∧
    OnlyChanges (reporting ++ [Portion.cal]) s t

/-- The flash of a state after writes to one sector is as before outside it. -/
theorem byteAt_outside_sector {s t : State} {a : Nat} {ws : List Write} (sector : InSector a ws)
    (flash : t.mem.of .flash = (applyWrites s.mem ws).of .flash) {b : Nat} (out : b < a ∨ a + 4096 ≤ b) :
    byteAt t .flash b = byteAt s .flash b := by
  rw [byteAt, flash]
  refine Run.read_outside _ _ _ _ fun w hw _ => ?_
  obtain ⟨-, low, high⟩ := sector w hw
  omega

/-- The bytes that were written last to the flash read back. -/
theorem bytesAt_last {s t : State} {a : Nat} {ws : List Write} {bs : List Byte}
    (flash : t.mem.of .flash = (applyWrites s.mem (ws ++ [⟨.flash, a, bs⟩])).of .flash) :
    bytesAt t .flash a bs.length = bs := by
  rw [bytesAt, flash]
  exact Run.read_last s.mem ws ⟨.flash, a, bs⟩

/-! ## The lengths of records -/

theorem trimWords_length (t : Trims) (quiet : Int) : (trimWords t quiet).length = 9 := by
  simp only [trimWords, List.length_cons, List.length_map, List.length_range]

theorem calRecord_length (h : Hw) (seq : Nat) : (calRecord h seq).length = 1188 := by
  have body : ((List.range 32).flatMap fun c =>
      trimWords (h.cal.loaded.getD c nominalTrims) (h.cal.quiet.getD c 0)).length = 288 := by
    simp only [List.length_flatMap, trimWords_length, List.map_const', List.length_range, List.sum_replicate]
    rfl
  simp only [calRecord, List.length_append, Run.wordsBytes_length, body, List.length_cons, List.length_nil]

/-- Free bytes are as many as asked for, and only draw values. -/
theorem freeBytes_eq (n : Nat) (h : Hw) : ∃ bs draws, freeBytes n h = (bs, { h with draws := draws }) ∧
    bs.length = n := by
  induction n generalizing h with
  | zero => exact ⟨[], h.draws, rfl, rfl⟩
  | succ n ih =>
    obtain ⟨bs, draws, rest, length⟩ := ih { h with draws := h.draws + 1 }
    refine ⟨BitVec.ofNat 8 (Config.freeNat h.draws) :: bs, draws, ?_, congrArg (· + 1) length⟩
    simp only [freeBytes, drawNat, rest]

/-! ## CAL_STORE (R145) -/

/-- The area that is programmed: the one that does not hold the newest intact record. -/
def storeTarget (newest : Option (Nat × Nat)) : Nat := match newest with
  | some (0, _) => calBBase
  | _ => calABase

/-- The SEQ of the new record. -/
def storeSeq (newest : Option (Nat × Nat)) : Nat := match newest with
  | some (_, n) => (n + 1) % 2 ^ 32
  | none => 0

/-- The newest intact record of the two areas. -/
def newestArea (m : Mems) (h : Hw) : Option (Nat × Nat) :=
  newestIntact (flashRead m h calABase 1188) (flashRead m h calBBase 1188)

/-- The hardware once an area is programmed, the count of free values and the events being given. -/
def programmed (a : Nat) (bs : List Byte) (draws : Nat) (raised : List Raised) (h : Hw) : Hw :=
  { flashProgram a bs h with draws := draws, raised := raised }

/-- The hardware after a store that was not cut short: the run is over, the area erased and programmed. -/
def storeDone (a : Nat) (bs : List Byte) (draws : Nat) (raised : List Raised) (h : Hw) : Hw :=
  programmed a bs draws raised (setRun none (flashErase a 4096 h))

/-- An area programmed over bytes of any kind, so that no proof unrolls the 4,096 of an erase. -/
theorem programmed_put_eq (a : Nat) (old bs : List Byte) (draws : Nat) (raised : List Raised) (h : Hw) : ∃ bad written,
    programmed a bs draws raised (setRun none (put .flash a old h)) = { h with
      cal := { h.cal with run := none }
      writes := h.writes ++ [⟨.flash, a, old⟩] ++ [⟨.flash, a, bs⟩]
      health := { h.health with badUnits := bad, written := written }
      draws := draws, raised := raised } := ⟨_, _, rfl⟩

theorem storeDone_eq (a : Nat) (bs : List Byte) (draws : Nat) (raised : List Raised) (h : Hw) : ∃ bad written,
    storeDone a bs draws raised h = { h with
      cal := { h.cal with run := none }
      writes := h.writes ++ [⟨.flash, a, List.replicate 4096 0xFF⟩] ++ [⟨.flash, a, bs⟩]
      health := { h.health with badUnits := bad, written := written }
      draws := draws, raised := raised } := programmed_put_eq a (List.replicate 4096 0xFF) bs draws raised h

/-- The end of a store whose bytes, drawn from free values, failed both comparisons. -/
def storeFailed (r : CalRun) (a : Nat) (p : List Byte × Hw) : Hw :=
  completeOwned r.slot .done .none (calResult r none)
    (raiseCal .calStoreFail ((drawNat p.2).1 % 33) 2 ((drawNat (drawNat p.2).2).1 % 9)
      (flashProgram a p.1 (drawNat (drawNat p.2).2).2))

theorem storeFailed_eq (r : CalRun) (a : Nat) (bs : List Byte) (draws : Nat) (h : Hw) : ∃ e : Event,
    e.status = .eventCal ∧ e.detail = .calStoreFail ∧ storeFailed r a (bs, { h with draws := draws }) =
      completeOwned r.slot .done .none (calResult r none)
        (programmed a bs (draws + 2) (h.raised ++ [{ event := some e }]) h) := ⟨_, rfl, rfl, rfl⟩

section Effect

variable {h : Hw} {r : CalRun} (run : h.cal.run = some r) (phase : r.phase = .store) (turn : loaderTurn r.timer h = true)
  (m : Mems)

include run phase turn

theorem calStoreEffect_verified {v1 v2 : Bool} (good : v1 = true ∨ v2 = true) :
    calStoreEffect v1 v2 none m h =
      completeOwned r.slot .done .none (calResult r (some (storeSeq (newestArea m h))))
        (storeDone (storeTarget (newestArea m h)) (calRecord h (storeSeq (newestArea m h))) h.draws h.raised h) := by
  have verified : (v1 || v2) = true := Bool.or_eq_true_iff.2 good
  simp only [calStoreEffect, run, phase, turn, verified, decide_true, Bool.and_self, if_true]
  rfl

/-- A record that fails both comparisons holds free bytes, and is reported. -/
theorem calStoreEffect_failed : ∃ bs draws, ∃ e : Event, bs.length = 1188 ∧ e.status = .eventCal ∧
    e.detail = .calStoreFail ∧ calStoreEffect false false none m h = completeOwned r.slot .done .none (calResult r none)
      (storeDone (storeTarget (newestArea m h)) bs draws (h.raised ++ [{ event := some e }]) h) := by
  choose bytes draws free length using freeBytes_eq 1188
  obtain ⟨g, hg⟩ : ∃ g, g = setRun none (flashErase (storeTarget (newestArea m h)) 4096 h) := ⟨_, rfl⟩
  have failed : calStoreEffect false false none m h =
      storeFailed r (storeTarget (newestArea m h)) (bytes g, { g with draws := draws g }) := by
    simp only [calStoreEffect, run, phase, turn, free, decide_true, Bool.and_self, if_true, Bool.or_self,
      Bool.false_eq_true, if_false]
    rw [hg]
    rfl
  obtain ⟨e, status, detail, ended⟩ := storeFailed_eq r (storeTarget (newestArea m h)) (bytes g) (draws g) g
  rw [hg] at failed ended
  exact ⟨_, _, e, length _, status, detail, failed.trans ended⟩

theorem calStoreEffect_cut (v1 v2 : Bool) (x : StoreCut) : calStoreEffect v1 v2 (some x) m h =
    storeCut x (storeTarget (newestArea m h)) (calRecord h (storeSeq (newestArea m h))) h := by
  simp only [calStoreEffect, run, phase, turn, decide_true, Bool.and_self, if_true]
  rfl

end Effect

/-- A store that is cut short has written to its sector alone (R146). -/
theorem storeCut_eq (x : StoreCut) {a : Nat} {bs : List Byte} (fits : bs.length ≤ 4096) {h : Hw}
    (sector : InSector a h.writes) : ∃ ws bad written, storeCut x a bs h =
      { h with writes := ws, health := { h.health with badUnits := bad, written := written } } ∧ InSector a ws := by
  cases x with
  | erase n => exact ⟨_, _, _, rfl, inSector_erase sector (Nat.min_le_left ..)⟩
  | program n =>
    have short : (bs.take (min n 1184)).length ≤ 4096 := Nat.le_trans (List.length_take_le _ _)
      (Nat.le_trans (Nat.min_le_right ..) (by decide))
    exact ⟨_, _, _, rfl, inSector_append (inSector_erase sector (Nat.le_refl _)) short⟩
  | compare => exact ⟨_, _, _, rfl, inSector_append (inSector_erase sector (Nat.le_refl _)) fits⟩

/-! ## The end of a store -/

theorem exec_calStore (v1 v2 : Bool) (cut : Option StoreCut) (s : State) : exec (.calStore v1 v2 cut) s =
    .next (commit s (Machine.finish (calStoreEffect v1 v2 cut s.mem { s.hw with sent := [] }))) := rfl

section Ends

variable {s : State} (hs : RoomToReport s)

include hs

/-- A store that has ended completes its slot; its bytes stand in the sector, and the rest of the flash is as before. -/
theorem commit_storeDone (wr : s.hw.writesRecords = true) (a draws : Nat) {bs : List Byte} (fits : bs.length ≤ 4096)
    {raised : List Raised} (few : raised.length ≤ 1) (r : Record) :
    let t := commit s (Machine.finish (complete r (storeDone a bs draws raised { s.hw with sent := [] })))
    t.hw.cal = { s.hw.cal with run := none } ∧ bytesAt t .flash a bs.length = bs ∧ StoresIn a s t ∧ Completes t r ∧
      ∀ e : Event, { event := some e } ∈ raised → Reports t e.status e.detail := by
  obtain ⟨⟨⟨writes, wipe, -, records⟩, posts, held⟩, queue⟩ := hs
  obtain ⟨bad, units, done⟩ := storeDone_eq a bs draws raised { s.hw with sent := [] }
  obtain ⟨g, hg⟩ : ∃ g, g = complete r (storeDone a bs draws raised { s.hw with sent := [] }) := ⟨_, rfl⟩
  rw [← hg]
  rw [done] at hg
  have room : g.sq.queue.length + g.raised.length ≤ 64 := by
    have queueSame : g.sq.queue = s.hw.sq.queue := by rw [hg]; rfl
    have raisedSame : g.raised = raised := by rw [hg]; rfl
    rw [queueSame, raisedSame]
    omega
  have wr : g.writesRecords = true := by rw [hg]; exact wr
  have posts : g.sq.posts = [] := by rw [hg]; exact posts
  have held : g.sq.heldRecords = [] := by rw [hg]; exact held
  have one : g.records = [r] := by rw [hg]; exact congrArg (· ++ [r]) records
  have written : g.writes = s.hw.writes ++ [⟨.flash, a, List.replicate 4096 0xFF⟩] ++ [⟨.flash, a, bs⟩] := by
    rw [hg]; rfl
  have flash := flash_commit_finish s (h := g) (by rw [hg]; exact wipe) posts held (.inl wr) room
  have sector : InSector a g.writes := by
    rw [written, writes]
    exact inSector_append (inSector_erase (inSector_nil a) (Nat.le_refl _)) fits
  refine ⟨?_, ?_, ⟨fun b out => byteAt_outside_sector sector flash out, ?_⟩,
    Run.commit_completes s g r one posts held wr room, fun e among => ?_⟩
  · rw [commit_finish_cal, hg]
    rfl
  · rw [written] at flash
    exact bytesAt_last flash
  · refine Slots.run_only [.cal] s g ?_
    rw [hg]
    rfl
  · exact Run.commit_reports s g _ e (by rw [hg]; exact among) rfl posts held (.inl wr) room

/-- One that was cut short leaves the run in it. -/
theorem commit_storeCut (x : StoreCut) (a : Nat) {bs : List Byte} (fits : bs.length ≤ 4096) :
    let t := commit s (Machine.finish (storeCut x a bs { s.hw with sent := [] }))
    t.hw.cal = s.hw.cal ∧ StoresIn a s t := by
  obtain ⟨⟨⟨writes, wipe, raised, records⟩, posts, held⟩, queue⟩ := hs
  obtain ⟨ws, bad, written, cut, sector⟩ := storeCut_eq x fits (h := { s.hw with sent := [] })
    (by rw [writes]; exact inSector_nil a)
  dsimp only
  rw [cut]
  have flash := flash_commit_finish s (h := { s.hw with
    sent := [], writes := ws, health := { s.hw.health with badUnits := bad, written := written } })
    wipe posts held (.inr records) (by rw [raised]; exact Nat.le_trans queue (by decide))
  exact ⟨by rw [commit_finish_cal], fun b out => byteAt_outside_sector sector flash out, Slots.run_only [.cal] s _ rfl⟩

end Ends

/-! ## The statement -/

/-- Settles O42: a store that was verified, one that failed, and one that was cut short. -/
theorem calibrationIsStored : Obligations.CalibrationIsStored := by
  unfold Obligations.CalibrationIsStored
  intro s r o v1 v2 run phase turn hs _ wr ho newest target seq apart
  have owned (bs : List Byte) (draws : Nat) (raised : List Raised) (stored : Option Nat) :=
    completeOwned_owned (h := storeDone target bs draws raised { s.hw with sent := [] }) ho .done .none
      (calResult r stored)
  have quiet : s.hw.raised = [] := (clear_of_nothingHeld hs.1).raised
  have fits : (calRecord s.hw seq).length ≤ 4096 := Nat.le_trans (Nat.le_of_eq (calRecord_length ..)) (by decide)
  refine ⟨fun good => ?_, ?_, fun cut => ?_⟩
  · have out := (calStoreEffect_verified (h := { s.hw with sent := [] }) run phase turn s.mem good).trans (owned ..)
    obtain ⟨cal, bytes, sector, done, -⟩ := commit_storeDone hs wr target s.hw.draws fits (raised := s.hw.raised)
      (by rw [quiet]; decide)
      { pos := r.slot, kind := o.kind, status := .done, tag := o.tag, result := calResult r (some seq) }
    rw [calRecord_length] at bytes
    refine ⟨_, (exec_calStore v1 v2 none s).trans ?_, cal, bytes, sector, done⟩
    rw [out]
    rfl
  · obtain ⟨bs, draws, e, length, status, detail, out⟩ :=
      calStoreEffect_failed (h := { s.hw with sent := [] }) run phase turn s.mem
    obtain ⟨cal, -, sector, done, reports⟩ := commit_storeDone hs wr target draws (bs := bs)
      (Nat.le_trans (Nat.le_of_eq length) (by decide)) (raised := s.hw.raised ++ [{ event := some e }])
      (by rw [quiet]; exact Nat.le_refl 1)
      { pos := r.slot, kind := o.kind, status := .done, tag := o.tag, result := calResult r none }
    have reported := reports e (List.mem_append_right _ (List.mem_singleton_self _))
    rw [status, detail] at reported
    refine ⟨_, (exec_calStore false false none s).trans ?_, cal, reported, sector, done⟩
    rw [out.trans (owned ..)]
  · refine ⟨_, (exec_calStore v1 v2 (some cut) s).trans ?_, commit_storeCut hs cut target fits⟩
    rw [calStoreEffect_cut (h := { s.hw with sent := [] }) run phase turn]
    rfl

end Sys2Proof.Proofs

/-! PROOFS. The scores of a due Bell beat (R154, R155, R328). -/

namespace Sys2Proof.Proofs

open Sys2Proof Sys2Proof.Machine Sys2Proof.Laws

/-! ## What a command reports, whatever it completes (R38) -/

/-- What completing slots leaves alone of what is reported. -/
def reported (h : Hw) : List Post × List Event × List Raised := (h.sq.posts, h.sq.queue, h.raised)

theorem reported_completeNow (r : Record) (h : Hw) : reported (completeNow r h) = reported h := by
  unfold completeNow
  split
  · rfl
  · rfl

theorem reported_foldl_completeNow (rs : List Record) (h : Hw) :
    reported (rs.foldl (fun h r => completeNow r h) h) = reported h := by
  induction rs generalizing h with
  | nil => rfl
  | cons r rs ih => exact (ih _).trans (reported_completeNow r h)

/-- An event that waits is the one raised; where it has a log entry, its words may carry that entry's number (R423). -/
def StandsFor (r : Raised) (e x : Event) : Prop := x.status = e.status ∧ x.detail = e.detail ∧ (r.entry = none → x = e)

theorem deliverEvent_waits {h : Hw} (e : Event) (posts : h.sq.posts = []) (room : h.sq.queue.length < 64) :
    (deliverEvent e h).sq = { h.sq with queue := h.sq.queue ++ [e] } := by
  simp only [deliverEvent, posts, List.find?_nil, enqueue, room, if_true, ite_self]

/-- Delivery adds at most one event to the queue, which stands for the one raised. -/
theorem deliver_waits {h : Hw} (r : Raised) (posts : h.sq.posts = []) (room : h.sq.queue.length < 64) :
    ∃ xs, (deliver h r).sq = { h.sq with queue := h.sq.queue ++ xs } ∧ xs.length ≤ 1 ∧
      ∀ e, r.event = some e → ∃ x ∈ xs, StandsFor r e x := by
  obtain ⟨event, entry⟩ := r
  cases entry with
  | none =>
    cases event with
    | none => exact ⟨[], by simp [deliver], by simp, fun e he => nomatch he⟩
    | some e =>
      refine ⟨[e], deliverEvent_waits e posts room, by simp, fun e' he => ⟨e, by simp, ?_⟩⟩
      cases he
      exact ⟨rfl, rfl, fun _ => rfl⟩
  | some q =>
    have log := Run.logAdd_sq q h
    cases event with
    | none => exact ⟨[], by simpa [deliver] using log, by simp, fun e he => nomatch he⟩
    | some e =>
      have sq := (Run.stampSeq_sq e (logAdd q h).2 (logAdd q h).1).trans log
      obtain ⟨status, detail⟩ := Run.stampSeq_event e (logAdd q h).2 (logAdd q h).1
      refine ⟨[(stampSeq e (logAdd q h).2 (logAdd q h).1).1], ?_, by simp,
        fun e' he => ⟨_, List.mem_singleton_self _, ?_⟩⟩
      · have waits := deliverEvent_waits (stampSeq e (logAdd q h).2 (logAdd q h).1).1
          (by rw [sq]; exact posts) (by rw [sq]; exact room)
        rw [sq] at waits
        exact waits
      · cases he
        exact ⟨status, detail, fun noEntry => nomatch noEntry⟩

theorem foldl_deliver_waits (rs : List Raised) {h : Hw} (posts : h.sq.posts = [])
    (room : h.sq.queue.length + rs.length ≤ 64) :
    ∃ xs, (rs.foldl deliver h).sq = { h.sq with queue := h.sq.queue ++ xs } ∧
      ∀ r ∈ rs, ∀ e, r.event = some e → ∃ x ∈ xs, StandsFor r e x := by
  induction rs generalizing h with
  | nil => exact ⟨[], by simp, fun r hr => nomatch hr⟩
  | cons r rs ih =>
    rw [List.length_cons] at room
    obtain ⟨one, sq, short, stands⟩ := deliver_waits r posts (by omega)
    obtain ⟨more, sqs, rest⟩ := ih (h := deliver h r) (by rw [sq]; exact posts)
      (by rw [sq, List.length_append]; omega)
    refine ⟨one ++ more, by rw [List.foldl_cons, sqs, sq, List.append_assoc], fun r' hr e he => ?_⟩
    rcases List.mem_cons.1 hr with rfl | later
    · obtain ⟨x, hx, is⟩ := stands e he
      exact ⟨x, List.mem_append_left _ hx, is⟩
    · obtain ⟨x, hx, is⟩ := rest r' later e he
      exact ⟨x, List.mem_append_right _ hx, is⟩

/-- Where nothing is held and there is room, each event that a command raises waits in the queue when it has ended. -/
theorem finish_queues {h : Hw} (posts : h.sq.posts = []) (held : h.sq.heldRecords = [])
    (room : h.sq.queue.length + h.raised.length ≤ 64) {r : Raised} (hr : r ∈ h.raised) {e : Event} (he : r.event = some e) :
    ∃ x ∈ (Machine.finish h).sq.queue, StandsFor r e x := by
  have kept := reported_foldl_completeNow h.records { h with records := [] }
  simp only [reported, Prod.mk.injEq] at kept
  obtain ⟨kposts, kqueue, kraised⟩ := kept
  simp only [Machine.finish, Run.flushHeld_nil h held]
  rw [kqueue, kraised, Run.releasePosts_queue]
  obtain ⟨xs, sq, stands⟩ := foldl_deliver_waits (h.sq.queue.map (fun e => ({ event := some e } : Raised)) ++ h.raised)
    (h := { h.records.foldl (fun h r => completeNow r h) { h with records := [] } with
      raised := [], sq := { (h.records.foldl (fun h r => completeNow r h) { h with records := [] }).sq with queue := [] } })
    (kposts.trans posts) (by simpa using room)
  obtain ⟨x, hx, is⟩ := stands r (List.mem_append_right _ hr) e he
  refine ⟨x, ?_, is⟩
  rw [sq]
  exact List.mem_append_right _ hx

/-- What an effect raises is reported, whether or not its records can be written. -/
theorem reports_of_raised (s : State) {h : Hw} {st : Status} {d : Detail} (hr : Raises h st d) (posts : h.sq.posts = [])
    (held : h.sq.heldRecords = []) (room : h.sq.queue.length + h.raised.length ≤ 64) :
    Reports (commit s (Machine.finish h)) st d := by
  obtain ⟨r, mem, e, he, rfl, rfl⟩ := hr
  obtain ⟨x, hx, status, detail, -⟩ := finish_queues posts held room mem he
  exact ⟨x, hx, status, detail⟩

/-! ## A fire in a device that is awake (R155, R164) -/

/-- The device is awake outside excursions, entries, wakes and a stay at T1, so that a fire is only reported. -/
structure OnWatch (h : Hw) : Prop where
  up : h.up = true
  noWakes : h.power.wakes = []
  noEntry : h.power.entry = none
  noExcursion : h.cascade.exc = none
  noT1 : ∀ p, h.cascade.stay ≠ some (1, p)

theorem fireAny_onWatch {h : Hw} (w : OnWatch h) (env : WakeEnv) (m : Mems) (beat : Nat) (scores : List Nat) (k : Nat) :
    fireAny env m beat scores h k = reportFire h.power.dev (bellFire h beat scores k) h := by
  obtain ⟨up, noWakes, noEntry, noExcursion, noT1⟩ := w
  simp only [fireAny, not_asleep_of_up up, noWakes, List.isEmpty_nil, Bool.not_true, Bool.false_eq_true, if_false,
    fireAwake, noExcursion, noEntry, up, if_true]

/-- FIRED of a wake report is the class that fired (R164). -/
theorem fld_fired (source tier verdict latched beat time k : Nat) (substituted : Bool) (prior : DevState)
    (scores : List Nat) (hk : k < 16) :
    fld (wordAt (wakeWords source tier verdict substituted prior (2 ^ k) latched beat time scores) 1) 0 16 = 2 ^ k := by
  have small : 2 ^ k < 65536 := Nat.pow_lt_pow_right (by decide) hk
  have word : wordAt (wakeWords source tier verdict substituted prior (2 ^ k) latched beat time scores) 1 =
      w32 (2 ^ k % 65536 + 65536 * latched) := rfl
  rw [word]
  simp only [fld, bitsOf, w32, BitVec.toNat_ofNat]
  generalize 2 ^ k = fired at small ⊢
  omega

/-- A raised report is that of class k alone. -/
def FiresAlone (k : Nat) (r : Raised) : Prop :=
  ∃ e, r = { event := some e } ∧ e.status = .eventWake ∧ e.detail = .bellFire ∧ fld (wordAt e.result 1) 0 16 = 2 ^ k

/-- The classes that fire are reported in turn, and nothing but LATCHED changes. -/
theorem foldl_fireAny_onWatch {h : Hw} (w : OnWatch h) (env : WakeEnv) (m : Mems) (beat : Nat) (scores : List Nat)
    (ks : List Nat) (small : ∀ k ∈ ks, k < 16) : ∃ latched rs, ks.foldl (fireAny env m beat scores) h =
      { h with bell := { h.bell with latched := latched }, raised := h.raised ++ rs } ∧ rs.length = ks.length ∧
        ∀ k ∈ ks, ∃ r ∈ rs, FiresAlone k r := by
  induction ks generalizing h with
  | nil => exact ⟨h.bell.latched, [], by simp, rfl, fun k hk => nomatch hk⟩
  | cons k ks ih =>
    rw [List.foldl_cons, fireAny_onWatch w]
    obtain ⟨r, one, alone⟩ : ∃ r, reportFire h.power.dev (bellFire h beat scores k) h =
        { h with bell := { h.bell with latched := 0 }, raised := h.raised ++ [r] } ∧ FiresAlone k r :=
      ⟨_, rfl, _, rfl, rfl, rfl, fld_fired _ _ _ _ _ _ _ _ _ _ (small k (List.mem_cons_self ..))⟩
    have w' : OnWatch { h with bell := { h.bell with latched := 0 }, raised := h.raised ++ [r] } :=
      ⟨w.up, w.noWakes, w.noEntry, w.noExcursion, w.noT1⟩
    rw [one]
    obtain ⟨latched, rs, rest, length, each⟩ := ih w' fun j hj => small j (List.mem_cons_of_mem _ hj)
    refine ⟨latched, r :: rs, by simp [rest], by simp [length], fun j hj => ?_⟩
    rcases List.mem_cons.1 hj with rfl | later
    · exact ⟨r, List.mem_cons_self .., alone⟩
    · obtain ⟨x, hx, is⟩ := each j later
      exact ⟨x, List.mem_cons_of_mem _ hx, is⟩

/-! ## Errors in Bell's stores (R307, R328) -/

/-- An uncorrectable error in Bell's stores stops inference, and is raised where it has not been. -/
theorem bellError_eq (h : Hw) : ∃ cnt rs, bellError h = { h with
      bell := { h.bell with dead := true, eccRaised := true }, health := { h.health with cnt := cnt }, raised := rs } ∧
    rs.length ≤ h.raised.length + 1 ∧ (h.bell.eccRaised = false → Raises (bellError h) .eventHealth .bellEcc) := by
  obtain ⟨cnt, dead⟩ : ∃ cnt, (if h.bell.dead then h else { h with
      bell := { h.bell with dead := true }, health := { h.health with cnt := countUncorrected .bell h.health.cnt } }) =
      { h with bell := { h.bell with dead := true }, health := { h.health with cnt := cnt } } := by
    split
    next already => exact ⟨h.health.cnt, by simp only [← already]⟩
    · exact ⟨_, rfl⟩
  unfold bellError
  rw [dead]
  dsimp only
  split
  next already =>
    exact ⟨cnt, h.raised, by simp only [← already], Nat.le_succ _, fun no => by simp [no] at already⟩
  · exact ⟨cnt, _, rfl, by simp, fun _ => raises_raiseHealth ..⟩

/-- What the beat's errors leave of the hardware, before its scores are judged. -/
def bellChecked (eccBad : Bool) (env : WakeEnv) (h : Hw) : Hw :=
  if eccBad then bellError (corrected .bell env.bellFixed h) else corrected .bell env.bellFixed h

theorem bellChecked_eq (eccBad : Bool) (env : WakeEnv) (h : Hw) : ∃ ecc health rs, bellChecked eccBad env h = { h with
      bell := { h.bell with dead := h.bell.dead || eccBad, eccRaised := ecc }, health := health, raised := rs } ∧
    rs.length ≤ h.raised.length + 2 ∧
    (eccBad = true → h.bell.eccRaised = false → Raises (bellChecked eccBad env h) .eventHealth .bellEcc) := by
  obtain ⟨storm, win, cnt, causes, raised, fixed, short⟩ := corrected_eq .bell env.bellFixed h
  unfold bellChecked
  rw [fixed]
  cases eccBad with
  | false =>
    rw [Bool.or_false]
    exact ⟨h.bell.eccRaised, _, raised, rfl, Nat.le_succ_of_le short, fun bad => nomatch bad⟩
  | true =>
    obtain ⟨cnt', rs, e, one, raises⟩ := bellError_eq { h with
      health := { h.health with storm := storm, stormWin := win, cnt := cnt, causes := causes }, raised := raised }
    rw [Bool.or_true]
    exact ⟨true, _, rs, e, Nat.le_trans one (Nat.succ_le_succ short), fun _ => raises⟩

/-! ## The scores of the beat (R154) -/

/-- The scores that are judged: none where inference has stopped or the beat has none. -/
def judgedScores (b : BellBeat) (h : Hw) : Option (List Nat) :=
  if h.bell.dead || !b.infer then none else some (bellScores16 h.bell.blob h.bell.rows.reverse)

/-- Class k is over its threshold at these scores. -/
def isOver (h : Hw) (scores : Option (List Nat)) (k : Nat) : Bool := match scores with
  | some s => decide (((bellCfg h).classes.getD k {}).thr < s.getD k 0)
  | none => false

theorem isOver_judgedScores (b : BellBeat) (h : Hw) (k : Nat) : isOver h (judgedScores b h) k =
    (!h.bell.dead && b.infer && decide (((bellCfg h).classes.getD k {}).thr <
      (bellScores16 h.bell.blob h.bell.rows.reverse).getD k 0)) := by
  unfold judgedScores
  cases h.bell.dead <;> cases b.infer <;> rfl

/-- The classes that fire, in increasing order. -/
def firedClasses (scores : Option (List Nat)) (h : Hw) : List Nat :=
  (List.range 16).filter fun k =>
    classFires ((bellCfg h).classes.getD k {}) (h.bell.overBits.getD k []) (isOver h scores k)

theorem mem_firedClasses {scores : Option (List Nat)} {h : Hw} {k : Nat} : k ∈ firedClasses scores h ↔ k < 16 ∧
    classFires ((bellCfg h).classes.getD k {}) (h.bell.overBits.getD k []) (isOver h scores k) = true := by
  rw [firedClasses, List.mem_filter, List.mem_range]

theorem classFires_iff (c : BellClass) (old : List Bool) (hit : Bool) : classFires c old hit = true ↔
    c.action ≠ 0 ∧ overCount old c.n + 1 = c.k ∧ overCount (hit :: old) c.n = c.k := by
  simp only [classFires, Bool.and_eq_true, bne_iff_ne, beq_iff_eq, and_assoc]

/-- Every class history takes in its new over bit, and nothing is due any more. -/
def histories (scores : Option (List Nat)) (h : Hw) : Hw :=
  { h with bell := { h.bell with
    overBits := (List.range 16).map fun k => (isOver h scores k :: h.bell.overBits.getD k []).take 16, due := none } }

theorem exec_bellScores (eccBad : Bool) (env : WakeEnv) (s : State) :
    exec (.bellScores eccBad env) s = runSched (bellScoresEffect eccBad env) s := rfl

theorem bellScoresEffect_due {eccBad : Bool} {env : WakeEnv} {m : Mems} {h : Hw} {b : BellBeat} (due : h.bell.due = some b)
    (runs : bellRuns h = true) : bellScoresEffect eccBad env m h =
      (firedClasses (judgedScores b (bellChecked eccBad env h)) (bellChecked eccBad env h)).foldl
        (fireAny env m b.beat ((judgedScores b (bellChecked eccBad env h)).getD []))
        (histories (judgedScores b (bellChecked eccBad env h)) (bellChecked eccBad env h)) := by
  simp only [bellScoresEffect, due, runs, if_true]
  rfl

/-- Class k is over its threshold at the due beat, errors of this beat and before it counted (R154, R328). -/
def overNow (eccBad : Bool) (b : BellBeat) (h : Hw) (k : Nat) : Bool :=
  !(h.bell.dead || eccBad) && b.infer && decide (((bellCfg h).classes.getD k {}).thr <
    (bellScores16 h.bell.blob h.bell.rows.reverse).getD k 0)

/-- Class k fires at the due beat (R154). -/
def FiresNow (eccBad : Bool) (b : BellBeat) (h : Hw) (k : Nat) : Prop :=
  classFires ((bellCfg h).classes.getD k {}) (h.bell.overBits.getD k []) (overNow eccBad b h k) = true

/-- The due beat changes Bell and counts of health, and raises a report for each class that fires. -/
theorem bellScoresEffect_eq {eccBad : Bool} {env : WakeEnv} {h : Hw} {b : BellBeat} (m : Mems)
    (due : h.bell.due = some b) (runs : bellRuns h = true) (w : OnWatch h) :
    ∃ ecc latched health rs, bellScoresEffect eccBad env m h = { h with
        bell := { h.bell with
          due := none, dead := h.bell.dead || eccBad, eccRaised := ecc, latched := latched
          overBits := (List.range 16).map fun k => (overNow eccBad b h k :: h.bell.overBits.getD k []).take 16 }
        health := health, raised := rs } ∧
      rs.length ≤ h.raised.length + 18 ∧
      (eccBad = true → h.bell.eccRaised = false → Raises (bellScoresEffect eccBad env m h) .eventHealth .bellEcc) ∧
      ∀ k < 16, FiresNow eccBad b h k → ∃ r ∈ rs, FiresAlone k r := by
  obtain ⟨ecc, health, rs, checked, short, raises⟩ := bellChecked_eq eccBad env h
  have out := bellScoresEffect_due (eccBad := eccBad) (env := env) (m := m) due runs
  have overs (k : Nat) : isOver (bellChecked eccBad env h) (judgedScores b (bellChecked eccBad env h)) k =
      overNow eccBad b h k := by
    rw [isOver_judgedScores, checked]
    rfl
  have fired (k : Nat) (hk : k < 16) (fires : FiresNow eccBad b h k) :
      k ∈ firedClasses (judgedScores b (bellChecked eccBad env h)) (bellChecked eccBad env h) := by
    rw [mem_firedClasses, overs, checked]
    exact ⟨hk, fires⟩
  have watch : OnWatch (histories (judgedScores b (bellChecked eccBad env h)) (bellChecked eccBad env h)) := by
    rw [checked]
    exact ⟨w.up, w.noWakes, w.noEntry, w.noExcursion, w.noT1⟩
  obtain ⟨latched, fires, folded, length, each⟩ := foldl_fireAny_onWatch watch env m b.beat
    ((judgedScores b (bellChecked eccBad env h)).getD []) _ fun k hk => (mem_firedClasses.1 hk).1
  have few : fires.length ≤ 16 := by
    rw [length, firedClasses]
    exact List.length_filter_le _ (List.range 16)
  rw [folded] at out
  have sum : (bellScoresEffect eccBad env m h) = { h with
        bell := { h.bell with
          due := none, dead := h.bell.dead || eccBad, eccRaised := ecc, latched := latched
          overBits := (List.range 16).map fun k => (overNow eccBad b h k :: h.bell.overBits.getD k []).take 16 }
        health := health, raised := rs ++ fires } := by
    rw [out]
    simp only [histories, overs]
    rw [checked]
  refine ⟨ecc, latched, health, rs ++ fires, sum, ?_, fun bad quiet => ?_, fun k hk now => ?_⟩
  · rw [List.length_append]
    omega
  · obtain ⟨r, hr, named⟩ := raises bad quiet
    rw [checked] at hr
    exact ⟨r, by rw [sum]; exact List.mem_append_left _ hr, named⟩
  · obtain ⟨r, hr, alone⟩ := each k (fired k hk now)
    exact ⟨r, List.mem_append_right _ hr, alone⟩

/-- Settles O21: at rest the beat's effect is all that the command does, and each report waits in the queue. -/
theorem bellScoresFireTheirClasses : Obligations.BellScoresFireTheirClasses := by
  unfold Obligations.BellScoresFireTheirClasses
  intro s eccBad env b due runs up noT1 noWakes hs
  have clear := atRest_clear hs
  obtain ⟨ecc, latched, health, rs, sum, few, raises, each⟩ := bellScoresEffect_eq (eccBad := eccBad) (env := env)
    (h := { s.hw with sent := [] }) s.mem due runs ⟨up, noWakes, atRest_noEntry hs, hs.1.2.1.1, noT1⟩
  rw [sum] at raises
  obtain ⟨k, calm, e⟩ := Slots.runSched_calm _ s _ sum (idle_of_atRest hs)
  have sq : k.sq = s.hw.sq := (calm_sq calm).trans rfl
  have raised : k.raised = rs := calm_raised calm
  have posts : k.sq.posts = [] := by rw [sq]; exact clear.posts
  have held : k.sq.heldRecords = [] := by rw [sq]; exact clear.held
  have room : k.sq.queue.length + k.raised.length ≤ 64 := by
    have unraised : s.hw.raised = [] := clear.raised
    have waiting : s.hw.sq.queue.length ≤ 32 := hs.2
    rw [sq, raised]
    simp only [unraised, List.length_nil] at few
    omega
  have bell := (commit_finish_bell s k).trans (calm_bell calm)
  refine ⟨_, (exec_bellScores eccBad env s).trans e, congrArg Bell.due bell, congrArg Bell.dead bell,
    congrArg Bell.overBits bell, fun j hj fires => ?_, fun bad quiet => ?_, ?_,
    Slots.calm_only [Portion.bell, Portion.health] s _ k calm rfl⟩
  · obtain ⟨r, hr, event, rfl, status, detail, fired⟩ := each j hj ((classFires_iff _ _ _).2 fires)
    obtain ⟨x, hx, -, -, same⟩ := finish_queues posts held room (by rw [raised]; exact hr) rfl
    rw [same rfl] at hx
    exact ⟨event, hx, status, detail, fired⟩
  · obtain ⟨r, hr, named⟩ := raises bad quiet
    exact reports_of_raised s ⟨r, by rw [raised]; exact hr, named⟩ posts held room
  · exact (commit_finish_raises s k ((calm_writes calm).trans clear.writes) ((calm_wipe calm).trans clear.wipe)
      ((calm_records calm).trans clear.records) posts held room).1

end Sys2Proof.Proofs

/-! PROOFS. An excursion starts from SLEEP (R156 to R158, R163, R376, R470). -/

namespace Sys2Proof.Proofs

open Sys2Proof Sys2Proof.Machine Sys2Proof.Laws

/-! ## What a wake from SLEEP leaves alone -/

/-- All but the units of SENSE, the ring, the cores, Health, what is written and raised, and the free values. -/
def wakeKeep (h : Hw) : Hw :=
  { h with
    drum := {}, raw := {}, cal := {}, ring := {}, health := {}, bell := { latched := h.bell.latched }
    sched := { h.sched with cores := [], powering := none, powerNext := [] }
    writes := [], raised := [], draws := 0 }

theorem wakeKeep_foldl {α : Type} (f : Hw → α → Hw) (hf : ∀ h x, wakeKeep (f h x) = wakeKeep h) (xs : List α) (h : Hw) :
    wakeKeep (xs.foldl f h) = wakeKeep h := by
  induction xs generalizing h with
  | nil => rfl
  | cons x xs ih => exact (ih _).trans (hf h x)

theorem wakeKeep_corrected (x : Memory) (n : Nat) (h : Hw) : wakeKeep (corrected x n h) = wakeKeep h := by
  obtain ⟨storm, win, cnt, causes, raised, e, -⟩ := corrected_eq x n h
  rw [e]
  rfl

theorem wakeKeep_senseAtBoot (h : Hw) : wakeKeep (senseAtBoot h) = wakeKeep h := by
  unfold senseAtBoot
  split
  · rfl
  · rfl

theorem wakeKeep_writeDev (a : Nat) (bs : List Byte) (h : Hw) : wakeKeep (writeDev a bs h) = wakeKeep h := by
  unfold writeDev putDev
  repeat' split
  all_goals rfl

theorem wakeKeep_publish (held : Bool) (h : Hw) (r : FrameRec) : wakeKeep (publish held h r) = wakeKeep h := by
  have record : wakeKeep (publishRecord held h r) = wakeKeep h := by
    simp only [publishRecord]
    split
    · exact wakeKeep_writeDev (frameAddr h r.beat) _ h
    · rfl
  unfold publish
  dsimp only
  split
  · exact record
  · exact record

theorem wakeKeep_flushHolding (bad : List Nat) (h : Hw) : wakeKeep (flushHolding bad h) = wakeKeep h := by
  refine (wakeKeep_foldl _ (fun h r => ?_) _ _).trans rfl
  unfold crossBarrier
  split
  · exact wakeKeep_publish true h r.1
  · rfl

theorem wakeKeep_autostart (h : Hw) : wakeKeep (autostart h) = wakeKeep h := by
  simp only [autostart]
  split
  · refine wakeKeep_foldl _ (fun h n => ?_) _ h
    split
    · rfl
    · rfl
  · rfl

theorem wakeKeep_powerIslands (h : Hw) : wakeKeep (powerIslands h) = wakeKeep h := by
  refine wakeKeep_foldl _ (fun h k => ?_) _ h
  unfold askIsland askGroup
  repeat' split
  all_goals rfl

theorem wakeKeep_bringT2 (h : Hw) : wakeKeep (bringT2 h) = wakeKeep h := by
  unfold bringT2
  split
  next down =>
    obtain ⟨ring, e⟩ := ringUp_eq down
    rw [e]
    exact wakeKeep_powerIslands _
  · exact wakeKeep_powerIslands h

/-! ## The hardware on its way up -/

/-- What the excursion's start needs of the hardware that wakes: the pulse is forwarded, nothing waits for the scheduler,
and nothing is held or completed. -/
structure Rising (s : State) (p : Power) (c : Cascade) (g : Hw) : Prop where
  board : g.board = { s.hw.board with rwakeOut := true, rwakeQuiet := true }
  image : g.image = s.hw.image
  power : g.power = p
  cascade : g.cascade = c
  latched : g.bell.latched = s.hw.bell.latched
  idle : Sched.Idle g
  wipe : g.wipe = none
  records : g.records = []
  posts : g.sq.posts = []
  held : g.sq.heldRecords = []

theorem Rising.of_wakeKeep {s : State} {p : Power} {c : Cascade} {g h : Hw} (e : wakeKeep g = wakeKeep h)
    (r : Rising s p c h) : Rising s p c g where
  board := (congrArg Hw.board e).trans r.board
  image := (congrArg Hw.image e).trans r.image
  power := (congrArg Hw.power e).trans r.power
  cascade := (congrArg Hw.cascade e).trans r.cascade
  latched := (congrArg (fun h => h.bell.latched) e).trans r.latched
  idle := by
    have graphs : g.sched.graphs = h.sched.graphs := congrArg (fun h => h.sched.graphs) e
    have notices : g.sched.notices = h.sched.notices := congrArg (fun h => h.sched.notices) e
    have ended : g.sched.ended = h.sched.ended := congrArg (fun h => h.sched.ended) e
    have streams : g.streams = h.streams := congrArg (fun h => h.streams) e
    exact ⟨graphs ▸ r.idle.1, notices ▸ r.idle.2.1, ended ▸ r.idle.2.2.1, streams ▸ r.idle.2.2.2⟩
  wipe := (congrArg Hw.wipe e).trans r.wipe
  records := (congrArg Hw.records e).trans r.records
  posts := (congrArg (fun h => h.sq.posts) e).trans r.posts
  held := (congrArg (fun h => h.sq.heldRecords) e).trans r.held

/-- CTRL and MEM come up: power and the configuration space change. -/
theorem domainsUp_eq (h : Hw) : ∃ p cfg draws, domainsUp h =
    { h with power := p, sq := { h.sq with cfg := cfg }, draws := draws } ∧
      p.ctrlOn = true ∧ p.memOn = true ∧ p.elapsed = h.power.elapsed := by
  obtain ⟨n, draws, e⟩ := phyUp_eq h
  unfold domainsUp
  rw [e]
  exact ⟨_, _, draws, rfl, rfl, rfl, rfl⟩

/-- What a wake leaves of power: CTRL and MEM are on, and no time has passed. -/
structure PoweredAt (elapsed : Nat) (p : Power) : Prop where
  ctrlOn : p.ctrlOn = true
  memOn : p.memOn = true
  elapsed : p.elapsed = elapsed

theorem rising_sleepUp {s : State} {p : Power} {c : Cascade} {g : Hw} (r : Rising s p c g) :
    ∃ q, PoweredAt p.elapsed q ∧ Rising s q c (sleepUp g) := by
  obtain ⟨q, cfg, draws, e, ctrlOn, memOn, elapsed⟩ := domainsUp_eq g
  have up : Rising s q c (domainsUp g) := by
    rw [e]
    exact ⟨r.board, r.image, rfl, r.cascade, r.latched, r.idle, r.wipe, r.records, r.posts, r.held⟩
  have back : Rising s q c (if (domainsUp g).power.senseBack then senseAtBoot (domainsUp g) else domainsUp g) := by
    split
    · exact up.of_wakeKeep (wakeKeep_senseAtBoot _)
    · exact up
  refine ⟨{ q with senseBack := false }, ⟨ctrlOn, memOn,
    elapsed.trans (congrArg Power.elapsed r.power)⟩, ?_⟩
  exact ⟨back.board, back.image, congrArg (fun p : Power => { p with senseBack := false }) back.power, back.cascade,
    back.latched, back.idle, back.wipe, back.records, back.posts, back.held⟩

theorem rising_awake {s : State} {p : Power} {c : Cascade} {g : Hw} (r : Rising s p c g) (w : WakeCtx) :
    Rising s { p with dev := .active } c (awake w g) := by
  refine Rising.of_wakeKeep ((wakeKeep_autostart _).trans (wakeKeep_flushHolding w.heldBad _)) ?_
  exact ⟨r.board, r.image, congrArg (fun p : Power => { p with dev := .active }) r.power, r.cascade, r.latched, r.idle,
    r.wipe, r.records, r.posts, r.held⟩

/-! ## The tier's graph is fetched (R157, R158) -/

/-- Reading the header for the rank may count a refused transfer, and changes nothing else. -/
theorem rankRead_eq (m : Mems) (owner a : Nat) (h : Hw) : ∃ cls health,
    rankRead m owner a h = (cls, { h with health := health }) := by
  unfold rankRead
  split
  · exact ⟨3, h.health, rfl⟩
  · split
    · exact ⟨_, h.health, rfl⟩
    next e _ =>
      unfold noteGraphFault
      dsimp only
      split
      · exact ⟨3, _, rfl⟩
      · exact ⟨3, h.health, rfl⟩

/-- SEQ of the next wake record: zero is passed over (R158). -/
def nextSeq (h : Hw) : Nat := if (h.cascade.seq + 1) % 2 ^ 32 = 0 then 1 else (h.cascade.seq + 1) % 2 ^ 32

/-- The excursion once its graph has been fetched under a key. -/
def fetchedExc (e : Excursion) (seq key el : Nat) : Excursion :=
  { e with seq := seq, key := key, graphOpen := true, fetchEl := el }

/-- The graph of a tier. -/
def tierGraph (h : Hw) (e : Excursion) : Nat := if e.tier = 1 then (bellCfg h).t1Graph else (bellCfg h).t2Graph

/-- The wake record is written, and a graph that waits for its check enters under a key of the tier. -/
theorem openCascade_eq (m : Mems) (e : Excursion) (h : Hw) : ∃ k health, ∃ g : Graph, openCascade m e h =
    { h with
      writes := h.writes ++ [⟨.dram, (bellCfg h).cascadeBase, wordsBytes (wakeRecord e (nextSeq h) h.bell.latched)⟩]
      health := health
      cascade := { h.cascade with seq := nextSeq h, exc := some (fetchedExc e (nextSeq h) k h.power.elapsed) }
      sched := { h.sched with arrivals := h.sched.arrivals + 1, graphs := h.sched.graphs ++ [g] } } ∧
    g.key = k ∧ g.owner = SCHED ∧ g.hdrAddr = tierGraph h e ∧ g.resident = false ∧ g.hiRail = [] := by
  obtain ⟨cls, health, read⟩ := rankRead_eq m SCHED (tierGraph h e)
    (putWords .dram (bellCfg h).cascadeBase (wakeRecord e (nextSeq h) h.bell.latched) h)
  unfold nextSeq tierGraph at *
  simp only [openCascade, read]
  refine ⟨_, health, _, rfl, ?_⟩
  exact ⟨rfl, rfl, rfl, rfl, rfl⟩

theorem wakeRecord_length (e : Excursion) (seq latched : Nat) : (wordsBytes (wakeRecord e seq latched)).length = 64 := by
  rw [Run.wordsBytes_length, wakeRecord]
  simp only [fitTo, List.length_append, List.length_take, List.length_replicate]
  omega

/-! ## The statement's wake -/

/-- The instant of the accepted edge lies 50 µs to 52 µs back (R158, R470). -/
theorem rwakeEdge_eq (h : Hw) : ∃ n, 1229 ≤ n ∧ n ≤ 1277 ∧
    rwakeEdge h = ((h.power.time + 2 ^ 64 - n) % 2 ^ 64, { h with draws := h.draws + 1 }) := by
  have t : usTicks 50 = 1229 := by decide
  refine ⟨usTicks 50 + Config.freeNat h.draws % 49, by omega, by omega, rfl⟩

theorem exec_rwakeIn (env : WakeEnv) (s : State) : exec (.rwakeInAccept env) s = runSched (rwakeEffect env) s := rfl

/-- A wake event in a stay that has not failed to wake before, from a source that wakes, is a wake (R374, R379). -/
theorem wakeEvent_asleep {h : Hw} {src : WakeSource} (stays : asleep h = true) (wakes : wakesFrom h src = true)
    (good : h.power.wakeFail = none) (time : Nat) (env : WakeEnv) (m : Mems) : wakeEvent src time env m h =
      wakeFrom env [{ source := src, time := time, prior := h.power.dev, heldBad := env.heldBad }] m h := by
  simp only [wakeEvent, stays, wakes, good, Bool.not_true, Bool.false_eq_true, if_false, if_true]

/-- A pulse that wakes from SLEEP starts an excursion at T2 (R163, R376). -/
theorem wakeFrom_rwakeIn {h : Hw} {c : WakeCtx} {env : WakeEnv} (m : Mems) (sleeps : h.power.dev = .sleep)
    (good : env.retentionBad = false) (source : c.source = .rwakeIn) (wakes : c.mode = .wakes) :
    wakeFrom env [c] m h = startExcursion m 2 c.prior .rwakeIn c.late { time := c.time }
      (awake c (sleepUp (corrected .retention env.retentionFixed h))) := by
  simp only [wakeFrom, sleeps, good, Bool.false_eq_true, if_false, wakeTurns, List.foldl_cons, List.foldl_nil, wakeTurn,
    wakes, wakeActs, source]

/-- A tier whose graph is enabled opens it (R157). -/
theorem enterTier_opens {h : Hw} {e : Excursion} (m : Mems) (exc : h.cascade.exc = some e) (on : (bellCfg h).enable = true)
    (enabled : (if e.tier = 1 then (bellCfg h).t1En else (bellCfg h).t2En) = true) : enterTier m h = openCascade m e h := by
  simp only [enterTier, tierStart, exc, on, enabled, Bool.not_true, Bool.false_eq_true, if_false, verdictLoop]

/-- An excursion that a pulse starts at T2. -/
def pulseExc (prior : DevState) (time : Nat) : Excursion :=
  { tier := 2, prior := prior, source := .rwakeIn, top := 2, fireTime := time }

/-- The cascade once the excursion's graph has been fetched under a key. -/
def pulsedCascade (prior : DevState) (time key el : Nat) (h : Hw) : Cascade :=
  { h.cascade with stay := none, seq := nextSeq h, exc := some (fetchedExc (pulseExc prior time) (nextSeq h) key el) }

/-- The excursion's start, CTRL and MEM being up: the device is at T2, and the wake record is the last write. -/
theorem startExcursion_rising {s : State} {p : Power} {h : Hw} {b : BellSec} (m : Mems)
    (r : Rising s p s.hw.cascade h) (bell : s.hw.image.bell = some b) (on : b.enable = true) (enabled : b.t2En = true)
    (time : Nat) : ∃ k ws g, startExcursion m 2 .sleep .rwakeIn false { time := time } h = g ∧
      Rising s { p with dev := .active, entry := none } (pulsedCascade .sleep time k p.elapsed s.hw) g ∧
      g.writes = ws ++
        [⟨.dram, b.cascadeBase, wordsBytes (wakeRecord (pulseExc .sleep time) (nextSeq s.hw) s.hw.bell.latched)⟩] ∧
      ∃ x ∈ g.sched.graphs, x.key = k ∧ x.owner = SCHED ∧ x.hdrAddr = b.t2Graph := by
  have set : Rising s { p with dev := .active, entry := none }
      { s.hw.cascade with stay := none, exc := some (pulseExc .sleep time) }
      (setExc (some (pulseExc .sleep time)) { h with
        power := { h.power with dev := .active, entry := none }, cascade := { h.cascade with stay := none } }) :=
    ⟨r.board, r.image, congrArg (fun p : Power => { p with dev := .active, entry := none }) r.power,
      congrArg (fun c : Cascade => { c with stay := none, exc := some (pulseExc .sleep time) }) r.cascade, r.latched,
      r.idle, r.wipe, r.records, r.posts, r.held⟩
  have up := set.of_wakeKeep (wakeKeep_bringT2 _)
  have starts : startExcursion m 2 .sleep .rwakeIn false { time := time } h = enterTier m (bringT2
      (setExc (some (pulseExc .sleep time)) { h with
        power := { h.power with dev := .active, entry := none }, cascade := { h.cascade with stay := none } })) := rfl
  rw [starts]
  generalize bringT2 _ = u at up ⊢
  have cfg : bellCfg u = b := by
    unfold bellCfg
    rw [up.image, bell]
    rfl
  have seq : nextSeq u = nextSeq s.hw := by
    unfold nextSeq
    rw [up.cascade]
  have elapsed : u.power.elapsed = p.elapsed := by rw [up.power]
  obtain ⟨k, health, x, opened, key, owner, hdrAddr, resident, hiRail⟩ := openCascade_eq m (pulseExc .sleep time) u
  rw [seq, cfg, up.latched, elapsed, up.cascade] at opened
  rw [enterTier_opens m (congrArg Cascade.exc up.cascade) (by rw [cfg]; exact on) (by rw [cfg]; exact enabled), opened]
  refine ⟨k, u.writes, _, rfl, ?_, rfl, x, List.mem_append_right _ (List.mem_singleton_self _), key, owner, ?_⟩
  · obtain ⟨graphs, rest⟩ := up.idle
    refine ⟨up.board, up.image, up.power, rfl, up.latched, ⟨fun g hg => ?_, rest⟩, up.wipe, up.records, up.posts, up.held⟩
    rcases List.mem_append.1 hg with old | new
    · exact graphs g old
    · rw [List.mem_singleton.1 new]
      exact ⟨resident, hiRail⟩
  · rw [hdrAddr, tierGraph, cfg]
    rfl

/-- The effect of a pulse in SLEEP, up to the start of its excursion. -/
theorem rwakeEffect_asleep {h : Hw} {env : WakeEnv} (m : Mems) (stays : asleep h = true) (sleeps : h.power.dev = .sleep)
    (noFail : h.power.wakeFail = none) (heeded : h.board.rwakeQuiet = false) (good : env.retentionBad = false) :
    rwakeEffect env m h = startExcursion m 2 .sleep .rwakeIn false { time := (rwakeEdge h).1 }
      (awake { source := .rwakeIn, time := (rwakeEdge h).1, prior := .sleep, heldBad := env.heldBad }
        (sleepUp (corrected .retention env.retentionFixed (pulseOut (rwakeEdge h).2)))) := by
  have aon : h.board.aonOn = true := by
    simp only [asleep, Bool.and_eq_true] at stays
    exact stays.1.1.1.1.1
  have dev : (pulseOut (rwakeEdge h).2).power.dev = .sleep := sleeps
  have wakes : wakesFrom (pulseOut (rwakeEdge h).2) .rwakeIn = true := by simp [wakesFrom, dev]
  rw [rwakeEffect_heeded aon heeded, wakeEvent_asleep (h := pulseOut (rwakeEdge h).2) stays wakes noFail,
    wakeFrom_rwakeIn m dev good rfl rfl, dev]

/-- RWAKE_IN in SLEEP starts an excursion at T2 on a node whose Bell and T2 graph are enabled. -/
theorem rwakeIn_startsExcursion {s : State} {env : WakeEnv} {b : BellSec} (stays : asleep s.hw = true)
    (sleeps : s.hw.power.dev = .sleep) (noFail : s.hw.power.wakeFail = none) (heeded : s.hw.board.rwakeQuiet = false)
    (good : env.retentionBad = false) (hs : AtRest s) (bell : s.hw.image.bell = some b) (on : b.enable = true)
    (enabled : b.t2En = true) : Answers (.rwakeInAccept env) s fun t =>
      t.hw.power.dev = .active ∧ t.hw.power.ctrlOn = true ∧ t.hw.power.memOn = true ∧
      t.hw.board.rwakeOut = true ∧ t.hw.board.rwakeQuiet = true ∧ t.hw.cascade.seq = nextSeq s.hw ∧
      ∃ n k, 1229 ≤ n ∧ n ≤ 1277 ∧
        let e := pulseExc .sleep ((s.hw.power.time + 2 ^ 64 - n) % 2 ^ 64)
        t.hw.cascade.exc = some (fetchedExc e (nextSeq s.hw) k s.hw.power.elapsed) ∧
        (∃ g ∈ t.hw.sched.graphs, g.key = k ∧ g.owner = SCHED ∧ g.hdrAddr = b.t2Graph) ∧
        bytesAt t .dram b.cascadeBase 64 = wordsBytes (wakeRecord e (nextSeq s.hw) s.hw.bell.latched) := by
  obtain ⟨n, low, high, edge⟩ := rwakeEdge_eq { s.hw with sent := [] }
  have out := rwakeEffect_asleep (h := { s.hw with sent := [] }) s.mem stays sleeps noFail heeded good
  rw [edge] at out
  have clear := atRest_clear hs
  have begins : Rising s s.hw.power s.hw.cascade (pulseOut { s.hw with sent := [], draws := s.hw.draws + 1 }) :=
    ⟨rfl, rfl, rfl, rfl, rfl, idle_of_atRest hs, clear.wipe, clear.records, clear.posts, clear.held⟩
  obtain ⟨q, powered, slept⟩ := rising_sleepUp (begins.of_wakeKeep (wakeKeep_corrected .retention env.retentionFixed _))
  obtain ⟨key, ws, g, starts, risen, writes, x, mem, named⟩ :=
    startExcursion_rising s.mem (rising_awake slept _) bell on enabled ((s.hw.power.time + 2 ^ 64 - n) % 2 ^ 64)
  obtain ⟨k, calm, e⟩ := Slots.runSched_calm _ s g (out.trans starts) risen.idle
  have sq : k.sq = g.sq := calm_sq calm
  have graphs : (commit s (Machine.finish k)).hw.sched.graphs = g.sched.graphs :=
    (congrArg (fun s => s.graphs) (Run.finish_sched k)).trans (congrArg (fun h => h.sched.graphs) calm)
  have cascade := ((commit_finish_cascade s k).trans (calm_cascade calm)).trans risen.cascade
  have board := ((commit_finish_hwBoard s k).trans (calm_board calm)).trans risen.board
  have dev : (commit s (Machine.finish k)).hw.power.dev = .active := by
    rw [commit_finish_power, calm_dev calm, risen.power]
  have ctrlOn : k.power.ctrlOn = g.power.ctrlOn := congrArg (fun h => h.power.ctrlOn) calm
  have memOn : k.power.memOn = g.power.memOn := congrArg (fun h => h.power.memOn) calm
  have record : (Machine.finish k).writes = ws ++
      [⟨.dram, b.cascadeBase, wordsBytes (wakeRecord (pulseExc .sleep ((s.hw.power.time + 2 ^ 64 - n) % 2 ^ 64))
        (nextSeq s.hw) s.hw.bell.latched)⟩] := by
    have done := written_finish ((calm_records calm).trans risen.records) (by rw [sq]; exact risen.posts)
      (by rw [sq]; exact risen.held)
    exact ((congrArg Prod.fst done).trans (calm_writes calm)).trans writes
  refine ⟨_, (exec_rwakeIn env s).trans e, dev, ?_, ?_, congrArg Board.rwakeOut board, congrArg Board.rwakeQuiet board,
    congrArg Cascade.seq cascade, n, key, low, high, ?_, ⟨x, by rw [graphs]; exact mem, named⟩, ?_⟩
  · rw [commit_finish_power, ctrlOn, risen.power]
    exact powered.ctrlOn
  · rw [commit_finish_power, memOn, risen.power]
    exact powered.memOn
  · refine (congrArg Cascade.exc cascade).trans ?_
    rw [pulsedCascade, ← powered.elapsed]
  · have last := Run.read_last (wipeMems (Machine.finish k).wipe s.mem) ws
      ⟨.dram, b.cascadeBase, wordsBytes (wakeRecord (pulseExc .sleep ((s.hw.power.time + 2 ^ 64 - n) % 2 ^ 64))
        (nextSeq s.hw) s.hw.bell.latched)⟩
    rw [← record, wakeRecord_length] at last
    exact last

end Sys2Proof.Proofs

/-! PROOFS. The scheduler where streams only leave core store, as an entry begins (R268, R371). -/

namespace Sys2Proof.Proofs

open Sys2Proof Sys2Proof.Machine Sys2Proof.Laws

/-! ## Nothing but evictions -/

/-- A stream for which nothing waits but its copy to HOME. -/
def OnlyEvicts (x : Stream) : Prop := ∀ r ∈ x.reqs, r = .evict

/-- No graph is resident, nothing has ended, and streams are at most evicted. -/
structure Dormant (h : Hw) : Prop where
  graphs : ∀ g ∈ h.sched.graphs, g.resident = false ∧ g.hiRail = []
  notices : h.sched.notices = []
  ended : h.sched.ended = []
  streams : ∀ x ∈ h.streams, OnlyEvicts x

/-- What such a run leaves alone beside what `keep` does: the graphs, and what is written, raised and completed. -/
def outcome (h : Hw) : List Graph × List (Nat × Nat × Option (Status × Detail)) × List (Nat × Bool) × List Write ×
    List Raised × List Record :=
  (h.sched.graphs, h.sched.notices, h.sched.ended, h.writes, h.raised, h.records)

/-- One step of such a run. -/
structure Rests (h g : Hw) : Prop where
  same : outcome g = outcome h
  streams : ∀ x ∈ g.streams, OnlyEvicts x

theorem Dormant.of_rests {h g : Hw} (d : Dormant h) (r : Rests h g) : Dormant g := by
  obtain ⟨graphs, notices, ended, -⟩ : _ ∧ _ ∧ _ ∧ _ := by simpa only [outcome, Prod.mk.injEq] using r.same
  exact ⟨graphs ▸ d.graphs, notices.trans d.notices, ended.trans d.ended, r.streams⟩

theorem Rests.refl {h : Hw} (d : Dormant h) : Rests h h := ⟨rfl, d.streams⟩

theorem Rests.trans {h g k : Hw} (a : Rests h g) (b : Rests g k) : Rests h k := ⟨b.same.trans a.same, b.streams⟩

/-- What an idle run leaves alone is more. -/
theorem rests_of_calm {h g : Hw} (d : Dormant h) (e : Sched.calm g = Sched.calm h) : Rests h g := by
  have streams : g.streams = h.streams := congrArg (fun h => h.streams) e
  have same : outcome (Sched.calm g) = outcome (Sched.calm h) := congrArg outcome e
  exact ⟨same, by rw [streams]; exact d.streams⟩

/-! ## Streams (R248, R268) -/

theorem mem_fitTo {α : Type} {n : Nat} {d x : α} {xs : List α} (hx : x ∈ fitTo n d xs) : x ∈ xs ∨ x = d := by
  rcases List.mem_append.1 hx with old | new
  · exact .inl (List.mem_of_mem_take old)
  · exact .inr (List.eq_of_mem_replicate new)

theorem mem_modifyAt {α : Type} {i : Nat} {f : α → α} {xs : List α} {x : α} (hx : x ∈ modifyAt i f xs) :
    x ∈ xs ∨ ∃ y ∈ xs, x = f y := by
  rw [modifyAt_eq_modify] at hx
  obtain ⟨j, hj, rfl⟩ := List.getElem_of_mem hx
  rw [List.length_modify] at hj
  rw [List.getElem_modify]
  split
  · exact .inr ⟨_, List.getElem_mem hj, rfl⟩
  · exact .inl (List.getElem_mem hj)

theorem onlyEvicts_setStream {i : Nat} {f : Stream → Stream} {h : Hw} (hf : ∀ x, OnlyEvicts x → OnlyEvicts (f x))
    (hs : ∀ x ∈ h.streams, OnlyEvicts x) : ∀ x ∈ (setStream i f h).streams, OnlyEvicts x := by
  have each : ∀ x ∈ fitTo 256 {} h.streams, OnlyEvicts x := fun x hx => by
    rcases mem_fitTo hx with old | rfl
    · exact hs x old
    · exact fun r hr => nomatch hr
  intro x hx
  rcases mem_modifyAt hx with old | ⟨y, hy, rfl⟩
  · exact each x old
  · exact hf y (each y hy)

theorem onlyEvicts_streamOf {h : Hw} (hs : ∀ x ∈ h.streams, OnlyEvicts x) (i : Nat) : OnlyEvicts (streamOf h i) := by
  simp only [streamOf, List.getD_eq_getElem?_getD]
  cases e : h.streams[i]? with
  | none => exact fun r hr => nomatch hr
  | some x => exact hs x (List.mem_of_getElem? e)

/-- A charge that no graph causes changes no graph. -/
theorem chargeGraph_none (c : Nat) (e : Rat) (h : Hw) : (chargeGraph none c e h).sched.graphs = h.sched.graphs := by
  have id (x : Graph) : (if (none : Option Nat) = some x.key then { x with energy := x.energy + e } else x) = x :=
    if_neg (fun no => nomatch no)
  simp only [chargeGraph, id, List.map_id']
  rfl

theorem outcome_goActive (h : Hw) : outcome (goActive h) = outcome h := by
  unfold goActive
  split
  · rfl
  · rfl

/-- A copy to HOME starts. -/
theorem rests_startCopy {h : Hw} (d : Dormant h) (i : Nat) : Rests h (startCopy i .evict .swapOutBusy none h) := by
  have streams : (startCopy i .evict .swapOutBusy none h).streams =
      (setStream i (fun s => { s with st := .swapOutBusy, copyFor := some .evict, dest := none }) h).streams := by
    unfold startCopy goActive
    dsimp only
    split
    · rfl
    · rfl
  constructor
  · rw [startCopy, outcome_goActive]
    exact congrArg (fun gs => (gs, h.sched.notices, h.sched.ended, h.writes, h.raised, h.records))
      (chargeGraph_none 3 (bytesCharge (streamOf h i).slotBytes) h)
  · rw [streams]
    exact onlyEvicts_setStream (fun _ hx => hx) d.streams

theorem rests_takeRequest {h : Hw} (d : Dormant h) (i : Nat) : Rests h (takeRequest i .evict h) := by
  unfold takeRequest
  dsimp only
  split
  · exact rests_startCopy d i
  · exact Rests.refl d

/-- An eviction is served whatever the stream's status at rest. -/
theorem nextRequest_evicts {x : Stream} (only : OnlyEvicts x) : nextRequest x = if x.reqs = [] then none else some .evict := by
  cases e : x.reqs with
  | nil => simp [nextRequest, e]
  | cons r rs =>
    have evict : r = .evict := only r (by rw [e]; exact List.mem_cons_self ..)
    simp [nextRequest, e, evict, StreamReq.isChunk, StreamReq.isOut]

theorem rests_serveStream {h : Hw} (d : Dormant h) (n i : Nat) : Rests h (serveStream n i h) := by
  induction n generalizing h with
  | zero => exact Rests.refl d
  | succ n ih =>
    have only := onlyEvicts_streamOf d.streams i
    have serves : Rests h (match nextRequest (streamOf h i) with
        | some r => serveStream n i (takeRequest i r (setStream i (fun s => { s with reqs := s.reqs.erase r }) h))
        | none =>
          match (streamOf h i).reqs with
          | r :: _ =>
            if (streamOf h i).st = .swappedOut then (trySwapIn i r h).getD h
            else if (streamOf h i).st = .idle then setStream i (fun s => { s with st := .queued }) h
            else h
          | [] => if (streamOf h i).st = .queued then setStream i (fun s => { s with st := .idle }) h else h) := by
      rw [nextRequest_evicts only]
      by_cases noneWaits : (streamOf h i).reqs = []
      · simp only [noneWaits, if_true]
        split
        · exact ⟨rfl, onlyEvicts_setStream (fun _ hx => hx) d.streams⟩
        · exact Rests.refl d
      · simp only [noneWaits, if_false]
        have taken : Rests h (setStream i (fun s => { s with reqs := s.reqs.erase .evict }) h) :=
          ⟨rfl, onlyEvicts_setStream (fun x hx r hr => hx r (List.mem_of_mem_erase hr)) d.streams⟩
        have served := taken.trans (rests_takeRequest (d.of_rests taken) i)
        exact served.trans (ih (d.of_rests served))
    simp only [serveStream]
    split
    · exact serves
    · exact serves
    · exact serves
    · exact serves
    · exact Rests.refl d

theorem rests_serveStreams {h : Hw} (d : Dormant h) : Rests h (serveStreams h) := by
  unfold serveStreams
  generalize List.range h.streams.length = is
  induction is generalizing h with
  | nil => exact Rests.refl d
  | cons i is ih =>
    have one : Rests h (if (streamOf h i).st = .free then h else serveStream ((streamOf h i).reqs.length + 2) i h) := by
      split
      · exact Rests.refl d
      · exact rests_serveStream d _ i
    exact one.trans (ih (d.of_rests one))

/-! ## The run -/

theorem none_resident_of_dormant {h : Hw} (d : Dormant h) : h.sched.graphs.filter (·.resident) = [] :=
  List.filter_eq_nil_iff.2 fun g hg => by simp [(d.graphs g hg).1]

theorem takeNotices_dormant {h : Hw} (d : Dormant h) : takeNotices h = h := by
  simp only [takeNotices, d.notices, List.foldl_nil]
  rw [← d.notices]

theorem rests_settlePass {h : Hw} (d : Dormant h) : Rests h (settlePass h) := by
  have served := rests_serveStreams d
  have ends : (serveStreams h).sched.graphs.filter atEnd = [] :=
    List.filter_eq_nil_iff.2 fun g hg => by simp [atEnd, ((d.of_rests served).graphs g hg).1]
  simp only [settlePass, takeNotices_dormant d, none_resident_of_dormant d, List.foldl_nil, endGraphs, ends]
  exact served

theorem candidates_dormant {h : Hw} (d : Dormant h) (c : Nat) : candidates h c = [] := by
  have noneLive : (h.sched.graphs.filter fun g => g.live && g.rankCls == c) = [] :=
    List.filter_eq_nil_iff.2 fun g hg => by simp [Graph.live, (d.graphs g hg).1]
  simp only [candidates, noneLive, List.flatMap_nil]

theorem issueRound_dormant {h : Hw} (d : Dormant h) (m : Mems) (cs : List Nat) : issueRound m cs h = (none, h) := by
  have turn (c : Nat) : classTurn m c h = .next h := by
    have want : wantPower h [] = h := by
      unfold wantPower
      split
      · rfl
      · rfl
    simp only [classTurn, candidates_dormant d, want]
    rfl
  induction cs with
  | nil => rfl
  | cons c cs ih => simp only [issueRound, turn, ih]

theorem rests_scheduleLoop {h : Hw} (d : Dormant h) (m : Mems) (n : Nat) : Rests h (scheduleLoop m n h) := by
  cases n with
  | zero => exact Rests.refl d
  | succ n =>
    have once := rests_settlePass d
    have twice := once.trans (rests_settlePass (d.of_rests once))
    have still := d.of_rests twice
    simp only [scheduleLoop, issueRound_dormant still, still.notices, List.isEmpty_nil, if_true]
    exact twice

theorem noteHeld_dormant {h : Hw} (d : Dormant h) : noteHeld h = h := by
  have noneReady : (List.range 4).flatMap (candidates h) = [] :=
    List.flatMap_eq_nil_iff.2 fun c _ => candidates_dormant d c
  simp only [noteHeld, noneReady, List.foldl_nil, ite_self]

/-- The levels that graphs wait for do not depend on the streams. -/
theorem rests_noteLevels {h : Hw} (d : Dormant h) : Rests h (noteLevels h) := by
  have idle : Sched.Idle { h with streams := [] } := ⟨d.graphs, d.notices, d.ended, fun x hx => nomatch hx⟩
  have graphs : (noteLevels h).sched.graphs = h.sched.graphs :=
    congrArg (fun h => h.sched.graphs) (Sched.noteLevels_idle idle)
  exact ⟨congrArg (fun gs => (gs, h.sched.notices, h.sched.ended, h.writes, h.raised, h.records)) graphs, d.streams⟩

/-- What follows the issue loop. -/
theorem rests_afterLoop {h : Hw} (d : Dormant h) :
    Rests h (pickCheck (noteLevels (gateRetired (noteHeld (railTurn (startProbes false h)))))) := by
  have railed := rests_of_calm d ((Sched.calm_railTurn _).trans (Sched.calm_startProbes false h))
  generalize railTurn (startProbes false h) = g at railed ⊢
  have gated := railed.trans (rests_of_calm (g := gateRetired g) (d.of_rests railed) rfl)
  rw [noteHeld_dormant (d.of_rests railed)]
  generalize gateRetired g = k at gated ⊢
  have noted := gated.trans (rests_noteLevels (d.of_rests gated))
  exact noted.trans (rests_of_calm (d.of_rests noted) (Sched.calm_pickCheck _))

theorem rests_schedule {h : Hw} (d : Dormant h) (m : Mems) : Rests h (schedule m h) := by
  unfold schedule
  split
  · have settled := rests_settlePass d
    dsimp only
    generalize settlePass h = g at settled ⊢
    have probed := settled.trans (rests_of_calm (d.of_rests settled) (Sched.calm_startProbes true g))
    generalize startProbes true g = k at probed ⊢
    have looped := probed.trans (rests_scheduleLoop (d.of_rests probed) m (roundBound k))
    exact looped.trans (rests_afterLoop (d.of_rests looped))
  · rw [takeNotices_dormant d]
    exact Rests.refl d

/-- A command whose effect leaves such hardware, outside excursions: what the scheduler's run leaves alone. -/
theorem runSched_dormant (f : Mems → Hw → Hw) (s : State) {g : Hw} (out : f s.mem { s.hw with sent := [] } = g)
    (d : Dormant g) :
    ∃ k, Sched.keep k = Sched.keep g ∧ Rests g k ∧ runSched f s = .next (commit s (Machine.finish k)) := by
  have rests := rests_schedule d s.mem
  refine ⟨schedule s.mem g, Sched.keep_schedule s.mem g, rests, ?_⟩
  have once : scheduleAll s.mem (g.sched.graphs.length + 1 + 1) g = schedule s.mem g := by
    rw [scheduleAll]
    simp only [(d.of_rests rests).ended, List.isEmpty_nil, if_true]
  simp only [runSched, run, out, once]

end Sys2Proof.Proofs

/-! PROOFS. How an excursion ends: verdicts that are due, and WAKE_N (R159 to R162). -/

namespace Sys2Proof.Proofs

open Sys2Proof Sys2Proof.Machine Sys2Proof.Laws

/-! ## An excursion alone -/

theorem oneExcursion_clear {s : State} {e : Excursion} (one : OneExcursion s e) : Clear { s.hw with sent := [] } :=
  clear_of_nothingHeld one.1

theorem oneExcursion_idle {s : State} {e : Excursion} (one : OneExcursion s e) : Sched.Idle s.hw := by
  obtain ⟨-, -, -, -, -, graphs, notices, ended, -, streams⟩ := one
  exact ⟨fun g hg => ⟨(graphs g hg).1, (graphs g hg).2.1⟩, notices, ended, streams⟩

/-! ## The POWER slot of the stay (R373) -/

/-- The stay's slot is gone, with its record where there was one. -/
theorem endStay_eq (outcome : Nat) (src : WakeSource) (late : Bool) (time : Nat) (h : Hw) : ∃ rs,
    endStay outcome src late time h = { h with power := { h.power with slot := none }, records := rs } := by
  unfold endStay
  split
  · exact ⟨_, rfl⟩
  next noSlot => exact ⟨h.records, by rw [← noSlot]⟩

/-! ## The end of an excursion's graph (R159, R473) -/

/-- Time that passes up to an instant changes the two clocks alone. -/
theorem passUntil_clocks (due : Nat) (h : Hw) : ∃ time el, passUntil due h = atClocks time el h ∧
    (h.board.aonOn = true → h.power.elapsed ≤ due → el = due) := by
  by_cases on : h.board.aonOn = true
  · by_cases ahead : h.power.elapsed ≤ due
    · exact ⟨_, due, passUntil_eq on ahead, fun _ _ => rfl⟩
    · exact ⟨_, _, if_pos on, fun _ before => absurd before ahead⟩
  · exact ⟨_, _, if_neg on, fun yes => absurd yes on⟩

/-- A graph that waits for its check has no chunk at a stream. -/
theorem dropWaiting_waits {g : Graph} (waits : Waits g) (h : Hw) : dropWaiting g h = h := by
  obtain ⟨-, -, tasks⟩ := waits
  simp only [dropWaiting, tasks, List.length_nil, List.range_zero, List.foldl_nil]

/-- Where every graph waits for its check, the cascade graph that closes is gone. -/
theorem closeCascade_waiting {h : Hw} (waits : ∀ g ∈ h.sched.graphs, Waits g) (key : Nat) : ∃ gs,
    closeCascade key h = { h with sched := { h.sched with graphs := gs } } ∧
      ∀ g ∈ gs, g.resident = false ∧ g.hiRail = [] ∧ g.key ≠ key := by
  have closes : closeCascade key h = { h with sched := { h.sched with
      graphs := (h.sched.graphs.filter fun g => g.key != key || g.resident).map fun g =>
        if g.key = key then { g with closed := true } else g } } := by
    cases found : graphOf h key with
    | none =>
      simp only [closeCascade, found]
      rfl
    | some g =>
      simp only [closeCascade, found, dropWaiting_waits (waits g (List.mem_of_find?_eq_some found))]
      rfl
  refine ⟨_, closes, fun g hg => ?_⟩
  obtain ⟨x, hx, rfl⟩ := List.mem_map.1 hg
  obtain ⟨mem, keep⟩ := List.mem_filter.1 hx
  obtain ⟨resident, hiRail, -⟩ := waits x mem
  have other : x.key ≠ key := by simpa [resident] using keep
  rw [if_neg other]
  exact ⟨resident, hiRail, other⟩

/-- The excursion's own graph is the one whose time is up. -/
theorem verdictTimeoutEffect_open {h : Hw} {e : Excursion} (m : Mems) (exc : h.cascade.exc = some e)
    (isOpen : e.graphOpen = true) (owed : h.cascade.owed = []) : verdictTimeoutEffect m h =
      verdict m (none, .verdictTimeout) (closeCascade e.key (passUntil (verdictDue h e) h)) := by
  have mine : h.cascade.exc.filter (fun e => e.graphOpen) = some e := by
    rw [exc, Option.filter_some, isOpen, if_pos rfl]
  simp only [verdictTimeoutEffect, mine, owed, Option.toList_some, List.append_nil, minBy, if_true]

/-! ## FAIL_VERDICT takes the verdict's place (R159 to R161) -/

/-- The excursion as a verdict that FAIL_VERDICT replaces for a reason leaves it. -/
def failedExc (e : Excursion) (code : Nat) (d : Detail) (pulse : Bool) : Excursion :=
  { e with
    verdict := code, substituted := e.substituted || true, subDetail := d, graphOpen := false, rerun := false
    pulsed := e.pulsed || pulse }

/-- The report of such an excursion gives the reason, and clears LATCHED (R164). -/
theorem reportExcursion_failed (e : Excursion) (code : Nat) (d : Detail) (pulse : Bool) (h : Hw) : ∃ ws,
    reportExcursion (failedExc e code d pulse) h =
      raiseEvent .eventWake d ws { h with bell := { h.bell with latched := 0 } } := by
  unfold reportExcursion failedExc
  simp only [Bool.or_true, if_true]
  exact ⟨_, rfl⟩

/-- CASCADE_PULSE sends one pulse for an excursion, and none for one that a pulse began (R160). -/
def pulses (e : Excursion) (code : Nat) : Bool := code == 3 && !e.pulsed && e.source != .rwakeIn

/-- The code that acts: a pulse that is not sent stays. -/
def actingCode (e : Excursion) (code : Nat) : Nat := if code = 3 ∧ (!pulses e code) = true then 1 else code

/-- The hardware on which the verdict acts. -/
def failedHw (e : Excursion) (code : Nat) (d : Detail) (h : Hw) : Hw :=
  let g := setExc (some (failedExc e code d (pulses e code))) h
  if pulses e code then pulseOut g else g

theorem failedHw_eq (e : Excursion) (code : Nat) (d : Detail) (h : Hw) : ∃ board, failedHw e code d h =
    { h with board := board, cascade := { h.cascade with exc := some (failedExc e code d (pulses e code)) } } := by
  unfold failedHw
  dsimp only
  split
  · exact ⟨_, rfl⟩
  · exact ⟨_, rfl⟩

theorem verdictStep_failed {h : Hw} {e : Excursion} (m : Mems) (d : Detail) (exc : h.cascade.exc = some e) :
    let code := (bellCfg h).failVerdict
    verdictStep m (none, d) h =
      if actingCode e code = 0 then
        if (e.tier == 1 && e.rerun) = true then tierStart m (failedHw e code d h) else (fallBack (failedHw e code d h), none)
      else if e.tier = 1 ∧ actingCode e code ≠ 1 then tierStart m (rise (failedHw e code d h))
      else (stayAwake (failedHw e code d h), none) := by
  simp only [verdictStep, exc]
  rfl

/-- A verdict after which no graph runs and no other verdict is due. -/
theorem verdict_of_step {h g : Hw} {m : Mems} {v : VerdictIn} (step : verdictStep m v h = (g, none)) :
    verdict m v h = g := by
  simp only [verdict, verdictLoop, step]

/-- The device stays at the tier (R160). -/
theorem verdict_stays {h : Hw} {e : Excursion} (m : Mems) (d : Detail) (exc : h.cascade.exc = some e)
    (stays : (bellCfg h).failVerdict = 1 ∨ (bellCfg h).failVerdict ≠ 0 ∧ e.tier ≠ 1) : ∃ board bell ws rs,
    verdict m (none, d) h = { h with
      board := board, bell := bell, records := rs
      cascade := { h.cascade with exc := none, stay := some (e.tier, e.prior) }
      power := { h.power with slot := none }, sq := { h.sq with fetchStopped := false }
      raised := h.raised ++ [{ event := some { status := .eventWake, detail := d, result := ws } }] } := by
  obtain ⟨code, hc⟩ : ∃ code, code = (bellCfg h).failVerdict := ⟨_, rfl⟩
  have step := verdictStep_failed m d exc
  rw [← hc] at stays step
  have acts : actingCode e code ≠ 0 := by
    unfold actingCode
    split <;> omega
  have noRise : ¬(e.tier = 1 ∧ actingCode e code ≠ 1) := by
    unfold actingCode
    split <;> omega
  dsimp only at step
  rw [if_neg acts, if_neg noRise] at step
  obtain ⟨board, failed⟩ := failedHw_eq e code d h
  obtain ⟨ws, report⟩ := reportExcursion_failed e code d (pulses e code) (setExc none (failedHw e code d h))
  have stay : stayAwake (failedHw e code d h) = resumeFetch (endStay 1 e.source e.late e.fireTime
      { reportExcursion (failedExc e code d (pulses e code)) (setExc none (failedHw e code d h)) with
        cascade := { (failedHw e code d h).cascade with exc := none, stay := some (e.tier, e.prior) } }) := by
    rw [failed]
    rfl
  obtain ⟨rs, ended⟩ := endStay_eq 1 e.source e.late e.fireTime
      { reportExcursion (failedExc e code d (pulses e code)) (setExc none (failedHw e code d h)) with
        cascade := { (failedHw e code d h).cascade with exc := none, stay := some (e.tier, e.prior) } }
  refine ⟨board, { h.bell with latched := 0 }, ws, rs, ?_⟩
  rw [verdict_of_step step, stay, ended, report, failed]
  rfl

/-- The excursion is reported, the slot of the stay counts it, and the entry into the prior state begins. -/
theorem fallBack_eq {h : Hw} {e : Excursion} (exc : h.cascade.exc = some e) : ∃ slot keep, fallBack h =
    beginEntry { target := e.prior, keepSense := keep, tier1 := e.tier == 1 }
      { reportExcursion e (setExc none h) with
        power := { (reportExcursion e (setExc none h)).power with slot := slot } } := by
  simp only [fallBack, exc]
  exact ⟨_, _, rfl⟩

/-- The device falls back, but for a re-run that is due (R160, R161). -/
theorem verdict_fallsBack {h : Hw} {e : Excursion} (m : Mems) (d : Detail) (exc : h.cascade.exc = some e)
    (back : (bellCfg h).failVerdict = 0) (noRerun : ¬(e.tier = 1 ∧ e.rerun = true)) : ∃ board bell ws slot keep,
    verdict m (none, d) h = beginEntry { target := e.prior, keepSense := keep, tier1 := e.tier == 1 } { h with
      board := board, bell := bell, cascade := { h.cascade with exc := none }, power := { h.power with slot := slot }
      raised := h.raised ++ [{ event := some { status := .eventWake, detail := d, result := ws } }] } := by
  have step := verdictStep_failed m d exc
  have acts : actingCode e 0 = 0 := if_neg fun three => absurd three.1 (by decide)
  have noRun : ¬(e.tier == 1 && e.rerun) = true := by
    rw [Bool.and_eq_true, beq_iff_eq]
    exact noRerun
  dsimp only at step
  rw [back, if_pos acts, if_neg noRun] at step
  obtain ⟨board, failed⟩ := failedHw_eq e 0 d h
  obtain ⟨ws, report⟩ := reportExcursion_failed e 0 d (pulses e 0) (setExc none (failedHw e 0 d h))
  obtain ⟨slot, keep, falls⟩ := fallBack_eq (h := failedHw e 0 d h) (by rw [failed])
  refine ⟨board, { h.bell with latched := 0 }, ws, slot, keep, ?_⟩
  rw [verdict_of_step step, falls, report, failed]
  rfl

/-! ## The entry that a fall back begins (R371) -/

theorem foldl_completeOwned_eq (st : Status) (d : Detail) (ws : Hw → List Word) (ps : List Nat) (h : Hw) : ∃ rs,
    ps.foldl (fun h p => completeOwned p st d (ws h) h) h = { h with records := rs } := by
  induction ps generalizing h with
  | nil => exact ⟨_, rfl⟩
  | cons p ps ih =>
    obtain ⟨_, e⟩ := completeOwned_eq p st d (ws h) h
    rw [List.foldl_cons, e]
    exact ih _

/-- A STOP that has been applied leaves nothing for the chain's own stop. -/
theorem map_stopChain_applied (cs : List Chain) :
    (cs.map fun c => { c with stopSlots := [] }).map stopChain = cs.map stopChain := by
  rw [List.map_map]
  refine List.map_congr_left fun c _ => ?_
  simp only [Function.comp_apply, stopChain, closeBlock]
  split
  · rfl
  · rfl

/-- The slots that wait in Drumhead complete, and every chain stops. -/
theorem entryRawSlots_eq (h : Hw) : ∃ rs, entryRawSlots h = { h with
      raw := { h.raw with chains := h.raw.chains.map stopChain, waits := [] }, records := rs } ∧
    (RawIdle h → rs = h.records) := by
  obtain ⟨rs, stops⟩ := foldl_completeOwned_eq .done .none (fun h => syncResult h.power.time 0 0)
    (h.raw.chains.flatMap (·.stopSlots)).eraseDups h
  obtain ⟨rs', fails⟩ := failRawSlots_eq
    { h with raw := { h.raw with chains := h.raw.chains.map fun c => { c with stopSlots := [] } }, records := rs }
  have ended : entryRawSlots h = { h with
      raw := { h.raw with chains := h.raw.chains.map stopChain, waits := [] }, records := rs' } := by
    simp only [entryRawSlots, stops, fails, stopAllChains, map_stopChain_applied]
  refine ⟨rs', ended, fun idle => ?_⟩
  have noStops : (h.raw.chains.flatMap (·.stopSlots)).eraseDups = [] := by
    rw [List.flatMap_eq_nil_iff.2 fun c hc => (idle.2 c hc).2]
    rfl
  have applied : RawIdle { h with raw := { h.raw with chains := h.raw.chains.map fun c => { c with stopSlots := [] } } } := by
    refine ⟨idle.1, fun c hc => ?_⟩
    obtain ⟨x, hx, rfl⟩ := List.mem_map.1 hc
    exact ⟨(idle.2 x hx).1, rfl⟩
  have kept : (entryRawSlots h).records = h.records := by
    simp only [entryRawSlots, noStops, List.foldl_nil]
    rw [failRawSlots_idle applied]
    rfl
  rw [ended] at kept
  exact kept

/-- Step 2 of an entry changes streams by their evictions, and completes at most the slots that end with it. -/
theorem beginEntry_eq (n : Entry) (h : Hw) : ∃ cal drum rs, beginEntry n h = evictAll { h with
      sq := { h.sq with fetchStopped := true }, power := { h.power with entry := some n }
      cascade := { h.cascade with stay := none }, cal := cal, drum := drum
      raw := { h.raw with chains := h.raw.chains.map stopChain, waits := [] }, records := rs } ∧
    (RawIdle h → h.cal.run = none → rs = h.records) := by
  obtain ⟨rs, slots, quiet⟩ := entryRawSlots_eq { h with
    sq := { h.sq with fetchStopped := true }, power := { h.power with entry := some n }
    cascade := { h.cascade with stay := none } }
  obtain ⟨cal, chs, a, b, rs', aborted, -⟩ := calAbort_eq { h with
    sq := { h.sq with fetchStopped := true }, power := { h.power with entry := some n }
    cascade := { h.cascade with stay := none }
    raw := { h.raw with chains := h.raw.chains.map stopChain, waits := [] }, records := rs }
  refine ⟨cal, { h.drum with channels := chs, spareFor := a, spareSeen := b }, rs', ?_, fun idle noRun => ?_⟩
  · unfold beginEntry
    dsimp only
    rw [slots, aborted]
  · have same := aborted.symm.trans (calAbort_resting fun r run => nomatch noRun.symm.trans run)
    exact (congrArg Hw.records same).trans (quiet idle)

/-- Nothing waits at a stream but what the entry asks for. -/
theorem onlyEvicts_evictAll {h : Hw} (quiet : ∀ x ∈ h.streams, x.reqs = []) :
    ∀ x ∈ (evictAll h).streams, OnlyEvicts x := by
  intro x hx
  obtain ⟨y, hy, rfl⟩ := List.mem_map.1 hx
  have empty := quiet y hy
  intro r hr
  split at hr
  · simpa [empty] using hr
  · simp [empty] at hr

/-! ## A verdict that is due (R159) -/

theorem exec_verdictTimeout (s : State) : exec .verdictTimeout s = runSched verdictTimeoutEffect s := rfl

/-- The hardware once the time of the verdict has come and its graph is gone. -/
def atVerdict (time el : Nat) (gs : List Graph) (h : Hw) : Hw :=
  { atClocks time el h with sched := { h.sched with graphs := gs } }

/-- Elapsed time is the instant at which the verdict was due, where that is not past (R159, log 1). -/
def DueAt (s : State) (e : Excursion) (el : Nat) : Prop :=
  s.hw.board.aonOn = true → s.hw.power.elapsed ≤ verdictDue s.hw e → el = verdictDue s.hw e

theorem verdictTimeoutEffect_one {s : State} {e : Excursion} (one : OneExcursion s e) : ∃ time el gs,
    verdictTimeoutEffect s.mem { s.hw with sent := [] } =
      verdict s.mem (none, .verdictTimeout) (atVerdict time el gs { s.hw with sent := [] }) ∧
    DueAt s e el ∧ ∀ g ∈ gs, g.resident = false ∧ g.hiRail = [] ∧ g.key ≠ e.key := by
  obtain ⟨-, -, exc, owed, isOpen, waits, -⟩ := one
  obtain ⟨time, el, passed, due⟩ := passUntil_clocks (verdictDue s.hw e) { s.hw with sent := [] }
  obtain ⟨gs, closed, gone⟩ := closeCascade_waiting (h := atClocks time el { s.hw with sent := [] }) waits e.key
  refine ⟨time, el, gs, ?_, due, gone⟩
  rw [verdictTimeoutEffect_open (h := { s.hw with sent := [] }) s.mem exc isOpen owed]
  rw [show verdictDue { s.hw with sent := [] } e = verdictDue s.hw e from rfl, passed, closed]
  rfl

/-- The excursion is over and reported, its verdict's time has come, and its graph is gone. -/
def ExcursionGone (s : State) (e : Excursion) (t : State) : Prop :=
  t.hw.cascade.exc = none ∧ Reports t .eventWake .verdictTimeout ∧ DueAt s e t.hw.power.elapsed ∧
    ∀ g ∈ t.hw.sched.graphs, g.key ≠ e.key

/-- What the command's run leaves of an excursion that its verdict ended. -/
structure Judged (s : State) (e : Excursion) (k : Hw) : Prop where
  exc : k.cascade.exc = none
  raised : ∃ ws, k.raised = [{ event := some { status := .eventWake, detail := .verdictTimeout, result := ws } }]
  posts : k.sq.posts = []
  held : k.sq.heldRecords = []
  queue : k.sq.queue = s.hw.sq.queue
  due : DueAt s e k.power.elapsed
  graphs : ∀ g ∈ k.sched.graphs, g.key ≠ e.key

theorem Judged.room {s : State} {e : Excursion} {k : Hw} (j : Judged s e k) (waiting : s.hw.sq.queue.length ≤ 32) :
    k.sq.queue.length + k.raised.length ≤ 64 := by
  obtain ⟨ws, raised⟩ := j.raised
  rw [j.queue, raised, List.length_singleton]
  omega

theorem Judged.gone {s : State} {e : Excursion} {k : Hw} (j : Judged s e k) (waiting : s.hw.sq.queue.length ≤ 32) :
    ExcursionGone s e (commit s (Machine.finish k)) := by
  obtain ⟨ws, raised⟩ := j.raised
  refine ⟨?_, ?_, ?_, ?_⟩
  · rw [commit_finish_cascade]
    exact j.exc
  · have raises : Raises k .eventWake .verdictTimeout := by
      rw [Raises, raised]
      exact ⟨_, List.mem_singleton_self _, _, rfl, rfl, rfl⟩
    exact reports_of_raised s raises j.posts j.held (j.room waiting)
  · rw [commit_finish_power]
    exact j.due
  · have sched : (commit s (Machine.finish k)).hw.sched = k.sched := Run.finish_sched k
    rw [sched]
    exact j.graphs

/-- STAY in the verdict's place leaves the device at the tier (R160). -/
theorem verdictTimeout_stays {s : State} {e : Excursion} (one : OneExcursion s e)
    (stays : (bellCfg s.hw).failVerdict = 1 ∨ (bellCfg s.hw).failVerdict ≠ 0 ∧ e.tier ≠ 1) :
    Answers .verdictTimeout s fun t => ExcursionGone s e t ∧ t.hw.cascade.stay = some (e.tier, e.prior) ∧
      t.hw.power.slot = none ∧ t.hw.sq.fetchStopped = false ∧ t.hw.power.dev = s.hw.power.dev := by
  have clear := oneExcursion_clear one
  obtain ⟨-, rest⟩ := oneExcursion_idle one
  obtain ⟨time, el, gs, effect, due, gone⟩ := verdictTimeoutEffect_one one
  obtain ⟨board, bell, ws, rs, stay⟩ := verdict_stays (h := atVerdict time el gs { s.hw with sent := [] }) s.mem
    .verdictTimeout one.2.2.1 stays
  obtain ⟨k, calm, e'⟩ := Slots.runSched_calm _ s _ (effect.trans stay)
    ⟨fun g hg => ⟨(gone g hg).1, (gone g hg).2.1⟩, rest⟩
  have sq : k.sq = { s.hw.sq with fetchStopped := false } := (calm_sq calm).trans rfl
  have power : (commit s (Machine.finish k)).hw.power = k.power := commit_finish_power s k
  have cascade := (commit_finish_cascade s k).trans (calm_cascade calm)
  have judged : Judged s e k :=
    { exc := congrArg Cascade.exc (calm_cascade calm)
      raised := ⟨ws, (calm_raised calm).trans (congrArg (· ++ [_]) clear.raised)⟩
      posts := (congrArg Ring1024.posts sq).trans clear.posts
      held := (congrArg Ring1024.heldRecords sq).trans clear.held
      queue := (congrArg Ring1024.queue sq).trans rfl
      due := by
        have elapsed : k.power.elapsed = el := congrArg (fun h => h.power.elapsed) calm
        rw [elapsed]
        exact due
      graphs := by
        have graphs : k.sched.graphs = gs := congrArg (fun h => h.sched.graphs) calm
        rw [graphs]
        exact fun g hg => (gone g hg).2.2 }
  refine ⟨_, (exec_verdictTimeout s).trans e', judged.gone one.2.1, congrArg Cascade.stay cascade, ?_, ?_, ?_⟩
  · rw [power]
    exact congrArg (fun h => h.power.slot) calm
  · exact (Run.finish_fetchStopped k).trans (by rw [sq])
  · rw [power]
    exact (calm_dev calm).trans rfl

/-- FALL_BACK in the verdict's place begins the entry into the prior state (R160, R371). -/
theorem verdictTimeout_fallsBack {s : State} {e : Excursion} (one : OneExcursion s e)
    (back : (bellCfg s.hw).failVerdict = 0) (noRerun : ¬(e.tier = 1 ∧ e.rerun = true)) :
    Answers .verdictTimeout s fun t => ExcursionGone s e t ∧ t.hw.sq.fetchStopped = true ∧
      t.hw.raw.chains = s.hw.raw.chains.map stopChain ∧
      (s.hw.cal.run = none → RawIdle s.hw → t.mem = s.mem) ∧
      ∃ n, t.hw.power.entry = some n ∧ n.target = e.prior ∧ n.saving = false ∧ n.tier1 = (e.tier == 1) := by
  have clear := oneExcursion_clear one
  obtain ⟨-, notices, ended, streams⟩ := oneExcursion_idle one
  obtain ⟨time, el, gs, effect, due, gone⟩ := verdictTimeoutEffect_one one
  obtain ⟨board, bell, ws, slot, keep, falls⟩ := verdict_fallsBack (h := atVerdict time el gs { s.hw with sent := [] })
    s.mem .verdictTimeout one.2.2.1 back noRerun
  obtain ⟨n, hn⟩ : ∃ n : Entry, n = { target := e.prior, keepSense := keep, tier1 := e.tier == 1 } := ⟨_, rfl⟩
  rw [← hn] at falls
  obtain ⟨cal, drum, rs, begins, quiet⟩ := beginEntry_eq n { atVerdict time el gs { s.hw with sent := [] } with
      board := board, bell := bell, cascade := { s.hw.cascade with exc := none }
      power := { (atVerdict time el gs { s.hw with sent := [] }).power with slot := slot }
      raised := s.hw.raised ++ [{ event := some { status := .eventWake, detail := .verdictTimeout, result := ws } }] }
  obtain ⟨g, hg⟩ : ∃ g, g = verdictTimeoutEffect s.mem { s.hw with sent := [] } := ⟨_, rfl⟩
  have whole := ((hg.trans effect).trans falls).trans begins
  have dormant : Dormant g := by
    rw [whole]
    exact ⟨fun g hg => ⟨(gone g hg).1, (gone g hg).2.1⟩, notices, ended,
      onlyEvicts_evictAll fun x hx => (streams x hx).1⟩
  obtain ⟨k, kept, rests, e'⟩ := runSched_dormant verdictTimeoutEffect s hg.symm dormant
  obtain ⟨graphs, -, -, writes, raised, records⟩ : _ ∧ _ ∧ _ ∧ _ ∧ _ ∧ _ := by
    simpa only [outcome, Prod.mk.injEq] using rests.same
  have sq : k.sq = { s.hw.sq with fetchStopped := true } := (congrArg (fun h => h.sq) kept).trans (by rw [whole]; rfl)
  have entry : k.power.entry = some n := (congrArg (fun h => h.power.entry) kept).trans (by rw [whole]; rfl)
  have elapsed : k.power.elapsed = el := (congrArg (fun h => h.power.elapsed) kept).trans (by rw [whole]; rfl)
  have chains : k.raw.chains = s.hw.raw.chains.map stopChain :=
    (congrArg (fun h => h.raw.chains) kept).trans (by rw [whole]; rfl)
  have wipe : k.wipe = none := (congrArg (fun h => h.wipe) kept).trans (by rw [whole]; exact clear.wipe)
  have judged : Judged s e k :=
    { exc := (congrArg (fun h => h.cascade.exc) kept).trans (by rw [whole]; rfl)
      raised := ⟨ws, raised.trans (by rw [whole]; exact congrArg (· ++ [_]) clear.raised)⟩
      posts := (congrArg Ring1024.posts sq).trans clear.posts
      held := (congrArg Ring1024.heldRecords sq).trans clear.held
      queue := (congrArg Ring1024.queue sq).trans rfl
      due := by
        rw [elapsed]
        exact due
      graphs := by
        have waiting : k.sched.graphs = gs := graphs.trans (by rw [whole]; rfl)
        rw [waiting]
        exact fun g hg => (gone g hg).2.2 }
  refine ⟨_, (exec_verdictTimeout s).trans e', judged.gone one.2.1, ?_, ?_, fun noRun idle => ?_, n, ?_, by rw [hn],
    by rw [hn], by rw [hn]⟩
  · exact (Run.finish_fetchStopped k).trans (by rw [sq])
  · rw [commit_finish_raw]
    exact chains
  · have completed : g.records = rs := by
      rw [whole]
      rfl
    exact (commit_finish_raises s k (writes.trans (by rw [whole]; exact clear.writes)) wipe
      ((records.trans completed).trans ((quiet idle noRun).trans clear.records)) judged.posts judged.held
      (judged.room one.2.1)).1
  · rw [commit_finish_power]
    exact entry

/-! ## WAKE_N (R162) -/

/-- The excursion is over, and its graph's verdict is still to be reported. -/
def owing (e : Excursion) (h : Hw) : Hw :=
  { h with cascade := { h.cascade with exc := none, owed := h.cascade.owed ++ [e] } }

/-- The device goes to T2 under the host. -/
theorem endByWakeN_open {e : Excursion} (isOpen : e.graphOpen = true) (h : Hw) :
    endByWakeN e h = resumeFetch (endStay 1 .wakeN false h.power.time (bringT2 (owing e h))) := by
  simp only [endByWakeN, isOpen, if_true]
  rfl

/-- WAKE_N ends an excursion whose graph runs (R162). -/
theorem wakeN_endsExcursion {s : State} {e : Excursion} (env : WakeEnv) (one : OneExcursion s e) (up : s.hw.up = true)
    (high : s.hw.board.resetN = true) (noWakes : s.hw.power.wakes = []) : Answers (.wakeNAccept env) s fun t =>
      t.hw.cascade.exc = none ∧ t.hw.cascade.owed = [e] ∧ t.hw.power.slot = none ∧ t.hw.sq.fetchStopped = false ∧
      t.hw.power.dev = s.hw.power.dev := by
  have idle := oneExcursion_idle one
  obtain ⟨-, -, exc, owed, isOpen, -, -, -, noEntry, -⟩ := one
  obtain ⟨ring, up2⟩ := bringT2_calm (owing e { s.hw with sent := [] })
  obtain ⟨rs, ended⟩ := endStay_eq 1 .wakeN false s.hw.power.time (bringT2 (owing e { s.hw with sent := [] }))
  have out : wakeNEffect env s.mem { s.hw with sent := [] } =
      resumeFetch (endStay 1 .wakeN false s.hw.power.time (bringT2 (owing e { s.hw with sent := [] }))) := by
    refine (if_pos high).trans ?_
    rw [wakeEvent_awake (h := { s.hw with sent := [] }) up noEntry noWakes]
    simp only [actAwake, exc]
    exact endByWakeN_open isOpen _
  rw [ended] at out
  generalize bringT2 (owing e { s.hw with sent := [] }) = u at up2 out
  have cascade : u.cascade = { s.hw.cascade with exc := none, owed := s.hw.cascade.owed ++ [e] } := calm_cascade up2
  have resting : Sched.Idle u := Sched.idle_of_calm up2 idle
  obtain ⟨k, calm, e'⟩ := Slots.runSched_calm _ s _ out resting
  have kept : (commit s (Machine.finish k)).hw.cascade = u.cascade :=
    ((commit_finish_cascade s k).trans (calm_cascade calm)).trans rfl
  have sq : k.sq = { u.sq with fetchStopped := false } := (calm_sq calm).trans rfl
  have slot : k.power.slot = none := congrArg (fun h => h.power.slot) calm
  have dev : k.power.dev = u.power.dev := (calm_dev calm).trans rfl
  have dev2 : u.power.dev = s.hw.power.dev := (calm_dev up2).trans rfl
  refine ⟨_, (exec_wakeN env s).trans e', ?_, ?_, ?_, ?_, ?_⟩
  · rw [kept, cascade]
  · rw [kept, cascade, owed]
    rfl
  · rw [commit_finish_power, slot]
  · exact (Run.finish_fetchStopped k).trans (by rw [sq])
  · rw [commit_finish_power, dev, dev2]

/-- Settles O20: a pulse opens the tier's graph on the hardware that wakes, FAIL_VERDICT acts on the excursion alone, and
WAKE_N leaves it to be reported. -/
theorem excursionsStartAndEnd : Obligations.ExcursionsStartAndEnd := by
  unfold Obligations.ExcursionsStartAndEnd
  refine ⟨?_, ?_, fun s e env one up high noWakes => wakeN_endsExcursion env one up high noWakes⟩
  · intro s env b stays sleeps noFail heeded good hs bell on enabled
    exact rwakeIn_startsExcursion stays sleeps noFail heeded good hs bell on enabled
  · intro s e one
    refine ⟨fun stays => verdictTimeout_stays one stays, fun back noRerun => ?_⟩
    obtain ⟨t, answers, gone, stopped, chains, same, entry⟩ := verdictTimeout_fallsBack one back noRerun
    exact ⟨t, answers, gone, stopped, chains, fun noRun waits slots => same noRun ⟨waits, slots⟩, entry⟩

end Sys2Proof.Proofs

/-! PROOFS. Islands of cores: IDLE, the gating of an empty island and the power-up of a group (R199, R358, R364). -/

namespace Sys2Proof.Proofs

open Sys2Proof Sys2Proof.Machine Sys2Proof.Laws

/-! ## One core among the 32 -/

theorem length_fitTo {α : Type} (n : Nat) (d : α) (xs : List α) : (fitTo n d xs).length = n := by
  simp only [fitTo, List.length_append, List.length_take, List.length_replicate]
  omega

theorem getD_fitTo {α : Type} {n i : Nat} (d : α) (xs : List α) (hi : i < n) :
    (fitTo n d xs).getD i d = xs.getD i d := by
  simp only [fitTo, List.getD_eq_getElem?_getD]
  by_cases listed : i < xs.length
  · rw [List.getElem?_append_left (by rw [List.length_take]; omega), List.getElem?_take_of_lt hi]
  · rw [List.getElem?_append_right (by rw [List.length_take]; omega), List.length_take, List.getElem?_replicate,
      if_pos (by omega), List.getElem?_eq_none (by omega)]
    rfl

theorem coreOf_setCore_same {k : Nat} (f : Core → Core) (h : Hw) (hk : k < 32) :
    coreOf (setCore k f h) k = f (coreOf h k) := by
  have listed : k < (fitTo 32 ({} : Core) h.sched.cores).length := by rw [length_fitTo]; exact hk
  exact (getD_modifyAt_same f {} listed).trans (congrArg f (getD_fitTo ({} : Core) _ hk))

theorem coreOf_setCore_other {k j : Nat} (f : Core → Core) (h : Hw) (ne : k ≠ j) (hk : k < 32) :
    coreOf (setCore j f h) k = coreOf h k :=
  (getD_modifyAt_other f _ {} ne).trans (getD_fitTo ({} : Core) _ hk)

theorem coreOf_commit_finish (s : State) (h : Hw) (k : Nat) : coreOf (commit s (Machine.finish h)).hw k = coreOf h k :=
  congrArg (fun x : Sched => x.cores.getD k {}) (Run.finish_sched h)

theorem commit_finish_powering (s : State) (h : Hw) :
    (commit s (Machine.finish h)).hw.sched.powering = h.sched.powering :=
  congrArg (fun x : Sched => x.powering) (Run.finish_sched h)

/-! ## No core waits for its probe (R415) -/

/-- No core is due or overdue for a probe slice. -/
def NoneDue (h : Hw) : Prop := ∀ c ∈ h.sched.cores, c.due = false ∧ c.overdue = false

theorem coreOf_notDue {h : Hw} (d : NoneDue h) (k : Nat) : (coreOf h k).due = false ∧ (coreOf h k).overdue = false := by
  simp only [coreOf, List.getD_eq_getElem?_getD]
  cases e : h.sched.cores[k]? with
  | none => exact ⟨rfl, rfl⟩
  | some c => exact d c (List.mem_of_getElem? e)

theorem noneDue_setCore {h : Hw} (d : NoneDue h) (k : Nat) {f : Core → Core}
    (hf : ∀ x, (f x).due = x.due ∧ (f x).overdue = x.overdue) : NoneDue (setCore k f h) := by
  have each : ∀ c ∈ fitTo 32 {} h.sched.cores, c.due = false ∧ c.overdue = false := fun c hc => by
    rcases mem_fitTo hc with old | rfl
    · exact d c old
    · exact ⟨rfl, rfl⟩
  intro c hc
  rcases mem_modifyAt hc with old | ⟨y, hy, rfl⟩
  · exact each c old
  · exact ⟨(hf y).1.trans (each y hy).1, (hf y).2.trans (each y hy).2⟩

theorem probeWaits_of_noneDue {h : Hw} (d : NoneDue h) (k : Nat) : probeWaits h k = false := by
  obtain ⟨due, overdue⟩ := coreOf_notDue d k
  simp only [probeWaits, due, overdue, Bool.or_false, Bool.and_false]

theorem startProbes_of_noneDue {h : Hw} (d : NoneDue h) (o : Bool) : startProbes o h = h := by
  simp only [startProbes]
  split
  · apply Sched.foldl_same
    intro k
    obtain ⟨due, overdue⟩ := coreOf_notDue d k
    simp only [due, overdue, Bool.or_false, ite_self, Bool.false_and, Bool.false_eq_true, if_false]
  · rfl

/-! ## Cores behind the scheduler's run -/

/-- What the scheduler leaves of the islands where it has no work and no probe to start: it stops or starts a clock, and
gates the islands of retired cores. -/
structure IslandsKept (g k : Hw) : Prop where
  powering : k.sched.powering = g.sched.powering
  core : ∀ c, ∃ off stays, coreOf k c = { coreOf g c with clockOff := off, powered := (coreOf g c).powered && stays } ∧
    ((coreOf g c).retired = false → stays = true)

theorem IslandsKept.of_sched {g k : Hw} (powering : k.sched.powering = g.sched.powering)
    (cores : k.sched.cores = g.sched.cores) : IslandsKept g k := by
  refine ⟨powering, fun c => ⟨(coreOf g c).clockOff, true, ?_, fun _ => rfl⟩⟩
  rw [Bool.and_true]
  exact congrArg (fun xs : List Core => xs.getD c {}) cores

theorem IslandsKept.trans {a b c : Hw} (ab : IslandsKept a b) (bc : IslandsKept b c) : IslandsKept a c := by
  refine ⟨bc.powering.trans ab.powering, fun k => ?_⟩
  obtain ⟨off₁, stays, before, usable⟩ := ab.core k
  obtain ⟨off₂, stays', after, usable'⟩ := bc.core k
  rw [before] at after usable'
  refine ⟨off₂, stays && stays', ?_, fun notRetired => ?_⟩
  · rw [after, Bool.and_assoc]
  · rw [usable notRetired, usable' notRetired, Bool.and_self]

theorem islandsKept_gateRetired (h : Hw) : IslandsKept h (gateRetired h) := by
  refine ⟨rfl, fun c => ?_⟩
  simp only [coreOf, gateRetired, List.getD_eq_getElem?_getD, List.getElem?_mapIdx]
  cases h.sched.cores[c]? with
  | none => exact ⟨false, true, rfl, fun _ => rfl⟩
  | some x =>
    obtain ⟨off, clocked⟩ : ∃ off, (if h.power.dev = .active then { x with clockOff := false } else x) =
        { x with clockOff := off } := by
      split
      · exact ⟨false, rfl⟩
      · exact ⟨x.clockOff, rfl⟩
    simp only [Option.map_some, Option.getD_some, clocked]
    split
    next gated =>
      refine ⟨off, false, by rw [Bool.and_false], fun usable => ?_⟩
      simp only [usable, Bool.false_and, Bool.false_eq_true] at gated
    · exact ⟨off, true, by rw [Bool.and_true], fun _ => rfl⟩

theorem railTurn_sched (h : Hw) : (railTurn h).sched = h.sched := by
  simp only [railTurn]
  repeat' split
  all_goals rfl

theorem pickCheck_islands (h : Hw) :
    (pickCheck h).sched.powering = h.sched.powering ∧ (pickCheck h).sched.cores = h.sched.cores := by
  simp only [pickCheck]
  repeat' split
  all_goals exact ⟨rfl, rfl⟩

theorem islandsKept_schedule {h : Hw} (i : Sched.Idle h) (d : NoneDue h) (m : Mems) : IslandsKept h (schedule m h) := by
  unfold schedule
  split
  · dsimp only
    rw [Sched.settlePass_idle i, startProbes_of_noneDue d, Sched.scheduleLoop_idle i, startProbes_of_noneDue d]
    have railed := Sched.idle_of_calm (Sched.calm_railTurn h) i
    rw [Sched.noteHeld_idle railed, Sched.noteLevels_idle (h := gateRetired (railTurn h)) railed]
    have sched := railTurn_sched h
    obtain ⟨powering, cores⟩ := pickCheck_islands (gateRetired (railTurn h))
    have turned : IslandsKept h (railTurn h) := .of_sched (by rw [sched]) (by rw [sched])
    exact (turned.trans (islandsKept_gateRetired _)).trans (.of_sched powering cores)
  · rw [Sched.takeNotices_idle i]
    exact .of_sched rfl rfl

/-- A command at rest whose effect changes only cores, what waits for power, and the two clocks. -/
theorem rest_islands {s : State} (hs : AtRest s) {f : Mems → Hw → Hw} {g : Hw} {time el : Nat}
    (out : f s.mem { s.hw with sent := [] } = g)
    (calm : Sched.calm g = Sched.calm (atClocks time el { s.hw with sent := [] }))
    (noneDue : NoneDue g) : ∃ k, IslandsKept g k ∧ runSched f s = .next (commit s (Machine.finish k)) ∧
      k.power.elapsed = el ∧ (commit s (Machine.finish k)).mem = s.mem ∧
      OnlyChanges (reporting ++ resting) s (commit s (Machine.finish k)) := by
  have idle : Sched.Idle g := Sched.idle_of_calm calm (idle_of_atRest hs)
  have kept := Sched.calm_schedule idle s.mem
  have clocked := kept.trans calm
  obtain ⟨writes, wipe, raised, records, posts, held⟩ := atRest_clear hs
  have once : scheduleAll s.mem (g.sched.graphs.length + 1 + 1) g = schedule s.mem g := by
    rw [scheduleAll]
    simp only [(Sched.idle_of_calm kept idle).2.2.1, List.isEmpty_nil, if_true]
  refine ⟨schedule s.mem g, islandsKept_schedule idle noneDue s.mem, ?_, ?_, ?_, ?_⟩
  · simp only [runSched, run, out, once]
  · exact congrArg (fun h => h.power.elapsed) clocked
  · exact rest_silent_mem s clocked ⟨writes, wipe, raised, records, posts, held⟩ (atRest_room hs)
  · exact Slots.calm_only [] s _ _ clocked rfl

/-! ## IDLE (R364) -/

theorem exec_idleEntry (s : State) : exec .idleEntry s = execIdleEntry s := rfl

theorem coreOf_enterIdle {h : Hw} {k : Nat} (hk : k < h.sched.cores.length) : coreOf (enterIdle h) k =
    { coreOf h k with
      tiles := [], powered := (coreOf h k).powered && (pairBytes h k != 0 || (coreOf h k).run.isSome)
      clockOff := pairBytes h k != 0 && !(coreOf h k).run.isSome } := by
  simp only [coreOf, enterIdle, List.getD_eq_getElem?_getD, List.getElem?_mapIdx, List.getElem?_eq_getElem hk,
    Option.map_some, Option.getD_some]

theorem idleEntry_workless {s : State} (active : s.hw.power.dev = .active) (noExc : NoExcursion s)
    (noStay : s.hw.cascade.stay = none) (noEntry : s.hw.power.entry = none) (idle : workless s.hw = true) :
    exec .idleEntry s = .next { s with hw := enterIdle { s.hw with sent := [] } } := by
  have idle' : workless { s.hw with sent := [] } = true := idle
  rw [exec_idleEntry, execIdleEntry, Run.quiet_answers]
  simp only [active, noExc.1, noStay, noEntry, idle', Option.isNone_none, beq_self_eq_true, Bool.and_self, if_true]

theorem idleEntry_working {s : State} (busy : workless s.hw = false) :
    exec .idleEntry s = .next { s with hw := { s.hw with sent := [] } } := by
  have busy' : workless { s.hw with sent := [] } = false := busy
  rw [exec_idleEntry, execIdleEntry, Run.quiet_answers]
  simp only [busy', Bool.and_false, Bool.false_eq_true, if_false]

/-! ## An empty island is gated (R358) -/

theorem exec_islandGate (k : Nat) (s : State) :
    exec (.islandGate k) s = runSched (fun _ h => islandGateEffect k h) s := rfl

/-- The instant at which a free island is gated. -/
def gateDue (h : Hw) (k : Nat) : Nat := (coreOf h k).ended + usTicks 100

theorem islandGate_gates {s : State} {k : Nat} (hs : AtRest s) (noneDue : NoneDue s.hw) (active : s.hw.power.dev = .active)
    (powered : (coreOf s.hw k).powered = true) (empty : islandEmpty s.hw k = true) (on : s.hw.board.aonOn = true)
    (hk : k < 32) (ahead : s.hw.power.elapsed ≤ gateDue s.hw k) : Answers (.islandGate k) s fun t =>
      (coreOf t.hw k).powered = false ∧ t.hw.power.elapsed = gateDue s.hw k ∧ t.mem = s.mem ∧
      OnlyChanges (reporting ++ resting) s t := by
  obtain ⟨time, out⟩ : ∃ time, islandGateEffect k { s.hw with sent := [] } =
      setCore k (fun x => { x with powered := false }) (atClocks time (gateDue s.hw k) { s.hw with sent := [] }) := by
    have test : (s.hw.power.dev == .active && (coreOf s.hw k).powered && islandEmpty s.hw k) = true := by
      rw [active, powered, empty]
      rfl
    exact ⟨_, (if_pos test).trans (congrArg _ (passUntil_eq (h := { s.hw with sent := [] }) on ahead))⟩
  have noneDue' : NoneDue (atClocks time (gateDue s.hw k) { s.hw with sent := [] }) := noneDue
  obtain ⟨g, islands, e, elapsed, mem, only⟩ :=
    rest_islands hs (f := fun _ h => islandGateEffect k h) out rfl (noneDue_setCore noneDue' k fun _ => ⟨rfl, rfl⟩)
  refine ⟨_, (exec_islandGate k s).trans e, ?_, ?_, mem, only⟩
  · obtain ⟨off, stays, core, -⟩ := islands.core k
    rw [coreOf_commit_finish, core, coreOf_setCore_same _ _ hk]
    rfl
  · rw [commit_finish_power, elapsed]

/-! ## A group of islands is ready (R199, R358) -/

theorem exec_islandReady (n : Nat) (s : State) :
    exec (.islandReady n) s = runSched (fun _ h => islandReadyEffect n h) s := rfl

/-- A core once its island is powered: one that was not has its generator seeded from device time (R199). -/
def poweredUp (p : Power) (x : Core) : Core :=
  if x.powered then x
  else { x with powered := true, clockOff := false, ended := p.elapsed, seed := p.time, drawn := 0 }

theorem poweredUp_powered (p : Power) (x : Core) : (poweredUp p x).powered = true := by
  unfold poweredUp
  split
  · assumption
  · rfl

theorem poweredUp_twice (p : Power) (x : Core) : poweredUp p (poweredUp p x) = poweredUp p x :=
  if_pos (poweredUp_powered p x)

theorem poweredUp_retired (p : Power) (x : Core) : (poweredUp p x).retired = x.retired := by
  unfold poweredUp
  split <;> rfl

theorem poweredUp_seeds (p : Power) {x : Core} (off : x.powered = false) :
    (poweredUp p x).seed = p.time ∧ (poweredUp p x).drawn = 0 := by
  unfold poweredUp
  rw [off, if_neg Bool.false_ne_true]
  exact ⟨rfl, rfl⟩

/-- What the power-up of an island leaves of the hardware. -/
structure PoweredFrom (h g : Hw) : Prop where
  calm : Sched.calm g = Sched.calm h
  power : g.power = h.power
  powering : g.sched.powering = h.sched.powering
  noneDue : NoneDue h → NoneDue g

theorem poweredFrom_powerIsland (k : Nat) (h : Hw) : PoweredFrom h (powerIsland k h) := by
  unfold powerIsland
  split
  · exact ⟨rfl, rfl, rfl, id⟩
  · exact ⟨rfl, rfl, rfl, fun d => noneDue_setCore d k fun _ => ⟨rfl, rfl⟩⟩

theorem poweredFrom_group (ks : List Nat) (h : Hw) : PoweredFrom h (ks.foldl (fun h k => powerIsland k h) h) := by
  induction ks generalizing h with
  | nil => exact ⟨rfl, rfl, rfl, id⟩
  | cons k ks ih =>
    obtain ⟨calm, power, powering, noneDue⟩ := poweredFrom_powerIsland k h
    obtain ⟨calm', power', powering', noneDue'⟩ := ih (powerIsland k h)
    exact ⟨calm'.trans calm, power'.trans power, powering'.trans powering, fun d => noneDue' (noneDue d)⟩

theorem coreOf_powerIsland_same {k : Nat} (h : Hw) (hk : k < 32) :
    coreOf (powerIsland k h) k = poweredUp h.power (coreOf h k) := by
  unfold powerIsland poweredUp
  split
  · rfl
  · exact coreOf_setCore_same _ h hk

theorem coreOf_powerIsland_other {k j : Nat} (h : Hw) (ne : k ≠ j) (hk : k < 32) :
    coreOf (powerIsland j h) k = coreOf h k := by
  unfold powerIsland
  split
  · rfl
  · exact coreOf_setCore_other _ h ne hk

theorem coreOf_group {k : Nat} (hk : k < 32) (ks : List Nat) (h : Hw) :
    coreOf (ks.foldl (fun h k => powerIsland k h) h) k =
      if k ∈ ks then poweredUp h.power (coreOf h k) else coreOf h k := by
  induction ks generalizing h with
  | nil => rfl
  | cons j ks ih =>
    have power := (poweredFrom_powerIsland j h).power
    rw [List.foldl_cons, ih, power]
    by_cases same : k = j
    · subst same
      rw [coreOf_powerIsland_same h hk, poweredUp_twice, ite_self, if_pos (List.mem_cons_self ..)]
    · rw [coreOf_powerIsland_other h same hk]
      simp only [List.mem_cons, same, false_or]

/-- Where no probe waits, a group's islands are those of usable cores (R358). -/
theorem usable_of_groupCores {h : Hw} {n k : Nat} (noneDue : NoneDue h) (hk : k ∈ groupCores h n) :
    k < 32 ∧ (coreOf h k).retired = false := by
  obtain ⟨listed, test⟩ := List.mem_filter.1 hk
  rw [probeWaits_of_noneDue noneDue k, Bool.or_false] at test
  simp only [Bool.and_eq_true, List.contains_iff_mem] at test
  obtain ⟨-, -, serving⟩ := test
  obtain ⟨-, notRetired⟩ := List.mem_filter.1 (List.mem_filter.1 serving).1
  exact ⟨List.mem_range.1 listed, by simpa using notRetired⟩

/-- The group asked for is taken from those that wait, and the next one starts. -/
def nextGroup (h : Hw) : Hw :=
  { h with sched := { h.sched with powering := h.sched.powerNext.head?, powerNext := h.sched.powerNext.tail } }

theorem islandReadyEffect_asked {h : Hw} {n : Nat} (asked : h.sched.powering = some n) :
    islandReadyEffect n h = (groupCores h n).foldl (fun h k => powerIsland k h) (nextGroup h) := if_pos asked

theorem islandReady_powers {s : State} {n : Nat} (hs : AtRest s) (noneDue : NoneDue s.hw)
    (asked : s.hw.sched.powering = some n) : Answers (.islandReady n) s fun t =>
      (∀ k ∈ groupCores s.hw n, (coreOf t.hw k).powered = true ∧
        ((coreOf s.hw k).powered = false → (coreOf t.hw k).seed = s.hw.power.time ∧ (coreOf t.hw k).drawn = 0)) ∧
      t.hw.sched.powering = s.hw.sched.powerNext.head? ∧ t.mem = s.mem ∧ OnlyChanges (reporting ++ resting) s t := by
  have out := islandReadyEffect_asked (h := { s.hw with sent := [] }) asked
  obtain ⟨calm, -, powering, due⟩ :=
    poweredFrom_group (groupCores { s.hw with sent := [] } n) (nextGroup { s.hw with sent := [] })
  obtain ⟨g, islands, e, -, mem, only⟩ := rest_islands hs (f := fun _ h => islandReadyEffect n h)
    (time := s.hw.power.time) (el := s.hw.power.elapsed) out (calm.trans rfl) (due noneDue)
  refine ⟨_, (exec_islandReady n s).trans e, fun k hk => ?_, ?_, mem, only⟩
  · obtain ⟨small, usable⟩ := usable_of_groupCores noneDue hk
    have up := (coreOf_group small (groupCores s.hw n) (nextGroup { s.hw with sent := [] })).trans (if_pos hk)
    obtain ⟨off, stays, core, unlessRetired⟩ := islands.core k
    have on : stays = true := unlessRetired ((congrArg Core.retired up).trans ((poweredUp_retired _ _).trans usable))
    rw [coreOf_commit_finish, core, on, Bool.and_true]
    exact ⟨(congrArg Core.powered up).trans (poweredUp_powered _ _), fun wasOff => by
      obtain ⟨seeded, drawn⟩ := poweredUp_seeds s.hw.power wasOff
      exact ⟨(congrArg Core.seed up).trans seeded, (congrArg Core.drawn up).trans drawn⟩⟩
  · rw [commit_finish_powering, islands.powering, powering]
    rfl

/-- Settles O26: IDLE_ENTRY rewrites each core by itself; behind ISLAND_GATE and ISLAND_READY the scheduler, with no
work and no probe due, gates retired cores alone. -/
theorem islandsAndIdle : Obligations.IslandsAndIdle := by
  unfold Obligations.IslandsAndIdle
  refine ⟨?_, fun s busy => idleEntry_working busy, ?_, ?_⟩
  · intro s active noExc noStay noEntry idle
    exact ⟨_, idleEntry_workless active noExc noStay noEntry idle, rfl, rfl, rfl, fun k hk => coreOf_enterIdle hk, rfl,
      rfl, .inr rfl, rfl⟩
  · intro s k hs noneDue active powered empty on hk ahead
    exact islandGate_gates hs noneDue active powered empty on hk ahead
  · intro s n hs noneDue up asked
    obtain ⟨t, answers, cores, rest⟩ := islandReady_powers hs noneDue asked
    exact ⟨t, answers, fun k hk _ => cores k hk, rest⟩

end Sys2Proof.Proofs

/-! PROOFS. How a rail change ends (R243 to R245, R360). -/

namespace Sys2Proof.Proofs

open Sys2Proof Sys2Proof.Machine Sys2Proof.Laws

/-! ## The rail behind an idle run of the scheduler -/

theorem startProbe_power (k : Nat) (h : Hw) : (startProbe k h).power = h.power := by
  simp only [startProbe, askIsland, askGroup]
  repeat' split
  all_goals rfl

theorem startProbes_power (o : Bool) (h : Hw) : (startProbes o h).power = h.power := by
  simp only [startProbes]
  split
  · refine List.foldlRecOn (motive := fun g => g.power = h.power) _ _ rfl fun (g : Hw) same k _ => ?_
    split
    all_goals
      split
      · exact (startProbe_power k g).trans same
      · exact same
  · rfl

theorem pickCheck_power (h : Hw) : (pickCheck h).power = h.power := by
  simp only [pickCheck]
  repeat' split
  all_goals rfl

/-- What waits for the rail, and what becomes of it, is all in the power domain's own state. -/
theorem railTurn_power_congr {g h : Hw} (e : g.power = h.power) : (railTurn g).power = (railTurn h).power := by
  simp only [railTurn, beginRail, e]
  repeat' split
  all_goals simp only [e]

/-- Where nothing waits for the rail its turn changes nothing. -/
theorem railTurn_nothing {h : Hw} (change : h.power.change = none) (next : h.power.railNext = none) : railTurn h = h := by
  simp only [railTurn, change, next, ite_self]

/-- A level change whose clock has switched starts its own write once the rail is free (R360). -/
theorem railTurn_switched {h : Hw} {c : LevelChange} (change : h.power.change = some c) (switched : c.switched = true)
    (unwritten : c.written = false) (free : h.power.railChange = none) (noDip : h.power.dip = none) : railTurn h =
      beginRail h.power.rail c.target { h with power := { h.power with change := some { c with written := true } } } := by
  simp only [railTurn, change, switched, unwritten, free, noDip, Option.isSome_none, Bool.or_self, Bool.false_eq_true,
    if_false, Bool.not_false, Bool.true_or, Bool.and_self, if_true]

/-- Of the power domain an idle run of the scheduler changes only what waits for the rail. -/
theorem schedule_power {h : Hw} (i : Sched.Idle h) (m : Mems) :
    (schedule m h).power = if h.up then (railTurn h).power else h.power := by
  have serves : (h.power.ctrlOn && h.up) = h.up := by
    simp only [Hw.up, ← Bool.and_assoc, Bool.and_self]
  simp only [schedule, serves]
  split
  · have probed : (startProbes false (startProbes true h)).power = h.power :=
      (startProbes_power false _).trans (startProbes_power true h)
    have same : Sched.calm (railTurn (startProbes false (startProbes true h))) = Sched.calm h :=
      (Sched.calm_railTurn _).trans ((Sched.calm_startProbes false _).trans (Sched.calm_startProbes true h))
    have loops := Sched.idle_of_calm (Sched.calm_startProbes true h) i
    have railed := Sched.idle_of_calm same i
    rw [Sched.settlePass_idle i, Sched.scheduleLoop_idle loops, Sched.noteHeld_idle railed,
      Sched.noteLevels_idle (h := gateRetired _) railed, pickCheck_power]
    exact railTurn_power_congr probed
  · rw [Sched.takeNotices_idle i]

/-- With no work the scheduler runs once behind an effect. -/
theorem runSched_once {f : Mems → Hw → Hw} {s : State} {g : Hw} (out : f s.mem { s.hw with sent := [] } = g)
    (i : Sched.Idle g) : runSched f s = .next (commit s (Machine.finish (schedule s.mem g))) := by
  have ended := (Sched.idle_of_calm (Sched.calm_schedule i s.mem) i).2.2.1
  have once : scheduleAll s.mem (g.sched.graphs.length + 1 + 1) g = schedule s.mem g := by
    rw [scheduleAll]
    simp only [ended, List.isEmpty_nil, if_true]
  simp only [runSched, run, out, once]

/-! ## The end of the write (R244, R245) -/

theorem exec_railChangeComplete (reply : AvsReply) (s : State) :
    exec (.railChangeComplete reply) s = runSched (fun _ h => railDone reply h) s := rfl

/-- The rail change is over at an instant, whatever the rail's voltage is then. -/
def railOver (reply : AvsReply) (r : RailChange) (time el : Nat) (h : Hw) : Hw :=
  { h with power := { h.power with
    time := time, elapsed := el, railChange := none, railSince := el, avs := railFrames reply r } }

/-- The rail stands at a level and a voltage. -/
def railAt (level mv : Nat) (h : Hw) : Hw := { h with power := { h.power with rail := level, railMv := mv } }

/-- A level change that the rail's write ends completes its slot (R360). -/
def levelEnds (h : Hw) : Hw :=
  match h.power.change with
  | some c =>
    if c.switched && c.written then completeOwned c.pos .done .none [] { h with power := { h.power with change := none } }
    else h
  | none => h

theorem railDone_eq {h : Hw} {r : RailChange} (going : h.power.railChange = some r) (reply : AvsReply) :
    ∃ time el, (h.board.aonOn = true → h.power.elapsed ≤ r.since + usTicks 15 → el = r.since + usTicks 15) ∧
      railDone reply h = levelEnds (if reply.ack then railAt r.level r.mv (railOver reply r time el h)
        else avsGiveUp reply r.plevel (railOver reply r time el h)) := by
  obtain ⟨time, el, passed, due⟩ := passUntil_clocks (r.since + usTicks 15) h
  refine ⟨time, el, due, ?_⟩
  simp only [railDone, going, passed]
  rfl

/-- What a write that was never acknowledged leaves: the margins are disabled, and issue is at M0 (R245). -/
def atM0 (mv : Nat) (held : Bool) (causes : Nat) (rs : List Raised) (h : Hw) : Hw :=
  { h with
    power := { h.power with marginsOff := true, rail := 0, railMv := mv, railNext := none, clockHeld := held }
    health := { h.health with causes := causes }
    raised := rs }

theorem avsGiveUp_eq (reply : AvsReply) (p : Nat) (h : Hw) : ∃ mv held causes rs,
    avsGiveUp reply p h = atM0 mv held causes rs h ∧ rs.length ≤ h.raised.length + 2 ∧
    (reply.readMv.isSome → Raises (avsGiveUp reply p h) .eventHealth .avsMargin) ∧
    (reply.readMv.isSome → reply.m0Ack → mv = railMillivolts p 0 ∧ held = h.power.clockHeld) ∧
    (reply.readMv = none ∨ reply.m0Ack = false → held = true ∧ causes = setBit h.health.causes causeAvs true ∧
      Raises (avsGiveUp reply p h) .eventHealth .avsMarginFail) := by
  unfold avsGiveUp
  cases reply.readMv with
  | none => exact ⟨_, _, _, _, rfl, by simp [raiseHealth], nofun, nofun, fun _ => ⟨rfl, rfl, raises_raiseHealth ..⟩⟩
  | some mv =>
    cases reply.m0Ack with
    | true =>
      exact ⟨_, _, _, _, rfl, by simp [raiseHealth], fun _ => raises_raiseHealth .., fun _ _ => ⟨rfl, rfl⟩,
        fun failed => by simp at failed⟩
    | false =>
      refine ⟨mv, _, _, _, rfl, by simp [raiseHealth], fun _ => ?_, nofun, fun _ => ⟨rfl, rfl, raises_raiseHealth ..⟩⟩
      obtain ⟨x, hx, named⟩ := raises_raiseHealth .avsMargin 0 7 mv 0
        { h with power := { h.power with marginsOff := true, rail := 0, railMv := mv, railNext := none } }
      exact ⟨x, List.mem_append_left _ hx, named⟩

/-! ## Where no level changes -/

theorem raises_of_calm {k g : Hw} (e : Sched.calm k = Sched.calm g) {st : Status} {d : Detail} (raises : Raises g st d) :
    Raises k st d := by
  obtain ⟨x, hx, named⟩ := raises
  exact ⟨x, by rw [calm_raised e]; exact hx, named⟩

theorem levelEnds_unchanged {h : Hw} (change : h.power.change = none) : levelEnds h = h := by
  simp only [levelEnds, change]

/-- What a command at rest answers where its effect completes nothing and leaves nothing to the rail's turn. -/
structure RailRests (s : State) (g : Hw) (t : State) : Prop where
  power : t.hw.power = g.power
  causes : t.hw.health.causes = g.health.causes
  mem : t.mem = s.mem
  reports : ∀ st d, Raises g st d → Reports t st d

theorem rail_rests {c : Instr} {s : State} {f : Mems → Hw → Hw} {g : Hw} (he : exec c s = runSched f s)
    (out : f s.mem { s.hw with sent := [] } = g) (idle : Sched.Idle g) (change : g.power.change = none)
    (next : g.power.railNext = none) (clear : Clear { g with raised := [] })
    (room : g.sq.queue.length + g.raised.length ≤ 64) (ps : List Portion)
    (frame : blank (reporting ++ resting ++ ps) g = blank (reporting ++ resting ++ ps) s.hw) :
    Answers c s fun t => RailRests s g t ∧ OnlyChanges (reporting ++ resting ++ ps) s t := by
  have kept := Sched.calm_schedule idle s.mem
  have power : (schedule s.mem g).power = g.power := by
    rw [schedule_power idle, railTurn_nothing change next, ite_self]
  generalize hk : schedule s.mem g = k at kept power
  obtain ⟨writes, wipe, -, records, posts, held⟩ := clear
  have sq := calm_sq kept
  have posts' : k.sq.posts = [] := by rw [sq]; exact posts
  have held' : k.sq.heldRecords = [] := by rw [sq]; exact held
  have room' : k.sq.queue.length + k.raised.length ≤ 64 := by rw [sq, calm_raised kept]; exact room
  refine ⟨commit s (Machine.finish k), by rw [he, runSched_once out idle, hk], ⟨?_, ?_, ?_, ?_⟩,
    Slots.calm_only ps s g k kept frame⟩
  · rw [commit_finish_power, power]
  · exact (Run.finish_causes k).trans (congrArg (fun h => h.health.causes) kept)
  · exact (commit_finish_raises s k ((calm_writes kept).trans writes) ((calm_wipe kept).trans wipe)
      ((calm_records kept).trans records) posts' held' room').1
  · exact fun st d raises => reports_of_raised s (raises_of_calm kept raises) posts' held' room'

section Alone

variable {s : State} {r : RailChange} {reply : AvsReply} (going : s.hw.power.railChange = some r)
  (noChange : s.hw.power.change = none) (noNext : s.hw.power.railNext = none) (hs : AtRest s)
  (on : s.hw.board.aonOn = true) (ahead : s.hw.power.elapsed ≤ r.since + usTicks 15)

include going noChange noNext hs on ahead

/-- An acknowledged write ends at its level and voltage (R244). -/
theorem railChange_acknowledged (ack : reply.ack = true) : Answers (.railChangeComplete reply) s fun t =>
    (t.hw.power.railChange = none ∧ t.hw.power.elapsed = r.since + usTicks 15 ∧
      t.hw.power.railSince = r.since + usTicks 15 ∧ t.mem = s.mem) ∧
    t.hw.power.rail = r.level ∧ t.hw.power.railMv = r.mv ∧ t.hw.power.marginsOff = s.hw.power.marginsOff ∧
    OnlyChanges (reporting ++ resting) s t := by
  obtain ⟨time, el, due, out⟩ := railDone_eq (h := { s.hw with sent := [] }) going reply
  rw [due on ahead, if_pos ack, levelEnds_unchanged (by exact noChange)] at out
  obtain ⟨writes, wipe, raised, records, posts, held⟩ := atRest_clear hs
  have room : s.hw.sq.queue.length + s.hw.raised.length ≤ 64 := by
    have before : s.hw.raised = [] := raised
    rw [before]
    exact atRest_room hs
  obtain ⟨t, answers, rests, only⟩ := rail_rests (exec_railChangeComplete reply s) out (idle_of_atRest hs) noChange noNext
    ⟨writes, wipe, rfl, records, posts, held⟩ room [] rfl
  refine ⟨t, answers, ?_⟩
  dsimp only
  rw [rests.power]
  exact ⟨⟨rfl, rfl, rfl, rests.mem⟩, rfl, rfl, rfl, only⟩

omit noNext in
/-- A write that was never acknowledged leaves the rail at M0 without margins (R245). -/
theorem railChange_unacknowledged (noAck : reply.ack = false) : Answers (.railChangeComplete reply) s fun t =>
    (t.hw.power.railChange = none ∧ t.hw.power.elapsed = r.since + usTicks 15 ∧
      t.hw.power.railSince = r.since + usTicks 15 ∧ t.mem = s.mem) ∧
    t.hw.power.rail = 0 ∧ t.hw.power.marginsOff = true ∧
    OnlyChanges (reporting ++ resting ++ [Portion.health]) s t ∧
    (reply.readMv.isSome → Reports t .eventHealth .avsMargin) ∧
    (reply.readMv.isSome → reply.m0Ack → t.hw.power.railMv = railMillivolts r.plevel 0 ∧
      t.hw.power.clockHeld = s.hw.power.clockHeld) ∧
    (reply.readMv = none ∨ reply.m0Ack = false → t.hw.power.clockHeld = true ∧
      t.hw.health.causes = setBit s.hw.health.causes causeAvs true ∧ Reports t .eventHealth .avsMarginFail) := by
  obtain ⟨time, el, due, out⟩ := railDone_eq (h := { s.hw with sent := [] }) going reply
  obtain ⟨mv, hold, causes, rs, gaveUp, few, margin, back, fail⟩ := avsGiveUp_eq reply r.plevel
    (railOver reply r time el { s.hw with sent := [] })
  rw [gaveUp] at margin fail
  rw [noAck, if_neg Bool.false_ne_true, gaveUp, levelEnds_unchanged (by exact noChange)] at out
  obtain ⟨writes, wipe, raised, records, posts, held⟩ := atRest_clear hs
  have room : s.hw.sq.queue.length + rs.length ≤ 64 := by
    have waiting : s.hw.sq.queue.length ≤ 32 := hs.2
    have before : s.hw.raised = [] := raised
    change rs.length ≤ s.hw.raised.length + 2 at few
    rw [before, List.length_nil] at few
    omega
  obtain ⟨t, answers, rests, only⟩ := rail_rests (exec_railChangeComplete reply s) out (idle_of_atRest hs) noChange rfl
    ⟨writes, wipe, rfl, records, posts, held⟩ room [.health] rfl
  have at_ : el = r.since + usTicks 15 := due on ahead
  refine ⟨t, answers, ?_⟩
  dsimp only
  rw [rests.power, rests.causes]
  refine ⟨⟨rfl, at_, at_, rests.mem⟩, rfl, rfl, only, fun read => rests.reports _ _ (margin read), back, fun failed => ?_⟩
  obtain ⟨clock, cause, raises⟩ := fail failed
  exact ⟨clock, cause, rests.reports _ _ raises⟩

end Alone

/-! ## Where the level changes -/

section Switched

variable {s : State} {r : RailChange} {c : LevelChange} {reply : AvsReply} (going : s.hw.power.railChange = some r)
  (changing : s.hw.power.change = some c) (switched : c.switched = true) (ack : reply.ack = true) (hs : AtRest s)

include going changing switched ack hs

/-- The write of a slower level ends the level's change and completes its slot (R360). -/
theorem railChange_endsLevel {o : Owned} (written : c.written = true) (wr : s.hw.writesRecords = true)
    (owned : s.hw.sq.owned.find? (fun x => x.pos == c.pos) = some o) : Answers (.railChangeComplete reply) s fun t =>
      t.hw.power.change = none ∧ t.hw.power.rail = r.level ∧ t.hw.power.railMv = r.mv ∧
      Finishes s t { pos := c.pos, kind := o.kind, status := .done, tag := o.tag } ∧
      OnlyChanges (reporting ++ resting) s t := by
  obtain ⟨time, el, -, out⟩ := railDone_eq (h := { s.hw with sent := [] }) going reply
  obtain ⟨h, hh⟩ : ∃ h, h = railAt r.level r.mv (railOver reply r time el { s.hw with sent := [] }) := ⟨_, rfl⟩
  obtain ⟨g, hg⟩ : ∃ g : Hw, g = { h with power := { h.power with change := none } } := ⟨_, rfl⟩
  have change : h.power.change = some c := by rw [hh]; exact changing
  have ends : levelEnds h = complete { pos := c.pos, kind := o.kind, status := .done, tag := o.tag } g := by
    simp only [levelEnds, change, switched, written, Bool.and_self, if_true]
    rw [← hg]
    exact completeOwned_owned (by rw [hg, hh]; exact owned) .done .none []
  rw [if_pos ack, ← hh, ends] at out
  have clear : Clear g := by
    obtain ⟨writes, wipe, raised, records, posts, held⟩ := atRest_clear hs
    rw [hg, hh]
    exact ⟨writes, wipe, raised, records, posts, held⟩
  obtain ⟨level, mv⟩ : g.power.rail = r.level ∧ g.power.railMv = r.mv := by rw [hg, hh]; exact ⟨rfl, rfl⟩
  have idle : Sched.Idle g := by rw [hg, hh]; exact idle_of_atRest hs
  have room : g.sq.queue.length ≤ 64 := by rw [hg, hh]; exact atRest_room hs
  obtain ⟨k, kept, answers⟩ := Slots.runSched_calm (fun _ h => railDone reply h) s _ out idle
  have sq := calm_sq kept
  have noRaised := (calm_raised kept).trans clear.raised
  refine ⟨_, (exec_railChangeComplete reply s).trans answers, ?_, ?_, ?_, ?_, ?_⟩
  · have unchanged : k.power.change.map Sched.keepChange = g.power.change.map Sched.keepChange :=
      congrArg (fun h => h.power.change) kept
    rw [commit_finish_power]
    rw [hg] at unchanged
    exact Option.map_eq_none_iff.1 unchanged
  · rw [commit_finish_power]
    exact (congrArg (fun h => h.power.rail) kept).trans level
  · rw [commit_finish_power]
    exact (congrArg (fun h => h.power.railMv) kept).trans mv
  · exact commit_finishes s ((calm_writes kept).trans clear.writes) ((calm_wipe kept).trans clear.wipe)
      ((calm_records kept).trans (congrArg (· ++ [_]) clear.records)) (by rw [sq]; exact clear.posts)
      (by rw [sq]; exact clear.held) (by rw [sq, noRaised]; exact room)
      ((calm_writesRecords kept).trans (by rw [hg, hh]; exact wr))
      ((calm_image kept).trans (by rw [hg, hh]; rfl))
  · exact Slots.calm_only [] s _ k kept (by rw [hg, hh]; rfl)

/-- Where another rail change ends first, the level's own write starts (R243, R360). -/
theorem railChange_startsWrite (unwritten : c.written = false) (up : s.hw.up = true) (noDip : s.hw.power.dip = none) :
    Answers (.railChangeComplete reply) s fun t =>
      t.hw.power.change = some { c with written := true } ∧ t.hw.power.rail = r.level ∧
      (∃ q, t.hw.power.railChange = some q ∧ q.level = r.level ∧ q.plevel = c.target ∧
        q.mv = railMillivolts c.target r.level) ∧ t.mem = s.mem ∧ OnlyChanges resting s t := by
  obtain ⟨time, el, -, out⟩ := railDone_eq (h := { s.hw with sent := [] }) going reply
  obtain ⟨g, hg⟩ : ∃ g, g = railAt r.level r.mv (railOver reply r time el { s.hw with sent := [] }) := ⟨_, rfl⟩
  have change : g.power.change = some c := by rw [hg]; exact changing
  have goesOn : levelEnds g = g := by
    simp only [levelEnds, change, unwritten, Bool.and_false, Bool.false_eq_true, if_false]
  rw [if_pos ack, ← hg, goesOn] at out
  have clear : Clear g := by
    obtain ⟨writes, wipe, raised, records, posts, held⟩ := atRest_clear hs
    rw [hg]
    exact ⟨writes, wipe, raised, records, posts, held⟩
  have idle : Sched.Idle g := by rw [hg]; exact idle_of_atRest hs
  have level : g.power.rail = r.level := by rw [hg]; rfl
  have kept := Sched.calm_schedule idle s.mem
  have power := schedule_power idle s.mem
  rw [if_pos (by rw [hg]; exact up), railTurn_switched change switched unwritten (by rw [hg]; rfl)
    (by rw [hg]; exact noDip), level] at power
  have answers := runSched_once (f := fun _ h => railDone reply h) out idle
  have clear' := clear_of_calm kept clear
  have room : (schedule s.mem g).sq.queue.length ≤ 64 := by rw [calm_sq kept, hg]; exact atRest_room hs
  rw [finish_unreported clear' room, commit_clear s clear'] at answers
  refine ⟨_, (exec_railChangeComplete reply s).trans answers, ?_⟩
  dsimp only
  rw [power]
  refine ⟨rfl, level, ⟨_, rfl, rfl, rfl, rfl⟩, rfl, ?_, .inr rfl, rfl⟩
  have resting_calm (h : Hw) : blank resting (Sched.calm h) = blank resting h := rfl
  rw [← resting_calm (schedule s.mem g), kept, hg]
  rfl

end Switched

/-- Settles O23: at rest the end of the change is all that the command does, but for what waits for the rail's turn. -/
theorem railChangesEnd : Obligations.RailChangesEnd := by
  unfold Obligations.RailChangesEnd
  refine ⟨?_, fun s r c reply going changing switched ack hs => ⟨fun o written wr owned =>
    railChange_endsLevel going changing switched ack hs written wr owned, fun unwritten up noDip =>
    railChange_startsWrite going changing switched ack hs unwritten up noDip⟩⟩
  intro s r reply going noChange noNext hs on ahead
  cases ack : reply.ack with
  | true =>
    obtain ⟨t, answers, ⟨free, el, since, mem⟩, ended⟩ :=
      railChange_acknowledged going noChange noNext hs on ahead ack
    exact ⟨t, answers, free, el, since, mem, fun _ => ended, nofun⟩
  | false =>
    obtain ⟨t, answers, ⟨free, el, since, mem⟩, ended⟩ :=
      railChange_unacknowledged going noChange hs on ahead ack
    exact ⟨t, answers, free, el, since, mem, nofun, fun _ => ended⟩

end Sys2Proof.Proofs

/-! PROOFS. Core faults, replays and escalation windows (R236 to R240, R298, R382, R413, R417). -/

namespace Sys2Proof.Proofs

open Sys2Proof Sys2Proof.Machine Sys2Proof.Laws

/-! ## What the scheduler keeps of cores, counters and time, whatever it issues and ends -/

/-- A core's lasting part, as `Sched.keep` has it. -/
theorem getD_keep_cores (h : Hw) {k : Nat} (hk : k < 32) :
    (Sched.keep h).sched.cores.getD k (Sched.keepCore {}) = Sched.keepCore (coreOf h k) :=
  (getD_fitTo _ _ hk).trans (List.getD_map ..)

/-- The counters that the scheduler and the end of a command leave alone. -/
def lastingCounters (c : Counters) : Counters :=
  { c with
    csUe := 0, dramUe := 0, refusedAddr := 0, refusedMaster := 0, refusedValid := false, refusals := [], eventsLost := 0 }

theorem lastingCounters_keep (h : Hw) : lastingCounters (Sched.keep h).health.cnt = lastingCounters h.health.cnt := rfl
theorem keep_time (h : Hw) : (Sched.keep h).power.time = h.power.time := rfl
theorem keep_windowCut (h : Hw) : (Sched.keep h).sched.windowCut = h.sched.windowCut := rfl

/-- What a state has of the hardware that an effect left to the scheduler, outside excursions. -/
structure SchedKeeps (g : Hw) (t : State) : Prop where
  core : ∀ k < 32, Sched.keepCore (coreOf t.hw k) = Sched.keepCore (coreOf g k)
  counters : lastingCounters t.hw.health.cnt = lastingCounters g.health.cnt
  time : t.hw.power.time = g.power.time
  windowCut : t.hw.sched.windowCut = g.sched.windowCut

/-- What lies outside the portions that a command's end and the scheduler may change, other fields made constant. -/
def outside (h : Hw) : Hw :=
  { h with
    sq := { h.sq with owned := [], posts := [], queue := [], lost := 0, heldRecords := [] }
    sched := {}, streams := [], ring := {}, power := {}, health := {}
    writes := [], wipe := none, records := [], raised := [], sent := [], draws := 0 }

theorem blank_outside (h : Hw) : blank (reporting ++ scheduling) (outside h) = blank (reporting ++ scheduling) h := by
  have events : (reporting ++ scheduling).elem .events = true := rfl
  have sched : (reporting ++ scheduling).elem .sched = true := rfl
  have streams : (reporting ++ scheduling).elem .streams = true := rfl
  have ring : (reporting ++ scheduling).elem .ring = true := rfl
  have power : (reporting ++ scheduling).elem .power = true := rfl
  have health : (reporting ++ scheduling).elem .health = true := rfl
  have log : (reporting ++ scheduling).elem .log = true := rfl
  simp only [blank, events, sched, streams, ring, power, health, log, if_true, outside]

theorem outside_cascade (h : Hw) : (outside h).cascade = h.cascade := rfl
theorem outside_setCore (k : Nat) (f : Core → Core) (h : Hw) : outside (setCore k f h) = outside h := by
  simp only [outside, setCore]
theorem outside_bump (f : Counters → Counters) (h : Hw) : outside (bump f h) = outside h := by
  simp only [outside, bump]

/-- A command with the scheduler whose effect ends like given hardware, but for what the scheduler changes anyway. -/
theorem runSched_keeps {c : Instr} {s : State} {f : Mems → Hw → Hw} {g h : Hw} (he : exec c s = runSched f s)
    (out : f s.mem { s.hw with sent := [] } = g) (like : Sched.keep g = Sched.keep h) (noExc : NoExcursion s)
    (rest : outside h = outside s.hw) :
    Answers c s fun t => SchedKeeps h t ∧ OnlyChanges (reporting ++ scheduling) s t := by
  have cascade : h.cascade = s.hw.cascade := by rw [← outside_cascade h, rest, outside_cascade]
  have cascade' : g.cascade = s.hw.cascade := (congrArg Hw.cascade like).trans cascade
  have frame : blank (reporting ++ scheduling) h = blank (reporting ++ scheduling) s.hw := by
    rw [← blank_outside h, rest, blank_outside]
  obtain ⟨k, kept, answers⟩ := Slots.runSched_keep f s g out (by rw [cascade']; exact noExc.1)
    (by rw [cascade']; exact noExc.2)
  have e : Sched.keep k = Sched.keep h := kept.trans like
  refine ⟨_, he.trans answers, ⟨fun n hn => ?_, ?_, ?_, ?_⟩, Slots.sched_only [] s h k e frame⟩
  · rw [coreOf_commit_finish, ← getD_keep_cores k hn, e, getD_keep_cores h hn]
  · rw [commit_finish_counter lastingCounters (fun _ => rfl), ← lastingCounters_keep k, e, lastingCounters_keep h]
  · rw [commit_finish_power, ← keep_time k, e, keep_time h]
  · rw [← keep_windowCut h, ← e, keep_windowCut k]
    exact congrArg Sched.windowCut (Run.finish_sched k)

/-! ## A core fault (R298, R299, R413, R417) -/

/-- A core's fault is counted, it is free, and the copy of its store begins. -/
def suspectCore (k : Nat) (h : Hw) : Hw :=
  setCore k (fun x => { x with suspect := x.suspect + 1, copying := true }) (freeCore k h)

/-- The count of tasks that failed on a core, set. -/
def withFailCores (n : Nat) (h : Hw) : Hw :=
  { h with health := { h.health with cnt := { h.health.cnt with failCores := n } } }

theorem keep_withFailCores (n : Nat) (h : Hw) : Sched.keep (withFailCores n h) = withFailCores n (Sched.keep h) := rfl

theorem coreOf_suspectCore {k : Nat} (h : Hw) (hk : k < 32) :
    (coreOf (suspectCore k h) k).suspect = (coreOf h k).suspect + 1 ∧ (coreOf (suspectCore k h) k).copying = true ∧
      (coreOf (suspectCore k h) k).retiring = (coreOf h k).retiring := by
  rw [suspectCore, freeCore, coreOf_setCore_same _ _ hk, coreOf_setCore_same _ _ hk]
  exact ⟨rfl, rfl, rfl⟩

/-- A task that fails on a core is counted, and otherwise leaves what the scheduler leaves. -/
theorem keep_failCore {g h : Hw} (like : Sched.keep g = Sched.keep h) (key t : Nat) (d : Detail) :
    ∃ n, Sched.keep (failCore key t d g) = Sched.keep (withFailCores n h) := by
  refine ⟨satAdd 32 g.health.cnt.failCores 1, (Sched.keep_failTask ..).trans ?_⟩
  rw [keep_withFailCores, ← like]
  rfl

theorem keep_setOverdue (k : Nat) (h : Hw) :
    Sched.keep (setCore k (fun c => { c with overdue := true }) h) = Sched.keep h :=
  Sched.keep_setCore k _ (by intro; rfl) h

theorem retireDue_stays {k : Nat} {h : Hw} (stays : (coreOf h k).retiring = false) : retireDue k h = h := by
  simp only [retireDue, stays, Bool.false_and, Bool.false_eq_true, if_false]

theorem outside_suspected (n k : Nat) (h : Hw) : outside (withFailCores n (suspectCore k h)) = outside h := by
  have counted : outside (withFailCores n (suspectCore k h)) = outside (suspectCore k h) := by
    simp only [outside, withFailCores]
  rw [counted, suspectCore, freeCore, outside_setCore, outside_setCore]

/-- But for what the scheduler changes anyway, a fault of a core that is not about to retire leaves it suspected, and a
task that it failed counted. -/
theorem keep_coreFaultEffect {k : Nat} {h : Hw} (hk : k < 32) (stays : (coreOf h k).retiring = false) (code : Nat) :
    ∃ n, Sched.keep (coreFaultEffect k code h) = Sched.keep (withFailCores n (suspectCore k h)) := by
  obtain ⟨g, due, n, like⟩ : ∃ g, coreFaultEffect k code h = retireDue k g ∧
      ∃ n, Sched.keep g = Sched.keep (withFailCores n (suspectCore k h)) := by
    refine ⟨_, rfl, ?_⟩
    split
    · exact ⟨(suspectCore k h).health.cnt.failCores, rfl⟩
    · split
      · exact keep_failCore ((keep_setOverdue ..).trans ((keep_setOverdue ..).trans rfl)) ..
      · exact ⟨(suspectCore k h).health.cnt.failCores, rfl⟩
  have core : Sched.keepCore (coreOf g k) = Sched.keepCore (coreOf (withFailCores n (suspectCore k h)) k) := by
    rw [← getD_keep_cores g hk, like, getD_keep_cores _ hk]
  have stays' : (coreOf g k).retiring = false :=
    (congrArg Core.retiring core).trans ((coreOf_suspectCore h hk).2.2.trans stays)
  exact ⟨n, by rw [due, retireDue_stays stays', like]⟩

/-- A fault adds to a core's suspect count and starts the copy of its store. -/
def Suspects (s : State) (k : Nat) (t : State) : Prop :=
  (coreOf t.hw k).suspect = (coreOf s.hw k).suspect + 1 ∧ (coreOf t.hw k).copying = true ∧
    OnlyChanges (reporting ++ scheduling) s t

/-- What each fault of a core does: its own counter, whatever else it counts, and the suspicion. -/
theorem coreFault_suspects {c : Instr} {s : State} {f : Mems → Hw → Hw} {k code : Nat} {count : Counters → Counters}
    (he : exec c s = runSched f s)
    (out : f s.mem { s.hw with sent := [] } = coreFaultEffect k code (bump count { s.hw with sent := [] }))
    (noExc : NoExcursion s) (hk : k < 32) (stays : (coreOf s.hw k).retiring = false) : Answers c s fun t =>
      Suspects s k t ∧
      ∃ n, lastingCounters t.hw.health.cnt = lastingCounters { count s.hw.health.cnt with failCores := n } := by
  obtain ⟨n, like⟩ := keep_coreFaultEffect (h := bump count { s.hw with sent := [] }) hk stays code
  obtain ⟨t, answers, keeps, only⟩ := runSched_keeps he out like noExc ((outside_suspected ..).trans (outside_bump ..))
  obtain ⟨suspect, copying, -⟩ := coreOf_suspectCore (bump count { s.hw with sent := [] }) hk
  have core := keeps.core k hk
  exact ⟨t, answers, ⟨(congrArg Core.suspect core).trans suspect, (congrArg Core.copying core).trans copying, only⟩, n,
    keeps.counters⟩

/-- The effect of CORE_FAULT. -/
def checkFails (k : Nat) (check : BlockCheck) (h : Hw) : Hw :=
  match (coreOf h k).run with
  | some (.piece r _) =>
    if h.power.ctrlOn && (check != .residue || residueCovers h r) then
      match check with
      | .datapath => coreFaultEffect k 1 (bump (fun c => { c with datapathFails := satAdd 32 c.datapathFails 1 }) h)
      | .residue => coreFaultEffect k 2 (bump (fun c => { c with residueFails := satAdd 32 c.residueFails 1 }) h)
    else h
  | _ => h

theorem exec_coreFault (k : Nat) (check : BlockCheck) (s : State) :
    exec (.coreFault k check) s = runSched (fun _ h => checkFails k check h) s := rfl

/-- The effect of REPLAY_ABANDON. -/
def abandonEffect (k : Nat) (h : Hw) : Hw :=
  if coreRuns h k && (coreOf h k).replays == 8 then
    coreFaultEffect k 4 (bump (fun c => { c with replayAbandons := satAdd 32 c.replayAbandons 1 }) h)
  else h

theorem exec_replayAbandon (k : Nat) (s : State) :
    exec (.replayAbandon k) s = runSched (fun _ h => abandonEffect k h) s := rfl

/-- The effect of SEQUENCER_STALL. -/
def stallEffect (k : Nat) (h : Hw) : Hw :=
  if coreRuns h k then coreFaultEffect k 5 (bump (fun c => { c with stalls := satAdd 32 c.stalls 1 }) h) else h

theorem exec_sequencerStall (k : Nat) (s : State) :
    exec (.sequencerStall k) s = runSched (fun _ h => stallEffect k h) s := rfl

section Faults

variable {s : State} {k : Nat} (noExc : NoExcursion s) (ctrl : s.hw.power.ctrlOn = true) (hk : k < 32)

include noExc

theorem residue_uncovered {r : PieceRef} {l : Nat} (runs : (coreOf s.hw k).run = some (.piece r l)) (hk : k < 32)
    (uncovered : residueCovers s.hw r = false) : Answers (.coreFault k .residue) s fun t =>
      (coreOf t.hw k).suspect = (coreOf s.hw k).suspect ∧
      t.hw.health.cnt.residueFails = s.hw.health.cnt.residueFails := by
  have runs' : (coreOf { s.hw with sent := [] } k).run = some (.piece r l) := runs
  have uncovered' : residueCovers { s.hw with sent := [] } r = false := uncovered
  have out : checkFails k .residue { s.hw with sent := [] } = { s.hw with sent := [] } := by
    simp only [checkFails, runs', uncovered', bne_self_eq_false, Bool.or_self, Bool.and_false, Bool.false_eq_true, if_false]
  obtain ⟨t, answers, keeps, -⟩ := runSched_keeps (exec_coreFault k .residue s) out rfl noExc rfl
  have suspect := congrArg Core.suspect (keeps.core k hk)
  have counts := congrArg Counters.residueFails keeps.counters
  exact ⟨t, answers, suspect, counts⟩

variable (stays : (coreOf s.hw k).retiring = false)

include ctrl hk stays

theorem datapath_fails {r : PieceRef} {l : Nat} (runs : (coreOf s.hw k).run = some (.piece r l)) :
    Answers (.coreFault k .datapath) s fun t =>
      Suspects s k t ∧
      t.hw.health.cnt.datapathFails = min (s.hw.health.cnt.datapathFails + 1) (2 ^ 32 - 1) := by
  have runs' : (coreOf { s.hw with sent := [] } k).run = some (.piece r l) := runs
  have out : checkFails k .datapath { s.hw with sent := [] } = coreFaultEffect k 1
      (bump (fun c => { c with datapathFails := satAdd 32 c.datapathFails 1 }) { s.hw with sent := [] }) := by
    simp only [checkFails, runs']
    exact if_pos (by rw [ctrl]; rfl)
  obtain ⟨t, answers, suspect, n, counts⟩ := coreFault_suspects (exec_coreFault k .datapath s) out noExc hk stays
  exact ⟨t, answers, suspect, congrArg Counters.datapathFails counts⟩

theorem residue_fails {r : PieceRef} {l : Nat} (runs : (coreOf s.hw k).run = some (.piece r l))
    (covered : residueCovers s.hw r = true) : Answers (.coreFault k .residue) s fun t =>
      Suspects s k t ∧
      t.hw.health.cnt.residueFails = min (s.hw.health.cnt.residueFails + 1) (2 ^ 32 - 1) := by
  have runs' : (coreOf { s.hw with sent := [] } k).run = some (.piece r l) := runs
  have covered' : residueCovers { s.hw with sent := [] } r = true := covered
  have out : checkFails k .residue { s.hw with sent := [] } = coreFaultEffect k 2
      (bump (fun c => { c with residueFails := satAdd 32 c.residueFails 1 }) { s.hw with sent := [] }) := by
    simp only [checkFails, runs']
    exact if_pos (by rw [ctrl, covered']; rfl)
  obtain ⟨t, answers, suspect, n, counts⟩ := coreFault_suspects (exec_coreFault k .residue s) out noExc hk stays
  exact ⟨t, answers, suspect, congrArg Counters.residueFails counts⟩

theorem replays_abandoned (runs : (coreOf s.hw k).run.isSome = true) (eighth : (coreOf s.hw k).replays = 8) :
    Answers (.replayAbandon k) s fun t =>
      Suspects s k t ∧
      t.hw.health.cnt.replayAbandons = min (s.hw.health.cnt.replayAbandons + 1) (2 ^ 32 - 1) := by
  have test : (coreRuns s.hw k && (coreOf s.hw k).replays == 8) = true := by
    rw [coreRuns, runs, ctrl, eighth]
    rfl
  obtain ⟨t, answers, suspect, n, counts⟩ := coreFault_suspects (exec_replayAbandon k s) (if_pos test) noExc hk stays
  exact ⟨t, answers, suspect, congrArg Counters.replayAbandons counts⟩

theorem sequencer_stalls (runs : (coreOf s.hw k).run.isSome = true) : Answers (.sequencerStall k) s fun t =>
      Suspects s k t ∧
      t.hw.health.cnt.stalls = min (s.hw.health.cnt.stalls + 1) (2 ^ 32 - 1) := by
  have test : coreRuns s.hw k = true := by
    rw [coreRuns, runs, ctrl]
    rfl
  obtain ⟨t, answers, suspect, n, counts⟩ := coreFault_suspects (exec_sequencerStall k s) (if_pos test) noExc hk stays
  exact ⟨t, answers, suspect, congrArg Counters.stalls counts⟩

end Faults

/-! ## The copy of a core's store ends (R298) -/

/-- What the scheduler leaves alone, Health made constant. -/
def keepUnit (h : Hw) : Hw := { Sched.keep h with health := {} }

theorem keepUnit_of_keep {g h : Hw} (e : Sched.keep g = Sched.keep h) : keepUnit g = keepUnit h := by
  rw [keepUnit, e, keepUnit]

theorem keepUnit_foldl {α : Type} (f : Hw → α → Hw) (hf : ∀ h x, keepUnit (f h x) = keepUnit h) (xs : List α) (h : Hw) :
    keepUnit (xs.foldl f h) = keepUnit h :=
  List.foldlRecOn (motive := fun g => keepUnit g = keepUnit h) xs f rfl fun g same x _ => (hf g x).trans same

theorem keepUnit_corrected (x : Memory) (n : Nat) (h : Hw) : keepUnit (corrected x n h) = keepUnit h := by
  obtain ⟨_, _, _, _, _, e, -⟩ := corrected_eq x n h
  rw [e]
  rfl

theorem keepUnit_uncorrected (x : Memory) (a : Nat) (h : Hw) : keepUnit (uncorrected x a h) = keepUnit h := rfl

theorem keepUnit_loseTile (k base : Nat) (h : Hw) : keepUnit (loseTile k h base) = keepUnit h := by
  simp only [loseTile]
  split
  · rfl
  · split
    · rfl
    · refine (keepUnit_foldl _ (fun h i => keepUnit_of_keep (Sched.keep_failTask ..)) _ _).trans ?_
      exact (keepUnit_uncorrected ..).trans (keepUnit_of_keep (Sched.keep_freeFill ..))

theorem keepUnit_chunkBack (i : Nat) (h : Hw) : keepUnit (chunkBack i h) = keepUnit h := by
  unfold chunkBack
  split
  · rfl
  · rfl

theorem keepUnit_pairHome (m : Mems) (i : Nat) (h : Hw) : keepUnit (pairHome m i h) = keepUnit h :=
  keepUnit_of_keep ((Sched.keep_setStream ..).trans (Sched.keep_putDev ..))

theorem keepUnit_copyStream (m : Mems) (bad : Nat → Bool) (i : Nat) (h : Hw) :
    keepUnit (copyStream m bad i h) = keepUnit h := by
  have stream (f : Stream → Stream) (h : Hw) : keepUnit (setStream i f h) = keepUnit h := rfl
  simp only [copyStream]
  split
  · rfl
  · split
    · exact (stream ..).trans ((keepUnit_uncorrected ..).trans (keepUnit_chunkBack ..))
    · exact (stream ..).trans ((keepUnit_pairHome ..).trans (keepUnit_chunkBack ..))

theorem outside_of_keepUnit {g h : Hw} (e : keepUnit g = keepUnit h) : outside g = outside h := by
  have through (x : Hw) : outside (keepUnit x) = outside x := rfl
  rw [← through g, e, through h]

theorem coreOf_of_keepUnit {g h : Hw} (e : keepUnit g = keepUnit h) {k : Nat} (hk : k < 32) :
    Sched.keepCore (coreOf g k) = Sched.keepCore (coreOf h k) := by
  have through (x : Hw) : (keepUnit x).sched.cores.getD k (Sched.keepCore {}) = Sched.keepCore (coreOf x k) :=
    getD_keep_cores x hk
  rw [← through g, e, through h]

/-- The copy ends at a core whose store holds nothing that the copy has not taken. -/
theorem copyDoneEffect_eq {m : Mems} {k : Nat} {bad : List Nat} {fixed : Nat} {h : Hw}
    (copying : (coreOf h k).copying = true) : ∃ g f count, keepUnit g = keepUnit h ∧
      copyDoneEffect m k bad fixed h = releaseAbandoned k (bump count (setCore k f g)) ∧
      ∀ x : Core, (f x).copying = false ∧ (f x).suspect = x.suspect := by
  refine ⟨_, _, _, ?_, if_pos copying, fun x => ⟨rfl, rfl⟩⟩
  refine (keepUnit_foldl _ (fun h i => keepUnit_copyStream ..) _ _).trans ?_
  exact (keepUnit_foldl _ (fun h a => keepUnit_loseTile ..) _ _).trans (keepUnit_corrected ..)

theorem exec_coreFaultCopyDone (k : Nat) (bad : List Nat) (fixed : Nat) (s : State) :
    exec (.coreFaultCopyDone k bad fixed) s = runSched (fun m h => copyDoneEffect m k bad fixed h) s := rfl

theorem copyDone_ends {s : State} {k : Nat} (noExc : NoExcursion s) (hk : k < 32) (copying : (coreOf s.hw k).copying = true)
    (bad : List Nat) (fixed : Nat) : Answers (.coreFaultCopyDone k bad fixed) s fun t =>
      (coreOf t.hw k).copying = false ∧ (coreOf t.hw k).suspect = (coreOf s.hw k).suspect ∧
      OnlyChanges (reporting ++ scheduling) s t := by
  obtain ⟨g, f, count, same, out, ends⟩ := copyDoneEffect_eq (m := s.mem) (bad := bad) (fixed := fixed)
    (h := { s.hw with sent := [] }) copying
  have released (h : Hw) : outside (releaseAbandoned k h) = outside h := by simp only [outside, releaseAbandoned]
  have rest : outside (releaseAbandoned k (bump count (setCore k f g))) = outside s.hw := by
    rw [released, outside_bump, outside_setCore, outside_of_keepUnit same]
    rfl
  obtain ⟨t, answers, keeps, only⟩ := runSched_keeps (exec_coreFaultCopyDone k bad fixed s) out rfl noExc rest
  have core := keeps.core k hk
  have freed : coreOf (releaseAbandoned k (bump count (setCore k f g))) k = f (coreOf g k) := coreOf_setCore_same f g hk
  rw [freed] at core
  obtain ⟨stops, suspect⟩ := ends (coreOf g k)
  have before := congrArg Core.suspect (coreOf_of_keepUnit same hk)
  exact ⟨t, answers, (congrArg Core.copying core).trans stops,
    (congrArg Core.suspect core).trans (suspect.trans before), only⟩

/-! ## Replays (R236 to R239) -/

theorem exec_shadowReplay (k : Nat) (repeated : Bool) (s : State) : exec (.shadowReplay k repeated) s =
    .next { s with hw := replayEffect k repeated { s.hw with sent := [] } } := rfl

/-- A replay of this cycle is made: its first, or one of the seven after it. -/
def ReplayMade (repeated : Bool) (x : Core) : Prop := repeated = false ∨ (1 ≤ x.replays ∧ x.replays < 8)

theorem replayMade_iff (repeated : Bool) (x : Core) :
    ReplayMade repeated x ↔ (repeated && (x.replays == 0 || decide (8 ≤ x.replays))) = false := by
  cases repeated with
  | false => simp [ReplayMade]
  | true =>
    simp only [ReplayMade, Bool.true_eq_false, false_or, Bool.true_and, Bool.or_eq_false_iff, beq_eq_false_iff_ne,
      decide_eq_false_iff_not]
    omega

/-- A core that has made one more replay. -/
def replayedOnce (repeated : Bool) (x : Core) : Core :=
  { x with replays := if repeated then x.replays + 1 else 1, replayed := x.replayed + 1 }

/-- What a replay at a margin leaves of the graphs: it counts for the class of the piece that runs (R239). -/
def marginGraphs (k : Nat) (h : Hw) : List Graph :=
  match (coreOf h k).run with
  | some (.piece r _) => (modGraph r.graph (fun g =>
      { g with rep := modifyAt (taskClass (taskOf h r.graph r.task).desc) (· + 1) g.rep }) h).sched.graphs
  | _ => h.sched.graphs

/-- What a replay leaves of the graphs and of the counters, by the level at which the rail stands. -/
def replayCounted (k : Nat) (h : Hw) : List Graph × Counters :=
  if judged h h.power.rail = 0 then
    (h.sched.graphs, { h.health.cnt with replaysM0 := satAdd 64 h.health.cnt.replaysM0 1 })
  else (marginGraphs k h, { h.health.cnt with replaysMargin := satAdd 64 h.health.cnt.replaysMargin 1 })

theorem replayEffect_made {k : Nat} {repeated : Bool} {h : Hw} (runs : coreRuns h k = true)
    (made : ReplayMade repeated (coreOf h k)) : replayEffect k repeated h = { h with
      sched := { (setCore k (replayedOnce repeated) h).sched with graphs := (replayCounted k h).1 }
      health := { h.health with cnt := (replayCounted k h).2 } } := by
  have judgedSame : judged (setCore k (replayedOnce repeated) h) (setCore k (replayedOnce repeated) h).power.rail =
      judged h h.power.rail := rfl
  have test := (replayMade_iff ..).1 made
  unfold replayEffect
  simp only [runs, test, Bool.not_true, Bool.or_self, Bool.false_eq_true, if_false]
  unfold replayCounted
  change (if judged (setCore k (replayedOnce repeated) h) (setCore k (replayedOnce repeated) h).power.rail = 0 then _
    else _) = _
  rw [judgedSame]
  split
  · rfl
  · unfold marginGraphs
    cases (coreOf h k).run with
    | none => rfl
    | some running =>
      cases running with
      | piece r l => rfl
      | probe n => rfl

theorem replayEffect_unmade {k : Nat} {repeated : Bool} {h : Hw} (unmade : ¬ReplayMade repeated (coreOf h k)) :
    replayEffect k repeated h = h := by
  rw [replayMade_iff, Bool.not_eq_false] at unmade
  simp only [replayEffect, unmade, Bool.or_true, if_true]

theorem graphOf_modGraph {f : Graph → Graph} (hf : ∀ g, (f g).key = g.key) (key : Nat) (h : Hw) :
    graphOf (modGraph key f h) key = (graphOf h key).map f := by
  have sameKey : (fun g : Graph => (if g.key = key then f g else g).key == key) = fun g : Graph => g.key == key := by
    funext g
    split
    · rw [hf]
    · rfl
  simp only [graphOf, modGraph, List.find?_map, Function.comp_def, sameKey]
  cases found : h.sched.graphs.find? fun g => g.key == key with
  | none => rfl
  | some g =>
    have isKey := List.find?_some found
    rw [beq_iff_eq] at isKey
    simp only [Option.map_some, isKey, if_true]

/-- A replay at a margin counts for the class of the task whose piece runs (R239). -/
theorem replay_margin {s t : State} {k : Nat} (graphs : t.hw.sched.graphs = marginGraphs k s.hw) {r : PieceRef} {l : Nat}
    (runs : (coreOf s.hw k).run = some (.piece r l)) {g : Graph} (found : graphOf s.hw r.graph = some g) :
    ∃ g', graphOf t.hw r.graph = some g' ∧
      g' = { g with rep := modifyAt (taskClass (taskOf s.hw r.graph r.task).desc) (· + 1) g.rep } := by
  refine ⟨_, ?_, rfl⟩
  have counted := graphOf_modGraph (f := fun g =>
    { g with rep := modifyAt (taskClass (taskOf s.hw r.graph r.task).desc) (· + 1) g.rep }) (fun _ => rfl) r.graph s.hw
  rw [found, Option.map_some] at counted
  rw [marginGraphs, runs] at graphs
  rw [graphOf, graphs]
  exact counted

/-- A replay that is made counts for its core, and by the rail's level (R236 to R239). -/
theorem shadowReplay_made {s : State} {k : Nat} {repeated : Bool} (runs : (coreOf s.hw k).run.isSome = true)
    (ctrl : s.hw.power.ctrlOn = true) (hk : k < 32) (made : ReplayMade repeated (coreOf s.hw k)) :
    Answers (.shadowReplay k repeated) s fun t =>
      coreOf t.hw k = replayedOnce repeated (coreOf s.hw k) ∧
      (t.hw.sched.graphs, t.hw.health.cnt) = replayCounted k s.hw ∧ t.mem = s.mem ∧
      OnlyChanges [.sched, .health] s t := by
  have serves : coreRuns { s.hw with sent := [] } k = true := by
    have both : ((coreOf s.hw k).run.isSome && s.hw.power.ctrlOn) = true := by rw [runs, ctrl]; rfl
    exact both
  have out := replayEffect_made (h := { s.hw with sent := [] }) serves made
  refine ⟨_, exec_shadowReplay k repeated s, ?_⟩
  rw [out]
  refine ⟨coreOf_setCore_same (replayedOnce repeated) s.hw hk, rfl, rfl, ?_, .inr rfl, rfl⟩
  have sched : [Portion.sched, .health].elem .sched = true := rfl
  have health : [Portion.sched, .health].elem .health = true := rfl
  simp only [blank, sched, health, if_true]

/-! ## Escalation windows (R239, R240, R382) -/

/-- The cycles that a class of a graph ran in the window. -/
def classCycles (cycles : List ClassCycles) (key cls : Nat) : Nat :=
  ((cycles.filter fun c => c.graph == key && c.cls == cls).map (·.cyc)).sum

/-- How many classes of resident graphs ran fewer than 4096 cycles for each of their replays. -/
def escalated (cycles : List ClassCycles) (gs : List Graph) : Nat :=
  (gs.flatMap fun g => if g.resident then (List.range 16).filter fun c =>
    decide (classCycles cycles g.key c ≠ 0 ∧ classCycles cycles g.key c < 4096 * g.rep.getD c 0) else []).length

/-- The instant of device time at which the window ends: where a time write cut it, at once. -/
def windowEnd (h : Hw) : Nat := if h.sched.windowCut then h.power.time else (h.power.time / 24576 + 1) * 24576

theorem windowEffect_eq {cycles : List ClassCycles} {h : Hw} (ctrl : h.power.ctrlOn = true) (on : h.board.aonOn = true)
    (fits : h.power.time + 24576 < 2 ^ 64) : ∃ el gs, windowEffect cycles h =
      bump (fun c => { c with escalations := satAdd 32 c.escalations (escalated cycles h.sched.graphs) })
        { atClocks (windowEnd h) el h with sched := { h.sched with graphs := gs, windowCut := false } } := by
  unfold windowEffect windowEnd
  simp only [ctrl, Bool.not_true, Bool.false_eq_true, if_false]
  cases cut : h.sched.windowCut with
  | true => exact ⟨h.power.elapsed, _, rfl⟩
  | false =>
    simp only [Bool.false_eq_true, if_false]
    rw [passToTime_eq on (by omega) (by omega)]
    exact ⟨_, _, by rw [← cut]; rfl⟩

theorem exec_escalationWindow (cycles : List ClassCycles) (s : State) :
    exec (.escalationWindow cycles) s = runSched (fun _ h => windowEffect cycles h) s := rfl

/-- A window that ends counts the classes that ran too few cycles (R239, R240, R382). -/
theorem window_ends {s : State} (cycles : List ClassCycles) (noExc : NoExcursion s) (ctrl : s.hw.power.ctrlOn = true)
    (on : s.hw.board.aonOn = true) (fits : s.hw.power.time + 24576 < 2 ^ 64) : Answers (.escalationWindow cycles) s fun t =>
      t.hw.health.cnt.escalations =
        min (s.hw.health.cnt.escalations + escalated cycles s.hw.sched.graphs) (2 ^ 32 - 1) ∧
      t.hw.sched.windowCut = false ∧ t.hw.power.time = windowEnd s.hw ∧ OnlyChanges (reporting ++ scheduling) s t := by
  obtain ⟨el, gs, out⟩ := windowEffect_eq (cycles := cycles) (h := { s.hw with sent := [] }) ctrl on fits
  have rest (h : Hw) (x : Sched) : outside { atClocks (windowEnd h) el h with sched := x } = outside h := by
    simp only [outside, atClocks]
  obtain ⟨t, answers, keeps, only⟩ :=
    runSched_keeps (exec_escalationWindow cycles s) out rfl noExc ((outside_bump ..).trans (rest ..))
  have counts := congrArg Counters.escalations keeps.counters
  exact ⟨t, answers, counts, keeps.windowCut, keeps.time, only⟩

/-- Settles O28: each fault leaves the core suspected but for what the scheduler changes anyway; a replay is no more than
its counts; the end of a window counts before the scheduler runs. -/
theorem coreFaultsReplaysAndWindowsCount : Obligations.CoreFaultsReplaysAndWindowsCount := by
  unfold Obligations.CoreFaultsReplaysAndWindowsCount
  refine ⟨fun s k noExc ctrl hk stays => ⟨fun r l runs => ?_, ?_, ?_, ?_⟩, ?_, ?_⟩
  · exact ⟨datapath_fails noExc ctrl hk stays runs, residue_fails noExc ctrl hk stays runs,
      residue_uncovered noExc runs hk⟩
  · exact replays_abandoned noExc ctrl hk stays
  · exact sequencer_stalls noExc ctrl hk stays
  · exact fun bad fixed copying => copyDone_ends noExc hk copying bad fixed
  · intro s k repeated runs ctrl hk
    refine ⟨fun made => ?_, fun unmade => ?_⟩
    · obtain ⟨t, answers, core, counted, mem, only⟩ := shadowReplay_made runs ctrl hk made
      refine ⟨t, answers, congrArg Core.replays core, congrArg Core.replayed core, fun atM0 => ?_, fun margin => ?_, mem, only⟩
      · rw [replayCounted, if_pos atM0, Prod.mk.injEq] at counted
        obtain ⟨graphs, counters⟩ := counted
        rw [counters]
        exact ⟨rfl, rfl, graphs⟩
      · rw [replayCounted, if_neg margin, Prod.mk.injEq] at counted
        obtain ⟨graphs, counters⟩ := counted
        rw [counters]
        exact ⟨rfl, rfl, fun r l piece g found => replay_margin graphs piece found⟩
    · rw [exec_shadowReplay, replayEffect_unmade (h := { s.hw with sent := [] }) unmade]
  · exact fun s cycles noExc ctrl on fits => window_ends cycles noExc ctrl on fits

end Sys2Proof.Proofs

/-! PROOFS. The stream table, and the scheduler while no graph is resident (R246, R248, R265, R295). -/

namespace Sys2Proof.Proofs

open Sys2Proof Sys2Proof.Machine Sys2Proof.Laws

/-! ## One entry among the 256 (R246) -/

theorem streamOf_setStream_same {i : Nat} (f : Stream → Stream) (h : Hw) (hi : i < 256) :
    streamOf (setStream i f h) i = f (streamOf h i) := by
  have short : i < (fitTo 256 {} h.streams).length := by rw [length_fitTo]; exact hi
  exact (getD_modifyAt_same f {} short).trans (congrArg f (getD_fitTo {} h.streams hi))

theorem streamOf_setStream_other {i j : Nat} (f : Stream → Stream) (h : Hw) (hj : j < 256) (ne : j ≠ i) :
    streamOf (setStream i f h) j = streamOf h j :=
  (getD_modifyAt_other f _ {} ne).trans (getD_fitTo {} h.streams hj)

theorem streamOf_setStream_beyond {i j : Nat} (f : Stream → Stream) (h : Hw) (hj : 256 ≤ j) :
    streamOf (setStream i f h) j = {} :=
  List.getD_eq_default _ _ (Nat.le_trans (Nat.le_of_eq ((length_modifyAt ..).trans (length_fitTo ..))) hj)

theorem length_setStream (i : Nat) (f : Stream → Stream) (h : Hw) : (setStream i f h).streams.length = 256 :=
  (length_modifyAt i f _).trans (length_fitTo 256 {} h.streams)

theorem setStream_setStream (i : Nat) (f g : Stream → Stream) (h : Hw) :
    setStream i f (setStream i g h) = setStream i (fun x => f (g x)) h := by
  have fits : fitTo 256 {} (modifyAt i g (fitTo 256 {} h.streams)) = modifyAt i g (fitTo 256 {} h.streams) := by
    have n := length_setStream i g h
    simp only [setStream] at n
    generalize modifyAt i g (fitTo 256 {} h.streams) = xs at n
    simp [fitTo, ← n]
  simp only [setStream, fits]
  simp only [modifyAt_eq_modify, List.modify_modify_eq]
  rfl

/-- A change of an entry is its effect on that entry. -/
theorem setStream_congr {i : Nat} {f g : Stream → Stream} {h : Hw} (hi : i < 256)
    (e : f (streamOf h i) = g (streamOf h i)) :
    setStream i f h = setStream i g h := by
  have entry : (fitTo 256 {} h.streams)[i]? = some (streamOf h i) := by
    have short : i < (fitTo 256 {} h.streams).length := by rw [length_fitTo]; exact hi
    rw [List.getElem?_eq_getElem short, ← List.getD_eq_getElem _ {} short, getD_fitTo {} h.streams hi]
    rfl
  have lists : (fitTo 256 {} h.streams).modify i f = (fitTo 256 {} h.streams).modify i g := by
    refine List.ext_getElem? fun j => ?_
    rw [List.getElem?_modify, List.getElem?_modify]
    by_cases ij : i = j
    · subst ij
      simp only [entry, if_true, Option.map_eq_map, Option.map_some, e]
    · simp only [ij, if_false]
  simp only [setStream, modifyAt_eq_modify, lists]

/-- What holds of every entry, of a blank one and of the one that is written, holds of every entry after. -/
theorem forall_setStream {P : Stream → Prop} {i : Nat} {f : Stream → Stream} {h : Hw} (hi : i < 256)
    (old : ∀ x ∈ h.streams, P x) (empty : P {}) (new : P (f (streamOf h i))) :
    ∀ x ∈ (setStream i f h).streams, P x := by
  intro x hx
  obtain ⟨j, hj, rfl⟩ := List.getElem_of_mem hx
  rw [length_setStream] at hj
  have at_ : (setStream i f h).streams[j] = streamOf (setStream i f h) j := (List.getD_eq_getElem ..).symm
  rw [at_]
  by_cases ij : j = i
  · subst ij
    rw [streamOf_setStream_same f h hi]
    exact new
  · rw [streamOf_setStream_other f h hj ij]
    simp only [streamOf, List.getD_eq_getElem?_getD]
    cases e : h.streams[j]? with
    | none => exact empty
    | some y => exact old y (List.mem_of_getElem? e)

theorem forall_streamOf {P : Stream → Prop} {h : Hw} (each : ∀ x ∈ h.streams, P x) (empty : P {}) (i : Nat) :
    P (streamOf h i) := by
  simp only [streamOf, List.getD_eq_getElem?_getD]
  cases e : h.streams[i]? with
  | none => exact empty
  | some x => exact each x (List.mem_of_getElem? e)

theorem streamOf_congr {g h : Hw} (e : g.streams = h.streams) (i : Nat) : streamOf g i = streamOf h i :=
  congrArg (fun xs => xs.getD i {}) e

/-! ## Streams that rest (R248, R265) -/

/-- The scheduler serves nothing that waits at the stream: nothing waits, it runs or copies, or what waits is a swap-in or a
chunk of a BROKEN one. -/
def Rested (x : Stream) : Prop :=
  (x.reqs = [] ∧ x.st ≠ .queued) ∨ x.st = .running ∨ x.st = .swapOutBusy ∨ x.st = .swapInBusy ∨
    (x.st = .broken ∧ nextRequest x = none)

theorem rested_blank : Rested {} := .inl ⟨rfl, by decide⟩

theorem serveStream_rested {h : Hw} {i : Nat} (rests : Rested (streamOf h i)) (n : Nat) : serveStream n i h = h := by
  cases n with
  | zero => rfl
  | succ n =>
    rcases rests with ⟨empty, notQueued⟩ | st | st | st | ⟨st, unserved⟩
    · have none : nextRequest (streamOf h i) = none := by rw [nextRequest, empty]; rfl
      simp only [serveStream, none, empty, if_neg notQueued]
      split <;> rfl
    · simp only [serveStream, st]
    · simp only [serveStream, st]
    · simp only [serveStream, st]
    · simp only [serveStream, st, unserved]
      split
      · rfl
      · rfl

/-- A stream at rest takes its next request off its queue. -/
theorem serveStream_takes {h : Hw} {i : Nat} {r : StreamReq}
    (rests : (streamOf h i).st = .idle ∨ (streamOf h i).st = .swappedOut ∨ (streamOf h i).st = .broken)
    (takes : nextRequest (streamOf h i) = some r) (n : Nat) : serveStream (n + 1) i h =
      serveStream n i (takeRequest i r (setStream i (fun x => { x with reqs := x.reqs.erase r }) h)) := by
  rcases rests with st | st | st
  · simp only [serveStream, st, takes]
  · simp only [serveStream, st, takes]
  · simp only [serveStream, st, takes]

theorem serveStreams_rested {h : Hw} (rests : ∀ x ∈ h.streams, Rested x) : serveStreams h = h := by
  refine Sched.foldl_same _ _ _ fun i => ?_
  split
  · rfl
  · exact serveStream_rested (forall_streamOf rests rested_blank i) _

/-- A fold over indices in which one alone does anything. -/
theorem foldl_range_one {f : Hw → Nat → Hw} {n i : Nat} (hi : i < n) {g h : Hw} (before : ∀ j, j ≠ i → f h j = h)
    (one : f h i = g) (after : ∀ j, j ≠ i → f g j = g) : (List.range n).foldl f h = g := by
  induction n with
  | zero => exact absurd hi (Nat.not_lt_zero i)
  | succ n ih =>
    rw [List.range_succ, List.foldl_append, List.foldl_cons, List.foldl_nil]
    by_cases last : i = n
    · subst last
      have still : (List.range i).foldl f h = h := by
        have same : ∀ xs : List Nat, (∀ j ∈ xs, j ≠ i) → xs.foldl f h = h := by
          intro xs
          induction xs with
          | nil => exact fun _ => rfl
          | cons x xs ihx =>
            intro ne
            rw [List.foldl_cons, before x (ne x (List.mem_cons_self ..))]
            exact ihx fun j hj => ne j (List.mem_cons_of_mem x hj)
        exact same _ fun j hj => Nat.ne_of_lt (List.mem_range.1 hj)
      rw [still, one]
    · rw [ih (by omega)]
      exact after n (Ne.symm last)

/-- One stream alone is served. -/
theorem serveStreams_one {g h : Hw} {i : Nat} (hi : i < h.streams.length) (isOpen : (streamOf h i).st ≠ .free)
    (served : serveStream ((streamOf h i).reqs.length + 2) i h = g) (before : ∀ j, j ≠ i → Rested (streamOf h j))
    (after : ∀ j, j ≠ i → Rested (streamOf g j)) : serveStreams h = g := by
  refine foldl_range_one hi (fun j ne => ?_) ((if_neg isOpen).trans served) fun j ne => ?_
  · split
    · rfl
    · exact serveStream_rested (before j ne) _
  · split
    · rfl
    · exact serveStream_rested (after j ne) _

/-! ## No graph is resident -/

/-- No graph is resident and nothing has ended: the scheduler has streams to serve, and nothing else. -/
structure Unmanned (h : Hw) : Prop where
  graphs : ∀ g ∈ h.sched.graphs, g.resident = false ∧ g.hiRail = []
  notices : h.sched.notices = []
  ended : h.sched.ended = []

theorem calm_streams {k g : Hw} (e : Sched.calm k = Sched.calm g) : k.streams = g.streams :=
  show (Sched.calm k).streams = (Sched.calm g).streams by rw [e]

theorem calm_graphs {k g : Hw} (e : Sched.calm k = Sched.calm g) : k.sched.graphs = g.sched.graphs :=
  show (Sched.calm k).sched.graphs = (Sched.calm g).sched.graphs by rw [e]

theorem Unmanned.of_calm {g h : Hw} (u : Unmanned h) (e : Sched.calm g = Sched.calm h) : Unmanned g := by
  have notices : g.sched.notices = h.sched.notices :=
    show (Sched.calm g).sched.notices = (Sched.calm h).sched.notices by rw [e]
  have ended : g.sched.ended = h.sched.ended := show (Sched.calm g).sched.ended = (Sched.calm h).sched.ended by rw [e]
  exact ⟨calm_graphs e ▸ u.graphs, notices.trans u.notices, ended.trans u.ended⟩

section Unmanned

variable {h : Hw} (u : Unmanned h)

include u

theorem takeNotices_unmanned : takeNotices h = h := by
  simp only [takeNotices, u.notices, List.foldl_nil]
  rw [← u.notices]

theorem settlePass_unmanned (served : Unmanned (serveStreams h)) : settlePass h = serveStreams h := by
  have noneResident : h.sched.graphs.filter (·.resident) = [] :=
    List.filter_eq_nil_iff.2 fun g hg => by simp [(u.graphs g hg).1]
  have noneEnds : (serveStreams h).sched.graphs.filter atEnd = [] :=
    List.filter_eq_nil_iff.2 fun g hg => by simp [atEnd, (served.graphs g hg).1]
  simp only [settlePass, takeNotices_unmanned u, noneResident, List.foldl_nil, endGraphs, noneEnds]

theorem settlePass_rested (rests : ∀ x ∈ h.streams, Rested x) : settlePass h = h := by
  have same := serveStreams_rested rests
  rw [settlePass_unmanned u (by rw [same]; exact u), same]

theorem candidates_unmanned (c : Nat) : candidates h c = [] := by
  have noneLive : (h.sched.graphs.filter fun g => g.live && g.rankCls == c) = [] :=
    List.filter_eq_nil_iff.2 fun g hg => by simp [Graph.live, (u.graphs g hg).1]
  simp only [candidates, noneLive, List.flatMap_nil]

theorem classTurn_unmanned (m : Mems) (c : Nat) : classTurn m c h = .next h := by
  have want : wantPower h [] = h := by
    unfold wantPower
    split
    · rfl
    · rfl
  simp only [classTurn, candidates_unmanned u, want]
  rfl

theorem issueRound_unmanned (m : Mems) (cs : List Nat) : issueRound m cs h = (none, h) := by
  induction cs with
  | nil => rfl
  | cons c cs ih => simp only [issueRound, classTurn_unmanned u, ih]

theorem scheduleLoop_rested (rests : ∀ x ∈ h.streams, Rested x) (m : Mems) (n : Nat) : scheduleLoop m n h = h := by
  cases n with
  | zero => rfl
  | succ n =>
    simp only [scheduleLoop, settlePass_rested u rests, issueRound_unmanned u, u.notices, List.isEmpty_nil, if_true]

theorem noteHeld_unmanned : noteHeld h = h := by
  have noneReady : (List.range 4).flatMap (candidates h) = [] :=
    List.flatMap_eq_nil_iff.2 fun c _ => candidates_unmanned u c
  simp only [noteHeld, noneReady, List.foldl_nil, ite_self]

/-- The levels that graphs wait for do not depend on the streams. -/
theorem noteLevels_unmanned : noteLevels h = h := by
  have idle : Sched.Idle { h with streams := [] } := ⟨u.graphs, u.notices, u.ended, fun x hx => nomatch hx⟩
  exact congrArg (fun g : Hw => { g with streams := h.streams }) (Sched.noteLevels_idle idle)

/-- The scheduler serves the streams once, and leaves alone what an idle run does. -/
theorem calm_schedule_unmanned (up : h.up = true) (served : Unmanned (serveStreams h))
    (rests : ∀ x ∈ (serveStreams h).streams, Rested x) (m : Mems) :
    Sched.calm (schedule m h) = Sched.calm (serveStreams h) := by
  have on : (h.power.ctrlOn && h.up) = true := by
    rw [up, Bool.and_true]
    exact (Bool.and_eq_true_iff.1 up).1
  simp only [schedule, on, if_true, settlePass_unmanned u served]
  have probed := Sched.calm_startProbes true (serveStreams h)
  generalize startProbes true (serveStreams h) = g at probed
  rw [scheduleLoop_rested (served.of_calm probed) (calm_streams probed ▸ rests)]
  have railed := (Sched.calm_railTurn _).trans ((Sched.calm_startProbes false g).trans probed)
  generalize railTurn (startProbes false g) = k at railed
  have still := served.of_calm railed
  rw [noteHeld_unmanned still, Sched.calm_pickCheck, noteLevels_unmanned (h := gateRetired k) (still.of_calm rfl)]
  exact railed

end Unmanned

/-- A command whose effect leaves no resident graph: the scheduler serves the streams, and that is all. -/
theorem runSched_unmanned {f : Mems → Hw → Hw} {s : State} {g h : Hw} (out : f s.mem { s.hw with sent := [] } = g)
    (u : Unmanned g) (up : g.up = true) (served : serveStreams g = h) (u' : Unmanned h)
    (rests : ∀ x ∈ h.streams, Rested x) :
    ∃ k, Sched.calm k = Sched.calm h ∧ runSched f s = .next (commit s (Machine.finish k)) := by
  subst served
  have calm := calm_schedule_unmanned u up u' rests s.mem
  have once : scheduleAll s.mem (g.sched.graphs.length + 1 + 1) g = schedule s.mem g := by
    rw [scheduleAll]
    simp only [(u'.of_calm calm).ended, List.isEmpty_nil, if_true]
  refine ⟨schedule s.mem g, calm, ?_⟩
  simp only [runSched, run, out, once]

end Sys2Proof.Proofs

/-! PROOFS. STREAM_CTL slots at rest: OPEN, CLOSE, RESET, QUERY, the swaps and the refusals (R248 to R251, R387). -/

namespace Sys2Proof.Proofs

open Sys2Proof Sys2Proof.Machine Sys2Proof.Laws

/-! ## What becomes of a slot's entry -/

/-- The entry that a STREAM_CTL slot names. -/
abbrev entryOf (s : State) (f : Fetched) : Stream := streamOf s.hw (slotStream f.words)

/-- The slot's entry becomes y, and the slot completes with it. -/
abbrev EntryBecomes (s : State) (f : Fetched) (y : Stream) (t : State) : Prop :=
  streamOf t.hw (slotStream f.words) = y ∧
    (∀ j < 256, j ≠ slotStream f.words → streamOf t.hw j = streamOf s.hw j) ∧
    Finishes s t (f.record .done .none (streamWords t.hw (slotStream f.words))) ∧
    OnlyChanges (reporting ++ resting ++ [Portion.slots, Portion.streams]) s t

/-- The slot's entry becomes y, and the slot does not complete yet. -/
abbrev EntryWaits (s : State) (f : Fetched) (y : Stream) (t : State) : Prop :=
  streamOf t.hw (slotStream f.words) = y ∧
    (∀ j < 256, j ≠ slotStream f.words → streamOf t.hw j = streamOf s.hw j) ∧ t.mem = s.mem ∧
    OnlyChanges (reporting ++ resting ++ [Portion.slots, Portion.streams]) s t

/-- The slot completes with a status, and every entry stays. -/
abbrev EntryStays (s : State) (f : Fetched) (st : Status) (d : Detail) (t : State) : Prop :=
  (∀ j < 256, streamOf t.hw j = streamOf s.hw j) ∧ Finishes s t (f.record st d (streamWords s.hw (slotStream f.words)))

/-! ## What the words and checks of a STREAM_CTL slot read -/

theorem slotStream_lt (ws : List Word) : slotStream ws < 256 := Nat.mod_lt _ (by decide)

/-- The eight words of R246 are of the entry and of the graphs. -/
theorem streamWords_congr {g h : Hw} {i : Nat} (entry : streamOf g i = streamOf h i)
    (graphs : g.sched.graphs = h.sched.graphs) : streamWords g i = streamWords h i := by
  simp only [streamWords, queuedN, entry, graphs]

theorem graphs_begun (f : Fetched) (h : Hw) : (Slots.begun f h).sched.graphs = h.sched.graphs := by rw [Slots.begun_eq]

theorem streams_begun (f : Fetched) (h : Hw) : (Slots.begun f h).streams = h.streams := by rw [Slots.begun_eq]

theorem streamOf_begun (f : Fetched) (h : Hw) (i : Nat) : streamOf (Slots.begun f h) i = streamOf h i :=
  streamOf_congr (streams_begun f h) i

theorem streamFault_begun (f : Fetched) (h : Hw) : streamFault f (Slots.begun f h) = streamFault f h := by
  rw [Slots.begun_eq]
  rfl

theorem up_begun {s : State} {slot : Slot} {f : Fetched} (hf : Fetches s slot f) : (Slots.begun f s.hw).up = true := by
  obtain ⟨o, next, -⟩ := nextSlot_of_fetches hf
  have up : s.hw.up = true := by
    unfold nextSlot at next
    split at next
    next can => simp only [Bool.and_eq_true] at can; exact can.1.1.1
    · cases next
  rw [Slots.begun_eq]
  simp only [Hw.up, Bool.and_eq_true, Bool.or_eq_true, beq_iff_eq] at up ⊢
  refine ⟨up.1, ?_⟩
  split
  · exact up.2
  · split
    · exact .inl rfl
    · exact up.2

section Begun

variable {s : State} {slot : Slot} {f : Fetched} (hs : AtRest s)

include hs

theorem unmanned_begun : Unmanned (Slots.begun f s.hw) := by
  obtain ⟨graphs, notices, ended, -⟩ := idle_of_atRest hs
  rw [Slots.begun_eq]
  exact ⟨graphs, notices, ended⟩

theorem clear_begun (streams : List Stream) : Clear { Slots.begun f s.hw with streams := streams } := by
  obtain ⟨writes, wipe, raised, records, posts, held⟩ := atRest_clear hs
  rw [Slots.begun_eq]
  exact ⟨writes, wipe, raised, records, posts, held⟩

theorem streamOf_atRest (i : Nat) : (streamOf s.hw i).reqs = [] ∧ (streamOf s.hw i).st ≠ .queued :=
  Sched.streamOf_idle (idle_of_atRest hs) i

end Begun

/-! ## A STREAM_CTL command at rest -/

section Effect

variable {s : State} {slot : Slot} {f : Fetched} {op : Nat} (ha : AcceptsOp s slot f kStreamCtl 8 3 op)
  (act : Fetched → Nat → Hw → Hw)

include ha

theorem stream_effect : withSlotOf kindWords (isOp kStreamCtl 8 3 op) slot (fun _ f h => streamSlot act f h) s.mem
    { s.hw with sent := [] } = streamSlot act f (Slots.begun f s.hw) := by
  obtain ⟨accepts, hop⟩ := ha
  have mine : isOp kStreamCtl 8 3 op f.words = true := by
    simp only [isOp, accepts.2.1, hop, beq_self_eq_true, Bool.and_self]
  exact Slots.withSlotOf_accepts accepts _ _ _ mine

/-- A slot that passes the checks of R250 runs its OP's own part. -/
theorem stream_effect_passes (passes : streamFault f s.hw = none) :
    withSlotOf kindWords (isOp kStreamCtl 8 3 op) slot (fun _ f h => streamSlot act f h) s.mem { s.hw with sent := [] } =
      act f (slotStream f.words) (Slots.begun f s.hw) := by
  rw [stream_effect ha, streamSlot, streamFault_begun, passes]

/-- One that fails them completes with the entry. -/
theorem stream_effect_refused {st : Status} {d : Detail} (fault : streamFault f s.hw = some (st, d)) :
    withSlotOf kindWords (isOp kStreamCtl 8 3 op) slot (fun _ f h => streamSlot act f h) s.mem { s.hw with sent := [] } =
      complete (f.record st d (streamWords s.hw (slotStream f.words)))
        { Slots.begun f s.hw with streams := s.hw.streams } := by
  have words := streamWords_congr (streamOf_begun f s.hw (slotStream f.words)) (graphs_begun f s.hw)
  rw [stream_effect ha, streamSlot, streamFault_begun, fault, ← streams_begun f s.hw, ← words]

end Effect

/-- The end of a command that has served the streams and completed the slot. -/
theorem stream_ends {c : Instr} {s : State} {slot : Slot} {f : Fetched} {k : Hw} {r : Record} {streams : List Stream}
    (hf : Fetches s slot f) (hs : AtRest s) (answer : exec c s = .next (commit s (Machine.finish k)))
    (hk : Sched.calm k = Sched.calm (complete r { Slots.begun f s.hw with streams := streams })) (ps : List Portion)
    (frame : blank (reporting ++ resting ++ ps) { Slots.begun f s.hw with streams := streams } =
      blank (reporting ++ resting ++ ps) s.hw) :
    Answers c s fun t => t.hw.streams = streams ∧ t.hw.sched.graphs = s.hw.sched.graphs ∧ Finishes s t r ∧
      OnlyChanges (reporting ++ resting ++ ps) s t := by
  obtain ⟨writes, wipe, raised, records, posts, held⟩ := clear_begun (f := f) hs streams
  have sq := calm_sq hk
  have wr : k.writesRecords = true := by
    rw [calm_writesRecords hk, Slots.begun_eq]
    exact writesRecords_of_fetches hs hf
  have image : k.image = s.hw.image := (calm_image hk).trans (Slots.startSlot_image ..)
  have room : k.sq.queue.length + k.raised.length ≤ 64 := by
    rw [sq, calm_raised hk, complete_raised, raised, Slots.begun_eq]
    exact atRest_room hs
  refine ⟨_, answer, ?_, ?_, ?_, Slots.calm_only ps s _ k hk frame⟩
  · exact (Run.finish_streams k).trans (calm_streams hk)
  · exact (congrArg Sched.graphs (Run.finish_sched k)).trans ((calm_graphs hk).trans (graphs_begun f s.hw))
  · exact commit_finishes s ((calm_writes hk).trans writes) ((calm_wipe hk).trans wipe)
      ((calm_records hk).trans (congrArg (· ++ [r]) records)) (by rw [sq]; exact posts) (by rw [sq]; exact held) room wr
      image

/-- A command whose effect ends in one completion, and leaves nothing waiting at a stream. -/
theorem stream_completes {c : Instr} {s : State} {slot : Slot} {f : Fetched} {eff : Mems → Hw → Hw} {r : Record}
    {streams : List Stream} (hf : Fetches s slot f) (hs : AtRest s) (he : exec c s = runSched eff s)
    (out : eff s.mem { s.hw with sent := [] } = complete r { Slots.begun f s.hw with streams := streams })
    (idle : ∀ x ∈ streams, x.reqs = [] ∧ x.st ≠ .queued) (ps : List Portion)
    (frame : blank (reporting ++ resting ++ ps) { Slots.begun f s.hw with streams := streams } =
      blank (reporting ++ resting ++ ps) s.hw) :
    Answers c s fun t => t.hw.streams = streams ∧ t.hw.sched.graphs = s.hw.sched.graphs ∧ Finishes s t r ∧
      OnlyChanges (reporting ++ resting ++ ps) s t := by
  obtain ⟨graphs, notices, ended⟩ := unmanned_begun (f := f) hs
  obtain ⟨k, hk, answer⟩ := Slots.runSched_calm eff s _ out ⟨graphs, notices, ended, idle⟩
  exact stream_ends hf hs (he.trans answer) hk ps frame

section AtOnce

variable {c : Instr} {s : State} {slot : Slot} {f : Fetched} {op : Nat} {act : Fetched → Nat → Hw → Hw}
  (he : exec c s = runStream op slot act s) (ha : AcceptsOp s slot f kStreamCtl 8 3 op) (hs : AtRest s)

include he ha hs

/-- A slot that R250 refuses. -/
theorem stream_refused {st : Status} {d : Detail} (fault : streamFault f s.hw = some (st, d)) : Answers c s fun t =>
    t.hw.streams = s.hw.streams ∧ Finishes s t (f.record st d (streamWords s.hw (slotStream f.words))) := by
  obtain ⟨t, answer, streams, -, done, -⟩ := stream_completes ha.1.1 hs he (stream_effect_refused ha act fault)
    (idle_of_atRest hs).2.2.2 [.slots] (by rw [Slots.begun_eq]; rfl)
  exact ⟨t, answer, streams, done⟩

/-- A slot that changes its entry and completes with it. -/
theorem stream_becomes {y : Stream} (passes : streamFault f s.hw = none)
    (out : act f (slotStream f.words) (Slots.begun f s.hw) =
      streamDone f (setStream (slotStream f.words) (fun _ => y) (Slots.begun f s.hw)))
    (idle : y.reqs = [] ∧ y.st ≠ .queued) : Answers c s (EntryBecomes s f y) := by
  have hi := slotStream_lt f.words
  have rests : ∀ x ∈ (setStream (slotStream f.words) (fun _ => y) (Slots.begun f s.hw)).streams,
      x.reqs = [] ∧ x.st ≠ .queued :=
    forall_setStream hi (streams_begun f s.hw ▸ (idle_of_atRest hs).2.2.2) ⟨rfl, by decide⟩ idle
  obtain ⟨t, answer, streams, graphs, done, frame⟩ := stream_completes ha.1.1 hs he
    ((stream_effect_passes ha act passes).trans out) rests [.slots, .streams] (by rw [Slots.begun_eq]; rfl)
  have entry (j : Nat) : streamOf t.hw j = streamOf (setStream (slotStream f.words) (fun _ => y) (Slots.begun f s.hw)) j :=
    streamOf_congr streams j
  have words := streamWords_congr (entry (slotStream f.words)) (graphs.trans (graphs_begun f s.hw).symm)
  refine ⟨t, answer, ?_, fun j hj ne => ?_, by rw [words]; exact done, frame⟩
  · exact (entry _).trans (streamOf_setStream_same _ _ hi)
  · exact (entry j).trans ((streamOf_setStream_other _ _ hj ne).trans (streamOf_begun f s.hw j))

end AtOnce

/-! ## OPEN, RESET, QUERY and CLOSE at once (R248, R251) -/

section Acts

variable {s : State} {slot : Slot} {f : Fetched} (hs : AtRest s) (passes : streamFault f s.hw = none)

include hs passes

theorem streamQuery_answers (ha : AcceptsOp s slot f kStreamCtl 8 3 5) : Answers (.streamQuery slot) s fun t =>
    t.hw.streams = s.hw.streams ∧ Finishes s t (f.record .done .none (streamWords s.hw (slotStream f.words))) ∧
      OnlyChanges (reporting ++ resting ++ [Portion.slots]) s t := by
  have words := streamWords_congr (streamOf_begun f s.hw (slotStream f.words)) (graphs_begun f s.hw)
  have out := stream_effect_passes ha (fun f _ h => streamDone f h) passes
  rw [streamDone, words, doneWith] at out
  obtain ⟨t, answer, streams, -, done, frame⟩ := stream_completes (c := .streamQuery slot)
    (streams := (Slots.begun f s.hw).streams) ha.1.1 hs rfl out
    (streams_begun f s.hw ▸ (idle_of_atRest hs).2.2.2) [.slots] (by rw [Slots.begun_eq]; rfl)
  exact ⟨t, answer, streams.trans (streams_begun f s.hw), done, frame⟩

/-- RESET makes a BROKEN stream usable. -/
theorem streamReset_answers (ha : AcceptsOp s slot f kStreamCtl 8 3 2) :
    let x := entryOf s f
    let y : Stream := if x.st = .broken then
      { x with
        st := if x.preferCs then .swappedOut else .idle, resetFlag := true, inCs := false, core := 0, state := x.home }
      else { x with resetFlag := true }
    Answers (.streamReset slot) s (EntryBecomes s f y) := by
  intro x y
  obtain ⟨noReqs, notQueued⟩ : x.reqs = [] ∧ x.st ≠ .queued := streamOf_atRest hs _
  by_cases broken : x.st = .broken
  · have ey : y = { x with
        st := if x.preferCs then .swappedOut else .idle, resetFlag := true, inCs := false, core := 0, state := x.home } :=
      if_pos broken
    refine stream_becomes rfl ha hs passes (congrArg (streamDone f) (setStream_congr (slotStream_lt _) ?_)) ?_
    · rw [streamOf_begun, ey]
      have rest : restStatus { x with resetFlag := true, inCs := false, core := 0, state := x.home } =
          if x.preferCs then .swappedOut else .idle := by
        simp only [restStatus, noReqs, Bool.not_false, Bool.and_true, List.any_nil, Bool.false_eq_true, if_false]
      rw [← rest]
      exact if_pos broken
    · rw [ey]
      refine ⟨noReqs, ?_⟩
      dsimp only
      split
      · decide
      · decide
  · have ey : y = { x with resetFlag := true } := if_neg broken
    refine stream_becomes rfl ha hs passes (congrArg (streamDone f) (setStream_congr (slotStream_lt _) ?_)) ?_
    · rw [streamOf_begun, ey]
      exact if_neg broken
    · rw [ey]
      exact ⟨noReqs, notQueued⟩

theorem streamOpen_answers (ha : AcceptsOp s slot f kStreamCtl 8 3 0) :
    let w := wordAt f.words 4
    Answers (.streamOpen slot) s (EntryBecomes s f
        { st := if bit w 12 then .swappedOut else .idle, resetFlag := bit w 11
          owner := if bit w 18 then fld w 14 4 else f.master, preferCs := bit w 12, bf16 := bit w 13
          gen := (wordAt f.words 9).toNat, state := addrAt f.words 5, home := addrAt f.words 5
          slotBytes := fld (wordAt f.words 7) 0 25, chunkLen := fld (wordAt f.words 8) 0 13 }) := by
  refine stream_becomes rfl ha hs passes rfl ⟨rfl, ?_⟩
  dsimp only
  split
  · decide
  · decide

/-- A CLOSE that flushes nothing frees the entry. -/
theorem streamClose_atOnce (ha : AcceptsOp s slot f kStreamCtl 8 3 1)
    (unflushed : bit (wordAt f.words 4) 19 = false ∨ (entryOf s f).inCs = false) :
    Answers (.streamClose slot) s (EntryBecomes s f { entryOf s f with
      st := .free, inCs := false, core := 0, state := (entryOf s f).home, copyFor := none
      dest := none, sampled := false, wasBroken := false }) := by
  have hi := slotStream_lt f.words
  obtain ⟨noReqs, -⟩ := streamOf_atRest hs (slotStream f.words)
  have noFlush : (bit (wordAt f.words 4) 19 && (entryOf s f).inCs) = false := by
    rcases unflushed with no | no
    · rw [no, Bool.false_and]
    · rw [no, Bool.and_false]
  refine stream_becomes rfl ha hs passes ?_ ⟨noReqs, fun no => nomatch no⟩
  have close : closeStream f (slotStream f.words) (Slots.begun f s.hw) =
      streamDone f (freeEntry (slotStream f.words) (Slots.begun f s.hw)) := by
    simp only [closeStream, streamOf_begun, noFlush, noReqs, Bool.false_eq_true, if_false, List.filter_nil,
      List.foldl_nil, endHeld]
  rw [close, freeEntry]
  refine congrArg (streamDone f) (setStream_congr hi ?_)
  rw [streamOf_begun, ← noReqs]

end Acts

/-! ## What a copy's start changes besides the entry (R265, R297, R358, R364) -/

/-- Only the scheduler's own part and the device's state differ, and no graph has become resident. -/
structure Stirs (h g : Hw) : Prop where
  eq : ∃ dev sched, g = { h with sched := sched, power := { h.power with dev := dev } }
  unmanned : Unmanned h → Unmanned g

theorem Stirs.refl (h : Hw) : Stirs h h := ⟨⟨h.power.dev, h.sched, rfl⟩, id⟩

theorem Stirs.trans {a b c : Hw} (ab : Stirs a b) (bc : Stirs b c) : Stirs a c := by
  obtain ⟨dev, sched, rfl⟩ := bc.eq
  obtain ⟨dev', sched', rfl⟩ := ab.eq
  exact ⟨⟨dev, sched, rfl⟩, fun u => bc.unmanned (ab.unmanned u)⟩

/-- A change of each graph that leaves alone whether it is resident. -/
theorem Stirs.of_graphs {h g : Hw} {each : Graph → Graph} (eq : ∃ sched, g = { h with sched := sched })
    (graphs : g.sched.graphs = h.sched.graphs.map each)
    (keeps : ∀ x, (each x).resident = x.resident ∧ (each x).hiRail = x.hiRail)
    (notices : g.sched.notices = h.sched.notices) (ended : g.sched.ended = h.sched.ended) : Stirs h g := by
  obtain ⟨sched, e⟩ := eq
  refine ⟨⟨h.power.dev, sched, e⟩, fun u => ⟨fun y hy => ?_, notices.trans u.notices, ended.trans u.ended⟩⟩
  rw [graphs] at hy
  obtain ⟨x, hx, rfl⟩ := List.mem_map.1 hy
  obtain ⟨resident, hiRail⟩ := keeps x
  rw [resident, hiRail]
  exact u.graphs x hx

theorem stirs_chargeGraph (g : Option Nat) (c : Nat) (e : Rat) (h : Hw) : Stirs h (chargeGraph g c e h) := by
  refine Stirs.of_graphs ⟨_, rfl⟩ (each := fun x => if g = x.key then { x with energy := x.energy + e } else x) rfl
    (fun x => ?_) rfl rfl
  split
  · exact ⟨rfl, rfl⟩
  · exact ⟨rfl, rfl⟩

theorem stirs_modGraph (key : Nat) {f : Graph → Graph}
    (keeps : ∀ x, (f x).resident = x.resident ∧ (f x).hiRail = x.hiRail)
    (h : Hw) : Stirs h (modGraph key f h) := by
  refine Stirs.of_graphs ⟨_, rfl⟩ (each := fun x => if x.key = key then f x else x) rfl (fun x => ?_) rfl rfl
  split
  · exact keeps x
  · exact ⟨rfl, rfl⟩

theorem stirs_setCore (c : Nat) (f : Core → Core) (h : Hw) : Stirs h (setCore c f h) :=
  Stirs.of_graphs ⟨_, rfl⟩ (List.map_id _).symm (fun _ => ⟨rfl, rfl⟩) rfl rfl

theorem stirs_makeRoom (n c : Nat) (cause : Option Nat) (cls : Nat) (h : Hw) : Stirs h (makeRoom n c cause cls h) := by
  induction n generalizing h with
  | zero => exact Stirs.refl h
  | succ n ih =>
    simp only [makeRoom]
    split
    · exact Stirs.refl h
    · split
      · exact Stirs.refl h
      · refine Stirs.trans ?_ (ih _)
        split
        · refine Stirs.trans ?_ (stirs_chargeGraph ..)
          refine (stirs_setCore ..).trans (stirs_modGraph _ ?_ _)
          exact fun _ => ⟨rfl, rfl⟩
        · exact stirs_setCore ..

theorem stirs_askIsland (k : Nat) (h : Hw) : Stirs h (askIsland k h) := by
  have same (powering : Option Nat) (powerNext : List Nat) :
      Stirs h { h with sched := { h.sched with powering := powering, powerNext := powerNext } } :=
    Stirs.of_graphs ⟨_, rfl⟩ (List.map_id _).symm (fun _ => ⟨rfl, rfl⟩) rfl rfl
  unfold askIsland askGroup
  split
  · exact Stirs.refl h
  · split
    · exact Stirs.refl h
    · split
      · exact same ..
      · exact same ..

theorem stirs_goActive (h : Hw) : Stirs h (goActive h) := by
  unfold goActive
  split
  · exact ⟨⟨.active, h.sched, rfl⟩, fun u => ⟨u.graphs, u.notices, u.ended⟩⟩
  · exact Stirs.refl h

theorem stirs_startCopy (i : Nat) (r : StreamReq) (st : StreamSt) (dest : Option (Nat × Nat)) (h : Hw) :
    Stirs (setStream i (fun x => { x with st := st, copyFor := some r, dest := dest }) h) (startCopy i r st dest h) :=
  (stirs_chargeGraph (copyGraph r) (copyClass h r) (bytesCharge (streamOf h i).slotBytes) _).trans (stirs_goActive _)

/-- A swap-in for which there is room starts. -/
theorem trySwapIn_starts {i : Nat} {r : StreamReq} {h : Hw} {c a : Nat} (cool : h.power.tripped = false)
    (room : chooseHome h (streamOf h i) (faultedCores h r) = some (c, a)) : ∃ g, trySwapIn i r h = some g ∧
      Stirs (setStream i (fun x => { x with st := .swapInBusy, copyFor := some r, dest := some (c, a) }) h) g := by
  obtain ⟨g, eg⟩ : ∃ g, g = askIsland c (startCopy i r .swapInBusy (some (c, a)) h) := ⟨_, rfl⟩
  refine ⟨makeRoom (coreOf g c).tiles.length c (copyGraph r) (copyClass g r) g, ?_, ?_⟩
  · simp only [trySwapIn, cool, Bool.false_eq_true, if_false, room, eg]
  · rw [eg]
    exact (stirs_startCopy ..).trans ((stirs_askIsland c _).trans (stirs_makeRoom ..))

theorem trySwapIn_none {i : Nat} {r : StreamReq} {h : Hw}
    (noRoom : chooseHome h (streamOf h i) (faultedCores h r) = none) : trySwapIn i r h = none := by
  simp only [trySwapIn, noRoom, ite_self]

/-! ## The room in core store depends on no blank entry (R296, R297) -/

section Padded

variable {h : Hw} {n : Nat}

theorem pairBytes_padded (c : Nat) :
    pairBytes { h with streams := h.streams ++ List.replicate n {} } c = pairBytes h c := by
  have blank : (List.replicate n ({} : Stream)).filter
      (fun s => s.st != .free && ((s.inCs && s.core == c) || s.dest.any (·.1 == c))) = [] :=
    List.filter_eq_nil_iff.2 fun x hx => by rw [List.eq_of_mem_replicate hx]; exact Bool.false_ne_true
  simp only [pairBytes, List.filter_append, blank, List.append_nil]

theorem storedPairs_padded (c : Nat) :
    storedPairs { h with streams := h.streams ++ List.replicate n {} } c = storedPairs h c := by
  simp only [storedPairs, List.filterMap_append]
  refine (congrArg (_ ++ ·) (List.filterMap_eq_nil_iff.2 fun x hx => ?_)).trans (List.append_nil _)
  rw [List.eq_of_mem_replicate hx]
  rfl

theorem chooseHome_padded (x : Stream) (notOn : List Nat) :
    chooseHome { h with streams := h.streams ++ List.replicate n {} } x notOn = chooseHome h x notOn := by
  have cache (c : Nat) : tileCache { h with streams := h.streams ++ List.replicate n {} } c = tileCache h c := by
    rw [tileCache, pairBytes_padded, tileCache]
  have capacity (c : Nat) : freeCapacity { h with streams := h.streams ++ List.replicate n {} } c = freeCapacity h c := by
    rw [freeCapacity, cache]
    rfl
  have offset (c k : Nat) : freeOffset { h with streams := h.streams ++ List.replicate n {} } c k = freeOffset h c k := by
    simp only [freeOffset, storedPairs_padded]
  simp only [chooseHome, capacity, offset]
  rfl

end Padded

/-- Where there are at most 256 entries, one of them written as it stands. -/
theorem streams_setStream_self {h : Hw} {i : Nat} (hi : i < 256) (fits : h.streams.length ≤ 256) :
    (setStream i (fun _ => streamOf h i) h).streams =
      h.streams ++ List.replicate (256 - h.streams.length) ({} : Stream) := by
  have same := setStream_congr (f := fun _ => streamOf h i) (g := fun x => x) (h := h) hi rfl
  rw [same]
  have all : modifyAt i (fun x => x) (fitTo 256 {} h.streams) = fitTo 256 {} h.streams := by
    rw [modifyAt_eq_modify]
    exact List.modify_id ..
  rw [setStream, all, fitTo, List.take_of_length_le fits]

/-! ## A request at a stream where nothing waits (R248) -/

section Request

variable {h : Hw} {i : Nat} {r : StreamReq} (hi : i < 256) (idle : ∀ x ∈ h.streams, x.reqs = [] ∧ x.st ≠ .queued)

include hi

theorem addRequest_alone (alone : (streamOf h i).reqs = []) :
    addRequest i r h = setStream i (fun _ => { streamOf h i with reqs := [r] }) h := by
  refine setStream_congr hi ?_
  rw [alone, List.nil_append]

include idle

theorem rested_setStream {y : Stream} (rested : Rested y) : ∀ x ∈ (setStream i (fun _ => y) h).streams, Rested x :=
  forall_setStream hi (fun x hx => .inl (idle x hx)) rested_blank rested

/-- A request that can be taken is taken, and nothing else is served. -/
theorem serveStreams_asked {g : Hw}
    (rests : (streamOf h i).st = .idle ∨ (streamOf h i).st = .swappedOut ∨ (streamOf h i).st = .broken)
    (takes : nextRequest { streamOf h i with reqs := [r] } = some r)
    (taken : takeRequest i r (setStream i (fun _ => streamOf h i) h) = g) (after : ∀ x ∈ g.streams, Rested x) :
    serveStreams (addRequest i r h) = g := by
  have alone := (forall_streamOf (P := fun x => x.reqs = [] ∧ x.st ≠ .queued) idle ⟨rfl, by decide⟩ i).1
  rw [addRequest_alone hi alone]
  obtain ⟨x, ex⟩ : ∃ x, x = streamOf h i := ⟨_, rfl⟩
  rw [← ex] at rests takes taken alone ⊢
  have entry := streamOf_setStream_same (fun _ => { x with reqs := [r] }) h hi
  have others (j : Nat) (ne : j ≠ i) : Rested (streamOf (setStream i (fun _ => { x with reqs := [r] }) h) j) := by
    by_cases hj : j < 256
    · rw [streamOf_setStream_other _ _ hj ne]
      exact .inl (forall_streamOf (P := fun x => x.reqs = [] ∧ x.st ≠ .queued) idle ⟨rfl, by decide⟩ j)
    · rw [streamOf_setStream_beyond _ _ (Nat.le_of_not_lt hj)]
      exact rested_blank
  refine serveStreams_one (by rw [length_setStream]; exact hi) ?_ ?_ others fun j _ => forall_streamOf after rested_blank j
  · rw [entry]
    rcases rests with e | e | e
    · simp only [e]; decide
    · simp only [e]; decide
    · simp only [e]; decide
  · rw [serveStream_takes (by rw [entry]; exact rests) (by rw [entry]; exact takes), setStream_setStream]
    have erased : (fun y : Stream => { x with reqs := [r].erase r }) = fun _ => x := by
      rw [List.erase_cons_head, ← alone]
    refine Eq.trans (congrArg (serveStream _ i) ?_) (serveStream_rested (forall_streamOf after rested_blank i) _)
    exact (congrArg (fun k => takeRequest i r (setStream i k h)) erased).trans taken

end Request

/-! ## Swaps and a flushing CLOSE (R248, R251, R387) -/

section Swaps

variable {c : Instr} {s : State} {slot : Slot} {f : Fetched} {op : Nat} {act : Fetched → Nat → Hw → Hw} {r : StreamReq}
  (he : exec c s = runStream op slot act s) (ha : AcceptsOp s slot f kStreamCtl 8 3 op) (hs : AtRest s)
  (passes : streamFault f s.hw = none)
  (asks : act f (slotStream f.words) (Slots.begun f s.hw) = addRequest (slotStream f.words) r (Slots.begun f s.hw))

include he ha hs passes asks

/-- The scheduler serves the streams behind the request. -/
theorem swap_served {g : Hw} (served : serveStreams (addRequest (slotStream f.words) r (Slots.begun f s.hw)) = g)
    (unmanned : Unmanned g) (rests : ∀ x ∈ g.streams, Rested x) :
    ∃ k, Sched.calm k = Sched.calm g ∧ exec c s = .next (commit s (Machine.finish k)) := by
  obtain ⟨graphs, notices, ended⟩ := unmanned_begun (f := f) hs
  obtain ⟨k, hk, answer⟩ := runSched_unmanned ((stream_effect_passes ha act passes).trans asks) ⟨graphs, notices, ended⟩
    (up_begun ha.1.1) served unmanned rests
  exact ⟨k, hk, he.trans answer⟩

/-- A request that starts a copy, or that waits, leaves its entry so. -/
theorem swap_starts {g : Hw} {y : Stream}
    (served : serveStreams (addRequest (slotStream f.words) r (Slots.begun f s.hw)) = g)
    (stirs : Stirs (setStream (slotStream f.words) (fun _ => y) (Slots.begun f s.hw)) g) (rested : Rested y) :
    Answers c s (EntryWaits s f y) := by
  have hi := slotStream_lt f.words
  obtain ⟨graphs, notices, ended⟩ := unmanned_begun (f := f) hs
  have rests := rested_setStream hi (streams_begun f s.hw ▸ (idle_of_atRest hs).2.2.2) rested
  have unmanned := stirs.unmanned ⟨graphs, notices, ended⟩
  obtain ⟨dev, sched, eg⟩ := stirs.eq
  obtain ⟨k, hk, answer⟩ := swap_served he ha hs passes asks served unmanned (by rw [eg]; exact rests)
  have streams : (commit s (Machine.finish k)).hw.streams =
      (setStream (slotStream f.words) (fun _ => y) (Slots.begun f s.hw)).streams :=
    (Run.finish_streams k).trans ((calm_streams hk).trans (by rw [eg]))
  obtain ⟨writes, wipe, raised, records, posts, held⟩ := clear_begun (f := f) hs []
  have clear : Clear g := by
    rw [eg]
    exact ⟨writes, wipe, raised, records, posts, held⟩
  refine ⟨_, answer, ?_, fun j hj ne => ?_, rest_silent_mem s hk clear ?_, ?_⟩
  · exact (streamOf_congr streams _).trans (streamOf_setStream_same _ _ hi)
  · exact (streamOf_congr streams j).trans ((streamOf_setStream_other _ _ hj ne).trans (streamOf_begun f s.hw j))
  · rw [eg, Slots.begun_eq]
    exact atRest_room hs
  · refine Slots.calm_only [.slots, .streams] s g k hk ?_
    rw [eg, Slots.begun_eq]
    rfl

/-- A request that has no copy to make completes its slot, and leaves every entry. -/
theorem swap_atOnce {st : Status} {d : Detail}
    (served : serveStreams (addRequest (slotStream f.words) r (Slots.begun f s.hw)) =
      complete (f.record st d (streamWords s.hw (slotStream f.words)))
        (setStream (slotStream f.words) (fun _ => entryOf s f) (Slots.begun f s.hw))) :
    Answers c s (EntryStays s f st d) := by
  have hi := slotStream_lt f.words
  obtain ⟨graphs, notices, ended⟩ := unmanned_begun (f := f) hs
  have rests := rested_setStream hi (streams_begun f s.hw ▸ (idle_of_atRest hs).2.2.2) 
    (.inl (streamOf_atRest hs (slotStream f.words)))
  obtain ⟨k, hk, answer⟩ := swap_served he ha hs passes asks served ⟨graphs, notices, ended⟩ rests
  obtain ⟨t, answer', streams, -, done, -⟩ := stream_ends ha.1.1 hs answer hk [.slots, .streams]
    (by rw [Slots.begun_eq]; rfl)
  refine ⟨t, answer', fun j hj => ?_, done⟩
  have entry : streamOf t.hw j = streamOf (setStream (slotStream f.words) (fun _ => entryOf s f) (Slots.begun f s.hw)) j :=
    streamOf_congr streams j
  refine entry.trans ?_
  by_cases same : j = slotStream f.words
  · subst same
    exact streamOf_setStream_same _ _ hi
  · exact (streamOf_setStream_other _ _ hj same).trans (streamOf_begun f s.hw j)

end Swaps

section Taken

variable {c : Instr} {s : State} {slot : Slot} {f : Fetched} {op : Nat} {act : Fetched → Nat → Hw → Hw} {r : StreamReq}
  (he : exec c s = runStream op slot act s) (ha : AcceptsOp s slot f kStreamCtl 8 3 op) (hs : AtRest s)
  (passes : streamFault f s.hw = none)
  (asks : act f (slotStream f.words) (Slots.begun f s.hw) = addRequest (slotStream f.words) r (Slots.begun f s.hw))

/-- The hardware as a request of a STREAM_CTL slot is taken: the slot has started and nothing waits at the stream. -/
def asked (f : Fetched) (h : Hw) : Hw :=
  setStream (slotStream f.words) (fun _ => streamOf h (slotStream f.words)) (Slots.begun f h)

theorem streamOf_asked (f : Fetched) (h : Hw) : streamOf (asked f h) (slotStream f.words) = streamOf h (slotStream f.words) :=
  streamOf_setStream_same _ _ (slotStream_lt f.words)

theorem streamWords_asked (f : Fetched) (h : Hw) :
    streamWords (asked f h) (slotStream f.words) = streamWords h (slotStream f.words) :=
  streamWords_congr (streamOf_asked f h) (graphs_begun f h)

include he ha hs passes asks

section AtRest

variable (rests : (entryOf s f).st = .idle ∨ (entryOf s f).st = .swappedOut ∨ (entryOf s f).st = .broken)
  (takes : nextRequest { entryOf s f with reqs := [r] } = some r)

include rests takes

/-- A request whose copy starts. -/
theorem swap_copies {st : StreamSt} {dest : Option (Nat × Nat)} {g : Hw}
    (taken : takeRequest (slotStream f.words) r (asked f s.hw) = g)
    (stirs : Stirs (setStream (slotStream f.words) (fun z => { z with st := st, copyFor := some r, dest := dest })
      (asked f s.hw)) g)
    (busy : st = .swapOutBusy ∨ st = .swapInBusy) : 
    Answers c s (EntryWaits s f { entryOf s f with st := st, copyFor := some r, dest := dest }) := by
  have hi := slotStream_lt f.words
  have idle := (streams_begun f s.hw).symm ▸ (idle_of_atRest hs).2.2.2
  rw [asked, setStream_setStream] at stirs
  have rested : Rested { entryOf s f with st := st, copyFor := some r, dest := dest } := by
    rcases busy with rfl | rfl
    · exact .inr (.inr (.inl rfl))
    · exact .inr (.inr (.inr (.inl rfl)))
  have after : ∀ x ∈ g.streams, Rested x := by
    obtain ⟨dev, sched, rfl⟩ := stirs.eq
    exact rested_setStream hi idle rested
  refine swap_starts he ha hs passes asks (serveStreams_asked hi idle ?_ ?_ ?_ after) stirs rested
  · rw [streamOf_begun]
    exact rests
  · rw [streamOf_begun]
    exact takes
  · rw [streamOf_begun]
    exact taken

/-- A request that is taken and has no copy to make. -/
theorem swap_completes {st : Status} {d : Detail} (taken : takeRequest (slotStream f.words) r (asked f s.hw) =
      complete (f.record st d (streamWords s.hw (slotStream f.words))) (asked f s.hw)) :
    Answers c s (EntryStays s f st d) := by
  have hi := slotStream_lt f.words
  have idle := (streams_begun f s.hw).symm ▸ (idle_of_atRest hs).2.2.2
  have after := rested_setStream hi idle (.inl (streamOf_atRest hs (slotStream f.words)))
  refine swap_atOnce he ha hs passes asks (serveStreams_asked hi idle ?_ ?_ ?_ after)
  · rw [streamOf_begun]
    exact rests
  · rw [streamOf_begun]
    exact takes
  · rw [streamOf_begun]
    exact taken

end AtRest

/-- A request that cannot be taken yet. -/
theorem swap_waits (rested : Rested { entryOf s f with reqs := [r] }) :
    Answers c s (EntryWaits s f { entryOf s f with reqs := [r] }) := by
  have hi := slotStream_lt f.words
  have idle := (streams_begun f s.hw).symm ▸ (idle_of_atRest hs).2.2.2
  have alone := addRequest_alone (h := Slots.begun f s.hw) (r := r) hi
    (by rw [streamOf_begun]; exact (streamOf_atRest hs _).1)
  rw [streamOf_begun] at alone
  refine swap_starts he ha hs passes asks ?_ (Stirs.refl _) rested
  rw [alone]
  exact serveStreams_rested (rested_setStream hi idle rested)

end Taken

/-- A slot's request ends with the completion of the slot. -/
theorem endRequest_asked {s : State} {slot : Slot} {f : Fetched} {op : Nat} (ha : AcceptsOp s slot f kStreamCtl 8 3 op)
    (swapIn : Bool) (failure : Option (Status × Detail)) :
    endRequest (slotStream f.words) (.swapSlot f.pos f.tag swapIn) failure (asked f s.hw) =
      complete (f.record (failure.getD (.done, .none)).1 (failure.getD (.done, .none)).2
        (streamWords s.hw (slotStream f.words))) (asked f s.hw) := by
  obtain ⟨o, ho, kind, tag⟩ := find?_begun ha.1.1
  simp only [endRequest, streamWords_asked]
  rw [completeOwned_owned (show (asked f s.hw).sq.owned.find? _ = some o from ho), kind, tag]
  rfl


/-! ## The requests by the table of R248 -/

section Table

variable {s : State} {slot : Slot} {f : Fetched} (hs : AtRest s) (passes : streamFault f s.hw = none)

/-- Nothing waits behind a request that a stream at rest can take. -/
theorem takes_alone {x : Stream} {r : StreamReq} (noChunk : r.isChunk = false)
    (usable : x.st ≠ .broken ∨ r.isOut = true) :
    nextRequest { x with reqs := [r] } = some r := by
  have now : (!r.isChunk && (x.st != .broken || r.isOut)) = true := by
    rw [noChunk]
    rcases usable with fine | out
    · rw [bne_iff_ne.2 fine]
      rfl
    · rw [out, Bool.or_true]
      rfl
  simp only [nextRequest, List.find?_cons, now]

theorem rested_busy {x : Stream} (busy : x.st = .running ∨ x.st = .swapOutBusy ∨ x.st = .swapInBusy) : Rested x := by
  rcases busy with st | st | st
  · exact .inr (.inl st)
  · exact .inr (.inr (.inl st))
  · exact .inr (.inr (.inr (.inl st)))

theorem tripped_asked (f : Fetched) (h : Hw) : (asked f h).power.tripped = h.power.tripped := by
  rw [asked, Slots.begun_eq]
  rfl

/-- Where there are at most 256 entries, the room in core store is what it was. -/
theorem chooseHome_asked (f : Fetched) {h : Hw} (fits : h.streams.length ≤ 256) (x : Stream) (notOn : List Nat) :
    chooseHome (asked f h) x notOn = chooseHome h x notOn := by
  have streams := streams_setStream_self (h := Slots.begun f h) (slotStream_lt f.words) (by rw [streams_begun]; exact fits)
  rw [streamOf_begun, streams_begun] at streams
  have same : asked f h = { Slots.begun f h with streams := h.streams ++ List.replicate (256 - h.streams.length) {} } :=
    congrArg (fun xs => { Slots.begun f h with streams := xs }) streams
  rw [same, ← chooseHome_padded (h := h), Slots.begun_eq]
  rfl

include hs passes

/-- SWAP_OUT: state in core store is copied to HOME. -/
theorem streamSwapOut_copies (ha : AcceptsOp s slot f kStreamCtl 8 3 3)
    (st : (entryOf s f).st = .idle) (inCs : (entryOf s f).inCs = true) :
    Answers (.streamSwapOut slot) s (EntryWaits s f { entryOf s f with
      st := .swapOutBusy, copyFor := some (.swapSlot f.pos (wordAt f.words 1) false), dest := none }) := by
  refine swap_copies rfl ha hs passes rfl (.inl st) (takes_alone rfl (.inr rfl)) ?_ (stirs_startCopy ..) (.inl rfl)
  simp only [takeRequest, streamOf_asked, inCs, Bool.false_eq_true, if_false, if_true]

/-- SWAP_OUT without state in core store has no copy to make. -/
theorem streamSwapOut_atOnce (ha : AcceptsOp s slot f kStreamCtl 8 3 3)
    (inCs : (entryOf s f).inCs = false)
    (rests : (entryOf s f).st = .idle ∨ (entryOf s f).st = .swappedOut ∨ (entryOf s f).st = .broken) :
    Answers (.streamSwapOut slot) s (EntryStays s f .done .none) := by
  refine swap_completes rfl ha hs passes rfl rests (takes_alone rfl (.inr rfl)) ?_
  simp only [takeRequest, streamOf_asked, inCs, Bool.false_eq_true, if_false]
  exact endRequest_asked ha false none

/-- A flushing CLOSE of state in core store copies it to HOME first. -/
theorem streamClose_copies (ha : AcceptsOp s slot f kStreamCtl 8 3 1) (flush : bit (wordAt f.words 4) 19 = true)
    (inCs : (entryOf s f).inCs = true) (st : (entryOf s f).st = .idle) :
    Answers (.streamClose slot) s (EntryWaits s f { entryOf s f with
      st := .swapOutBusy, copyFor := some (.close f.pos (wordAt f.words 1)), dest := none }) := by
  have asks : closeStream f (slotStream f.words) (Slots.begun f s.hw) =
      addRequest (slotStream f.words) (.close f.pos f.tag) (Slots.begun f s.hw) := by
    simp only [closeStream, streamOf_begun, flush, inCs, Bool.and_self, if_true]
  refine swap_copies rfl ha hs passes asks (.inl st) (takes_alone rfl (.inr rfl)) ?_ (stirs_startCopy ..) (.inl rfl)
  simp only [takeRequest, streamOf_asked, inCs, if_true]

section SwapIn

variable (ha : AcceptsOp s slot f kStreamCtl 8 3 4)

include ha

/-- SWAP_IN of a SWAPPED_OUT stream goes where core store has room. -/
theorem streamSwapIn_copies (fits : s.hw.streams.length ≤ 256) {c a : Nat}
    (st : (entryOf s f).st = .swappedOut) (cool : s.hw.power.tripped = false)
    (room : chooseHome s.hw (entryOf s f) [] = some (c, a)) :
    Answers (.streamSwapIn slot) s (EntryWaits s f { entryOf s f with
      st := .swapInBusy, copyFor := some (.swapSlot f.pos (wordAt f.words 1) true), dest := some (c, a) }) := by
  obtain ⟨g, starts, stirs⟩ := trySwapIn_starts (h := asked f s.hw) (i := slotStream f.words)
    (r := .swapSlot f.pos (wordAt f.words 1) true) ((tripped_asked ..).trans cool)
    (by rw [streamOf_asked, chooseHome_asked f fits]; exact room)
  refine swap_copies rfl ha hs passes rfl (.inr (.inl st)) (takes_alone rfl (.inl ?_)) ?_ stirs (.inr rfl)
  · rw [st]
    decide
  · simp only [takeRequest, streamOf_asked, st, tripped_asked, cool, Bool.false_eq_true, and_false, if_false, if_true,
      starts]

/-- SWAP_IN of a SWAPPED_OUT stream for which there is no room leaves it. -/
theorem streamSwapIn_noRoom (fits : s.hw.streams.length ≤ 256)
    (st : (entryOf s f).st = .swappedOut) (cool : s.hw.power.tripped = false)
    (noRoom : chooseHome s.hw (entryOf s f) [] = none) :
    Answers (.streamSwapIn slot) s (EntryStays s f .done .none) := by
  have stays := trySwapIn_none (h := asked f s.hw) (i := slotStream f.words) (r := .swapSlot f.pos f.tag true)
    (by rw [streamOf_asked, chooseHome_asked f fits]; exact noRoom)
  refine swap_completes rfl ha hs passes rfl (.inr (.inl st)) (takes_alone rfl (.inl ?_)) ?_
  · rw [st]
    decide
  · simp only [takeRequest, streamOf_asked, st, tripped_asked, cool, Bool.false_eq_true, and_false, if_false, if_true,
      stays]
    exact endRequest_asked ha true none

/-- In a thermal trip a SWAP_IN takes no transfer (R387). -/
theorem streamSwapIn_tripped (st : (entryOf s f).st = .swappedOut)
    (hot : s.hw.power.tripped = true) :
    Answers (.streamSwapIn slot) s (EntryStays s f .failDomainOff .none) := by
  refine swap_completes rfl ha hs passes rfl (.inr (.inl st)) (takes_alone rfl (.inl ?_)) ?_
  · rw [st]
    decide
  · simp only [takeRequest, streamOf_asked, st, tripped_asked, hot, and_self, if_true]
    exact endRequest_asked ha true (some (.failDomainOff, .none))

/-- SWAP_IN of an IDLE stream has no copy to make. -/
theorem streamSwapIn_idle (st : (entryOf s f).st = .idle) :
    Answers (.streamSwapIn slot) s (EntryStays s f .done .none) := by
  refine swap_completes rfl ha hs passes rfl (.inl st) (takes_alone rfl (.inl ?_)) ?_
  · rw [st]
    decide
  · simp only [takeRequest, streamOf_asked, st, reduceCtorEq, false_and, if_false, if_true]
    exact endRequest_asked ha true none

/-- SWAP_IN waits while the stream runs or copies, and while it is BROKEN. -/
theorem streamSwapIn_waits (busy : (entryOf s f).st = .running ∨ (entryOf s f).st = .swapOutBusy ∨
      (entryOf s f).st = .swapInBusy ∨ (entryOf s f).st = .broken) :
    Answers (.streamSwapIn slot) s (EntryWaits s f { entryOf s f with reqs := [.swapSlot f.pos (wordAt f.words 1) true] }) := by
  refine swap_waits rfl ha hs passes rfl ?_
  rcases busy with st | st | st | st
  · exact rested_busy (.inl st)
  · exact rested_busy (.inr (.inl st))
  · exact rested_busy (.inr (.inr st))
  · refine .inr (.inr (.inr (.inr ⟨st, ?_⟩)))
    simp only [nextRequest, st]
    rfl

end SwapIn

end Table

/-! ## The refusals of R250 in their order -/

section Checks

variable {f : Fetched} {h : Hw}

theorem owner_checked (named : bit (wordAt f.words 4) 18 = true → f.master = HOST_S) :
    (bit (wordAt f.words 4) 18 && f.master != HOST_S) = false := by
  cases e : bit (wordAt f.words 4) 18 with
  | false => rfl
  | true => simp only [named e, bne_self_eq_false, Bool.and_false]

variable (fields : streamFieldsOk f.words = true)

include fields

/-- Check 2: only HOST_S names an owner. -/
theorem streamFault_access (named : bit (wordAt f.words 4) 18 = true) (other : f.master ≠ HOST_S) :
    streamFault f h = some (.refusedAccess, .none) := by
  simp only [streamFault, fields, named, bne_iff_ne.2 other, Bool.not_true, Bool.false_eq_true, if_false, Bool.and_self,
    if_true]

section Named

variable {op : Nat} (hop : fld (wordAt f.words 4) 8 3 = op) (named : bit (wordAt f.words 4) 18 = true → f.master = HOST_S)

include hop named

/-- Check 3: OPEN of an entry in use. -/
theorem streamFault_open (isOpen : op = 0) (used : (streamOf h (slotStream f.words)).st ≠ .free) :
    streamFault f h = some (.refusedState, .streamOpen) := by
  simp only [streamFault, fields, owner_checked named, hop, isOpen, used, Bool.not_true, Bool.false_eq_true, if_false,
    ne_eq, not_false_eq_true, and_self, if_true]

/-- Check 6: OPEN at a HOME that its cores may not use. -/
theorem streamFault_home (isOpen : op = 0) (free : (streamOf h (slotStream f.words)).st = .free)
    (denied : granted h CORES true true (addrAt f.words 5) (2 * fld (wordAt f.words 7) 0 25) = false) :
    streamFault f h = some (.refusedAccess, .homeAccess) := by
  simp [streamFault, fields, owner_checked named, hop, isOpen, free, denied]

section Acting

variable (acts : op ≠ 0 ∧ op ≠ 5)

include acts

/-- Check 3: another OP on a FREE entry. -/
theorem streamFault_free (free : (streamOf h (slotStream f.words)).st = .free) :
    streamFault f h = some (.refusedState, .streamFree) := by
  simp [streamFault, fields, owner_checked named, hop, acts.1, acts.2, free]

variable (used : (streamOf h (slotStream f.words)).st ≠ .free)

include used

/-- Check 4: another OP of a master that does not own the stream. -/
theorem streamFault_owner (other : ¬(f.master = (streamOf h (slotStream f.words)).owner ∨ f.master = HOST_S)) :
    streamFault f h = some (.refusedAccess, .notOwner) := by
  obtain ⟨notOwner, notHost⟩ := not_or.1 other
  simp [streamFault, fields, owner_checked named, hop, acts.1, acts.2, used, notOwner, notHost]

end Acting

/-- Check 5: CLOSE of a stream that runs or copies. -/
theorem streamFault_busy (isClose : op = 1)
    (entitled : f.master = (streamOf h (slotStream f.words)).owner ∨ f.master = HOST_S)
    (busy : (streamOf h (slotStream f.words)).st = .running ∨ (streamOf h (slotStream f.words)).st = .swapOutBusy ∨
      (streamOf h (slotStream f.words)).st = .swapInBusy) : streamFault f h = some (.refusedState, .streamBusy) := by
  have owns : ¬(f.master ≠ (streamOf h (slotStream f.words)).owner ∧ f.master ≠ HOST_S) := by
    rintro ⟨notOwner, notHost⟩
    exact entitled.elim notOwner notHost
  have close : closeBusy h (slotStream f.words) = true ∧ (streamOf h (slotStream f.words)).st ≠ .free := by
    rcases busy with st | st | st
    · simp only [closeBusy, st, Bool.true_or]; decide
    · simp only [closeBusy, st, Bool.true_or]; decide
    · simp only [closeBusy, st, Bool.true_or]; decide
  simp [streamFault, fields, owner_checked named, hop, isClose, owns, close.1, close.2]

end Named

end Checks

/-! ## The statement -/

/-- Settles O12: what each OP does, where its copy starts and what R250 refuses is each a lemma above. -/
theorem streamSlotsActOrAreRefused : Obligations.StreamSlotsActOrAreRefused := by
  unfold Obligations.StreamSlotsActOrAreRefused
  refine ⟨?_, ?_, ?_⟩
  · intro s slot f hs passes w i x becomes
    exact ⟨streamOpen_answers hs passes, streamReset_answers hs passes, streamQuery_answers hs passes,
      streamClose_atOnce hs passes⟩
  · intro s slot f hs passes fits i x tag starts atOnce
    refine ⟨fun ha => ⟨streamSwapOut_copies hs passes ha, streamSwapOut_atOnce hs passes ha, fun busy => ?_⟩,
      fun ha => ⟨fun c a st cool room => ?_, streamSwapIn_noRoom hs passes ha fits, streamSwapIn_tripped hs passes ha,
        streamSwapIn_idle hs passes ha, streamSwapIn_waits hs passes ha⟩, streamClose_copies hs passes⟩
    · exact swap_waits rfl ha hs passes rfl (rested_busy busy)
    · exact streamSwapIn_copies hs passes ha fits st cool room
  · intro s slot f hs fields w i x entitled refused
    have named (no : bit w 18 = false) : bit w 18 = true → f.master = HOST_S := fun yes => nomatch no.symm.trans yes
    refine ⟨fun ha => ⟨fun yes other => ?_, fun named used => ?_, fun named free denied => ?_⟩, fun no free => ?_,
      fun no used other => ?_, fun no owns busy ha => ?_⟩
    · exact stream_refused rfl ha hs (streamFault_access fields yes other)
    · exact stream_refused rfl ha hs (streamFault_open fields ha.2 named rfl used)
    · exact stream_refused rfl ha hs (streamFault_home fields ha.2 named rfl free denied)
    · have fault {op : Nat} (acts : op ≠ 0 ∧ op ≠ 5) (hop : fld (wordAt f.words 4) 8 3 = op) :=
        streamFault_free (h := s.hw) fields hop (named no) acts free
      exact ⟨fun ha => stream_refused rfl ha hs (fault (by decide) ha.2),
        fun ha => stream_refused rfl ha hs (fault (by decide) ha.2),
        fun ha => stream_refused rfl ha hs (fault (by decide) ha.2),
        fun ha => stream_refused rfl ha hs (fault (by decide) ha.2)⟩
    · have fault {op : Nat} (acts : op ≠ 0 ∧ op ≠ 5) (hop : fld (wordAt f.words 4) 8 3 = op) :=
        streamFault_owner (h := s.hw) fields hop (named no) acts used other
      exact ⟨fun ha => stream_refused rfl ha hs (fault (by decide) ha.2),
        fun ha => stream_refused rfl ha hs (fault (by decide) ha.2)⟩
    · exact stream_refused rfl ha hs (streamFault_busy fields ha.2 (named no) rfl owns busy)

end Sys2Proof.Proofs

/-! PROOFS. Stream copies that end (R248, R251, R266, R328). -/

namespace Sys2Proof.Proofs

open Sys2Proof Sys2Proof.Machine Sys2Proof.Laws

/-! ## What a command sees of device memory -/

theorem length_readCells (fill : Byte) (n a : Nat) (m : Mem) : (readCells fill n a m).length = n := by
  induction n generalizing a m with
  | zero => rfl
  | succ n ih =>
    cases m with
    | nil => exact congrArg (· + 1) (ih ..)
    | cons c m =>
      simp only [readCells]
      split
      · exact congrArg (· + 1) (ih ..)
      · exact congrArg (· + 1) (ih ..)

/-- Before a command has made writes, a read of device memory gives as many bytes as it asks for. -/
theorem length_readDev {h : Hw} (silent : h.writes = []) (m : Mems) (a n : Nat) : (readDev m h a n).length = n := by
  have each (sp : Space) (b : Nat) : (readN m h sp b n).length = n := by
    rw [readN, silent]
    exact length_readCells ..
  unfold readDev
  split
  · exact each ..
  · split
    · exact each ..
    · exact each ..

/-- What a read gives depends on the writes alone. -/
theorem readDev_congr {g h : Hw} (e : g.writes = h.writes) (m : Mems) (a n : Nat) : readDev m g a n = readDev m h a n := by
  simp only [readDev, readN, e]

/-! ## A command at rest that ends a copy -/

/-- The hardware once a copy has ended: the streams, health with its events, and what the copy has written. -/
def copyLeft (streams : List Stream) (health : Health) (raised : List Raised) (writes : List Write) (h : Hw) : Hw :=
  { h with sent := [], streams := streams, health := health, raised := raised, writes := writes }

theorem copy_completes {c : Instr} {s : State} {eff : Mems → Hw → Hw} {r : Record} {streams : List Stream}
    {health : Health} {raised : List Raised} {writes : List Write} (hs : AtRest s) (wr : s.hw.writesRecords = true)
    (he : exec c s = runSched eff s)
    (out : eff s.mem { s.hw with sent := [] } = complete r (copyLeft streams health raised writes s.hw))
    (idle : ∀ x ∈ streams, x.reqs = [] ∧ x.st ≠ .queued) (few : raised.length ≤ 3) :
    Answers c s fun t => t.hw.streams = streams ∧ t.hw.sched.graphs = s.hw.sched.graphs ∧ Completes t r ∧
      OnlyChanges (reporting ++ resting ++ [Portion.streams, Portion.health]) s t ∧
      (s.hw.image.system.sqInDram = false → t.mem.of .dram = (applyWrites s.mem writes).of .dram) := by
  obtain ⟨graphs, notices, ended, -⟩ := idle_of_atRest hs
  obtain ⟨-, wipe, -, records, posts, held⟩ := atRest_clear hs
  obtain ⟨k, hk, answer⟩ := Slots.runSched_calm eff s _ out ⟨graphs, notices, ended, idle⟩
  have sq : k.sq = s.hw.sq := (calm_sq hk).trans rfl
  have one : k.records = [r] := (calm_records hk).trans (congrArg (· ++ [r]) records)
  have image : k.image = s.hw.image := (calm_image hk).trans rfl
  have posts' : k.sq.posts = [] := by rw [sq]; exact posts
  have held' : k.sq.heldRecords = [] := by rw [sq]; exact held
  have wr' : k.writesRecords = true := (calm_writesRecords hk).trans wr
  have queue : s.hw.sq.queue.length ≤ 32 := hs.2
  have raises : k.raised = raised := calm_raised hk
  have room : k.sq.queue.length + k.raised.length ≤ 64 := by
    rw [sq, raises]
    omega
  refine ⟨_, he.trans answer, (Run.finish_streams k).trans (calm_streams hk),
    (congrArg Sched.graphs (Run.finish_sched k)).trans ((calm_graphs hk).trans rfl),
    Run.commit_completes s k r one posts' held' wr' room, Slots.calm_only _ s _ k hk rfl, fun inHost => ?_⟩
  obtain ⟨written, -⟩ := Run.finish_plain k posts' held' (.inl wr') room
  have space : ringSpace k = .host := by simp only [ringSpace, image, inHost, Bool.false_eq_true, if_false]
  have mem : (commit s (Machine.finish k)).mem = applyWrites s.mem (Machine.finish k).writes := by
    simp only [commit, Run.finish_wipe, (calm_wipe hk).trans wipe, wipeMems]
  rw [mem, written, one, space, applyWrites, List.foldl_append]
  refine (applyWrites_of_other _ fun w hw => ?_).trans ?_
  · obtain rfl := List.mem_singleton.1 hw
    exact fun no => nomatch no
  · rw [show k.writes = writes from calm_writes hk]
    rfl

/-! ## An uncorrectable error (R328, R422) -/

/-- Counts of corrected errors do not tell which units are bad. -/
theorem devBad_markBad_corrected (x : Memory) (fixed : Nat) (h : Hw) (as : List Nat) (a n : Nat) :
    devBad (markBad as (corrected x fixed h)) a n = devBad (markBad as h) a n := by
  obtain ⟨storm, win, cnt, causes, raised, e, -⟩ := corrected_eq x fixed h
  rw [e]
  rfl

/-- Marks, counts and the report of an uncorrectable error change health and raise two events at most. -/
theorem spoiled_eq (x : Memory) (fixed : Nat) (as : List Nat) (a n : Nat) (h : Hw) : ∃ health raised,
    uncorrected x (firstBad (markBad as (corrected x fixed h)) a n) (markBad as (corrected x fixed h)) =
      { h with health := health, raised := raised } ∧ raised.length ≤ h.raised.length + 2 := by
  obtain ⟨storm, win, cnt, causes, raised, e, few⟩ := corrected_eq x fixed h
  rw [e]
  obtain ⟨g, eg⟩ : ∃ g, g = markBad as { h with
    health := { h.health with storm := storm, stormWin := win, cnt := cnt, causes := causes }, raised := raised } :=
    ⟨_, rfl⟩
  refine ⟨(uncorrected x (firstBad g a n) g).health, (uncorrected x (firstBad g a n) g).raised, ?_, ?_⟩
  · rw [eg]
    rfl
  · rw [eg]
    simp only [uncorrected, setCause, raiseHealth, markBad, List.length_append, List.length_singleton]
    exact Nat.succ_le_succ few

/-! ## How a copy for a slot ends (R248, R266) -/

section Ends

variable {h : Hw} {i pos : Nat} {tag : Word} {swapIn : Bool} {o : Owned}
  (asked : (streamOf h i).copyFor = some (.swapSlot pos tag swapIn))
  (ho : h.sq.owned.find? (fun o => o.pos == pos) = some o)

include asked ho

/-- Without an uncorrectable error the copy is made, and the slot completes with the entry. -/
theorem copyComplete_done (m : Mems) (fixed : Nat)
    (busy : (streamOf h i).st = .swapOutBusy ∨ (streamOf h i).st = .swapInBusy)
    (ready : copyReady h (streamOf h i) = true)
    (good : devBad h (copySource (streamOf h i)) (streamOf h i).slotBytes = false)
    {g : Hw} (made : copyDone m i (corrected (memoryAt (copySource (streamOf h i))) fixed h) = g) (sq : g.sq = h.sq) :
    copyComplete m i false fixed h =
      complete { pos := pos, kind := o.kind, status := .done, tag := o.tag, result := streamWords g i } g := by
  obtain ⟨storm, win, cnt, causes, raised, e, -⟩ := corrected_eq (memoryAt (copySource (streamOf h i))) fixed h
  have good' : devBad (corrected (memoryAt (copySource (streamOf h i))) fixed h) (copySource (streamOf h i))
      (streamOf h i).slotBytes = false := by
    rw [e]
    exact good
  have ho' : g.sq.owned.find? (fun o => o.pos == pos) = some o := by rw [sq]; exact ho
  simp only [copyComplete, busy, ready, and_self, if_true, asked, Option.getD_some, good', made, endRequest,
    Option.getD_none, Bool.false_eq_true, if_false]
  exact completeOwned_owned ho' ..

/-- An uncorrectable error makes the stream BROKEN, and the slot fails. -/
theorem copyComplete_bad (m : Mems) (fixed : Nat)
    (busy : (streamOf h i).st = .swapOutBusy ∨ (streamOf h i).st = .swapInBusy)
    (ready : copyReady h (streamOf h i) = true)
    (bad : devBad (markBad [copySource (streamOf h i)] h) (copySource (streamOf h i)) (streamOf h i).slotBytes = true) :
    ∃ health raised, raised.length ≤ h.raised.length + 2 ∧
      let g := setStream i (fun x => { x with
        st := .broken, inCs := false, core := 0, state := x.home, copyFor := none, dest := none
        reqs := x.reqs.erase (.swapSlot pos tag swapIn) }) { h with health := health, raised := raised }
      copyComplete m i true fixed h =
        complete { pos := pos, kind := o.kind, status := .failEcc, tag := o.tag, result := streamWords g i } g := by
  obtain ⟨health, raised, reported, few⟩ := spoiled_eq (memoryAt (copySource (streamOf h i))) fixed
    [copySource (streamOf h i)] (copySource (streamOf h i)) (streamOf h i).slotBytes h
  have bad' := (devBad_markBad_corrected (memoryAt (copySource (streamOf h i))) fixed ..).trans bad
  refine ⟨health, raised, few, ?_⟩
  simp only [copyComplete, busy, ready, and_self, if_true, asked, Option.getD_some, bad', endRequest, reported]
  exact completeOwned_owned (by exact ho) ..

end Ends

/-! ## The bytes of a copy (R248) -/

/-- The hardware with other health, events and writes. -/
def rewritten (health : Health) (raised : List Raised) (writes : List Write) (h : Hw) : Hw :=
  { h with sent := [], health := health, raised := raised, writes := writes }

/-- A write by device address is one write, in DRAM below its end. -/
theorem putDev_eq (a : Nat) (bs : List Byte) (h : Hw) : ∃ health w, putDev a bs h =
    { h with health := health, writes := h.writes ++ [w] } ∧ (a < dramEnd → w = ⟨.dram, a, bs⟩) := by
  by_cases low : a < dramEnd
  · exact ⟨_, _, putDev_dram bs h low, fun _ => rfl⟩
  · unfold putDev
    split
    · exact ⟨_, _, rfl, fun yes => absurd yes low⟩
    · split
      · exact ⟨_, _, rfl, fun yes => absurd yes low⟩
      · split
        · exact ⟨_, _, rfl, fun yes => absurd yes low⟩
        · split
          · exact ⟨_, _, rfl, fun yes => absurd yes low⟩
          · exact ⟨_, _, rfl, fun yes => absurd yes low⟩

/-- What is written to DRAM is read there. -/
theorem memReadN_copied {a n : Nat} {bs : List Byte} {w : Write} (m : Mems) (long : bs.length = n)
    (low : a < dramEnd → w = ⟨.dram, a, bs⟩) (fits : 0 < n → a < dramEnd) :
    memReadN (Space.dram.fill.getD 0) ((applyWrites m [w]).of .dram) a n = bs := by
  subst long
  cases bs with
  | nil => rfl
  | cons b bs =>
    rw [low (fits (Nat.succ_pos _))]
    exact Memory.memReadN_memWrite ..

/-- The bytes at the copy's source, as they stand. -/
abbrev sourceBytes (s : State) (i : Nat) : List Byte :=
  readDev s.mem { s.hw with sent := [] } (copySource (streamOf s.hw i)) (streamOf s.hw i).slotBytes

/-- What the copy reads is not changed by corrections. -/
theorem sourceBytes_corrected (s : State) (i fixed : Nat) (x : Memory) :
    readDev s.mem (corrected x fixed { s.hw with sent := [] }) (copySource (streamOf s.hw i)) (streamOf s.hw i).slotBytes = sourceBytes s i := by
  obtain ⟨storm, win, cnt, causes, raised, e, -⟩ := corrected_eq x fixed { s.hw with sent := [] }
  exact readDev_congr (by rw [e]) ..

theorem streamOf_corrected (h : Hw) (i fixed : Nat) (x : Memory) : streamOf (corrected x fixed h) i = streamOf h i := by
  obtain ⟨storm, win, cnt, causes, raised, e, -⟩ := corrected_eq x fixed h
  exact streamOf_congr (by rw [e]) i

section Made

variable {s : State} (hs : AtRest s) (i fixed : Nat)

include hs

/-- A correction and a write of device memory, by a command at rest. -/
theorem putDev_corrected (x : Memory) (a : Nat) (bs : List Byte) : ∃ health raised w,
    putDev a bs (corrected x fixed { s.hw with sent := [] }) = rewritten health raised [w] s.hw ∧ raised.length ≤ 1 ∧
      (a < dramEnd → w = ⟨.dram, a, bs⟩) := by
  have silent : s.hw.writes = [] := (atRest_clear hs).writes
  have unraised : s.hw.raised = [] := (atRest_clear hs).raised
  obtain ⟨storm, win, cnt, causes, raised, e, few⟩ := corrected_eq x fixed { s.hw with sent := [] }
  obtain ⟨health, w, put, low⟩ := putDev_eq a bs (corrected x fixed { s.hw with sent := [] })
  refine ⟨health, raised, w, ?_, few.trans (by rw [unraised]; exact Nat.le_refl 1), low⟩
  rw [put, e]
  simp only [rewritten, silent, List.nil_append]

/-- A copy to HOME: its bytes are written, and the stream is SWAPPED_OUT. -/
theorem copyDone_out (x : Memory) (st : (streamOf s.hw i).st = .swapOutBusy) : ∃ health raised w,
    copyDone s.mem i (corrected x fixed { s.hw with sent := [] }) = setStream i
      (fun y => { y with inCs := false, core := 0, state := y.home, copyFor := none, st := .swappedOut })
      (rewritten health raised [w] s.hw) ∧ raised.length ≤ 1 ∧
      ((streamOf s.hw i).home + (streamOf s.hw i).slotBytes * ((streamOf s.hw i).gen % 2) < dramEnd →
        w = ⟨.dram, (streamOf s.hw i).home + (streamOf s.hw i).slotBytes * ((streamOf s.hw i).gen % 2), sourceBytes s i⟩) := by
  obtain ⟨health, raised, w, put, few, low⟩ := putDev_corrected hs fixed x
    ((streamOf s.hw i).home + (streamOf s.hw i).slotBytes * ((streamOf s.hw i).gen % 2)) (sourceBytes s i)
  have entry : streamOf (corrected x fixed { s.hw with sent := [] }) i = streamOf s.hw i := streamOf_corrected _ i fixed x
  refine ⟨health, raised, w, ?_, few, low⟩
  simp only [copyDone, entry, st, sourceBytes_corrected]
  rw [put]

/-- A copy into core store: its bytes are written, and the stream rests there. -/
theorem copyDone_in (x : Memory) {c a : Nat} (st : (streamOf s.hw i).st = .swapInBusy)
    (dest : (streamOf s.hw i).dest = some (c, a)) : ∃ health raised w,
    copyDone s.mem i (corrected x fixed { s.hw with sent := [] }) = setStream i
      (fun y =>
        let y := { y with inCs := true, core := c, state := a, copyFor := none, dest := none }
        { y with st := restStatus y })
      (rewritten health raised [w] s.hw) ∧ raised.length ≤ 1 := by
  obtain ⟨health, raised, w, put, few, -⟩ := putDev_corrected hs fixed x
    (a + (streamOf s.hw i).slotBytes * ((streamOf s.hw i).gen % 2)) (sourceBytes s i)
  have entry : streamOf (corrected x fixed { s.hw with sent := [] }) i = streamOf s.hw i := streamOf_corrected _ i fixed x
  refine ⟨health, raised, w, ?_, few⟩
  simp only [copyDone, entry, st, dest, sourceBytes_corrected]
  rw [put]

end Made

/-! ## The answer of the command -/

/-- The entry becomes y, every other stays, and the slot of the copy completes with it. -/
abbrev CopyEnds (s : State) (i pos : Nat) (o : Owned) (st : Status) (y : Stream) (t : State) : Prop :=
  streamOf t.hw i = y ∧ (∀ j < 256, j ≠ i → streamOf t.hw j = streamOf s.hw j) ∧
    Completes t { pos := pos, kind := o.kind, status := st, tag := o.tag, result := streamWords t.hw i } ∧
    OnlyChanges (reporting ++ resting ++ [Portion.streams, Portion.health]) s t

theorem exec_streamCopyComplete (i : Nat) (bad : Bool) (fixed : Nat) (s : State) :
    exec (.streamCopyComplete i bad fixed) s = runSched (fun m h => copyComplete m i bad fixed h) s := rfl

section Answer

variable {s : State} {i pos : Nat} {o : Owned} (hs : AtRest s) (hi : i < 256) (wr : s.hw.writesRecords = true)

include hs hi wr

theorem copy_answers {bad : Bool} {fixed : Nat} {st : Status} {f : Stream → Stream} {y : Stream} {health : Health}
    {raised : List Raised} {writes : List Write} {g : Hw}
    (left : g = setStream i f (rewritten health raised writes s.hw)) (few : raised.length ≤ 3)
    (becomes : f (streamOf s.hw i) = y) (still : y.reqs = [] ∧ y.st ≠ .queued)
    (out : copyComplete s.mem i bad fixed { s.hw with sent := [] } =
      complete { pos := pos, kind := o.kind, status := st, tag := o.tag, result := streamWords g i } g) :
    Answers (.streamCopyComplete i bad fixed) s fun t => CopyEnds s i pos o st y t ∧
      (s.hw.image.system.sqInDram = false → t.mem.of .dram = (applyWrites s.mem writes).of .dram) := by
  subst becomes
  have form : g = copyLeft (setStream i f s.hw).streams health raised writes s.hw := left
  obtain ⟨t, answer, streams, graphs, done, frame, mem⟩ := copy_completes hs wr (exec_streamCopyComplete i bad fixed s)
    (out.trans (by rw [form])) (forall_setStream hi (idle_of_atRest hs).2.2.2 ⟨rfl, by decide⟩ still) few
  have entry (j : Nat) : streamOf t.hw j = streamOf (setStream i f s.hw) j := streamOf_congr streams j
  have words : streamWords t.hw i = streamWords g i :=
    streamWords_congr ((entry i).trans (by rw [form]; rfl)) (graphs.trans (by rw [form]; rfl))
  refine ⟨t, answer, ⟨?_, fun j hj ne => ?_, ?_, frame⟩, mem⟩
  · exact (entry i).trans (streamOf_setStream_same f _ hi)
  · exact (entry j).trans (streamOf_setStream_other f _ hj ne)
  · rw [words, form]
    exact done

end Answer

/-- Settles O13: a copy to HOME, one into core store, and one that meets an uncorrectable error. -/
theorem streamCopiesEnd : Obligations.StreamCopiesEnd := by
  unfold Obligations.StreamCopiesEnd
  intro s i pos fixed tag swapIn o hs hi wr x src bytes asked ho ends broken
  obtain ⟨noReqs, notQueued⟩ : x.reqs = [] ∧ x.st ≠ .queued := streamOf_atRest hs i
  refine ⟨fun st good => ?_, fun c a st dest powered good => ?_, fun ready busy bad => ?_⟩
  · obtain ⟨health, raised, w, made, few, low⟩ := copyDone_out hs i fixed (memoryAt src) st
    have ready : copyReady s.hw x = true := by simp only [copyReady, x, st, beq_self_eq_true, Bool.true_or]
    have out := copyComplete_done (h := { s.hw with sent := [] }) asked ho s.mem fixed (.inl st) ready good made rfl
    obtain ⟨t, answer, ended, mem⟩ := copy_answers
      (y := { x with st := .swappedOut, inCs := false, core := 0, state := x.home, copyFor := none }) hs hi wr rfl
      (Nat.le_trans few (by decide)) rfl ⟨noReqs, fun no => nomatch no⟩ out
    refine ⟨⟨t, answer, ended⟩, fun inHost fits => ⟨t, answer, ?_⟩⟩
    have long : bytes.length = x.slotBytes := length_readDev (atRest_clear hs).writes ..
    have half : x.slotBytes * (x.gen % 2) ≤ x.slotBytes * 1 := Nat.mul_le_mul_left _ (by omega)
    refine (congrArg (memReadN _ · _ x.slotBytes) (mem inHost)).trans (memReadN_copied s.mem long low fun some => ?_)
    have inDram : x.home + x.slotBytes * (x.gen % 2) < dramEnd := by omega
    exact inDram
  · obtain ⟨health, raised, w, made, few⟩ := copyDone_in hs i fixed (memoryAt src) st dest
    have ready : copyReady s.hw x = true := by
      simp only [copyReady, x, dest, Option.any_some, powered, Bool.or_true]
    have out := copyComplete_done (h := { s.hw with sent := [] }) asked ho s.mem fixed (.inr st) ready good made rfl
    have rest : restStatus { x with inCs := true, core := c, state := a, copyFor := none, dest := none } = .idle := by
      simp only [restStatus, noReqs, Bool.not_true, Bool.and_false, List.any_nil, Bool.false_eq_true, if_false]
    obtain ⟨t, answer, ended, -⟩ := copy_answers
      (y := { x with st := .idle, inCs := true, core := c, state := a, copyFor := none, dest := none }) hs hi wr rfl
      (Nat.le_trans few (by decide)) (by dsimp only; rw [rest]) ⟨noReqs, fun no => nomatch no⟩ out
    exact ⟨t, answer, ended⟩
  · obtain ⟨health, raised, few, out⟩ :=
      copyComplete_bad (h := { s.hw with sent := [] }) asked ho s.mem fixed busy ready bad
    have unraised : s.hw.raised = [] := (atRest_clear hs).raised
    have few' : raised.length ≤ 3 := few.trans (by rw [unraised]; decide)
    have erased : x.reqs.erase (.swapSlot pos tag swapIn) = x.reqs := by rw [noReqs]; rfl
    obtain ⟨t, answer, ended, -⟩ := copy_answers (writes := s.hw.writes) (y := broken) hs hi wr rfl few'
      (by rw [erased]) ⟨noReqs, fun no => nomatch no⟩ out
    exact ⟨t, answer, ended⟩

end Sys2Proof.Proofs

/-! PROOFS. Entries into SLEEP, DEEP and OFF: the streams that leave core store (R248, R268). -/

namespace Sys2Proof.Proofs

open Sys2Proof Sys2Proof.Machine Sys2Proof.Laws

/-! ## One stream -/

/-- Only streams, the scheduler's own part and the device's state differ, and no graph has become resident. -/
structure StreamsServed (h g : Hw) : Prop where
  eq : ∃ streams dev sched, g = { h with streams := streams, sched := sched, power := { h.power with dev := dev } }
  unmanned : Unmanned h → Unmanned g

theorem StreamsServed.refl (h : Hw) : StreamsServed h h := ⟨⟨h.streams, h.power.dev, h.sched, rfl⟩, id⟩

theorem StreamsServed.trans {a b c : Hw} (ab : StreamsServed a b) (bc : StreamsServed b c) : StreamsServed a c := by
  obtain ⟨streams, dev, sched, rfl⟩ := bc.eq
  obtain ⟨streams', dev', sched', rfl⟩ := ab.eq
  exact ⟨⟨streams, dev, sched, rfl⟩, fun u => bc.unmanned (ab.unmanned u)⟩

theorem StreamsServed.of_setStream (i : Nat) (f : Stream → Stream) (h : Hw) : StreamsServed h (setStream i f h) :=
  ⟨⟨_, h.power.dev, h.sched, rfl⟩, fun u => ⟨u.graphs, u.notices, u.ended⟩⟩

theorem StreamsServed.of_stirs {h g : Hw} (stirs : Stirs h g) : StreamsServed h g := by
  obtain ⟨dev, sched, e⟩ := stirs.eq
  exact ⟨⟨h.streams, dev, sched, e⟩, stirs.unmanned⟩

/-- Nothing waits at the stream, or an eviction of state that is in core store or on its way there. -/
def Evicts (x : Stream) : Prop :=
  x.st ≠ .queued ∧ (x.reqs = [] ∨ x.reqs = [.evict] ∧ x.st ≠ .free ∧ (x.inCs = true ∨ x.st = .swapInBusy))

/-- The eviction can be taken. -/
def EvictsNow (x : Stream) : Prop :=
  x.reqs = [.evict] ∧ (x.st = .idle ∨ x.st = .swappedOut ∨ x.st = .broken)

/-- What a pass of the scheduler makes of a stream at which at most an eviction waits. -/
def Evicted (x y : Stream) : Prop :=
  (EvictsNow x → y = { x with st := .swapOutBusy, copyFor := some .evict, dest := none, reqs := [] }) ∧ (¬EvictsNow x → y = x)

theorem rested_of_not_evictsNow {x : Stream} (e : Evicts x) (notNow : ¬EvictsNow x) : Rested x := by
  obtain ⟨notQueued, none | ⟨one, notFree, -⟩⟩ := e
  · exact .inl ⟨none, notQueued⟩
  · cases st : x.st with
    | free => exact absurd st notFree
    | idle => exact absurd ⟨one, .inl st⟩ notNow
    | queued => exact absurd st notQueued
    | running => exact rested_busy (.inl st)
    | swappedOut => exact absurd ⟨one, .inr (.inl st)⟩ notNow
    | swapOutBusy => exact rested_busy (.inr (.inl st))
    | swapInBusy => exact rested_busy (.inr (.inr st))
    | broken => exact absurd ⟨one, .inr (.inr st)⟩ notNow

theorem rested_of_evicted {x y : Stream} (e : Evicts x) (becomes : Evicted x y) : Rested y := by
  by_cases now : EvictsNow x
  · rw [becomes.1 now]
    exact .inr (.inr (.inl rfl))
  · rw [becomes.2 now]
    exact rested_of_not_evictsNow e now

/-- The turn of one stream. -/
abbrev serveTurn (h : Hw) (i : Nat) : Hw :=
  if (streamOf h i).st = .free then h else serveStream ((streamOf h i).reqs.length + 2) i h

/-- What the turn of stream i leaves of the streams. -/
structure Turn (i : Nat) (h g : Hw) : Prop where
  served : StreamsServed h g
  own : i < 256 → Evicted (streamOf h i) (streamOf g i)
  beyond : 256 ≤ i → Rested (streamOf g i)
  others : ∀ j < 256, j ≠ i → streamOf g j = streamOf h j
  far : ∀ j, 256 ≤ j → streamOf g j = streamOf h j ∨ streamOf g j = {}

theorem turn_rested {h : Hw} {i : Nat} (e : Evicts (streamOf h i)) (notNow : ¬EvictsNow (streamOf h i)) :
    Turn i h (serveTurn h i) := by
  have rests := rested_of_not_evictsNow e notNow
  have same : serveTurn h i = h := by
    unfold serveTurn
    split
    · rfl
    · exact serveStream_rested rests _
  rw [same]
  exact ⟨StreamsServed.refl h, fun _ => ⟨fun now => absurd now notNow, fun _ => rfl⟩, fun _ => rests, fun _ _ _ => rfl,
    fun _ _ => .inl rfl⟩

/-- An eviction is taken, and the stream rests. -/
theorem serveTurn_evicts {h g : Hw} {i : Nat} (now : EvictsNow (streamOf h i))
    (taken : takeRequest i .evict (setStream i (fun x => { x with reqs := x.reqs.erase .evict }) h) = g)
    (rests : Rested (streamOf g i)) : serveTurn h i = g := by
  obtain ⟨reqs, st⟩ := now
  have isOpen : (streamOf h i).st ≠ .free := by
    rcases st with e | e | e
    · rw [e]; decide
    · rw [e]; decide
    · rw [e]; decide
  have next : nextRequest (streamOf h i) = some .evict :=
    (congrArg (fun rs => nextRequest { streamOf h i with reqs := rs }) reqs).trans (takes_alone rfl (.inr rfl))
  rw [serveTurn, if_neg isOpen, serveStream_takes st next, taken]
  exact serveStream_rested rests _

theorem streamOf_stirs {h g : Hw} (stirs : Stirs h g) (j : Nat) : streamOf g j = streamOf h j := by
  obtain ⟨dev, sched, rfl⟩ := stirs.eq
  rfl

theorem turn_evicts {h : Hw} {i : Nat} (e : Evicts (streamOf h i)) (now : EvictsNow (streamOf h i)) :
    Turn i h (serveTurn h i) := by
  obtain ⟨k, ek⟩ : ∃ k, k = setStream i (fun x => { x with reqs := x.reqs.erase .evict }) h := ⟨_, rfl⟩
  have served : StreamsServed h k := ek ▸ .of_setStream ..
  by_cases hi : i < 256
  · have entry : streamOf k i = { streamOf h i with reqs := [] } := by
      rw [ek, streamOf_setStream_same _ _ hi, now.1]
      rfl
    have inCs : (streamOf k i).inCs = true := by
      rw [entry]
      obtain ⟨-, none | ⟨-, -, inCs | busy⟩⟩ := e
      · exact absurd (now.1.symm.trans none) (by decide)
      · exact inCs
      · rcases now.2 with st | st | st
        · exact absurd (busy.symm.trans st) (by decide)
        · exact absurd (busy.symm.trans st) (by decide)
        · exact absurd (busy.symm.trans st) (by decide)
    have taken : takeRequest i .evict k = startCopy i .evict .swapOutBusy none k := by
      simp only [takeRequest, inCs, if_true]
    have stirs := stirs_startCopy i .evict .swapOutBusy none k
    have own : streamOf (startCopy i .evict .swapOutBusy none k) i =
        { streamOf h i with st := .swapOutBusy, copyFor := some .evict, dest := none, reqs := [] } := by
      rw [streamOf_stirs stirs, streamOf_setStream_same _ _ hi, entry]
    have others (j : Nat) (hj : j < 256) (ne : j ≠ i) :
        streamOf (startCopy i .evict .swapOutBusy none k) j = streamOf h j := by
      rw [streamOf_stirs stirs, streamOf_setStream_other _ _ hj ne, ek, streamOf_setStream_other _ _ hj ne]
    have far (j : Nat) (hj : 256 ≤ j) : streamOf (startCopy i .evict .swapOutBusy none k) j = {} := by
      rw [streamOf_stirs stirs, streamOf_setStream_beyond _ _ hj]
    rw [serveTurn_evicts (g := startCopy i .evict .swapOutBusy none k) now (by rw [← ek]; exact taken)
      (by rw [own]; exact .inr (.inr (.inl rfl)))]
    exact ⟨served.trans ((StreamsServed.of_setStream ..).trans (.of_stirs stirs)),
      fun _ => ⟨fun _ => own, fun no => absurd now no⟩, fun no => absurd hi (Nat.not_lt.2 no), others,
      fun j hj => .inr (far j hj)⟩
  · have far (j : Nat) (hj : 256 ≤ j) : streamOf k j = {} := by rw [ek, streamOf_setStream_beyond _ _ hj]
    have blank := far i (Nat.le_of_not_lt hi)
    have taken : takeRequest i .evict k = k := by
      simp only [takeRequest, blank, Bool.false_eq_true, if_false]
    rw [serveTurn_evicts (g := k) now (by rw [← ek]; exact taken) (by rw [blank]; exact rested_blank)]
    refine ⟨served, fun yes => absurd yes hi, fun _ => by rw [blank]; exact rested_blank, fun j hj ne => ?_,
      fun j hj => .inr (far j hj)⟩
    rw [ek, streamOf_setStream_other _ _ hj ne]

theorem turn_serveTurn {h : Hw} {i : Nat} (e : Evicts (streamOf h i)) : Turn i h (serveTurn h i) := by
  by_cases now : EvictsNow (streamOf h i)
  · exact turn_evicts e now
  · exact turn_rested e now

/-! ## Every stream -/

theorem evicts_blank : Evicts {} := ⟨by decide, .inl rfl⟩

/-- After the turns of the first n streams. -/
structure Turns (n : Nat) (h g : Hw) : Prop where
  served : StreamsServed h g
  done : ∀ j < 256, j < n → Evicted (streamOf h j) (streamOf g j)
  todo : ∀ j < 256, n ≤ j → streamOf g j = streamOf h j
  far : ∀ j, 256 ≤ j → j < n → Rested (streamOf g j)
  farTodo : ∀ j, 256 ≤ j → n ≤ j → streamOf g j = streamOf h j ∨ streamOf g j = {}

theorem turns_serve {h : Hw} (each : ∀ x ∈ h.streams, Evicts x) (n : Nat) :
    Turns n h ((List.range n).foldl serveTurn h) := by
  induction n with
  | zero =>
    exact ⟨StreamsServed.refl h, fun _ _ no => absurd no (Nat.not_lt_zero _), fun _ _ _ => rfl,
      fun _ _ no => absurd no (Nat.not_lt_zero _), fun _ _ _ => .inl rfl⟩
  | succ n ih =>
    rw [List.range_succ, List.foldl_append, List.foldl_cons, List.foldl_nil]
    generalize (List.range n).foldl serveTurn h = g at ih ⊢
    have own : Evicts (streamOf g n) := by
      have was := forall_streamOf each evicts_blank n
      by_cases hn : n < 256
      · rw [ih.todo n hn (Nat.le_refl n)]
        exact was
      · rcases ih.farTodo n (Nat.le_of_not_lt hn) (Nat.le_refl n) with same | blank
        · rw [same]
          exact was
        · rw [blank]
          exact evicts_blank
    have turn := turn_serveTurn own
    refine ⟨ih.served.trans turn.served, fun j hj lt => ?_, fun j hj le => ?_, fun j hj lt => ?_, fun j hj le => ?_⟩
    · by_cases last : j = n
      · subst last
        rw [← ih.todo j hj (Nat.le_refl j)]
        exact turn.own hj
      · rw [turn.others j hj last]
        exact ih.done j hj (by omega)
    · rw [turn.others j hj (by omega)]
      exact ih.todo j hj (by omega)
    · by_cases last : j = n
      · subst last
        exact turn.beyond hj
      · rcases turn.far j hj with same | blank
        · rw [same]
          exact ih.far j hj (by omega)
        · rw [blank]
          exact rested_blank
    · rcases turn.far j hj with same | blank
      · rw [same]
        exact ih.farTodo j hj (by omega)
      · exact .inr blank

/-- A pass over streams at which at most evictions wait: those that can be taken start their copies, and all rest. -/
theorem serveStreams_evicts {h : Hw} (each : ∀ x ∈ h.streams, Evicts x) :
    StreamsServed h (serveStreams h) ∧ (∀ j < 256, Evicted (streamOf h j) (streamOf (serveStreams h) j)) ∧
      ∀ x ∈ (serveStreams h).streams, Rested x := by
  have turns : Turns h.streams.length h (serveStreams h) := turns_serve each h.streams.length
  have beyond (j : Nat) (le : h.streams.length ≤ j) : streamOf h j = {} := List.getD_eq_default _ _ le
  have each' (j : Nat) : Evicts (streamOf h j) := forall_streamOf each evicts_blank j
  have moves (j : Nat) (hj : j < 256) : Evicted (streamOf h j) (streamOf (serveStreams h) j) := by
    by_cases lt : j < h.streams.length
    · exact turns.done j hj lt
    · have blank := beyond j (Nat.le_of_not_lt lt)
      rw [turns.todo j hj (Nat.le_of_not_lt lt), blank]
      exact ⟨fun now => absurd now.1 (by decide), fun _ => rfl⟩
  refine ⟨turns.served, moves, fun x hx => ?_⟩
  obtain ⟨j, lt, rfl⟩ := List.getElem_of_mem hx
  have entry : (serveStreams h).streams[j] = streamOf (serveStreams h) j := (List.getD_eq_getElem ..).symm
  rw [entry]
  by_cases hj : j < 256
  · exact rested_of_evicted (each' j) (moves j hj)
  · by_cases lt : j < h.streams.length
    · exact turns.far j (Nat.le_of_not_lt hj) lt
    · rcases turns.farTodo j (Nat.le_of_not_lt hj) (Nat.le_of_not_lt lt) with same | blank
      · rw [same, beyond j (Nat.le_of_not_lt lt)]
        exact rested_blank
      · rw [blank]
        exact rested_blank

end Sys2Proof.Proofs

/-! PROOFS. Entries into SLEEP, DEEP and OFF begin (R86, R140, R268, R370, R371). -/

namespace Sys2Proof.Proofs

open Sys2Proof Sys2Proof.Machine Sys2Proof.Laws

/-! ## Slots that wait in Drumhead and that nobody owns (R86) -/

/-- No slot that waits in Drumhead is owned. -/
def RawUnowned (h : Hw) : Prop :=
  (∀ w ∈ h.raw.waits, ∀ o ∈ h.sq.owned, o.pos ≠ w.pos) ∧
    ∀ c ∈ h.raw.chains, (∀ p, c.resetSlot = some p → ∀ o ∈ h.sq.owned, o.pos ≠ p) ∧
      ∀ p ∈ c.stopSlots, ∀ o ∈ h.sq.owned, o.pos ≠ p

theorem completeOwned_unowned {h : Hw} {p : Nat} (unowned : ∀ o ∈ h.sq.owned, o.pos ≠ p) (st : Status) (d : Detail)
    (ws : List Word) : completeOwned p st d ws h = h := by
  have none : h.sq.owned.find? (fun o => o.pos == p) = none :=
    List.find?_eq_none.2 fun o ho => by simp [unowned o ho]
  simp only [completeOwned, none]

theorem foldl_completeOwned_unowned {h : Hw} {ps : List Nat} (unowned : ∀ p ∈ ps, ∀ o ∈ h.sq.owned, o.pos ≠ p)
    (st : Status) (d : Detail) (ws : Hw → List Word) : ps.foldl (fun h p => completeOwned p st d (ws h) h) h = h := by
  induction ps with
  | nil => rfl
  | cons p ps ih =>
    rw [List.foldl_cons, completeOwned_unowned (unowned p (List.mem_cons_self ..))]
    exact ih fun q hq => unowned q (List.mem_cons_of_mem p hq)

theorem failRawSlots_unowned {h : Hw} (unowned : RawUnowned h) : failRawSlots h = h := by
  obtain ⟨waits, chains⟩ := unowned
  refine foldl_completeOwned_unowned (fun p hp => ?_) .failDomainOff .none fun _ => []
  rcases List.mem_append.1 (List.mem_eraseDups.1 hp) with early | stop
  · rcases List.mem_append.1 early with wait | start
    · obtain ⟨w, hw, rfl⟩ := List.mem_map.1 wait
      exact waits w hw
    · obtain ⟨c, hc, start⟩ := List.mem_filterMap.1 start
      exact (chains c hc).1 p start
  · obtain ⟨c, hc, stop⟩ := List.mem_flatMap.1 stop
    exact (chains c hc).2 p stop

theorem entryRawSlots_unowned {h : Hw} (unowned : RawUnowned h) : entryRawSlots h =
    { h with raw := { h.raw with chains := h.raw.chains.map stopChain, waits := [] } } := by
  have stops : ((h.raw.chains.flatMap (·.stopSlots)).eraseDups).foldl
      (fun h p => completeOwned p .done .none (syncResult h.power.time 0 0) h) h = h := by
    refine foldl_completeOwned_unowned (fun p hp => ?_) .done .none fun h => syncResult h.power.time 0 0
    obtain ⟨c, hc, stop⟩ := List.mem_flatMap.1 (List.mem_eraseDups.1 hp)
    exact (unowned.2 c hc).2 p stop
  have applied : RawUnowned { h with raw := { h.raw with chains := h.raw.chains.map fun c => { c with stopSlots := [] } } } := by
    refine ⟨unowned.1, fun c hc => ?_⟩
    obtain ⟨x, hx, rfl⟩ := List.mem_map.1 hc
    exact ⟨(unowned.2 x hx).1, fun _ no => nomatch no⟩
  simp only [entryRawSlots, stops, failRawSlots_unowned applied, stopAllChains, map_stopChain_applied]

/-! ## Step 2 of an entry (R371) -/

/-- The hardware once fetching and the chains have stopped and a calibration run has ended. -/
def entryBegun (n : Entry) (cal : Cal) (drum : Drum) (rs : List Record) (h : Hw) : Hw :=
  { h with
    sq := { h.sq with fetchStopped := true }, power := { h.power with entry := some n }
    cascade := { h.cascade with stay := none }, cal := cal, drum := drum
    raw := { h.raw with chains := h.raw.chains.map stopChain, waits := [] }, records := rs }

theorem beginEntry_begun (n : Entry) (h : Hw) : ∃ cal drum rs, beginEntry n h = evictAll (entryBegun n cal drum rs h) ∧
    ∀ r, cal.run = some r → r.phase = .store := by
  obtain ⟨rs, slots, -⟩ := entryRawSlots_eq { h with
    sq := { h.sq with fetchStopped := true }, power := { h.power with entry := some n }
    cascade := { h.cascade with stay := none } }
  obtain ⟨cal, chs, a, b, rs', aborted, stores⟩ := calAbort_eq { h with
    sq := { h.sq with fetchStopped := true }, power := { h.power with entry := some n }
    cascade := { h.cascade with stay := none }
    raw := { h.raw with chains := h.raw.chains.map stopChain, waits := [] }, records := rs }
  refine ⟨cal, { h.drum with channels := chs, spareFor := a, spareSeen := b }, rs', ?_, stores⟩
  unfold beginEntry
  dsimp only
  rw [slots, aborted]
  rfl

/-- Without a calibration run, and where no slot that waits in Drumhead is owned, nothing completes. -/
theorem beginEntry_quiet {h : Hw} (n : Entry) (unowned : RawUnowned h) (noRun : h.cal.run = none) :
    beginEntry n h = evictAll (entryBegun n h.cal h.drum h.records h) := by
  have slots := entryRawSlots_unowned (h := { h with
    sq := { h.sq with fetchStopped := true }, power := { h.power with entry := some n }
    cascade := { h.cascade with stay := none } }) unowned
  have ended := (congrArg calAbort slots).trans (calAbort_resting fun r run => nomatch noRun.symm.trans run)
  exact congrArg evictAll ended

/-- The entry asks for evictions, and for nothing else. -/
theorem evicts_evictAll {h : Hw} (quiet : ∀ x ∈ h.streams, x.reqs = [] ∧ x.st ≠ .queued) :
    ∀ x ∈ (evictAll h).streams, Evicts x := by
  intro x hx
  obtain ⟨y, hy, rfl⟩ := List.mem_map.1 hx
  obtain ⟨noReqs, notQueued⟩ := quiet y hy
  split
  next due =>
    simp only [Bool.and_eq_true, bne_iff_ne, Bool.or_eq_true, beq_iff_eq] at due
    obtain ⟨⟨⟨notFree, here⟩, -⟩, -⟩ := due
    exact ⟨notQueued, .inr ⟨by rw [noReqs]; rfl, notFree, here⟩⟩
  · exact ⟨notQueued, .inl noReqs⟩

/-- Whether the entry asks for a stream's eviction. -/
def evictionDue (x : Stream) : Bool :=
  x.st != .free && (x.inCs || x.st == .swapInBusy) && !x.reqs.contains .evict && x.copyFor != some .evict

theorem streamOf_evictAll (h : Hw) (i : Nat) : streamOf (evictAll h) i =
    if evictionDue (streamOf h i) then { streamOf h i with reqs := (streamOf h i).reqs ++ [.evict] } else streamOf h i :=
  List.getD_map h.streams {} fun x : Stream => (if evictionDue x then { x with reqs := x.reqs ++ [.evict] } else x : Stream)

/-! ## The command -/

section Entry

variable {s : State} {slot : Slot} {f : Fetched}

/-- A POWER slot that passes checks 1 and 2 runs its OP's own part, in a device that serves. -/
theorem power_accepted_up {op : Nat} (ha : AcceptsOp s slot f kPower 0 3 op)
    (fields : powerFieldsOk f.words = true) (free : powerBusy s.hw = false) (act : Mems → Fetched → Hw → Hw) :
    ∃ dev stay, withSlot (isOp kPower 0 3 op) slot (powerChecked act) s.mem { s.hw with sent := [] } =
      act s.mem f (powerStarted f dev stay s.hw) ∧ (powerStarted f dev stay s.hw).up = true := by
  obtain ⟨dev, stay, started⟩ := releaseStay_begun f s.hw
  obtain ⟨accepts, hop⟩ := ha
  have mine : isOp kPower 0 3 op f.words = true := by
    simp only [isOp, accepts.2.1, hop, beq_self_eq_true, Bool.and_self]
  have free' : powerBusy (Slots.begun f s.hw) = false := by
    rw [Slots.begun_eq]
    exact free
  have up : (releaseStay (Slots.begun f s.hw)).up = true := by
    have serves := up_begun accepts.1
    unfold releaseStay
    split
    · exact serves
    · exact serves
  refine ⟨dev, stay, ?_, by rw [← started]; exact up⟩
  rw [Slots.withSlot_accepts accepts _ _ mine, powerChecked, fields, free', started]
  rfl

theorem preCheck_started (f : Fetched) (dev : DevState) (stay : Option (Nat × DevState)) (m : Mems) (h : Hw)
    (target : DevState) (tier : Nat) : preCheck m (powerStarted f dev stay h) target tier = preCheck m h target tier := rfl

/-- No slot that keeps the device from its entry is owned once the slot has started. -/
theorem entryBusy_started (f : Fetched) (dev : DevState) (stay : Option (Nat × DevState)) (h : Hw) :
    entryBusy (powerStarted f dev stay h) f.pos = entryBusy h f.pos := by
  have owned : (powerStarted f dev stay h).sq.owned.any (fun o => o.pos != f.pos && !(h.sq.posts.any fun p => p.pos == o.pos)) =
      h.sq.owned.any fun o => o.pos != f.pos && !(h.sq.posts.any fun p => p.pos == o.pos) := by
    refine List.any_map.trans (congrArg (h.sq.owned.any ·) (funext fun o => ?_))
    simp only [Function.comp]
    split
    · rfl
    · rfl
  exact congrArg (h.sched.graphs.any (fun g => decide (g.key < 1024)) || ·) owned

/-- The POWER slot of a stay as its entry begins (R373). -/
def stayBegun (s : State) (f : Fetched) (target : DevState) (op : Nat) : PowerSlot :=
  let c1 := preCheck s.mem s.hw target 1
  let c2 := preCheck s.mem s.hw target 2
  { pos := f.pos, tag := wordAt f.words 1, op := op, target := target, keepSense := bit (wordAt f.words 4) 3
    t1Ok := (preCrc c1).isSome, t2Ok := (preCrc c2).isSome, detail := preDetail c1 c2 }

/-- The hardware once the checks of an entry have passed. -/
def entryChecked (s : State) (f : Fetched) (target : DevState) (op : Nat) (dev : DevState)
    (stay : Option (Nat × DevState)) : Hw :=
  { powerStarted f dev stay s.hw with
    power := { (powerStarted f dev stay s.hw).power with slot := some (stayBegun s f target op) }
    cascade := { (powerStarted f dev stay s.hw).cascade with
      t1Check := preCrc (preCheck s.mem s.hw target 1), t2Check := preCrc (preCheck s.mem s.hw target 2) } }

theorem enterEffect_begins {target : DevState} {op : Nat} {dev : DevState} {stay : Option (Nat × DevState)}
    (free : entryBusy s.hw f.pos = false)
    (kept : target = .deep → s.hw.image.system.sqInDram = true → inKept s.hw s.hw.image.system.sqBase 131072 = true)
    (off : target = .off → s.hw.image.system.sqInDram = false) :
    enterEffect target op false s.mem f (powerStarted f dev stay s.hw) =
      beginEntry { target := target, keepSense := bit (wordAt f.words 4) 3 } (entryChecked s f target op dev stay) := by
  have none : entryFault (powerStarted f dev stay s.hw) target false f.pos = none := by
    have noDeep : ¬(target = .deep ∧ s.hw.image.system.sqInDram = true ∧
        (!inKept s.hw s.hw.image.system.sqBase 131072) = true) := by
      rintro ⟨deep, inDram, out⟩
      rw [kept deep inDram] at out
      exact absurd out (by decide)
    have noOff : ¬(target = .off ∧ s.hw.image.system.sqInDram = true) := by
      rintro ⟨isOff, inDram⟩
      exact absurd ((off isOff).symm.trans inDram) (by decide)
    unfold entryFault
    rw [entryBusy_started, free]
    exact (if_neg Bool.false_ne_true).trans ((if_neg Bool.false_ne_true).trans ((if_neg noDeep).trans (if_neg noOff)))
  simp only [enterEffect, none, preCheck_started]
  rfl

end Entry

/-- What the end of step 2 leaves of the state, whatever has ended with it. -/
structure EntryLeaves (s : State) (f : Fetched) (target : DevState) (op : Nat) (t : State) : Prop where
  entry : t.hw.power.entry = some { target := target, keepSense := bit (wordAt f.words 4) 3 }
  slot : t.hw.power.slot = some (stayBegun s f target op)
  cascade : t.hw.cascade = { s.hw.cascade with
    t1Check := preCrc (preCheck s.mem s.hw target 1), t2Check := preCrc (preCheck s.mem s.hw target 2), stay := none }
  fetchStopped : t.hw.sq.fetchStopped = true
  chains : t.hw.raw.chains = s.hw.raw.chains.map stopChain
  streams : ∀ i < 256,
    ((streamOf s.hw i).st = .idle → (streamOf s.hw i).inCs = true → (streamOf s.hw i).copyFor ≠ some .evict →
      streamOf t.hw i = { streamOf s.hw i with st := .swapOutBusy, copyFor := some .evict, dest := none }) ∧
    ((streamOf s.hw i).inCs = false → (streamOf s.hw i).st ≠ .swapInBusy → streamOf t.hw i = streamOf s.hw i)

/-- An eviction that is asked for starts; what is not in core store stays. -/
theorem evicted_streams {h g : Hw} {i : Nat} (alone : (streamOf h i).reqs = [])
    (moves : Evicted (streamOf (evictAll h) i) (streamOf g i)) :
    ((streamOf h i).st = .idle → (streamOf h i).inCs = true → (streamOf h i).copyFor ≠ some .evict →
      streamOf g i = { streamOf h i with st := .swapOutBusy, copyFor := some .evict, dest := none }) ∧
    ((streamOf h i).inCs = false → (streamOf h i).st ≠ .swapInBusy → streamOf g i = streamOf h i) := by
  rw [streamOf_evictAll] at moves
  generalize streamOf h i = x at alone moves ⊢
  refine ⟨fun st inCs notYet => ?_, fun out notBusy => ?_⟩
  · have due : evictionDue x = true := by
      simp only [evictionDue, st, inCs, alone, bne_iff_ne.2 notYet, Bool.true_or, Bool.and_true]
      rfl
    rw [if_pos due, alone] at moves
    rw [moves.1 ⟨rfl, .inl st⟩, ← alone]
  · have notDue : evictionDue x = false := by
      simp only [evictionDue, out, beq_eq_false_iff_ne.2 notBusy, Bool.or_self, Bool.and_false, Bool.false_and]
    rw [if_neg (Bool.eq_false_iff.1 notDue)] at moves
    exact moves.2 fun now => absurd (alone.symm.trans now.1) (by decide)

/-- The hardware of an entry whose step 2 has begun, before the evictions. -/
def entryHw (s : State) (f : Fetched) (target : DevState) (op : Nat) (dev : DevState) (stay : Option (Nat × DevState))
    (cal : Cal) (drum : Drum) (rs : List Record) : Hw :=
  entryBegun { target := target, keepSense := bit (wordAt f.words 4) 3 } cal drum rs (entryChecked s f target op dev stay)

section Begins

variable {s : State} {f : Fetched} {c : Instr} {target : DevState} {op : Nat} {dev : DevState}
  {stay : Option (Nat × DevState)} {eff : Mems → Hw → Hw} {cal : Cal} {drum : Drum} {rs : List Record}

/-- The scheduler behind step 2: evictions start, and that is all. -/
theorem entry_runs (hs : AtRest s) (he : exec c s = runSched eff s)
    (up : (powerStarted f dev stay s.hw).up = true)
    (out : eff s.mem { s.hw with sent := [] } = evictAll (entryHw s f target op dev stay cal drum rs)) :
    ∃ k streams sched dev', Sched.calm k = Sched.calm { entryHw s f target op dev stay cal drum rs with
        streams := streams, sched := sched
        power := { (entryHw s f target op dev stay cal drum rs).power with dev := dev' } } ∧
      exec c s = .next (commit s (Machine.finish k)) ∧ EntryLeaves s f target op (commit s (Machine.finish k)) := by
  obtain ⟨graphs, notices, ended, waiting⟩ := idle_of_atRest hs
  generalize hg : evictAll (entryHw s f target op dev stay cal drum rs) = g at out
  have unmanned : Unmanned g := by
    rw [← hg]
    exact ⟨graphs, notices, ended⟩
  have each : ∀ x ∈ g.streams, Evicts x := by
    rw [← hg]
    exact evicts_evictAll waiting
  obtain ⟨served, moves, rests⟩ := serveStreams_evicts each
  obtain ⟨k, hk, answer⟩ := runSched_unmanned out unmanned (by rw [← hg]; exact up) rfl (served.unmanned unmanned) rests
  obtain ⟨streams, dev', sched, form⟩ := served.eq
  generalize serveStreams g = r at hk moves form
  have ends (i : Nat) : streamOf (commit s (Machine.finish k)).hw i = streamOf r i :=
    streamOf_congr ((Run.finish_streams k).trans (calm_streams hk)) i
  rw [form, ← hg] at hk
  have power : (commit s (Machine.finish k)).hw.power = k.power := commit_finish_power s k
  refine ⟨k, streams, sched, dev', hk, he.trans answer, ⟨?_, ?_, ?_, ?_, ?_, fun i hi => ?_⟩⟩
  · rw [power]
    exact congrArg (fun h => h.power.entry) hk
  · rw [power]
    exact congrArg (fun h => h.power.slot) hk
  · exact (commit_finish_cascade s k).trans (calm_cascade hk)
  · exact (Run.finish_fetchStopped k).trans (congrArg Ring1024.fetchStopped (calm_sq hk))
  · exact congrArg Raw.chains ((commit_finish_raw s k).trans (calm_raw hk))
  · have moved := moves i hi
    rw [← hg, ← ends i] at moved
    exact evicted_streams (h := entryHw s f target op dev stay cal drum rs) (streamOf_atRest hs i).1 moved

/-- No slot that waits in Drumhead is the POWER slot's own. -/
def RawApart (s : State) (f : Fetched) : Prop :=
  (∀ w ∈ s.hw.raw.waits, w.pos ≠ f.pos) ∧ ∀ c ∈ s.hw.raw.chains, c.resetSlot ≠ some f.pos ∧ ¬f.pos ∈ c.stopSlots

/-- An entry begins with no slot owned but its own. -/
theorem rawUnowned_of_apart (hs : AtRest s) (free : entryBusy s.hw f.pos = false) (apart : RawApart s f) :
    RawUnowned (entryChecked s f target op dev stay) := by
  have posts : s.hw.sq.posts = [] := (atRest_clear hs).posts
  have own : ∀ o ∈ (entryChecked s f target op dev stay).sq.owned, o.pos = f.pos := by
    have busy := (entryBusy_started f dev stay s.hw).trans free
    intro o ho
    have notOther := List.any_eq_false.1 (Bool.or_eq_false_iff.1 busy).2 o ho
    simpa [powerStarted, posts] using notOther
  refine ⟨fun w hw o ho => ?_, fun c hc => ⟨fun p start o ho => ?_, fun p stop o ho => ?_⟩⟩
  · rw [own o ho]
    exact (apart.1 w hw).symm
  · rw [own o ho]
    rintro rfl
    exact (apart.2 c hc).1 start
  · rw [own o ho]
    rintro rfl
    exact (apart.2 c hc).2 stop

end Begins

/-- SLEEP, DEEP and OFF begin their entry. -/
theorem entry_begins {s : State} {slot : Slot} {f : Fetched} {c : Instr} {target : DevState} {op : Nat}
    (he : exec c s = runPower op slot (enterEffect target op false) s) (ha : AcceptsOp s slot f kPower 0 3 op)
    (fields : powerFieldsOk f.words = true) (notBusy : powerBusy s.hw = false) (hs : AtRest s)
    (free : entryBusy s.hw f.pos = false)
    (kept : target = .deep → s.hw.image.system.sqInDram = true → inKept s.hw s.hw.image.system.sqBase 131072 = true)
    (off : target = .off → s.hw.image.system.sqInDram = false) :
    Answers c s fun t => EntryLeaves s f target op t ∧ (∀ r, t.hw.cal.run = some r → r.phase = .store) ∧
      (RawApart s f → s.hw.cal.run = none → t.mem = s.mem ∧
        OnlyChanges (reporting ++ resting ++ [Portion.slots, Portion.raw, Portion.streams, Portion.cascade]) s t) ∧
      OnlyChanges (reporting ++ resting ++
        [Portion.slots, Portion.drum, Portion.raw, Portion.cal, Portion.streams, Portion.cascade]) s t := by
  obtain ⟨dev, stay, out, up⟩ := power_accepted_up ha fields notBusy (enterEffect target op false)
  rw [enterEffect_begins free kept off] at out
  by_cases quiet : RawUnowned (entryChecked s f target op dev stay) ∧ s.hw.cal.run = none
  · obtain ⟨unowned, noRun⟩ := quiet
    rw [beginEntry_quiet _ unowned noRun] at out
    obtain ⟨k, streams, sched, dev', hk, answer, leaves⟩ := entry_runs hs he up out
    have cal : (commit s (Machine.finish k)).hw.cal = s.hw.cal := (commit_finish_cal s k).trans ((calm_cal hk).trans rfl)
    obtain ⟨writes, wipe, raised, records, posts, held⟩ := atRest_clear hs
    refine ⟨_, answer, leaves, fun r run => ?_, fun _ _ => ⟨?_, Slots.calm_only _ s _ k hk rfl⟩,
      Slots.calm_only _ s _ k hk rfl⟩
    · rw [cal, noRun] at run
      exact nomatch run
    · exact rest_silent_mem s hk ⟨writes, wipe, raised, records, posts, held⟩ (atRest_room hs)
  · obtain ⟨cal, drum, rs, begins, stores⟩ := beginEntry_begun
      { target := target, keepSense := bit (wordAt f.words 4) 3 } (entryChecked s f target op dev stay)
    rw [begins] at out
    obtain ⟨k, streams, sched, dev', hk, answer, leaves⟩ := entry_runs hs he up out
    have cal' : (commit s (Machine.finish k)).hw.cal = cal := (commit_finish_cal s k).trans ((calm_cal hk).trans rfl)
    refine ⟨_, answer, leaves, by rw [cal']; exact stores, fun apart noRun => ?_, Slots.calm_only _ s _ k hk rfl⟩
    exact absurd ⟨rawUnowned_of_apart hs free apart, noRun⟩ quiet

end Sys2Proof.Proofs

/-! PROOFS. The scheduler beside a ring that is DOWN: nothing of it changes (R295, R346, R354). -/

namespace Sys2Proof.Proofs

open Sys2Proof Sys2Proof.Machine Sys2Proof.Laws

/-! ## Steps that leave the ring alone -/

theorem ring_foldl {α : Type} {f : Hw → α → Hw} (each : ∀ h x, (f h x).ring = h.ring) (xs : List α) (h : Hw) :
    (xs.foldl f h).ring = h.ring := by
  induction xs generalizing h with
  | nil => rfl
  | cons x xs ih => rw [List.foldl_cons, ih, each]

theorem ring_ite {b : Prop} [Decidable b] {g k h : Hw} (yes : g.ring = h.ring) (no : k.ring = h.ring) :
    (if b then g else k).ring = h.ring := by
  split
  · exact yes
  · exact no

theorem ring_when {b : Prop} [Decidable b] (f : Hw → Hw) {h : Hw} (each : (f h).ring = h.ring) :
    (if b then f h else h).ring = h.ring := ring_ite each rfl

theorem ring_putDev (a : Nat) (bs : List Byte) (h : Hw) : (putDev a bs h).ring = h.ring := by
  obtain ⟨health, w, e, -⟩ := putDev_eq a bs h
  rw [e]

theorem ring_freeFill (rs : List (Nat × Nat)) (h : Hw) : (freeFill rs h).ring = h.ring := by
  induction rs generalizing h with
  | nil => rfl
  | cons r rs ih =>
    obtain ⟨a, n⟩ := r
    simp only [freeFill]
    rw [ih, markBad_ring, ring_putDev]
    obtain ⟨bs, draws, e, -⟩ := freeBytes_eq _ h
    rw [e]
    rfl

theorem ring_completeOwned (pos : Nat) (st : Status) (d : Detail) (ws : List Word) (h : Hw) :
    (completeOwned pos st d ws h).ring = h.ring := by
  obtain ⟨rs, e⟩ := completeOwned_eq pos st d ws h
  rw [e]

theorem ring_stirs {h g : Hw} (stirs : Stirs h g) : g.ring = h.ring := by
  obtain ⟨dev, sched, rfl⟩ := stirs.eq
  rfl

/-! ## Streams -/

theorem ring_endRequest (i : Nat) (r : StreamReq) (failure : Option (Status × Detail)) (h : Hw) :
    (endRequest i r failure h).ring = h.ring := by
  cases r with
  | chunk =>
    simp only [endRequest]
    split
    · rfl
    · rfl
  | swapTask => rfl
  | swapSlot => exact ring_completeOwned ..
  | close => exact ring_completeOwned ..
  | evict => rfl

theorem ring_startCopy (i : Nat) (r : StreamReq) (st : StreamSt) (dest : Option (Nat × Nat)) (h : Hw) :
    (startCopy i r st dest h).ring = h.ring := (ring_stirs (stirs_startCopy i r st dest h)).trans (setStream_ring ..)

theorem ring_trySwapIn {i : Nat} {r : StreamReq} {h g : Hw} (starts : trySwapIn i r h = some g) : g.ring = h.ring := by
  unfold trySwapIn at starts
  split at starts
  · obtain rfl := Option.some.inj starts
    exact (ring_stirs (stirs_makeRoom ..)).trans ((ring_stirs (stirs_askIsland ..)).trans (ring_startCopy ..))
  · exact nomatch starts

theorem ring_endHeld (i : Nat) (held : List StreamReq) (h : Hw) : (endHeld i held h).ring = h.ring := by
  refine ring_foldl (fun _ q => ?_) held h
  cases q with
  | chunk => rfl
  | swapTask => exact ring_endRequest ..
  | swapSlot => exact ring_endRequest ..
  | close => exact ring_endRequest ..
  | evict => rfl

theorem ring_takeRequest (i : Nat) (r : StreamReq) (h : Hw) : (takeRequest i r h).ring = h.ring := by
  have swap (swapIn : Bool) (r : StreamReq) : (if swapIn then
      if (streamOf h i).st = .swappedOut ∧ h.power.tripped = true then endRequest i r (some (.failDomainOff, .none)) h
      else if (streamOf h i).st = .swappedOut then
        match trySwapIn i r h with
        | some h => h
        | none => endRequest i r none h
      else endRequest i r none h
    else if (streamOf h i).inCs then startCopy i r .swapOutBusy none h else endRequest i r none h).ring = h.ring := by
    refine ring_ite (ring_ite (ring_endRequest ..) (ring_ite ?_ (ring_endRequest ..)))
      (ring_ite (ring_startCopy ..) (ring_endRequest ..))
    split
    next g starts => exact ring_trySwapIn starts
    · exact ring_endRequest ..
  cases r with
  | chunk => rfl
  | swapTask g t swapIn => exact swap swapIn _
  | swapSlot pos tag swapIn => exact swap swapIn _
  | close => exact ring_ite (ring_startCopy ..) ((ring_endHeld ..).trans (ring_endRequest ..))
  | evict => exact ring_ite (ring_startCopy ..) rfl

theorem ring_serveStream (n i : Nat) (h : Hw) : (serveStream n i h).ring = h.ring := by
  induction n generalizing h with
  | zero => rfl
  | succ n ih =>
    have serves (x : Stream) : (match nextRequest x with
        | some r => serveStream n i (takeRequest i r (setStream i (fun s => { s with reqs := s.reqs.erase r }) h))
        | none =>
          match x.reqs with
          | r :: _ =>
            if x.st = StreamSt.swappedOut then (trySwapIn i r h).getD h
            else if x.st = StreamSt.idle then setStream i (fun s => { s with st := .queued }) h
            else h
          | [] => if x.st = StreamSt.queued then setStream i (fun s => { s with st := .idle }) h else h).ring = h.ring := by
      split
      · rw [ih, ring_takeRequest, setStream_ring]
      · split
        next r rs reqs =>
          refine ring_ite ?_ (ring_ite rfl rfl)
          cases starts : trySwapIn i r h with
          | none => rfl
          | some g => exact ring_trySwapIn starts
        · exact ring_ite rfl rfl
    simp only [serveStream]
    split
    · exact serves _
    · exact serves _
    · exact serves _
    · exact serves _
    · rfl

theorem ring_serveStreams (h : Hw) : (serveStreams h).ring = h.ring :=
  ring_foldl (fun _ _ => ring_ite rfl (ring_serveStream ..)) _ h

/-! ## Tasks and graphs -/

theorem ring_dropChunks (key : Nat) (g : Graph) (h : Hw) : ((List.range g.tasks.length).foldl (fun h i =>
    if taskKind (g.tasks.getD i {}).desc = kRecur then dropChunk key i h else h) h).ring = h.ring :=
  ring_foldl (fun _ i => ring_when (dropChunk key i) rfl) _ h

theorem ring_invalidate (rs : List (Nat × Nat)) (h : Hw) :
    (rs.foldl (fun h r => invalidateTiles r.1 r.2 h) h).ring = h.ring :=
  ring_foldl (fun h r => (rfl : (invalidateTiles r.1 r.2 h).ring = h.ring)) rs h

theorem ring_failTask (key t : Nat) (st : Status) (d : Detail) (h : Hw) : (failTask key t st d h).ring = h.ring := by
  unfold failTask
  split
  · rfl
  next g _ =>
    dsimp only
    refine ring_ite rfl (Eq.trans (ring_dropChunks key g _) ?_)
    refine Eq.trans (ring_when (chunkFails (taskStream (g.tasks.getD t {}).desc)) rfl) ?_
    refine Eq.trans (ring_when (fun h => List.foldl _ h _) (ring_invalidate ..)) ?_
    exact ring_when (freeFill _) (ring_freeFill ..)

theorem ring_releaseChunks (g : Graph) (h : Hw) : (releaseChunks g h).ring = h.ring := by
  refine ring_foldl (fun h t => ?_) _ h
  refine ring_ite ?_ rfl
  exact Eq.trans rfl (ring_when (chunkFails (taskStream (g.tasks.getD t {}).desc)) rfl)

theorem ring_endGraph (g : Graph) (h : Hw) : (endGraph g h).ring = h.ring := by
  unfold endGraph
  split
  refine Eq.trans ?_ (ring_releaseChunks g h)
  exact Eq.trans rfl (ring_ite (ring_completeOwned ..) (ring_ite rfl rfl))

theorem ring_goActive (h : Hw) : (goActive h).ring = h.ring := ring_stirs (stirs_goActive h)

theorem ring_ripenTask (key t : Nat) (g : Graph) (x : Task) (h : Hw) : (ripenTask key t g x h).ring = h.ring := by
  have ready (h : Hw) : (goActive (modTask key t (fun x => { x with st := .ready h.power.elapsed }) h)).ring = h.ring :=
    ring_goActive _
  unfold ripenTask
  refine ring_ite rfl (ring_ite (ring_ite rfl rfl) (ring_ite (ring_failTask ..) (ring_ite (ring_ite (ready h) ?_) (ready h))))
  split
  · exact ready _
  · exact ring_failTask ..
  · rfl

theorem ring_rebindChunk (key t : Nat) (x : Task) (h : Hw) : (rebindChunk key t x h).ring = h.ring := by
  unfold rebindChunk
  split
  · refine ring_ite rfl ?_
    split
    · exact ring_ite rfl rfl
    · exact ring_failTask ..
    · rfl
  · rfl

theorem ring_advanceTask (key t : Nat) (h : Hw) : (advanceTask key t h).ring = h.ring := by
  unfold advanceTask
  split
  · rfl
  · dsimp only
    refine ring_ite rfl ?_
    have bound (x : Task) : (rebindChunk key t x h).ring = h.ring := ring_rebindChunk ..
    split
    · exact ring_ite ((ring_ripenTask ..).trans (bound _)) (bound _)
    · exact (ring_ripenTask ..).trans (bound _)
    · exact ring_ite ((ring_failTask ..).trans (bound _)) (bound _)
    · exact ring_ite ((ring_failTask ..).trans (bound _)) (bound _)
    · exact bound _

theorem ring_takeNotices (h : Hw) : (takeNotices h).ring = h.ring := by
  refine (ring_foldl (fun h n => ?_) _ _).trans rfl
  split
  · rfl
  · exact ring_failTask ..

theorem ring_settlePass (h : Hw) : (settlePass h).ring = h.ring := by
  refine (ring_foldl (fun h g => ring_endGraph g h) _ _).trans ((ring_serveStreams _).trans ?_)
  exact (ring_foldl (fun h (g : Graph) => ring_foldl (fun h t => ring_advanceTask g.key t h) _ h) _ _).trans
    (ring_takeNotices h)

/-! ## Issue -/

theorem ring_askGroup (n : Nat) (h : Hw) : (askGroup n h).ring = h.ring := by
  unfold askGroup
  exact ring_ite rfl (ring_ite rfl rfl)

theorem ring_wantPower (cs : List Cand) (h : Hw) : (wantPower h cs).ring = h.ring := by
  unfold wantPower
  refine ring_ite rfl ?_
  dsimp only
  split
  · exact ring_askGroup ..
  · rfl

theorem ring_askRail (l : Nat) (h : Hw) : (askRail l h).ring = h.ring := by
  unfold askRail
  exact ring_ite rfl rfl

theorem ring_recordIssue (m : Mems) (c : Cand) (e : Rat) (h : Hw) : (recordIssue m c e h).ring = h.ring := by
  unfold recordIssue
  exact (ring_goActive _).trans (Eq.trans rfl (ring_ite rfl rfl))

theorem ring_startOnCore (c : Cand) (k e : Nat) (h : Hw) : (startOnCore c k e h).ring = h.ring := by
  have reserved : (reserveSet c k h).ring = h.ring := by
    unfold reserveSet
    exact ring_ite rfl (Eq.trans (ring_stirs (stirs_makeRoom ..)) rfl)
  unfold startOnCore
  dsimp only
  split
  · exact reserved
  · exact reserved

theorem ring_failIssue (c : Cand) (st : Status) (d : Detail) (h : Hw) : (failIssue c st d h).ring = h.ring :=
  ring_failTask ..

/-- An EXCHANGE fails at once (R354). -/
theorem ring_startExchange {h : Hw} (down : h.ring.st = .down) (m : Mems) (r : PieceRef) (owner cls : Nat) (d : List Word) :
    (startExchange m r owner cls d h).ring = h.ring := by
  have fails : exchFault h d = some (.failLink, .peerAbsent) := by
    simp only [exchFault, down]
    rfl
  simp only [startExchange, fails]
  rfl

theorem ring_issuePiece {h : Hw} (down : h.ring.st = .down) (m : Mems) (c : Cand) (core : Option Nat) (e : Nat) (q : Rat) :
    (issuePiece m c core e q h).ring = h.ring := by
  have recorded (q : Rat) : (recordIssue m c q h).ring = h.ring := ring_recordIssue ..
  unfold issuePiece
  dsimp only
  split
  · refine ring_ite ?_ ((ring_startOnCore ..).trans (recorded q))
    split
    · exact ring_failIssue ..
    · exact (ring_startOnCore ..).trans ((ring_recordIssue ..).trans (ring_ite rfl rfl))
  · refine ring_ite ?_ (ring_ite ?_ (recorded q))
    · split
      · exact ring_failIssue ..
      · exact recorded 0
    · refine Eq.trans (ring_startExchange ?_ ..) (recorded q)
      exact (congrArg RingIf.st (recorded q)).trans down

theorem ring_classTurn {h : Hw} (down : h.ring.st = .down) (m : Mems) (cls : Nat) :
    (Sched.turnState (classTurn m cls h)).ring = h.ring := by
  have powered := ring_wantPower (candidates h cls) h
  unfold classTurn
  dsimp only
  generalize wantPower h (candidates h cls) = g at powered
  have down' : g.ring.st = .down := (congrArg RingIf.st powered).trans down
  have asked (l : Nat) : (askRail l g).ring = h.ring := (ring_askRail l g).trans powered
  split
  · split
    next c _ =>
      split
      · exact ring_ite (asked _) powered
      · exact powered
    · exact powered
  next c _ =>
    split
    · exact powered
    · split
      · exact powered
      · split
        · exact asked _
        · have lowered := (ring_when (b := occupiesCore c.kind && mayLower g (effectiveLevel g c.g c.x.desc))
            (askRail (effectiveLevel g c.g c.x.desc)) (ring_askRail _ g))
          exact (ring_issuePiece ((congrArg RingIf.st lowered).trans down') ..).trans (lowered.trans powered)

theorem ring_issueRound {h : Hw} (down : h.ring.st = .down) (m : Mems) (cs : List Nat) :
    (issueRound m cs h).2.ring = h.ring ∧ ∀ g, (issueRound m cs h).1 = some g → g.ring = h.ring := by
  induction cs generalizing h with
  | nil => exact ⟨rfl, fun g issued => nomatch issued⟩
  | cons c cs ih =>
    have turn := ring_classTurn down m c
    simp only [issueRound]
    split
    next g e =>
      rw [e] at turn
      exact ⟨turn, fun x issued => Option.some.inj issued ▸ turn⟩
    next g e =>
      rw [e] at turn
      exact ⟨turn, fun x issued => nomatch issued⟩
    next g e =>
      rw [e] at turn
      obtain ⟨left, issues⟩ := ih ((congrArg RingIf.st turn).trans down)
      exact ⟨left.trans turn, fun x issued => (issues x issued).trans turn⟩

/-! ## The run -/

theorem ring_startProbe (k : Nat) (h : Hw) : (startProbe k h).ring = h.ring :=
  ring_ite rfl (ring_stirs (stirs_askIsland k h))

theorem ring_startProbes (overdue : Bool) (h : Hw) : (startProbes overdue h).ring = h.ring :=
  ring_ite (ring_foldl (fun _ _ => ring_ite (ring_startProbe ..) rfl) _ _) rfl

theorem ring_noteHeld (h : Hw) : (noteHeld h).ring = h.ring := 
  ring_ite (ring_foldl (f := fun h (c : Cand) => modFlags c.g.key _ h) (fun _ _ => rfl) _ _) rfl

theorem ring_railTurn (h : Hw) : (railTurn h).ring = h.ring := by
  refine ring_ite rfl ?_
  split
  · exact ring_ite rfl rfl
  · split
    · exact ring_ite rfl rfl
    · rfl

theorem ring_pickCheck (h : Hw) : (pickCheck h).ring = h.ring := by
  unfold pickCheck
  dsimp only
  split
  · rfl
  · exact ring_ite rfl rfl

theorem ring_scheduleLoop (m : Mems) (n : Nat) {h : Hw} (down : h.ring.st = .down) :
    (scheduleLoop m n h).ring = h.ring := by
  induction n generalizing h with
  | zero => rfl
  | succ n ih =>
    have settled : (settlePass (settlePass h)).ring = h.ring := (ring_settlePass _).trans (ring_settlePass h)
    simp only [scheduleLoop]
    generalize settlePass (settlePass h) = g at settled
    have down' : g.ring.st = .down := (congrArg RingIf.st settled).trans down
    have round := ring_issueRound down' m (if g.power.dip.isSome then [0] else [0, 1, 2, 3])
    split
    next x _ e =>
      rw [e] at round
      have issued := round.2 x rfl
      exact (ih ((congrArg RingIf.st issued).trans down')).trans (issued.trans settled)
    next y e =>
      rw [e] at round
      have left : y.ring = g.ring := round.1
      exact ring_ite (left.trans settled) ((ih ((congrArg RingIf.st left).trans down')).trans (left.trans settled))

theorem ring_schedule (m : Mems) {h : Hw} (down : h.ring.st = .down) : (schedule m h).ring = h.ring := by
  have first := (ring_startProbes true _).trans (ring_settlePass h)
  have loop := (ring_scheduleLoop m (roundBound (startProbes true (settlePass h)))
    ((congrArg RingIf.st first).trans down)).trans first
  have last (g : Hw) : (pickCheck (noteLevels (gateRetired (noteHeld (railTurn (startProbes false g)))))).ring = g.ring :=
    (ring_pickCheck _).trans ((ring_noteHeld _).trans ((ring_railTurn _).trans (ring_startProbes false g)))
  exact ring_ite ((last _).trans loop) (ring_takeNotices h)

/-- A ring that is DOWN is left alone, outside excursions. -/
theorem ring_scheduleAll (m : Mems) (n : Nat) {h : Hw} (down : h.ring.st = .down) (noExc : h.cascade.exc = none)
    (noneOwed : h.cascade.owed = []) : (scheduleAll m n h).ring = h.ring := by
  induction n generalizing h with
  | zero => rfl
  | succ n ih =>
    have kept := ring_schedule m down
    have cascade : (schedule m h).cascade = h.cascade := by
      simpa [Sched.keep] using congrArg Hw.cascade (Sched.keep_schedule m h)
    have noExc' := (congrArg Cascade.exc cascade).trans noExc
    have noneOwed' := (congrArg Cascade.owed cascade).trans noneOwed
    simp only [scheduleAll]
    split
    · exact kept
    · rw [Sched.settleCascade_none m _ noExc' noneOwed']
      have unended (g : Hw) : ({ g with sched := { g.sched with ended := [] } } : Hw).ring = g.ring := rfl
      exact (ih ((congrArg RingIf.st (unended _)).trans ((congrArg RingIf.st kept).trans down)) noExc' noneOwed').trans kept

end Sys2Proof.Proofs

/-! PROOFS. O17: entries to SLEEP, DEEP and OFF, from their start to their end (R268, R283, R366, R371). -/

namespace Sys2Proof.Proofs

open Sys2Proof Sys2Proof.Machine Sys2Proof.Laws

/-! ## The save begins (R371) -/

/-- What publishing the last raw blocks leaves alone: all but the chains, tiles, Health, what is to be written and raised. -/
def unshipped (h : Hw) : Hw := { h with raw := {}, sched := {}, health := {}, writes := [], raised := [] }

theorem unshipped_foldl {α : Type} {f : Hw → α → Hw} (each : ∀ h x, unshipped (f h x) = unshipped h) (xs : List α)
    (h : Hw) : unshipped (xs.foldl f h) = unshipped h := by
  induction xs generalizing h with
  | nil => rfl
  | cons x xs ih => rw [List.foldl_cons, ih, each]

theorem unshipped_writeDev (a : Nat) (bs : List Byte) (h : Hw) : unshipped (writeDev a bs h) = unshipped h := by
  obtain ⟨health, w, e, -⟩ := putDev_eq a bs (invalidateTiles a bs.length h)
  rw [writeDev, e]
  rfl

theorem unshipped_publishBlock (n : Nat) (b : RawBlock) (h : Hw) : unshipped (publishBlock n true b h) = unshipped h := by
  unfold publishBlock
  dsimp only
  split
  · rfl
  · split
    · exact Eq.trans rfl (unshipped_writeDev ..)
    · split
      · rfl
      · rfl

theorem unshipped_shipBlock (n : Nat) (h : Hw) : unshipped (shipBlock n true h) = unshipped h := by
  unfold shipBlock
  split
  · rfl
  · exact (unshipped_publishBlock ..).trans rfl

theorem unshipped_shipAll (h : Hw) : unshipped (shipAll h) = unshipped h :=
  unshipped_foldl (fun _ n => unshipped_foldl (fun h _ => unshipped_shipBlock n h) _ _) _ h

theorem shipAll_sq (h : Hw) : (shipAll h).sq = h.sq := by
  simpa only [unshipped] using congrArg Hw.sq (unshipped_shipAll h)

/-- What a save's start may change. -/
abbrev saveParts : List Portion := reporting ++ [.slots, .raw, .sched, .power, .health]

theorem blank_shipAll (h : Hw) : blank saveParts (finish (shipAll h)) = blank saveParts h := by
  have unseen (h : Hw) : blank saveParts (unshipped h) = blank saveParts h := rfl
  rw [Slots.blank_finish, ← unseen, unshipped_shipAll, unseen]

/-- The state of a save that has begun, once its blocks have been published. -/
def saveBegun (e : Entry) (slot : Option PowerSlot) (g : Hw) : Hw :=
  { g with
    sq := { g.sq with linkUp := false, cfgKept := some g.sq.cfg }
    sched := { g.sched with cache := [] }
    power := { g.power with entry := some { e with saving := true }, slot := slot } }

theorem saveBeginsEffect_begins {h : Hw} {e : Entry} (entry : h.power.entry = some e) (notSaving : e.saving = false)
    (ready : saveReady h = true) : ∃ slot, saveBeginsEffect h = saveBegun e slot (finish (shipAll h)) := by
  unfold saveBeginsEffect
  rw [entry]
  simp only [notSaving, ready, Bool.not_false, Bool.and_self, if_true]
  exact ⟨_, rfl⟩

theorem blank_saveBegun (e : Entry) (slot : Option PowerSlot) (g : Hw) :
    blank saveParts (saveBegun e slot g) = blank saveParts g := rfl

theorem saveBegins_begins {s : State} {e : Entry} (entry : s.hw.power.entry = some e) (notSaving : e.saving = false)
    (ready : saveReady s.hw = true) : Answers .saveBegins s fun t =>
      t.hw.power.entry = some { e with saving := true } ∧ t.hw.sq.linkUp = false ∧ t.hw.sq.cfgKept = some s.hw.sq.cfg ∧
      t.hw.sched.cache = [] ∧ OnlyChanges saveParts s t := by
  obtain ⟨slot, effect⟩ := saveBeginsEffect_begins (h := { s.hw with sent := [] }) entry notSaving ready
  have frame := blank_shipAll { s.hw with sent := [] }
  have cfg : (finish (shipAll { s.hw with sent := [] })).sq.cfg = s.hw.sq.cfg := by rw [Run.finish_cfg, shipAll_sq]
  generalize finish (shipAll { s.hw with sent := [] }) = g at effect frame cfg
  refine ⟨commit s (finish (saveBegun e slot g)), ?_, ?_, ?_, ?_, ?_, ?_⟩
  · rw [← effect]
    rfl
  · rw [commit_finish_power]
    rfl
  · exact Run.finish_linkUp _
  · exact (Run.finish_cfgKept _).trans (congrArg some cfg)
  · exact congrArg Sched.cache (Run.finish_sched _)
  · exact Slots.run_only _ s _ ((blank_saveBegun ..).trans frame)

/-! ## The drain ends (R371) -/

/-- What the end of a roll or of a round leaves alone: all but Update, the slots owned and the records. -/
def unrolled (h : Hw) : Hw := { h with update := {}, records := [], sq := { h.sq with owned := [] } }

theorem unrolled_endRoll (st : Status) (d : Detail) (subject : Nat) (h : Hw) :
    unrolled (endRoll st d subject h) = unrolled h := by
  unfold endRoll
  dsimp only
  split
  · rfl
  · rfl

theorem unrolled_endRound (st : Status) (d : Detail) (subject : Nat) (h : Hw) :
    unrolled (endRound st d subject h) = unrolled h := by
  unfold endRound
  dsimp only
  split
  · split
    · rfl
    · rfl
  · split
    · rfl
    · rfl

theorem unrolled_breakRoll (h : Hw) : unrolled (breakRoll h) = unrolled h := by
  unfold breakRoll
  split
  · exact (unrolled_endRound ..).trans (unrolled_endRoll ..)
  · rfl

/-- An interface to the ring that is down. -/
def ringIfDown (r : RingIf) : RingIf :=
  { r with
    east := {}, west := {}, st := .down, rolls := [], returned := false, members := [], head := none
    winOpen := false, copying := none, units := [], unitsWait := [] }

theorem breakRoll_keeps {α : Type} (part : Hw → α) (apart : ∀ h, part (unrolled h) = part h) (h : Hw) :
    part (breakRoll h) = part h := by
  rw [← apart, unrolled_breakRoll, apart]

theorem ringDown_ring (h : Hw) : (ringDown h).ring = ringIfDown h.ring :=
  congrArg ringIfDown (breakRoll_keeps Hw.ring (fun _ => rfl) h)

theorem ringDown_power (h : Hw) : (ringDown h).power = h.power := breakRoll_keeps Hw.power (fun _ => rfl) h

theorem ringDown_cascade (h : Hw) : (ringDown h).cascade = h.cascade := breakRoll_keeps Hw.cascade (fun _ => rfl) h

/-- What the end of an entry's drain may change. -/
abbrev drainParts : List Portion := reporting ++ scheduling ++ [.update]

theorem blank_ringDown (h : Hw) : blank drainParts (ringDown h) = blank drainParts h :=
  Eq.trans rfl (breakRoll_keeps (blank drainParts) (fun _ => rfl) h)

/-- The state whose ring goes down as the drain of an entry ends: a SLEEP keeps its lanes. -/
def draining (e : Entry) (h : Hw) : Hw :=
  let g := { h with power := { h.power with entry := some { e with drained := true } } }
  if e.target = .sleep then keepLanes g else g

theorem drainEffect_drains {h : Hw} {e : Entry} (entry : h.power.entry = some e) (saving : e.saving = true)
    (notDrained : e.drained = false) : drainEffect h = ringDown (draining e h) := by
  unfold drainEffect
  rw [entry]
  simp only [saving, notDrained, Bool.not_false, Bool.and_self, if_true, draining]

theorem draining_entry (e : Entry) (h : Hw) : (draining e h).power.entry = some { e with drained := true } := by
  unfold draining
  split
  · rfl
  · rfl

theorem draining_cascade (e : Entry) (h : Hw) : (draining e h).cascade = h.cascade := by
  unfold draining
  split
  · rfl
  · rfl

theorem blank_draining (e : Entry) (h : Hw) : blank drainParts (draining e h) = blank drainParts h := by
  unfold draining
  split
  · rfl
  · rfl

theorem drain_ends {s : State} {e : Entry} (entry : s.hw.power.entry = some e) (saving : e.saving = true)
    (notDrained : e.drained = false) (calm : NoExcursion s) : Answers .domainDrainEnd s fun t =>
      t.hw.power.entry = some { e with drained := true } ∧ t.hw.ring.st = .down ∧ t.hw.ring.members = [] ∧
      t.hw.ring.winOpen = false ∧
      (e.target = .sleep → t.hw.ring.keptEast = (portLanes s.hw.ring.east).orElse (fun _ => s.hw.ring.keptEast) ∧
        t.hw.ring.keptWest = (portLanes s.hw.ring.west).orElse fun _ => s.hw.ring.keptWest) ∧
      OnlyChanges drainParts s t := by
  obtain ⟨noExc, noneOwed⟩ := calm
  have effect := drainEffect_drains (h := { s.hw with sent := [] }) entry saving notDrained
  generalize start : draining e { s.hw with sent := [] } = g at effect
  have cascade : (ringDown g).cascade = s.hw.cascade := by rw [ringDown_cascade, ← start, draining_cascade]
  have noExc' : (ringDown g).cascade.exc = none := by rw [cascade, noExc]
  have noneOwed' : (ringDown g).cascade.owed = [] := by rw [cascade, noneOwed]
  have down : (ringDown g).ring.st = .down := by rw [ringDown_ring]; rfl
  have frame : blank drainParts (ringDown g) = blank drainParts s.hw := by
    rw [blank_ringDown, ← start, blank_draining]
    rfl
  have kept := Sched.keep_scheduleAll s.mem ((ringDown g).sched.graphs.length + 2) (ringDown g) noExc' noneOwed'
  have ring := ring_scheduleAll s.mem ((ringDown g).sched.graphs.length + 2) down noExc' noneOwed'
  have answers : exec .domainDrainEnd s =
      .next (commit s (finish (scheduleAll s.mem ((ringDown g).sched.graphs.length + 2) (ringDown g)))) := by
    rw [← effect]
    rfl
  generalize scheduleAll s.mem ((ringDown g).sched.graphs.length + 2) (ringDown g) = k at kept ring answers
  have entryKept : k.power.entry = (ringDown g).power.entry := congrArg (fun h => h.power.entry) kept
  have ringEnds : (commit s (finish k)).hw.ring = ringIfDown g.ring :=
    (Run.finish_ring k).trans (ring.trans (ringDown_ring g))
  refine ⟨_, answers, ?_, ?_, ?_, ?_, ?_, Slots.sched_only [.update] s _ k kept frame⟩
  · rw [commit_finish_power, entryKept, ringDown_power, ← start, draining_entry]
  · rw [ringEnds]
    rfl
  · rw [ringEnds]
    rfl
  · rw [ringEnds]
    rfl
  · intro sleep
    rw [ringEnds, ← start]
    simp only [draining, sleep, if_true]
    exact ⟨rfl, rfl⟩

/-! ## The entry completes (R366, R371, R372) -/

theorem senseAsleep_cases (e : Entry) (h : Hw) : ∃ back,
    senseAsleep e h = { senseDown h with power := { h.power with senseBack := back } } ∨
      senseAsleep e h = { h with power := { h.power with senseBack := back } } := by
  unfold senseAsleep
  dsimp only
  split
  · exact ⟨_, .inl rfl⟩
  · exact ⟨_, .inr rfl⟩

theorem senseAsleep_off {e : Entry} (off : e.target = .off ∨ e.keepSense = false) (h : Hw) :
    (senseAsleep e h).drum.senseOn = false ∧
      (senseAsleep e h).power.senseBack = (h.drum.senseOn || h.power.senseBack) := by
  have goes : (e.target == .off || !e.keepSense) = true := by
    rcases off with off | off
    · rw [off]
      rfl
    · rw [off, Bool.not_false, Bool.or_true]
  unfold senseAsleep
  dsimp only
  rw [goes, Bool.true_and, Bool.true_and]
  cases on : h.drum.senseOn with
  | true => exact ⟨rfl, rfl⟩
  | false => exact ⟨on, rfl⟩

theorem senseAsleep_kept {e : Entry} (kept : ¬(e.target = .off ∨ e.keepSense = false)) (h : Hw) :
    (senseAsleep e h).drum = h.drum := by
  rw [not_or, Bool.not_eq_false] at kept
  have stays : (e.target == .off || !e.keepSense) = false := by
    rw [kept.2, Bool.not_true, Bool.or_false]
    exact beq_false_of_ne kept.1
  unfold senseAsleep
  dsimp only
  rw [stays, Bool.false_and]
  rfl

/-- What the end of an entry may change. -/
abbrev sleepParts : List Portion := reporting ++ [.drum, .raw, .bell, .sched, .power]

theorem blank_senseAsleep (e : Entry) (h : Hw) : blank sleepParts (senseAsleep e h) = blank sleepParts h := by
  obtain ⟨back, down | up⟩ := senseAsleep_cases e h
  · rw [down]
    rfl
  · rw [up]
    rfl

theorem senseAsleep_keeps {α : Type} (part : Hw → α) (apart : ∀ h back, part (senseDown h) = part h ∧
    part { h with power := { h.power with senseBack := back } } = part h) (e : Entry) (h : Hw) :
    part (senseAsleep e h) = part h := by
  obtain ⟨back, down | up⟩ := senseAsleep_cases e h
  · rw [down]
    exact ((apart (senseDown h) back).2).trans (apart h back).1
  · rw [up]
    exact (apart h back).2

/-- What the memories keep at the end of an entry (R310, R366). -/
def keptAsleep (e : Entry) (h : Hw) : List (Nat × Nat) :=
  match e.target with
  | .sleep => [(0, reservedEnd), (windowBase, windowSize)]
  | .deep => keptRanges h
  | _ => []

theorem fallAsleep_wipe (e : Entry) (h : Hw) :
    (fallAsleep e h).wipe = some { keep := keptAsleep e h, window := e.target == .sleep } := by
  have ranges : keptRanges (senseAsleep e h) = keptRanges h := senseAsleep_keeps keptRanges (fun _ _ => ⟨rfl, rfl⟩) e h
  have kept : keptAsleep e (senseAsleep e h) = keptAsleep e h := by
    unfold keptAsleep
    rw [ranges]
  rw [← kept]
  rfl

theorem blank_fallAsleep (e : Entry) (h : Hw) : blank sleepParts (fallAsleep e h) = blank sleepParts h :=
  Eq.trans rfl (blank_senseAsleep e h)

theorem replayed_none {e : Entry} (latched : e.latched = []) (h : Hw) : replayed e h = [] := by
  have none : (replayOrder.filter (wakesFrom h)).findSome? (fun s => (e.latched.find? fun x => x.1 == s).map fun x =>
      ({ source := s, time := x.2, late := true, fire := e.fire.getD {}, prior := e.target } : WakeCtx)) = none := by
    rw [List.findSome?_eq_none_iff]
    intro s _
    rw [latched]
    rfl
  unfold replayed
  dsimp only
  rw [none]

theorem entryCompleteEffect_falls {h : Hw} {e : Entry} (env : WakeEnv) (m : Mems) (entry : h.power.entry = some e)
    (saving : e.saving = true) (drained : e.drained = true) (latched : e.latched = []) :
    entryCompleteEffect env m h = fallAsleep e h := by
  unfold entryCompleteEffect
  rw [entry]
  simp only [saving, drained, Bool.and_self, if_true, replayed_none latched]

/-- With CTRL off and no notice the scheduler does nothing. -/
theorem scheduleAll_off {h : Hw} (off : h.power.ctrlOn = false) (quiet : takeNotices h = h) (ended : h.sched.ended = [])
    (m : Mems) (n : Nat) : scheduleAll m (n + 1) h = h := by
  have once : schedule m h = h := by
    simp only [schedule, off, Bool.false_and, Bool.false_eq_true, if_false, quiet]
  simp only [scheduleAll, once, ended, List.isEmpty_nil, if_true]

/-- With CTRL off nothing is written at a command's end: events wait (R388). -/
theorem finish_writes_off {h : Hw} (off : h.power.ctrlOn = false) (records : h.records = []) (raised : h.raised = []) :
    (finish h).writes = h.writes := by
  have delivers (es : List Event) (g : Hw) (off : g.power.ctrlOn = false) :
      ((es.map fun e => ({ event := some e } : Raised)).foldl deliver g).writes = g.writes ∧
        ((es.map fun e => ({ event := some e } : Raised)).foldl deliver g).power = g.power := by
    induction es generalizing g with
    | nil => exact ⟨rfl, rfl⟩
    | cons e es ih =>
      have queued : deliver g { event := some e } = enqueue e g := by
        simp only [deliver, deliverEvent, off, Bool.false_and, Bool.false_eq_true, if_false]
      have same : (enqueue e g).writes = g.writes ∧ (enqueue e g).power = g.power := by
        unfold enqueue
        split
        · exact ⟨rfl, rfl⟩
        · exact ⟨rfl, rfl⟩
      rw [List.map_cons, List.foldl_cons, queued]
      obtain ⟨writes, power⟩ := ih (enqueue e g) ((congrArg Power.ctrlOn same.2).trans off)
      exact ⟨writes.trans same.1, power.trans same.2⟩
  have held : flushHeld h = h := by
    simp only [flushHeld, Hw.writesRecords, off, Bool.and_false, Bool.false_and, Bool.false_eq_true, if_false]
  have releases (n : Nat) (g : Hw) (off : g.power.ctrlOn = false) : releasePosts n g = g := by
    cases n with
    | zero => rfl
    | succ n =>
      simp only [releasePosts, off, Bool.and_false, Bool.false_and, Bool.false_eq_true, if_false]
      split
      · split
        · rfl
        · rfl
      · rfl
  simp only [finish, held, records, raised, List.foldl_nil, List.append_nil]
  obtain ⟨writes, power⟩ := delivers h.sq.queue
    { h with records := [], raised := [], sq := { h.sq with queue := [] } } off
  rw [releases _ _ ((congrArg Power.ctrlOn power).trans off)]
  exact writes

/-! ## What the memories keep -/

theorem memRead_filter (fill : Option Byte) (keeps : Nat → Bool) (m : Mem) (a : Nat) :
    memRead fill (m.filter fun c => keeps c.1) a = if keeps a then memRead fill m a else fill := by
  have sought (c : Host.Cell) : decide (keeps c.1 = true ∧ (c.1 == a) = true) = (keeps a && c.1 == a) := by
    by_cases here : c.1 = a
    · simp [here]
    · simp [here]
  unfold memRead
  rw [List.find?_filter]
  simp only [sought]
  cases keeps a with
  | true => simp only [Bool.true_and, if_true]
  | false =>
    have none : m.find? (fun c => false && c.1 == a) = none := List.find?_eq_none.2 fun c _ => Bool.false_ne_true
    rw [none]
    rfl

theorem memRead_wiped (w : Wipe) (m : Mems) (a : Nat) : memRead (some 0) (wipeMems (some w) m).dram a =
    if w.keep.any (fun r => decide (r.1 ≤ a) && decide (a < r.1 + r.2)) then memRead (some 0) m.dram a else some 0 :=
  memRead_filter (some 0) (fun a => w.keep.any fun r => decide (r.1 ≤ a) && decide (a < r.1 + r.2)) m.dram a

/-- What the memories hold once an entry has ended. -/
structure MemoryAsleep (e : Entry) (s t : State) : Prop where
  coreStore : ∀ a, byteAt t .coreStore a = some 0
  flash : ∀ a, byteAt t .flash a = byteAt s .flash a
  sleep : e.target = .sleep → (∀ a, byteAt t .window a = byteAt s .window a) ∧
    ∀ a < reservedEnd, byteAt t .dram a = byteAt s .dram a
  off : e.target = .off → ∀ a, byteAt t .dram a = some 0
  deep : e.target = .deep → ∀ a, byteAt t .dram a =
    if (keptRanges s.hw).any (fun r => decide (r.1 ≤ a) && decide (a < r.1 + r.2)) then byteAt s .dram a else some 0

theorem memoryAsleep_of_wiped {e : Entry} {s t : State}
    (wiped : t.mem = wipeMems (some { keep := keptAsleep e s.hw, window := e.target == .sleep }) s.mem) :
    MemoryAsleep e s t := by
  have dram (a : Nat) : byteAt t .dram a =
      if (keptAsleep e s.hw).any (fun r => decide (r.1 ≤ a) && decide (a < r.1 + r.2)) then byteAt s .dram a
      else some 0 := by
    have read := memRead_wiped { keep := keptAsleep e s.hw, window := e.target == .sleep } s.mem a
    rw [← wiped] at read
    exact read
  refine ⟨fun a => ?_, fun a => ?_, fun sleep => ⟨fun a => ?_, fun a low => ?_⟩, fun off a => ?_, fun deep a => ?_⟩
  · rw [byteAt, wiped]
    rfl
  · rw [byteAt, wiped]
    rfl
  · rw [byteAt, wiped, sleep]
    rfl
  · have kept : ((keptAsleep e s.hw).any fun r => decide (r.1 ≤ a) && decide (a < r.1 + r.2)) = true := by
      simp [keptAsleep, sleep, low]
    rw [dram, kept, if_pos rfl]
  · rw [dram, keptAsleep, off]
    rfl
  · rw [dram, keptAsleep, deep]

theorem entry_completes {s : State} {e : Entry} (env : WakeEnv) (entry : s.hw.power.entry = some e)
    (saving : e.saving = true) (drained : e.drained = true) (latched : e.latched = []) (settled : Settled s) :
    let senseOff := e.target = .off ∨ e.keepSense = false
    Answers (.entryComplete env) s fun t =>
      t.hw.power.dev = e.target ∧ t.hw.power.entry = none ∧ t.hw.power.ctrlOn = false ∧ t.hw.power.memOn = false ∧
      t.hw.sched.graphs = [] ∧ t.hw.sched.quotas = s.hw.sched.quotas ∧ t.hw.power.slot = s.hw.power.slot ∧
      (senseOff → t.hw.drum.senseOn = false ∧ t.hw.power.senseBack = (s.hw.drum.senseOn || s.hw.power.senseBack)) ∧
      (¬senseOff → t.hw.drum = s.hw.drum) ∧ MemoryAsleep e s t ∧ OnlyChanges sleepParts s t := by
  obtain ⟨writes, -, raised, records⟩ := settled
  have effect := entryCompleteEffect_falls (h := { s.hw with sent := [] }) env s.mem entry saving drained latched
  have wipe := fallAsleep_wipe e { s.hw with sent := [] }
  have frame := blank_fallAsleep e { s.hw with sent := [] }
  have keeps {α : Type} (part : Hw → α) (apart : ∀ h back, part (senseDown h) = part h ∧
      part { h with power := { h.power with senseBack := back } } = part h) :=
    senseAsleep_keeps part apart e { s.hw with sent := [] }
  have off := scheduleAll_off (h := fallAsleep e { s.hw with sent := [] }) rfl rfl rfl s.mem 1
  have answers : exec (.entryComplete env) s = .next (commit s (finish (fallAsleep e { s.hw with sent := [] }))) := by
    have ran : exec (.entryComplete env) s = .next (commit s (finish (scheduleAll s.mem
      ((entryCompleteEffect env s.mem { s.hw with sent := [] }).sched.graphs.length + 2)
      (entryCompleteEffect env s.mem { s.hw with sent := [] })))) := rfl
    rw [ran, effect]
    exact congrArg (fun h => Host.Outcome.next (commit s (finish h))) off
  refine ⟨_, answers, ?_⟩
  dsimp only
  rw [commit_finish_power, commit_finish_drum]
  have sched : (commit s (finish (fallAsleep e { s.hw with sent := [] }))).hw.sched = _ := Run.finish_sched _
  rw [sched]
  refine ⟨rfl, rfl, rfl, rfl, rfl, ?_, ?_, ?_, ?_, ?_, ?_⟩
  · exact keeps (fun h => h.sched.quotas) fun _ _ => ⟨rfl, rfl⟩
  · exact keeps (fun h => h.power.slot) fun _ _ => ⟨rfl, rfl⟩
  · exact fun goes => senseAsleep_off goes _
  · exact fun stays => senseAsleep_kept stays _
  · refine memoryAsleep_of_wiped ?_
    have written : (finish (fallAsleep e { s.hw with sent := [] })).writes = [] :=
      (finish_writes_off (h := fallAsleep e { s.hw with sent := [] }) rfl
        ((keeps Hw.records fun _ _ => ⟨rfl, rfl⟩).trans records)
        ((keeps Hw.raised fun _ _ => ⟨rfl, rfl⟩).trans raised)).trans
        ((keeps Hw.writes fun _ _ => ⟨rfl, rfl⟩).trans writes)
    show applyWrites (wipeMems (finish _).wipe s.mem) (finish _).writes = _
    rw [written, Run.finish_wipe, wipe]
    rfl
  · exact Slots.run_only [.drum, .raw, .bell, .sched, .power] s _ frame

/-! ## The statement -/

/-- Settles O17: an entry begins, saves, drains and ends (R268, R283, R366, R371). -/
theorem entriesGoToTheirState : Obligations.EntriesGoToTheirState := by
  unfold Obligations.EntriesGoToTheirState
  refine ⟨fun s slot f fields notBusy rest free => ?_, fun s e entry notSaving ready _ => ?_,
    fun s e entry saving notDrained calm _ => ?_, fun s e env entry saving drained latched _ settled => ?_⟩
  · have begins {slot : Slot} {c : Instr} {target : DevState} {op : Nat}
        (he : exec c s = runPower op slot (enterEffect target op false) s) (ha : AcceptsOp s slot f kPower 0 3 op)
        (kept : target = .deep → s.hw.image.system.sqInDram = true →
          inKept s.hw s.hw.image.system.sqBase 131072 = true)
        (off : target = .off → s.hw.image.system.sqInDram = false) :=
      entry_begins he ha fields notBusy rest free kept off
    refine ⟨fun ha => ?_, fun ha kept => ?_, fun ha off => ?_⟩
    · obtain ⟨t, answer, leaves, run, quiet, only⟩ := begins (c := .powerSleep slot false) rfl ha nofun nofun
      exact ⟨t, answer, leaves.entry, leaves.slot, leaves.cascade, leaves.fetchStopped, leaves.chains, run,
        leaves.streams, quiet, only⟩
    · obtain ⟨t, answer, leaves, run, quiet, only⟩ := begins (c := .powerDeep slot false) rfl ha (fun _ => kept) nofun
      exact ⟨t, answer, leaves.entry, leaves.slot, leaves.cascade, leaves.fetchStopped, leaves.chains, run,
        leaves.streams, quiet, only⟩
    · obtain ⟨t, answer, leaves, run, quiet, only⟩ := begins (c := .powerOff slot false) rfl ha nofun fun _ => off
      exact ⟨t, answer, leaves.entry, leaves.slot, leaves.cascade, leaves.fetchStopped, leaves.chains, run,
        leaves.streams, quiet, only⟩
  · exact saveBegins_begins entry notSaving ready
  · exact drain_ends entry saving notDrained calm
  · obtain ⟨t, answer, dev, ended, ctrl, mem, graphs, quotas, kept, goes, stays, memory, only⟩ :=
      entry_completes env entry saving drained latched settled
    exact ⟨t, answer, dev, ended, ctrl, mem, graphs, quotas, kept, goes, stays, memory.coreStore, memory.flash,
      memory.sleep, memory.off, memory.deep, only⟩

end Sys2Proof.Proofs

/-! PROOFS. The end of a graph of one task: its record, and a scheduler that has nothing else to do (R275, R300 to R302). -/

namespace Sys2Proof.Proofs

open Sys2Proof Sys2Proof.Machine Sys2Proof.Laws

/-- A stream's request for a chunk is withdrawn where no stream has requests. -/
theorem dropChunk_unasked {h : Hw} (rests : ∀ y ∈ h.streams, y.reqs = [] ∧ y.st ≠ .queued) (key t : Nat) :
    dropChunk key t h = h := by
  have same : h.streams.map (fun y => { y with reqs := y.reqs.erase (.chunk key t) }) = h.streams := by
    refine (List.map_congr_left fun y hy => ?_).trans (List.map_id _)
    obtain ⟨none, -⟩ := rests y hy
    rw [none]
    exact (congrArg (fun r => { y with reqs := r }) none.symm : ({ y with reqs := [] } : Stream) = { y with reqs := y.reqs })
  simp only [dropChunk, same]

/-! ## One graph of one task -/

/-- The hardware with one graph alone. -/
def withGraph (g : Graph) (h : Hw) : Hw := { h with sched := { h.sched with graphs := [g] } }

section Alone

variable {h : Hw} {g : Graph} {x : Task} (alone : h.sched.graphs = [g])

include alone

theorem graphOf_alone : graphOf h g.key = some g := by
  simp only [graphOf, alone, List.find?_cons, beq_self_eq_true]

theorem modGraph_alone (f : Graph → Graph) : modGraph g.key f h = withGraph (f g) h := by
  simp only [modGraph, alone, List.map_cons, List.map_nil, if_true, withGraph]

theorem modTask_alone (one : g.tasks = [x]) (f : Task → Task) :
    modTask g.key 0 f h = withGraph { g with tasks := [f x] } h := by
  rw [modTask, modGraph_alone alone, one]
  rfl

end Alone

/-- A task that is over with every piece. -/
def taskDone (x : Task) : Task :=
  { x with st := .done, pieces := x.pieces.mapIdx fun i p => if p.isDone then p else .done none i }

theorem finishTask_alone {h : Hw} {g : Graph} {x : Task} (alone : h.sched.graphs = [g]) (one : g.tasks = [x]) :
    finishTask g.key 0 h = withGraph { g with tasks := [taskDone x] } h := modTask_alone alone one _

/-- A task that is not at work fails with nothing to undo. -/
theorem failTask_alone {h : Hw} {g : Graph} {x : Task} {since : Nat} (alone : h.sched.graphs = [g]) (one : g.tasks = [x])
    (waits : x.st = .pred since) (live : g.live = true) (rests : ∀ y ∈ h.streams, y.reqs = [] ∧ y.st ≠ .queued)
    (st : Status) (d : Detail) : failTask g.key 0 st d h =
      withGraph { g with tasks := [{ x with st := .failed }], failure := some (st, d, 0) } h := by
  have unfailed : g.failure = none := by
    simp only [Graph.live, Bool.and_eq_true, Option.isNone_iff_eq_none] at live
    exact live.1.2
  have drops : ((List.range g.tasks.length).foldl (fun h i =>
      if taskKind (g.tasks.getD i {}).desc = kRecur then dropChunk g.key i h else h) h) = h := by
    rw [one]
    show (if taskKind x.desc = kRecur then dropChunk g.key 0 h else h) = h
    split
    · exact dropChunk_unasked rests _ 0
    · rfl
  unfold failTask
  rw [graphOf_alone alone]
  simp only [one, List.getD_cons_zero, waits, reduceCtorEq, or_self, false_and, if_false]
  rw [← one, drops, modTask_alone alone one]
  simp only [withGraph, modGraph, List.map_cons, List.map_nil, if_true, unfailed, Option.orElse_none]

/-! ## Its end -/

/-- What an effect that ends the task of a graph leaves: the graph alone, its task over, and nothing else at work. -/
structure TaskOver (g : Graph) (h : Hw) : Prop where
  alone : h.sched.graphs = [g]
  resident : g.resident = true
  task : ∃ y, g.tasks = [y] ∧ (y.st = .done ∨ y.st = .failed ∧ g.live = false ∧ y.busy = false)
  notices : h.sched.notices = []
  ended : h.sched.ended = []
  streams : ∀ y ∈ h.streams, y.reqs = [] ∧ y.st ≠ .queued
  slotted : g.key < 1024

/-- The record of a graph's end. -/
def endRecord (g : Graph) (o : Owned) (h : Hw) : Record :=
  { pos := g.pos, kind := o.kind, status := (graphStatus h g).1, tag := o.tag, detail := (graphStatus h g).2
    result := graphResult h g }

/-- The hardware once the only graph has ended. -/
def graphEnded (g : Graph) (o : Owned) (h : Hw) : Hw :=
  dropTiles g.key { complete (endRecord g o h) h with sched := { h.sched with graphs := [] } }

section Spent

variable {h : Hw} {g : Graph} (spent : TaskOver g h)

include spent

theorem advanceTask_over : advanceTask g.key 0 h = h := by
  obtain ⟨y, one, state⟩ := spent.task
  have bound (x : Task) (done : x.st = .done) : rebindChunk g.key 0 x h = h := by
    unfold rebindChunk
    rw [done]
  unfold advanceTask
  rw [graphOf_alone spent.alone]
  rcases state with done | ⟨-, dead, -⟩
  · simp only [one, List.getD_cons_zero, bound y done, done, ite_self]
  · simp only [dead, Bool.not_false, if_true]

theorem releaseChunks_over : releaseChunks g h = h := by
  obtain ⟨y, one, state⟩ := spent.task
  have notIssued : y.st ≠ .issued := by
    rcases state with done | ⟨failed, -⟩
    · simp [done]
    · simp [failed]
  simp only [releaseChunks, one, List.length_singleton, List.range_one, List.foldl_cons, List.foldl_nil,
    List.getD_cons_zero, notIssued, if_false, dropChunk_unasked spent.streams, ite_self]

theorem atEnd_over : atEnd g = true := by
  obtain ⟨y, one, done | ⟨failed, dead, still⟩⟩ := spent.task
  · simp [atEnd, spent.resident, one, done]
  · simp [atEnd, spent.resident, one, dead, still]

theorem endGraph_over {o : Owned} (owned : h.sq.owned.find? (fun x => x.pos == g.pos) = some o) :
    endGraph g h = graphEnded g o h := by
  unfold endGraph
  simp only [releaseChunks_over spent, spent.slotted, if_true, completeOwned, owned, graphEnded, complete, spent.alone,
    List.filter_cons, bne_self_eq_false, Bool.false_eq_true, if_false, List.filter_nil, endRecord]

theorem settlePass_over {o : Owned} (owned : h.sq.owned.find? (fun x => x.pos == g.pos) = some o) :
    settlePass h = graphEnded g o h := by
  obtain ⟨y, one, -⟩ := spent.task
  have taken : takeNotices h = h := by
    simp only [takeNotices, spent.notices, List.foldl_nil]
    rw [← spent.notices]
  have advanced : (h.sched.graphs.filter (·.resident)).foldl (fun h g =>
      (List.range g.tasks.length).foldl (fun h t => advanceTask g.key t h) h) h = h := by
    rw [spent.alone, List.filter_cons_of_pos spent.resident]
    simp only [List.filter_nil, List.foldl_cons, List.foldl_nil, one, List.length_singleton, List.range_one,
      advanceTask_over spent]
  have served : serveStreams h = h := serveStreams_rested fun y hy => .inl (spent.streams y hy)
  simp only [settlePass, taken, advanced, served, endGraphs]
  rw [spent.alone, List.filter_cons_of_pos (atEnd_over spent)]
  exact endGraph_over spent owned

theorem graphEnded_idle (o : Owned) : Sched.Idle (graphEnded g o h) :=
  ⟨fun _ hg => (nomatch hg), spent.notices, spent.ended, spent.streams⟩

end Spent

/-- A first pass that leaves nothing to do is all that a run of the scheduler does. -/
theorem runSched_settles {f : Mems → Hw → Hw} {s : State} {g h : Hw} (out : f s.mem { s.hw with sent := [] } = g)
    (up : g.up = true) (settles : settlePass g = h) (idle : Sched.Idle h) :
    ∃ k, Sched.calm k = Sched.calm h ∧ runSched f s = .next (commit s (Machine.finish k)) := by
  have on : (g.power.ctrlOn && g.up) = true := by
    rw [up, Bool.and_true]
    exact (Bool.and_eq_true_iff.1 up).1
  have calm : Sched.calm (schedule s.mem g) = Sched.calm h := by
    simp only [schedule, on, if_true, settles]
    have probed := Sched.calm_startProbes true h
    generalize startProbes true h = p at probed
    rw [Sched.scheduleLoop_idle (Sched.idle_of_calm probed idle)]
    have railed := (Sched.calm_railTurn _).trans ((Sched.calm_startProbes false p).trans probed)
    generalize railTurn (startProbes false p) = q at railed
    have still := Sched.idle_of_calm railed idle
    rw [Sched.noteHeld_idle still, Sched.calm_pickCheck,
      Sched.noteLevels_idle (h := gateRetired q) (Sched.idle_of_calm rfl still)]
    exact railed
  have once : scheduleAll s.mem (g.sched.graphs.length + 1 + 1) g = schedule s.mem g := by
    rw [scheduleAll]
    simp only [(Sched.idle_of_calm calm idle).2.2.1, List.isEmpty_nil, if_true]
  refine ⟨schedule s.mem g, calm, ?_⟩
  simp only [runSched, run, out, once]

theorem graphStatus_elapsed {k h : Hw} (same : k.power.elapsed = h.power.elapsed) (g : Graph) :
    graphStatus k g = graphStatus h g := by
  have late : lateUs k g = lateUs h g := by
    unfold lateUs
    rw [same]
  unfold graphStatus
  rw [late]

/-- What an effect leaves of a state whose only graph is at work: that graph alone, nothing else to do, the slots as they
were, and at most n things raised. -/
structure TaskAlone (s : State) (g : Graph) (n : Nat) (h : Hw) : Prop where
  alone : h.sched.graphs = [g]
  notices : h.sched.notices = []
  ended : h.sched.ended = []
  streams : ∀ y ∈ h.streams, y.reqs = [] ∧ y.st ≠ .queued
  sq : h.sq = s.hw.sq
  image : h.image = s.hw.image
  records : h.records = []
  wipe : h.wipe = none
  few : h.raised.length ≤ n
  up : h.up = true
  written : h.writesRecords = true

/-- What a command that ends the only graph answers, where its effect leaves h. -/
structure EndsAlone (s : State) (g : Graph) (o : Owned) (h : Hw) (t : State) : Prop where
  ends : GraphEnds t g o (graphStatus h g)
  status : ∀ g, graphStatus t.hw g = graphStatus h g
  bell : t.hw.bell = h.bell
  time : t.hw.power.time = h.power.time
  dram : s.hw.image.system.sqInDram = false → t.mem.of .dram = (applyWrites s.mem h.writes).of .dram
  reports : ∀ r ∈ h.raised, ∀ e, r.event = some e → Reports t e.status e.detail

/-- A command whose effect ends the task of the only graph ends that graph. -/
theorem graph_ends {c : Instr} {s : State} {eff : Mems → Hw → Hw} {h : Hw} {g : Graph} {o : Owned}
    (he : exec c s = runSched eff s) (out : eff s.mem { s.hw with sent := [] } = h) (spent : TaskOver g h)
    (left : TaskAlone s g 32 h) (held : NothingHeld s) (room : s.hw.sq.queue.length ≤ 32)
    (owned : s.hw.sq.owned.find? (fun x => x.pos == g.pos) = some o) : Answers c s fun t => EndsAlone s g o h t := by
  obtain ⟨-, posts, heldRecords⟩ := held
  have owned' : h.sq.owned.find? (fun x => x.pos == g.pos) = some o := by rw [left.sq, owned]
  obtain ⟨k, calm, answer⟩ := runSched_settles out left.up (settlePass_over spent owned') (graphEnded_idle spent o)
  have sq : k.sq = s.hw.sq := (calm_sq calm).trans left.sq
  have one : k.records = [endRecord g o h] := (calm_records calm).trans (congrArg (· ++ [endRecord g o h]) left.records)
  have posts' : k.sq.posts = [] := by rw [sq, posts]
  have held' : k.sq.heldRecords = [] := by rw [sq, heldRecords]
  have wr : k.writesRecords = true := (calm_writesRecords calm).trans left.written
  have raised : k.raised = h.raised := (calm_raised calm).trans rfl
  have image : k.image = s.hw.image := (calm_image calm).trans left.image
  have fits : k.sq.queue.length + k.raised.length ≤ 64 := by
    have few := left.few
    rw [sq, raised]
    omega
  have elapsed : k.power.elapsed = h.power.elapsed :=
    show (Sched.calm k).power.elapsed = (Sched.calm (graphEnded g o h)).power.elapsed by rw [calm]
  refine ⟨_, he.trans answer, ⟨?_, _, Run.commit_completes s k _ one posts' held' wr fits⟩, fun g' => ?_, ?_, ?_, ?_,
    fun r hr e event => Run.commit_reports s k r e (raised ▸ hr) event posts' held' (.inl wr) fits⟩
  · exact (congrArg Sched.graphs (Run.finish_sched k)).trans (calm_graphs calm)
  · exact graphStatus_elapsed ((congrArg Power.elapsed (commit_finish_power s k)).trans elapsed) g'
  · exact (commit_finish_bell s k).trans ((calm_bell calm).trans rfl)
  · exact (congrArg Power.time (commit_finish_power s k)).trans ((calm_time calm).trans rfl)
  · intro inHost
    obtain ⟨written, -⟩ := Run.finish_plain k posts' held' (.inl wr) fits
    have space : ringSpace k = .host := by simp only [ringSpace, image, inHost, Bool.false_eq_true, if_false]
    have mem : (commit s (Machine.finish k)).mem = applyWrites s.mem (Machine.finish k).writes := by
      simp only [commit, Run.finish_wipe, (calm_wipe calm).trans left.wipe, wipeMems]
    rw [mem, written, one, space, applyWrites, List.foldl_append]
    refine (applyWrites_of_other _ fun w hw => ?_).trans ?_
    · obtain rfl := List.mem_singleton.1 hw
      exact fun no => nomatch no
    · rw [show k.writes = h.writes from (calm_writes calm).trans rfl]
      rfl

/-! ## Corrected errors -/

/-- Corrections count in Health, and raise at most n events. -/
def Counts (n : Nat) (h k : Hw) : Prop := ∃ storm win cnt causes raised, k = { h with
  health := { h.health with storm := storm, stormWin := win, cnt := cnt, causes := causes }, raised := raised } ∧
    raised.length ≤ h.raised.length + n

theorem Counts.trans {n k : Nat} {h h1 h2 : Hw} (first : Counts n h h1) (second : Counts k h1 h2) : Counts (n + k) h h2 := by
  obtain ⟨_, _, _, _, _, rfl, few⟩ := first
  obtain ⟨_, _, _, _, _, rfl, few'⟩ := second
  exact ⟨_, _, _, _, _, rfl, by simp only at few'; omega⟩

theorem counts_corrected (x : Memory) (n : Nat) (h : Hw) : Counts 1 h (corrected x n h) := corrected_eq x n h

theorem counts_bump (f : Counters → Counters) (h : Hw) : Counts 0 h (bump f h) := ⟨_, _, _, _, _, rfl, Nat.le_refl _⟩

theorem counts_noteCorrections (env : PieceEnv) (h : Hw) : Counts 3 h (noteCorrections env h) :=
  (((counts_corrected ..).trans (counts_corrected ..)).trans (counts_corrected ..)).trans (counts_bump ..)

/-- What does not speak of counts and of what is raised is the same. -/
theorem Counts.keeps {α : Type} {n : Nat} {h k : Hw} (counts : Counts n h k) (part : Hw → α)
    (apart : ∀ storm win cnt causes raised, part { h with
      health := { h.health with storm := storm, stormWin := win, cnt := cnt, causes := causes }, raised := raised } =
        part h) : part k = part h := by
  obtain ⟨storm, win, cnt, causes, raised, rfl, -⟩ := counts
  exact apart ..

/-! ## What leaves the graph alone -/

theorem taskAlone_begun {s : State} {g : Graph} {x : Task} {kind : Nat} {o : Owned} (one : OneTask s g x kind o) :
    TaskAlone s g 0 { s.hw with sent := [] } := by
  obtain ⟨⟨⟨-, wipe, raised, records⟩, -, -⟩, -, -, -, up, written, alone, notices, ended, streams, -⟩ := one
  exact ⟨alone, notices, ended, streams, rfl, rfl, records, wipe, Nat.le_of_eq (congrArg List.length raised), up, written⟩

section Keeps

variable {s : State} {g : Graph} {n : Nat} {h : Hw} (left : TaskAlone s g n h)

include left

theorem TaskAlone.mono {k : Nat} (more : n ≤ k) : TaskAlone s g k h := { left with few := left.few.trans more }

theorem TaskAlone.withGraph (g' : Graph) : TaskAlone s g' n (withGraph g' h) := { left with alone := rfl }

theorem TaskAlone.atClocks (time el : Nat) : TaskAlone s g n (atClocks time el h) := { left with }

theorem TaskAlone.counts {k : Nat} {h' : Hw} (counts : Counts k h h') : TaskAlone s g (n + k) h' := by
  obtain ⟨storm, win, cnt, causes, raised, rfl, few⟩ := counts
  exact { left with few := few.trans (Nat.add_le_add_right left.few k) }

theorem TaskAlone.raiseHealth (d : Detail) (a b p q : Nat) : TaskAlone s g (n + 1) (raiseHealth d a b p q h) := by
  refine { left with few := ?_ }
  simp only [Machine.raiseHealth, List.length_append, List.length_singleton]
  exact Nat.succ_le_succ left.few

theorem TaskAlone.writeDev (a : Nat) (bs : List Byte) : TaskAlone s g n (writeDev a bs h) := by
  obtain ⟨health, w, e, -⟩ := putDev_eq a bs (invalidateTiles a bs.length h)
  rw [Machine.writeDev, e]
  exact { left with }

end Keeps

/-- A command that finishes the task of the only graph ends that graph. -/
theorem finish_ends {c : Instr} {s : State} {eff : Mems → Hw → Hw} {h : Hw} {g : Graph} {x : Task} {o : Owned} {n : Nat}
    (he : exec c s = runSched eff s) (out : eff s.mem { s.hw with sent := [] } = finishTask g.key 0 h)
    (left : TaskAlone s g n h) (few : n ≤ 32) (task : g.tasks = [x]) (resident : g.resident = true)
    (slotted : g.key < 1024) (held : NothingHeld s) (room : s.hw.sq.queue.length ≤ 32)
    (owned : s.hw.sq.owned.find? (fun x => x.pos == g.pos) = some o) : Answers c s fun t => EndsAlone s g o h t := by
  rw [finishTask_alone left.alone task] at out
  have left' := (left.mono few).withGraph { g with tasks := [taskDone x] }
  obtain ⟨t, answer, ends⟩ := graph_ends he out ⟨rfl, resident, ⟨_, rfl, .inl rfl⟩, left'.notices, left'.ended,
    left'.streams, slotted⟩ left' held room owned
  exact ⟨t, answer, ends.ends, ends.status, ends.bell, ends.time, ends.dram, ends.reports⟩

/-- A command that fails the task of the only graph ends that graph with the failure. -/
theorem fail_ends {c : Instr} {s : State} {eff : Mems → Hw → Hw} {h : Hw} {g : Graph} {x : Task} {o : Owned} {n since : Nat}
    {st : Status} {d : Detail} (he : exec c s = runSched eff s)
    (out : eff s.mem { s.hw with sent := [] } = failTask g.key 0 st d h) (left : TaskAlone s g n h) (few : n ≤ 32)
    (task : g.tasks = [x]) (waits : x.st = .pred since) (still : x.busy = false) (live : g.live = true)
    (slotted : g.key < 1024) (held : NothingHeld s) (room : s.hw.sq.queue.length ≤ 32)
    (owned : s.hw.sq.owned.find? (fun x => x.pos == g.pos) = some o) : Answers c s fun t => GraphEnds t g o (st, d) := by
  rw [failTask_alone left.alone task waits live left.streams] at out
  have left' := (left.mono few).withGraph { g with tasks := [{ x with st := .failed }], failure := some (st, d, 0) }
  have resident : g.resident = true := by
    simp only [Graph.live, Bool.and_eq_true] at live
    exact live.1.1
  have dead : Graph.live { g with tasks := [{ x with st := .failed }], failure := some (st, d, 0) } = false := by
    simp only [Graph.live, Option.isNone_some, Bool.and_false, Bool.false_and]
  obtain ⟨t, answer, ends⟩ := graph_ends he out ⟨rfl, resident, ⟨_, rfl, .inr ⟨rfl, dead, still⟩⟩, left'.notices,
    left'.ended, left'.streams, slotted⟩ left' held room owned
  exact ⟨t, answer, ends.ends⟩

end Sys2Proof.Proofs

/-! PROOFS. O30: waits and chunks that wait, a MOVE within DRAM and BELL_COMMIT end graphs of one task. -/

namespace Sys2Proof.Proofs

open Sys2Proof Sys2Proof.Machine Sys2Proof.Laws

/-- A graph ends with the status that its own state gives it, where the effect changed nothing that counts for it. -/
theorem EndsAlone.graphEnds {s t : State} {g g' : Graph} {o : Owned} {h : Hw} (ends : EndsAlone s g' o h t)
    (pos : g'.pos = g.pos) (like : graphStatus h g' = graphStatus h g) : GraphEnds t g o (graphStatus t.hw g) := by
  rw [ends.status g, ← like, GraphEnds, ← pos]
  exact ends.ends

theorem resident_of_live {g : Graph} (live : g.live = true) : g.resident = true := by
  simp only [Graph.live, Bool.and_eq_true] at live
  exact live.1.1

/-! ## Waits (R253, R277, R300) -/

theorem busy_of_todo {x : Task} (todo : ∀ p ∈ x.pieces, p = .todo) : x.busy = false := by
  rw [Task.busy, List.any_eq_false]
  intro p hp
  rw [todo p hp]
  decide

theorem waitingSince_alone {h : Hw} {g : Graph} {x : Task} {ref : PieceRef} {kind since : Nat}
    (alone : h.sched.graphs = [g]) (task : g.tasks = [x]) (graph : ref.graph = g.key) (first : ref.task = 0)
    (waits : x.st = .pred since) (live : g.live = true) (isKind : taskKind x.desc = kind) :
    waitingSince h ref kind = some (g, x.desc, since) := by
  unfold waitingSince
  rw [graph, first, graphOf_alone alone]
  simp only [task, List.getD_cons_zero, waits, live, isKind, beq_self_eq_true, Bool.and_self, if_true]

/-- A condition on a beat does not hang on the clocks. -/
theorem waitHolds_beat {d : List Word} (mode : 2 ≤ fld (wordAt d 8) 0 2) (time el : Nat) (h : Hw) (g : Graph) :
    waitHolds (atClocks time el h) g d = waitHolds h g d := by
  unfold waitHolds
  generalize fld (wordAt d 8) 0 2 = k at mode
  match k, mode with
  | 2, _ => rfl
  | k + 3, _ => rfl

section Waits

variable {s : State} {g : Graph} {x : Task} {o : Owned} {ref : PieceRef} {since : Nat} (graph : ref.graph = g.key)
  (first : ref.task = 0) (waits : x.st = .pred since)

include graph first waits

/-- A WAIT for a device time completes as the time comes. -/
theorem waitComplete_ends (on : s.hw.board.aonOn = true) (one : OneTask s g x kWait o)
    (mode : fld (wordAt x.desc 8) 0 2 = 0) (ahead : s.hw.power.time ≤ dwordAt x.desc 9)
    (fits : dwordAt x.desc 9 < 2 ^ 64) :
    Answers (.waitComplete ref) s fun t =>
      t.hw.power.time = dwordAt x.desc 9 ∧ GraphEnds t g o (graphStatus t.hw g) := by
  have left := taskAlone_begun one
  obtain ⟨held, room, -, -, -, -, -, -, -, -, live, slotted, task, isKind, owned⟩ := one
  obtain ⟨time, el, passed, comes⟩ := passToTime_clocks (dwordAt x.desc 9) { s.hw with sent := [] }
  have arrives : time = dwordAt x.desc 9 := comes on ahead fits
  have out : waitEffect ref { s.hw with sent := [] } = finishTask g.key 0 (atClocks time el { s.hw with sent := [] }) := by
    have holds : waitHolds (atClocks time el { s.hw with sent := [] }) g x.desc = true := by
      rw [waitHolds, mode]
      exact decide_eq_true (Nat.le_of_eq arrives.symm)
    unfold waitEffect
    rw [waitingSince_alone left.alone task graph first waits live isKind]
    simp only [mode, passed, holds, if_true, graph, first]
  obtain ⟨t, answer, ends⟩ := finish_ends (c := .waitComplete ref) (eff := fun _ h => waitEffect ref h) rfl out
    (left.atClocks time el) (Nat.zero_le _) task (resident_of_live live) slotted held room owned
  exact ⟨t, answer, ends.time.trans arrives, ends.graphEnds rfl rfl⟩

/-- A WAIT that waits too long goes on, or fails its graph. -/
theorem waitTimeout_ends (one : OneTask s g x kWait o) (todo : ∀ p ∈ x.pieces, p = .todo)
    (mode : 2 ≤ fld (wordAt x.desc 8) 0 2)
    (unmet : waitHolds s.hw g x.desc = false) (limited : (wordAt x.desc 11).toNat ≠ 0) :
    (bit (wordAt x.desc 8) 2 = true →
      Answers (.waitTimeout ref) s fun t => GraphEnds t g o (graphStatus t.hw g)) ∧
    (bit (wordAt x.desc 8) 2 = false →
      Answers (.waitTimeout ref) s fun t => GraphEnds t g o (.failTimeout, .waitTimeout)) := by
  have left := taskAlone_begun one
  obtain ⟨held, room, -, -, -, -, -, -, -, -, live, slotted, task, isKind, owned⟩ := one
  obtain ⟨time, el, passed, -⟩ := passUntil_clocks (since + usTicks (wordAt x.desc 11).toNat) { s.hw with sent := [] }
  have later := left.atClocks time el
  have never : waitHolds (atClocks time el { s.hw with sent := [] }) g x.desc = false :=
    (waitHolds_beat mode time el { s.hw with sent := [] } g).trans unmet
  have out : waitTimeoutEffect ref { s.hw with sent := [] } = if bit (wordAt x.desc 8) 2 then
      finishTask g.key 0 (modFlags g.key (fun f => { f with waitTimedOut := true })
        (atClocks time el { s.hw with sent := [] }))
      else failTask g.key 0 .failTimeout .waitTimeout (atClocks time el { s.hw with sent := [] }) := by
    unfold waitTimeoutEffect
    rw [waitingSince_alone left.alone task graph first waits live isKind]
    simp only [limited, if_false, passed, never, Bool.false_eq_true, graph, first]
  refine ⟨fun goesOn => ?_, fun fails => ?_⟩
  · rw [if_pos goesOn, modFlags, modGraph_alone later.alone] at out
    obtain ⟨t, answer, ends⟩ := finish_ends (c := .waitTimeout ref) (eff := fun _ h => waitTimeoutEffect ref h)
      (g := { g with flags := { g.flags with waitTimedOut := true } }) rfl out (later.withGraph _)
      (Nat.zero_le _) task (resident_of_live live) slotted held room owned
    exact ⟨t, answer, ends.graphEnds rfl rfl⟩
  · rw [fails, if_neg Bool.false_ne_true] at out
    exact fail_ends (c := .waitTimeout ref) (eff := fun _ h => waitTimeoutEffect ref h) rfl out later (Nat.zero_le _) task
      waits (busy_of_todo todo) live slotted held room owned

/-- A chunk that waits too long for its generation fails its graph. -/
theorem genWait_ends (one : OneTask s g x kRecur o) (todo : ∀ p ∈ x.pieces, p = .todo) :
    Answers (.genWaitTimeout ref) s fun t => GraphEnds t g o (.failStream, .genWait) := by
  have left := taskAlone_begun one
  obtain ⟨held, room, -, -, -, -, -, -, -, -, live, slotted, task, isKind, owned⟩ := one
  obtain ⟨time, el, passed, -⟩ := passUntil_clocks (since + genWaitTicks x.desc) { s.hw with sent := [] }
  have out : genWaitEffect ref { s.hw with sent := [] } =
      failTask g.key 0 .failStream .genWait (atClocks time el { s.hw with sent := [] }) := by
    unfold genWaitEffect
    rw [waitingSince_alone left.alone task graph first waits live isKind]
    simp only [passed, graph, first]
  exact fail_ends (c := .genWaitTimeout ref) (eff := fun _ h => genWaitEffect ref h) rfl out (left.atClocks time el)
    (Nat.zero_le _) task waits (busy_of_todo todo) live slotted held room owned

end Waits

/-! ## A MOVE within DRAM (R318, R319, R328) -/

theorem devBad_markBad_nil (h : Hw) (a n : Nat) : devBad (markBad [] h) a n = devBad h a n := by
  rw [Bool.eq_iff_iff]
  simp only [devBad, markBad, List.filter_nil, List.map_nil, List.append_nil, List.any_eq_true, List.mem_eraseDups]

theorem devBadPartly_of_sound {h : Hw} {a n : Nat} (sound : devBad h a n = false) : devBadPartly h a n = false := by
  simp only [devBad, List.any_eq_false] at sound
  simp only [devBadPartly, List.any_eq_false]
  intro u hu
  simp [Bool.eq_false_iff.2 (sound u hu)]

/-- What a MOVE within DRAM leaves before its task is over: the corrections it met, and the source's bytes at its
destination. -/
def moved (env : PieceEnv) (m : Mems) (src dst n : Nat) (h : Hw) : Hw :=
  writeDev dst (readDev m (noteCorrections env (markBad [] h)) src n) (noteCorrections env (markBad [] h))

/-- DRAM's bytes are read from memory where the command has written none. -/
theorem readDev_dram {h : Hw} (silent : h.writes = []) {a n : Nat} (low : a ≤ dramEnd) (m : Mems) :
    readDev m h a n = memReadN (Space.dram.fill.getD 0) (m.of .dram) a n := by
  have notWindow : ¬windowBase ≤ a := fun high => by simp only [dramEnd, windowBase] at low high; omega
  have notStore : ¬coreStoreBase ≤ a := fun high => by simp only [dramEnd, coreStoreBase] at low high; omega
  simp only [readDev, notWindow, notStore, if_false, readN, silent, List.foldl_nil]

/-- The write of a MOVE, and what of the state does not speak of it. -/
theorem moved_writes (env : PieceEnv) (m : Mems) {src dst n : Nat} {h : Hw} (silent : h.writes = []) (low : src ≤ dramEnd)
    (below : dst < dramEnd) :
    (moved env m src dst n h).writes = [⟨.dram, dst, memReadN (Space.dram.fill.getD 0) (m.of .dram) src n⟩] := by
  have counts := counts_noteCorrections env (markBad [] h)
  have writes : (noteCorrections env (markBad [] h)).writes = [] :=
    (counts.keeps Hw.writes fun _ _ _ _ _ => rfl).trans silent
  obtain ⟨health, w, e, dram⟩ := putDev_eq dst (readDev m (noteCorrections env (markBad [] h)) src n)
    (invalidateTiles dst (readDev m (noteCorrections env (markBad [] h)) src n).length (noteCorrections env (markBad [] h)))
  rw [moved, writeDev, e, dram below, readDev_dram writes low]
  exact congrArg (· ++ _) writes

section Move

variable {x : Task} (fromDram : fld (wordAt x.desc 13) 0 2 = 0)
  (source : addrAt x.desc 8 + (wordAt x.desc 12).toNat ≤ dramEnd)
  (target : addrAt x.desc 10 + (wordAt x.desc 12).toNat ≤ dramEnd)

include fromDram source target

theorem runMove_dram {h : Hw} (m : Mems) (owner : Nat) (host : List Byte)
    (mayRead : granted h owner true false (addrAt x.desc 8) (wordAt x.desc 12).toNat = true)
    (mayWrite : granted h owner false true (addrAt x.desc 10) (wordAt x.desc 12).toNat = true) :
    runMove m h owner x.desc host =
      { writes := [(addrAt x.desc 10, readDev m h (addrAt x.desc 8) (wordAt x.desc 12).toNat)] } := by
  have below (a : Nat) (low : a + (wordAt x.desc 12).toNat ≤ dramEnd) : inHostWindow a = false :=
    decide_eq_false fun high => by simp only [dramEnd, host0Base] at low high; omega
  simp only [runMove, fromDram, mayRead, mayWrite, targetOf, source, target, below _ source, below _ target, if_true,
    Option.isSome_some, Bool.and_self, Bool.or_true, Bool.not_true, Bool.false_eq_true, if_false, Bool.and_false,
    Bool.or_self, Bool.false_and, show ((0 : Nat) == 1) = false from rfl]

/-- The bytes of a MOVE that its owner may make move, and its task is over. -/
theorem movePieceDone_moves {h : Hw} {g : Graph} {ref : PieceRef} {env : PieceEnv} (m : Mems)
    (isMove : taskKind x.desc = kMove) (sound : env.bad = [])
    (mayRead : granted h g.owner true false (addrAt x.desc 8) (wordAt x.desc 12).toNat = true)
    (mayWrite : granted h g.owner false true (addrAt x.desc 10) (wordAt x.desc 12).toNat = true)
    (soundSource : devBad h (addrAt x.desc 8) (wordAt x.desc 12).toNat = false)
    (soundTarget : devBad h (addrAt x.desc 10) (wordAt x.desc 12).toNat = false) :
    movePieceDone m ref g x.desc env h = finishTask ref.graph ref.task
      (moved env m (addrAt x.desc 8) (addrAt x.desc 10) (wordAt x.desc 12).toNat h) := by
  have outside (a : Nat) (low : a + (wordAt x.desc 12).toNat ≤ dramEnd) : inWindow a = false := by
    have below : ¬windowBase ≤ a := fun high => by simp only [dramEnd, windowBase] at low high; omega
    rw [inWindow, decide_eq_false below, Bool.false_and]
  have goes : moveWaits h g ref x.desc = false := by
    simp only [moveWaits, readWaits, outside _ source, outside _ target, Bool.false_and, Bool.and_false, Bool.or_self]
  have counts := counts_noteCorrections env (markBad [] h)
  have image : (noteCorrections env (markBad [] h)).image = h.image := counts.keeps Hw.image fun _ _ _ _ _ => rfl
  have bad (a n : Nat) : devBad (noteCorrections env (markBad [] h)) a n = devBad h a n :=
    (counts.keeps (fun h => devBad h a n) fun _ _ _ _ _ => rfl).trans (devBad_markBad_nil h a n)
  have met : eccMet (noteCorrections env (markBad [] h)) (taskReads x.desc g.tensors) (taskWrites x.desc g.tensors) = none := by
    have kind : taskKind x.desc = 5 := isMove
    have partly := devBadPartly_of_sound ((bad _ _).trans soundTarget)
    simp only [eccMet, taskReads, taskWrites, kind, fromDram, if_true, List.find?_cons, (bad _ _).trans soundSource,
      partly, List.find?_nil]
  have out := runMove_dram fromDram source target (h := noteCorrections env (markBad [] h)) m g.owner env.hostData
    (by rw [granted, image]; exact mayRead) (by rw [granted, image]; exact mayWrite)
  unfold movePieceDone
  rw [goes]
  simp only [Bool.false_eq_true, if_false, sound, met, out, outside _ target, Bool.false_and, List.foldl_cons,
    List.foldl_nil, moved]

end Move

/-- A MOVE within DRAM leaves the source's bytes at the destination, and its graph ends. -/
theorem move_ends {s : State} {g : Graph} {x : Task} {o : Owned} {ref : PieceRef} {env : PieceEnv}
    (one : OneTask s g x kMove o) (graph : ref.graph = g.key) (first : ref.task = 0) (piece : ref.piece = 0)
    (running : x.pieces = [.running none]) (sound : env.bad = []) (noStream : env.streamBad = [])
    (noSched : env.schedBad = false) (inHost : s.hw.image.system.sqInDram = false)
    (fromDram : fld (wordAt x.desc 13) 0 2 = 0) (moves : 0 < (wordAt x.desc 12).toNat)
    (source : addrAt x.desc 8 + (wordAt x.desc 12).toNat ≤ dramEnd)
    (target : addrAt x.desc 10 + (wordAt x.desc 12).toNat ≤ dramEnd)
    (mayRead : granted s.hw g.owner true false (addrAt x.desc 8) (wordAt x.desc 12).toNat = true)
    (mayWrite : granted s.hw g.owner false true (addrAt x.desc 10) (wordAt x.desc 12).toNat = true)
    (soundSource : devBad s.hw (addrAt x.desc 8) (wordAt x.desc 12).toNat = false)
    (soundTarget : devBad s.hw (addrAt x.desc 10) (wordAt x.desc 12).toNat = false) :
    let n := (wordAt x.desc 12).toNat
    let src := addrAt x.desc 8
    let dst := addrAt x.desc 10
    Answers (.pieceComplete ref env) s fun t =>
      bytesAt t .dram dst n = bytesAt s .dram src n ∧ GraphEnds t g o (graphStatus t.hw g) ∧
      ∀ b, b < dst ∨ dst + n ≤ b → byteAt t .dram b = byteAt s .dram b := by
  have left := taskAlone_begun one
  obtain ⟨held, room, -, -, -, -, -, -, -, -, live, slotted, task, isKind, owned⟩ := one
  have silent : s.hw.writes = [] := held.1.1
  have out : pieceComplete s.mem ref env { s.hw with sent := [] } = finishTask g.key 0
      (moved env s.mem (addrAt x.desc 8) (addrAt x.desc 10) (wordAt x.desc 12).toNat { s.hw with sent := [] }) := by
    have clean : ctrlErrors env { s.hw with sent := [] } = { s.hw with sent := [] } := by
      simp only [ctrlErrors, noStream, noSched, List.foldl_nil, Bool.false_eq_true, if_false]
    rw [pieceComplete, clean, graph, graphOf_alone left.alone]
    simp only [task, first, piece, List.getD_cons_zero, running, List.getElem?_cons_zero, isKind, if_true]
    have done := movePieceDone_moves fromDram source target (h := { s.hw with sent := [] }) (ref := ref) s.mem isKind
      sound mayRead mayWrite soundSource soundTarget
    rw [graph, first] at done
    exact done
  have left' : TaskAlone s g 3
      (moved env s.mem (addrAt x.desc 8) (addrAt x.desc 10) (wordAt x.desc 12).toNat { s.hw with sent := [] }) := by
    have marked : TaskAlone s g 0 (markBad [] { s.hw with sent := [] }) := { left with }
    exact (marked.counts (counts_noteCorrections env _)).writeDev ..
  obtain ⟨t, answer, ends⟩ := finish_ends (c := .pieceComplete ref env) (eff := fun m h => pieceComplete m ref env h) rfl
    out left' (by decide) task (resident_of_live live) slotted held room owned
  have dram := ends.dram inHost
  have below : addrAt x.desc 10 < dramEnd := by omega
  rw [moved_writes (h := { s.hw with sent := [] }) env s.mem silent (Nat.le_of_add_right_le source) below] at dram
  have long : (memReadN (Space.dram.fill.getD 0) (s.mem.of .dram) (addrAt x.desc 8) (wordAt x.desc 12).toNat).length =
      (wordAt x.desc 12).toNat := length_readCells ..
  refine ⟨t, answer, ?_, ends.graphEnds rfl rfl, fun b out => ?_⟩
  · rw [bytesAt, dram]
    exact memReadN_copied s.mem long (fun _ => rfl) fun _ => below
  · rw [byteAt, dram]
    refine Run.read_outside s.mem _ .dram b fun w hw _ => ?_
    obtain rfl := List.mem_singleton.1 hw
    rw [long]
    exact out

end Sys2Proof.Proofs

/-! PROOFS. O30: BELL_COMMIT ends a graph of one task (R169, R170, R278, R327, R395). -/

namespace Sys2Proof.Proofs

open Sys2Proof Sys2Proof.Machine Sys2Proof.Laws

/-! ## Stores of an adapted model -/

theorem storeModel_eq (ok : Bool) (m : Mems) (model : Option SetEntry) (h : Hw) : ∃ health writes draws,
    storeModel ok m model h = { h with health := health, writes := writes, draws := draws } := by
  unfold storeModel writeSettings
  dsimp only
  split
  · exact ⟨_, _, _, rfl⟩
  · obtain ⟨bs, draws, e, -⟩ := freeBytes_eq _ _
    rw [e]
    exact ⟨_, _, _, rfl⟩

theorem TaskAlone.storeModel {s : State} {g : Graph} {n : Nat} {h : Hw} (left : TaskAlone s g n h) (ok : Bool) (m : Mems)
    (model : Option SetEntry) : TaskAlone s g n (storeModel ok m model h) := by
  obtain ⟨health, writes, draws, e⟩ := storeModel_eq ok m model h
  rw [e]
  exact { left with }

theorem storeModel_bell (ok : Bool) (m : Mems) (model : Option SetEntry) (h : Hw) :
    (storeModel ok m model h).bell = h.bell := by
  obtain ⟨health, writes, draws, e⟩ := storeModel_eq ok m model h
  rw [e]

theorem TaskAlone.afterStore {s : State} {g : Graph} {n : Nat} {h : Hw} (left : TaskAlone s g n h) (blob : List Byte) :
    TaskAlone s g n (afterStore true blob h) := { left with }

theorem afterStore_bell {h : Hw} {b : Bell} (same : h.bell = b) (blob : List Byte) :
    (afterStore true blob h).bell = { b with next := if blob = b.blob then none else some blob } := by
  subst same
  rfl

/-! ## LOADER's turn at a commit -/

/-- The graph of a commit whose piece is over. -/
def commitDone (g : Graph) (x : Task) : Graph := { g with tasks := [{ x with pieces := [.done none 0] }] }

/-- The hardware once LOADER has turned to a commit: the corrections that its read met, and the piece is over. -/
def commitTurn (g : Graph) (x : Task) (fixed : Nat) (h : Hw) : Hw :=
  withGraph (commitDone g x) (corrected (memoryAt (addrAt x.desc 9)) fixed h)

/-- What speaks neither of the graph nor of counts is the same once LOADER has turned to a commit. -/
theorem commitTurn_keeps {α : Type} (part : Hw → α) (g : Graph) (x : Task) (fixed : Nat) (h : Hw)
    (apart : ∀ storm win cnt causes raised, part (withGraph (commitDone g x) { h with
      health := { h.health with storm := storm, stormWin := win, cnt := cnt, causes := causes }, raised := raised }) =
        part h) : part (commitTurn g x fixed h) = part h :=
  (counts_corrected (memoryAt (addrAt x.desc 9)) fixed h).keeps (fun k => part (withGraph (commitDone g x) k))
    (fun _ _ _ _ _ => (apart ..).trans (apart ..).symm) |>.trans (apart ..)

/-- What a commit in its turn comes to, by its blob's address and length. -/
def commitOutcome (ok : Bool) (m : Mems) (g : Graph) (a n : Nat) (k : Hw) : Hw :=
  if a = 0 then finishTask g.key 0 (discardModel ok m k)
  else if !(bellCfg k).allowAdapt || !bellRuns k then finishTask g.key 0 (commitModel ok m [] k)
  else if !loaderReads k a n then failTask g.key 0 .refusedAccess .accessRuntime (countRefusal LOADER a k)
  else if devBad k a n then failEccAt g.key 0 (firstBad k a n) k
  else finishTask g.key 0 (commitModel ok m (readDev m k a n) k)

/-- A commit waits for LOADER's turn, and behind a closed window (R327, R395). -/
def commitWaits (x : Task) (h : Hw) : Bool :=
  !loaderTurn x.issuedEl h || readWaits h LOADER (addrAt x.desc 9) h.bell.blob.length

section Effect

variable {h : Hw} {g : Graph} {x : Task} {ref : PieceRef} (alone : h.sched.graphs = [g]) (task : g.tasks = [x])
  (isKind : taskKind x.desc = kMark) (graph : ref.graph = g.key) (first : ref.task = 0) (piece : ref.piece = 0)
  (running : x.pieces = [.running none]) (code : fld (wordAt x.desc 8) 0 4 = 1)

include alone task isKind graph first piece running code

theorem runningCommit_alone : runningCommit h ref = some (x.desc, x.issuedEl) := by
  unfold runningCommit
  rw [graph, graphOf_alone alone]
  simp only [task, first, piece, List.getD_cons_zero, running, List.getElem?_cons_zero, isKind, code, and_self, if_true]

theorem bellCommitEffect_waits (waits : commitWaits x h = true) (ok : Bool) (fixed : Nat) (m : Mems) :
    bellCommitEffect ref ok fixed m h = h := by
  unfold bellCommitEffect
  rw [runningCommit_alone alone task isKind graph first piece running code]
  exact if_pos waits

theorem bellCommitEffect_turns (turn : commitWaits x h = false) (ok : Bool) (fixed : Nat) (m : Mems) :
    bellCommitEffect ref ok fixed m h =
      commitOutcome ok m g (addrAt x.desc 9) h.bell.blob.length (commitTurn g x fixed h) := by
  have counts := counts_corrected (memoryAt (addrAt x.desc 9)) fixed h
  have alone' : (corrected (memoryAt (addrAt x.desc 9)) fixed h).sched.graphs = [g] :=
    (counts.keeps (fun h => h.sched.graphs) fun _ _ _ _ _ => rfl).trans alone
  have turned : modPiece ref (fun _ => .done none 0) (corrected (memoryAt (addrAt x.desc 9)) fixed h) =
      commitTurn g x fixed h := by
    rw [modPiece, graph, first, piece, modTask_alone alone' task, running]
    rfl
  unfold bellCommitEffect
  rw [runningCommit_alone alone task isKind graph first piece running code]
  refine (if_neg (Bool.eq_false_iff.1 turn)).trans ?_
  dsimp only
  rw [turned, graph, first]
  rfl

end Effect

/-- A blob that LOADER reads is what its memory holds. -/
theorem commitOutcome_reads {s : State} {g : Graph} {x : Task} (silent : s.hw.writes = []) (fixed : Nat)
    (named : addrAt x.desc 9 ≠ 0) (low : addrAt x.desc 9 + s.hw.bell.blob.length ≤ dramEnd)
    (mayRead : loaderReads s.hw (addrAt x.desc 9) s.hw.bell.blob.length = true)
    (sound : devBad s.hw (addrAt x.desc 9) s.hw.bell.blob.length = false) (adapts : (bellCfg s.hw).allowAdapt = true)
    (runs : bellRuns s.hw = true) (ok : Bool) :
    commitOutcome ok s.mem g (addrAt x.desc 9) s.hw.bell.blob.length (commitTurn g x fixed { s.hw with sent := [] }) =
      finishTask g.key 0 (commitModel ok s.mem (bytesAt s .dram (addrAt x.desc 9) s.hw.bell.blob.length)
        (commitTurn g x fixed { s.hw with sent := [] })) := by
  have keeps {α : Type} (part : Hw → α) := commitTurn_keeps part g x fixed { s.hw with sent := [] }
  have read := readDev_dram (n := s.hw.bell.blob.length) ((keeps Hw.writes fun _ _ _ _ _ => rfl).trans silent)
    (Nat.le_of_add_right_le low) s.mem
  have cfg := (keeps (fun h => (bellCfg h).allowAdapt) fun _ _ _ _ _ => rfl).trans adapts
  have runs' := (keeps bellRuns fun _ _ _ _ _ => rfl).trans runs
  have reads := (keeps (fun h => loaderReads h (addrAt x.desc 9) s.hw.bell.blob.length) fun _ _ _ _ _ => rfl).trans mayRead
  have sound' := (keeps (fun h => devBad h (addrAt x.desc 9) s.hw.bell.blob.length) fun _ _ _ _ _ => rfl).trans sound
  simp only [commitOutcome, named, if_false, cfg, runs', Bool.not_true, Bool.or_self, Bool.false_eq_true, reads, sound',
    read]
  rfl

section Commit

variable {s : State} {g : Graph} {x : Task} {o : Owned} {ref : PieceRef} (one : OneTask s g x kMark o)
  (graph : ref.graph = g.key) (first : ref.task = 0) (piece : ref.piece = 0) (running : x.pieces = [.running none])
  (code : fld (wordAt x.desc 8) 0 4 = 1)

include one

theorem taskAlone_commitTurn (fixed : Nat) : TaskAlone s (commitDone g x) 1 (commitTurn g x fixed { s.hw with sent := [] }) :=
  ((taskAlone_begun one).counts (counts_corrected ..)).withGraph _

include graph first piece running code

/-- Before its turn, and behind a closed window, a commit waits. -/
theorem bellCommit_waits (waits : commitWaits x s.hw = true) (ok : Bool) (fixed : Nat) :
    Answers (.bellCommitStored ref ok fixed) s fun t => t.hw.bell = s.hw.bell := by
  have alone := (taskAlone_begun one).alone
  obtain ⟨-, -, ⟨noExc, noneOwed⟩, -, -, -, -, -, -, -, -, -, task, isKind, -⟩ := one
  have out := bellCommitEffect_waits alone task isKind graph first piece running code waits ok fixed s.mem
  obtain ⟨k, kept, answer⟩ := Slots.runSched_keep (fun m h => bellCommitEffect ref ok fixed m h) s _ out noExc noneOwed
  have bell : k.bell = s.hw.bell := by simpa only [Sched.keep] using congrArg Hw.bell kept
  exact ⟨_, answer, (commit_finish_bell s k).trans bell⟩

/-- A commit in its turn whose task is then over ends its graph. -/
theorem bellCommit_ends {ok : Bool} {fixed n : Nat} {h : Hw} (turn : commitWaits x s.hw = false)
    (out : commitOutcome ok s.mem g (addrAt x.desc 9) s.hw.bell.blob.length (commitTurn g x fixed { s.hw with sent := [] }) =
      finishTask g.key 0 h)
    (left : TaskAlone s (commitDone g x) n h) (few : n ≤ 32) :
    Answers (.bellCommitStored ref ok fixed) s fun t => t.hw.bell = h.bell ∧ GraphEnds t g o (graphStatus t.hw g) ∧
      ∀ r ∈ h.raised, ∀ e, r.event = some e → Reports t e.status e.detail := by
  have alone := (taskAlone_begun one).alone
  obtain ⟨held, room, -, -, -, -, -, -, -, -, live, slotted, task, isKind, owned⟩ := one
  have effect := (bellCommitEffect_turns alone task isKind graph first piece running code turn ok fixed s.mem).trans out
  obtain ⟨t, answer, ends⟩ := finish_ends (c := .bellCommitStored ref ok fixed) (g := commitDone g x)
    (eff := fun m h => bellCommitEffect ref ok fixed m h) rfl effect left few rfl (resident_of_live live) slotted held room
    owned
  exact ⟨t, answer, ends.bell, ends.graphEnds rfl rfl, ends.reports⟩

/-- A commit that is refused, or not stored, reports it; the model in force stays, and the graph ends. -/
theorem bellCommit_reports {ok : Bool} {fixed n p : Nat} {h : Hw} {d : Detail} (turn : commitWaits x s.hw = false)
    (out : commitOutcome ok s.mem g (addrAt x.desc 9) s.hw.bell.blob.length (commitTurn g x fixed { s.hw with sent := [] }) =
      finishTask g.key 0 (raiseHealth d 0 0 p 0 h))
    (left : TaskAlone s (commitDone g x) n h) (few : n + 1 ≤ 32) (bell : h.bell = s.hw.bell) :
    Answers (.bellCommitStored ref ok fixed) s fun t =>
      t.hw.bell = s.hw.bell ∧ Reports t .eventHealth d ∧ GraphEnds t g o (graphStatus t.hw g) := by
  obtain ⟨t, answer, kept, ends, reports⟩ :=
    bellCommit_ends one graph first piece running code turn out (left.raiseHealth d 0 0 p 0) few
  exact ⟨t, answer, kept.trans bell, reports _ (List.mem_append_right _ (List.mem_singleton_self _)) _ rfl, ends⟩

variable (fixed : Nat) (turn : commitWaits x s.hw = false)

include turn

/-- Address zero without a stored adaptation changes nothing. -/
theorem bellCommit_nothing (zero : addrAt x.desc 9 = 0) (none : ownSettings s.mem s.hw = none) :
    Answers (.bellCommitStored ref true fixed) s fun t =>
      t.hw.bell = s.hw.bell ∧ GraphEnds t g o (graphStatus t.hw g) := by
  have own : ownSettings s.mem (commitTurn g x fixed { s.hw with sent := [] }) = Option.none :=
    (commitTurn_keeps (ownSettings s.mem) g x fixed _ fun _ _ _ _ _ => rfl).trans none
  have out : commitOutcome true s.mem g (addrAt x.desc 9) s.hw.bell.blob.length
      (commitTurn g x fixed { s.hw with sent := [] }) =
        finishTask g.key 0 (commitTurn g x fixed { s.hw with sent := [] }) := by
    rw [commitOutcome, if_pos zero, discardModel, own]
  obtain ⟨t, answer, kept, ends, -⟩ := bellCommit_ends one graph first piece running code turn out
    (taskAlone_commitTurn one fixed) (by decide)
  exact ⟨t, answer, kept.trans (commitTurn_keeps Hw.bell g x fixed _ fun _ _ _ _ _ => rfl), ends⟩

variable (named : addrAt x.desc 9 ≠ 0)

include named

/-- An image that allows no adaptation refuses every commit. -/
theorem bellCommit_forbidden (fixedModel : (bellCfg s.hw).allowAdapt = false) :
    Answers (.bellCommitStored ref true fixed) s fun t =>
      t.hw.bell = s.hw.bell ∧ Reports t .eventHealth .bellCommitRefused ∧ GraphEnds t g o (graphStatus t.hw g) := by
  have cfg : (bellCfg (commitTurn g x fixed { s.hw with sent := [] })).allowAdapt = false :=
    (commitTurn_keeps (fun h => (bellCfg h).allowAdapt) g x fixed _ fun _ _ _ _ _ => rfl).trans fixedModel
  have out : commitOutcome true s.mem g (addrAt x.desc 9) s.hw.bell.blob.length
      (commitTurn g x fixed { s.hw with sent := [] }) =
        finishTask g.key 0 (raiseHealth .bellCommitRefused 0 0 1 0 (commitTurn g x fixed { s.hw with sent := [] })) := by
    simp only [commitOutcome, named, if_false, cfg, Bool.not_false, Bool.true_or, if_true, commitModel, commitFault]
  exact bellCommit_reports one graph first piece running code turn out (taskAlone_commitTurn one fixed) (by decide)
    (commitTurn_keeps Hw.bell g x fixed _ fun _ _ _ _ _ => rfl)

variable (low : addrAt x.desc 9 + s.hw.bell.blob.length ≤ dramEnd)
  (mayRead : loaderReads s.hw (addrAt x.desc 9) s.hw.bell.blob.length = true)
  (sound : devBad s.hw (addrAt x.desc 9) s.hw.bell.blob.length = false) (adapts : (bellCfg s.hw).allowAdapt = true)
  (runs : bellRuns s.hw = true)

include low mayRead sound adapts runs

/-- A blob with a fault is refused. -/
theorem bellCommit_refused {p : Nat}
    (fault : commitFault s.hw (bytesAt s .dram (addrAt x.desc 9) s.hw.bell.blob.length) = some p) :
    Answers (.bellCommitStored ref true fixed) s fun t =>
      t.hw.bell = s.hw.bell ∧ Reports t .eventHealth .bellCommitRefused ∧ GraphEnds t g o (graphStatus t.hw g) := by
  have out := commitOutcome_reads (g := g) one.1.1.1 fixed named low mayRead sound adapts runs true
  have faulty := (commitTurn_keeps (fun h => commitFault h (bytesAt s .dram (addrAt x.desc 9) s.hw.bell.blob.length)) g x
    fixed { s.hw with sent := [] } fun _ _ _ _ _ => rfl).trans fault
  rw [commitModel, faulty] at out
  exact bellCommit_reports one graph first piece running code turn out (taskAlone_commitTurn one fixed) (by decide)
    (commitTurn_keeps Hw.bell g x fixed _ fun _ _ _ _ _ => rfl)

/-- A sound blob is stored, and Bell turns to it; or its store fails. -/
theorem bellCommit_stores
    (fault : commitFault s.hw (bytesAt s .dram (addrAt x.desc 9) s.hw.bell.blob.length) = none) :
    (Answers (.bellCommitStored ref true fixed) s fun t =>
      t.hw.bell = { s.hw.bell with
        next := if bytesAt s .dram (addrAt x.desc 9) s.hw.bell.blob.length = s.hw.bell.blob then none
          else some (bytesAt s .dram (addrAt x.desc 9) s.hw.bell.blob.length) } ∧
      GraphEnds t g o (graphStatus t.hw g)) ∧
    Answers (.bellCommitStored ref false fixed) s fun t =>
      t.hw.bell = s.hw.bell ∧ Reports t .eventHealth .bellStoreFail ∧ GraphEnds t g o (graphStatus t.hw g) := by
  have out := commitOutcome_reads (g := g) one.1.1.1 fixed named low mayRead sound adapts runs
  have left := taskAlone_commitTurn one fixed
  have sane := (commitTurn_keeps (fun h => commitFault h (bytesAt s .dram (addrAt x.desc 9) s.hw.bell.blob.length)) g x
    fixed { s.hw with sent := [] } fun _ _ _ _ _ => rfl).trans fault
  have bell (ok : Bool) (e : Option SetEntry) :
      (storeModel ok s.mem e (commitTurn g x fixed { s.hw with sent := [] })).bell = s.hw.bell :=
    (storeModel_bell ..).trans (commitTurn_keeps Hw.bell g x fixed _ fun _ _ _ _ _ => rfl)
  simp only [commitModel, sane] at out
  refine ⟨?_, ?_⟩
  · obtain ⟨t, answer, kept, ends, -⟩ := bellCommit_ends one graph first piece running code turn (out true)
      ((left.storeModel true s.mem _).afterStore _) (by decide)
    exact ⟨t, answer, kept.trans (afterStore_bell (bell ..) _), ends⟩
  · exact bellCommit_reports one graph first piece running code turn (out false) (left.storeModel false s.mem _)
      (by decide) (bell ..)

end Commit

/-! ## The statement -/

/-- Settles O30: waits, a MOVE within DRAM and BELL_COMMIT end graphs of one task (R169, R253, R277, R300, R318, R327). -/
theorem tasksEndTheirGraphs : Obligations.TasksEndTheirGraphs := by
  unfold Obligations.TasksEndTheirGraphs
  refine ⟨fun s g x o since ref graph first waits todo on => ⟨fun one => ⟨?_, fun mode unmet limited => ?_⟩, fun one => ?_⟩,
    fun s g x o ref env one graph first piece _ running sound noStream noSched inHost fromDram moves source target mayRead
      mayWrite soundSource soundTarget => ?_,
    fun s g x o ref fixed one graph first piece _ running code => ⟨fun waits => ?_, fun turn => ⟨fun zero none => ?_,
      fun named fixedModel => ?_, fun named low mayRead sound adapts runs => ⟨fun sane => ?_, fun sane => ?_,
        fun p fault => ?_⟩⟩⟩⟩
  · exact waitComplete_ends graph first waits on one
  · exact waitTimeout_ends graph first waits one todo mode unmet limited
  · exact genWait_ends graph first waits one todo
  · exact move_ends one graph first piece running sound noStream noSched inHost fromDram moves source target mayRead mayWrite
      soundSource soundTarget
  · exact bellCommit_waits one graph first piece running code waits true fixed
  · exact bellCommit_nothing one graph first piece running code fixed turn zero none
  · exact bellCommit_forbidden one graph first piece running code fixed turn named fixedModel
  · exact (bellCommit_stores one graph first piece running code fixed turn named low mayRead sound adapts runs sane).1
  · exact (bellCommit_stores one graph first piece running code fixed turn named low mayRead sound adapts runs sane).2
  · exact bellCommit_refused one graph first piece running code fixed turn named low mayRead sound adapts runs fault

end Sys2Proof.Proofs

/-! PROOFS. What any command leaves at rest: what an idle run of the scheduler keeps, its record and its events (R38, R295). -/

namespace Sys2Proof.Proofs

open Sys2Proof Sys2Proof.Machine Sys2Proof.Laws

/-- With no work the scheduler starts probes, gates islands, takes the rail's turn and picks the next check. -/
theorem schedule_idle {h : Hw} (i : Sched.Idle h) (m : Mems) : schedule m h =
    if h.up then pickCheck (gateRetired (railTurn (startProbes false (startProbes true h)))) else h := by
  have serves : (h.power.ctrlOn && h.up) = h.up := by
    simp only [Hw.up, ← Bool.and_assoc, Bool.and_self]
  simp only [schedule, serves]
  split
  · have same : Sched.calm (railTurn (startProbes false (startProbes true h))) = Sched.calm h :=
      (Sched.calm_railTurn _).trans ((Sched.calm_startProbes false _).trans (Sched.calm_startProbes true h))
    have railed := Sched.idle_of_calm same i
    rw [Sched.settlePass_idle i, Sched.scheduleLoop_idle (Sched.idle_of_calm (Sched.calm_startProbes true h) i),
      Sched.noteHeld_idle railed, Sched.noteLevels_idle (h := gateRetired _) railed]
  · exact Sched.takeNotices_idle i

/-- What a state has of the hardware that an effect at rest left to an idle run of the scheduler. -/
structure RestLeaves (s : State) (g : Hw) (t : State) : Prop where
  ran : t.hw.sched = (schedule s.mem g).sched
  sched : (Sched.calm t.hw).sched = (Sched.calm g).sched
  power : (Sched.calm t.hw).power = (Sched.calm g).power
  causes : t.hw.health.causes = g.health.causes
  counters : { t.hw.health.cnt with eventsLost := 0 } = { g.health.cnt with eventsLost := 0 }
  mem : g.records = [] → t.mem = s.mem
  finishes : ∀ r, g.records = [r] → g.writesRecords = true → g.image = s.hw.image → Finishes s t r
  queues : ∀ r ∈ g.raised, ∀ e, r.event = some e → ∃ x ∈ t.hw.sq.queue, StandsFor r e x

/-- A command at rest whose effect has written nothing leaves what the effect left, and reports it. -/
theorem rest_leaves {c : Instr} {s : State} {f : Mems → Hw → Hw} {g : Hw} (he : exec c s = runSched f s)
    (out : f s.mem { s.hw with sent := [] } = g) (idle : Sched.Idle g) (clear : Clear { g with raised := [], records := [] })
    (room : g.sq.queue.length + g.raised.length ≤ 64) (ps : List Portion)
    (frame : blank (reporting ++ resting ++ ps) g = blank (reporting ++ resting ++ ps) s.hw) :
    Answers c s fun t => RestLeaves s g t ∧ OnlyChanges (reporting ++ resting ++ ps) s t := by
  obtain ⟨k, hk⟩ : ∃ k, k = schedule s.mem g := ⟨_, rfl⟩
  have kept : Sched.calm k = Sched.calm g := by rw [hk]; exact Sched.calm_schedule idle s.mem
  obtain ⟨writes, wipe, -, -, posts, held⟩ := clear
  have sq := calm_sq kept
  have writes' : k.writes = [] := (calm_writes kept).trans writes
  have wipe' : k.wipe = none := (calm_wipe kept).trans wipe
  have posts' : k.sq.posts = [] := by rw [sq]; exact posts
  have held' : k.sq.heldRecords = [] := by rw [sq]; exact held
  have room' : k.sq.queue.length + k.raised.length ≤ 64 := by rw [sq, calm_raised kept]; exact room
  have sched : (commit s (Machine.finish k)).hw.sched = k.sched := Run.finish_sched k
  have power := commit_finish_power s k
  refine ⟨commit s (Machine.finish k), by rw [he, runSched_once out idle, hk], ⟨?_, ?_, ?_, ?_, ?_, ?_, ?_, ?_⟩,
    Slots.calm_only ps s g k kept frame⟩
  · rw [sched, hk]
  · simp only [Sched.calm, sched]
    exact congrArg Hw.sched kept
  · simp only [Sched.calm, power]
    exact congrArg Hw.power kept
  · exact (Run.finish_causes k).trans (congrArg (fun h => h.health.causes) kept)
  · have counted : (commit s (Machine.finish k)).hw.health.cnt = (Machine.finish k).health.cnt := rfl
    rw [counted, Run.finish_cnt]
    exact congrArg (fun h => { h.health.cnt with eventsLost := 0 }) kept
  · intro none
    exact (commit_finish_raises s k writes' wipe' ((calm_records kept).trans none) posts' held' room').1
  · intro r one wr image
    exact commit_finishes s writes' wipe' ((calm_records kept).trans one) posts' held' room'
      ((calm_writesRecords kept).trans wr) ((calm_image kept).trans image)
  · intro r hr e event
    have raised : r ∈ k.raised := by rw [calm_raised kept]; exact hr
    have queue : (commit s (Machine.finish k)).hw.sq.queue = (Machine.finish k).sq.queue := rfl
    rw [queue]
    exact finish_queues posts' held' room' raised event

namespace RestLeaves

variable {s t : State} {g : Hw} {α : Type} (leaves : RestLeaves s g t)

include leaves

/-- What an effect has raised is reported. -/
theorem reports {st : Status} {d : Detail} (raises : Raises g st d) : Reports t st d := by
  obtain ⟨r, hr, e, he, rfl, rfl⟩ := raises
  obtain ⟨x, hx, status, detail, -⟩ := leaves.queues r hr e he
  exact ⟨x, hx, status, detail⟩

/-- A part of the scheduler's state that speaks neither of cores and their islands nor of the check under way. -/
theorem schedPart (part : Machine.Sched → α)
    (apart : ∀ x, part { x with cores := [], powering := none, powerNext := [], checking := none } = part x) :
    part t.hw.sched = part g.sched := by
  have e := congrArg part leaves.sched
  simp only [Sched.calm] at e
  rwa [apart, apart] at e

theorem graphs : t.hw.sched.graphs = g.sched.graphs := leaves.schedPart (fun x => x.graphs) fun _ => rfl

/-- A part of the power domain's state that does not speak of what waits for the rail. -/
theorem powerPart (part : Power → α) (apart : ∀ x, part { x with
    change := x.change.map Sched.keepChange, railChange := none, railNext := none, avs := [] } = part x) :
    part t.hw.power = part g.power := by
  have e := congrArg part leaves.power
  simp only [Sched.calm] at e
  rwa [apart, apart] at e

/-- A counter other than that of lost events. -/
theorem counterPart (part : Counters → α) (apart : ∀ c, part { c with eventsLost := 0 } = part c) :
    part t.hw.health.cnt = part g.health.cnt := by
  have e := congrArg part leaves.counters
  rwa [apart, apart] at e

end RestLeaves

/-- A command at rest whose effect ends in one completion writes that record, and leaves what the effect left. -/
theorem rest_finishes {c : Instr} {s : State} {f : Mems → Hw → Hw} {h : Hw} {r : Record} (he : exec c s = runSched f s)
    (out : f s.mem { s.hw with sent := [] } = complete r h) (idle : Sched.Idle h) (clear : Clear { h with raised := [] })
    (room : h.sq.queue.length + h.raised.length ≤ 64) (wr : h.writesRecords = true) (image : h.image = s.hw.image)
    (ps : List Portion) (frame : blank (reporting ++ resting ++ ps) h = blank (reporting ++ resting ++ ps) s.hw) :
    Answers c s fun t => RestLeaves s (complete r h) t ∧ Finishes s t r ∧ OnlyChanges (reporting ++ resting ++ ps) s t := by
  obtain ⟨writes, wipe, -, records, posts, held⟩ := clear
  obtain ⟨t, answer, leaves, only⟩ := rest_leaves he out idle ⟨writes, wipe, rfl, rfl, posts, held⟩ room ps frame
  have one : (complete r h).records = [r] := congrArg (· ++ [r]) records
  exact ⟨t, answer, leaves, leaves.finishes r one wr image, only⟩

/-- A slot that starts at rest leaves the scheduler nothing to do. -/
theorem begun_idle {s : State} (hs : AtRest s) (f : Fetched) : Sched.Idle (Slots.begun f s.hw) := by
  rw [Slots.begun_eq]
  exact idle_of_atRest hs

/-- A slot that starts at rest has nothing to carry out. -/
theorem begun_clear {s : State} (hs : AtRest s) (f : Fetched) : Clear (Slots.begun f s.hw) := by
  obtain ⟨writes, wipe, raised, records, posts, held⟩ := atRest_clear hs
  rw [Slots.begun_eq]
  exact ⟨writes, wipe, raised, records, posts, held⟩

theorem begun_image (f : Fetched) (h : Hw) : (Slots.begun f h).image = h.image := Slots.startSlot_image ..

theorem begun_writesRecords {s : State} {slot : Slot} {f : Fetched} (hs : AtRest s) (hf : Fetches s slot f) :
    (Slots.begun f s.hw).writesRecords = true := by
  rw [Slots.begun_eq]
  exact writesRecords_of_fetches hs hf

theorem begun_room {s : State} (hs : AtRest s) (f : Fetched) :
    (Slots.begun f s.hw).sq.queue.length + (Slots.begun f s.hw).raised.length ≤ 64 := by
  rw [(begun_clear hs f).raised, Slots.begun_eq]
  exact atRest_room hs

end Sys2Proof.Proofs

/-! PROOFS. A quota of zero, and the BUDGET slot (R287 to R289, R477). -/

namespace Sys2Proof.Proofs

open Sys2Proof Sys2Proof.Machine Sys2Proof.Laws

/-! ## A quota of zero (R477) -/

theorem quotaTest_zero {h : Hw} {cls : Nat} (zero : h.sched.quotas.getD cls 0 = 0) (e : Rat) :
    quotaTest h cls e = false := by
  simp only [quotaTest, zero, Nat.cast_zero, mul_zero, lt_self_iff_false, decide_false, Bool.false_and]

/-- Asking for islands leaves the quotas alone. -/
theorem wantPower_quotas (h : Hw) (cs : List Cand) : (wantPower h cs).sched.quotas = h.sched.quotas :=
  congrArg (fun k => k.sched.quotas) (Sched.keep_wantPower cs h)

/-- A class issues only a piece whose charge passes the quota test. -/
theorem classTurn_untested {m : Mems} {cls : Nat} {h : Hw}
    (fails : ∀ e, quotaTest (wantPower h (candidates h cls)) cls e = false) (h' : Hw) : classTurn m cls h ≠ .issued h' := by
  unfold classTurn
  dsimp only
  generalize wantPower h (candidates h cls) = k at fails
  cases firstPlaceable k (candidates h cls) with
  | none =>
    dsimp only
    split
    · split
      · exact nofun
      · exact nofun
    · exact nofun
  | some c =>
    simp only [fails, Bool.not_false, if_true]
    exact nofun

/-- Settles O22: the quota test asks for a quota above zero, and a class issues only what passes it. -/
theorem zeroQuotaAdmitsNothing : Obligations.ZeroQuotaAdmitsNothing := by
  unfold Obligations.ZeroQuotaAdmitsNothing
  intro m cls h zero
  refine ⟨quotaTest_zero zero, classTurn_untested (quotaTest_zero ?_)⟩
  rw [wantPower_quotas]
  exact zero

/-! ## BUDGET (R288, R289) -/

/-- A BUDGET slot names a class's quota. -/
abbrev namesQuota (f : Fetched) (c : Nat) : Bool := bit (wordAt f.words 4) c

/-- The quota that a BUDGET slot gives a class. -/
abbrev newQuota (f : Fetched) (c : Nat) : Nat := (newQuotas f.words).getD c 0

/-- The quotas in force once a BUDGET slot has passed. -/
def quotasAfter (f : Fetched) (h : Hw) : List Nat :=
  (List.range 4).map fun c => if namesQuota f c then newQuota f c else h.sched.quotas.getD c 0

/-- The hardware with other quotas in force. -/
def withQuotas (quotas : List Nat) (h : Hw) : Hw := { h with sched := { h.sched with quotas := quotas } }

theorem exec_budget (slot : Slot) (s : State) : exec (.budget slot) s =
    runSched (withSlotOf kindWords (isKind kBudget) slot fun _ f h => budgetSlot f h) s := rfl

/-- The words of R289 do not depend on what the start of a slot changes. -/
theorem budgetWords_begun (f : Fetched) (h : Hw) (quotas : List Nat) :
    budgetWords (withQuotas quotas (Slots.begun f h)) = budgetWords (withQuotas quotas h) := by
  rw [Slots.begun_eq]
  rfl

section Checks

variable {f : Fetched} {h : Hw}

/-- No class that the slot leaves out is given a quota (check 1 of R288). -/
theorem named_check (named : ∀ c < 4, namesQuota f c = false → newQuota f c = 0) :
    ((List.range 4).any fun c => !namesQuota f c && newQuota f c != 0) = false := by
  refine List.any_eq_false.2 fun c hc => ?_
  cases set : namesQuota f c with
  | false => simp only [named c (List.mem_range.1 hc) set, bne_self_eq_false, Bool.and_false, Bool.false_eq_true,
      not_false_eq_true]
  | true => simp only [Bool.not_true, Bool.false_and, Bool.false_eq_true, not_false_eq_true]

/-- No quota is above its class's limit (check 2 of R288). -/
theorem within_check {cfg : QuotasSec} (within : ∀ c < 4, namesQuota f c = true → newQuota f c ≤ cfg.max.getD c 0) :
    ((List.range 4).any fun c => namesQuota f c && decide (cfg.max.getD c 0 < newQuota f c)) = false := by
  refine List.any_eq_false.2 fun c hc => ?_
  cases set : namesQuota f c with
  | false => simp only [Bool.false_and, Bool.false_eq_true, not_false_eq_true]
  | true => simp only [Nat.not_lt.2 (within c (List.mem_range.1 hc) set), decide_false, Bool.and_false,
      Bool.false_eq_true, not_false_eq_true]

/-- A BUDGET slot that R288 refuses, with the words of R289. -/
abbrev budgetRefused (f : Fetched) (st : Status) (d : Detail) (h : Hw) : Hw := complete (f.record st d (budgetWords h)) h

theorem budgetSlot_invalid (invalid : h.image.quotas = none) :
    budgetSlot f h = budgetRefused f .refusedState .quotasInvalid h := by
  simp only [budgetSlot, invalid]

variable {cfg : QuotasSec} (valid : h.image.quotas = some cfg)

include valid

theorem budgetSlot_unnamed (unnamed : ∃ c < 4, namesQuota f c = false ∧ newQuota f c ≠ 0) :
    budgetSlot f h = budgetRefused f .refusedFormat .none h := by
  obtain ⟨c, small, unset, given⟩ := unnamed
  have check : ((List.range 4).any fun c => !namesQuota f c && newQuota f c != 0) = true :=
    List.any_eq_true.2 ⟨c, List.mem_range.2 small, by
      simp only [unset, Bool.not_false, Bool.true_and, bne_iff_ne, ne_eq, given, not_false_eq_true]⟩
  simp only [budgetSlot, valid, check, if_true]

variable (named : ∀ c < 4, namesQuota f c = false → newQuota f c = 0)

include named

theorem budgetSlot_above (above : ∃ c < 4, namesQuota f c = true ∧ cfg.max.getD c 0 < newQuota f c) :
    budgetSlot f h = budgetRefused f .refusedFormat .quotaMax h := by
  obtain ⟨c, small, set, exceeds⟩ := above
  have check : ((List.range 4).any fun c => namesQuota f c && decide (cfg.max.getD c 0 < newQuota f c)) = true :=
    List.any_eq_true.2 ⟨c, List.mem_range.2 small, by simp only [set, exceeds, decide_true, Bool.and_self]⟩
  simp only [budgetSlot, valid, named_check named, check, Bool.false_eq_true, if_false, if_true]

variable (within : ∀ c < 4, namesQuota f c = true → newQuota f c ≤ cfg.max.getD c 0)

include within

theorem budgetSlot_below (set : namesQuota f 0 = true) (below : newQuota f 0 < cfg.c0Floor) :
    budgetSlot f h = budgetRefused f .refusedBudget .none h := by
  simp only [budgetSlot, valid, named_check named, within_check within, set, below, decide_true,
    Bool.and_self, Bool.false_eq_true, if_false, if_true]

theorem budgetSlot_passes (floor : namesQuota f 0 = true → cfg.c0Floor ≤ newQuota f 0) : budgetSlot f h =
    doneWith f (budgetWords (withQuotas (quotasAfter f h) h)) (withQuotas (quotasAfter f h) h) := by
  have check : (namesQuota f 0 && decide (newQuota f 0 < cfg.c0Floor)) = false := by
    cases set : namesQuota f 0 with
    | false => rfl
    | true => simp only [Nat.not_lt.2 (floor set), decide_false, Bool.and_false]
  simp only [budgetSlot, valid, named_check named, within_check within, check, Bool.false_eq_true,
    if_false]
  rfl

end Checks

section Budget

variable {s : State} {slot : Slot} {f : Fetched} (ha : Accepts s slot f kBudget) (hs : AtRest s)

include ha hs

/-- A BUDGET slot that completes with quotas in force. -/
theorem budget_completes {r : Record} {quotas : List Nat}
    (out : budgetSlot f (Slots.begun f s.hw) = complete r (withQuotas quotas (Slots.begun f s.hw))) :
    Answers (.budget slot) s fun t => t.hw.sched.quotas = quotas ∧ Finishes s t r ∧
      OnlyChanges (reporting ++ resting ++ [Portion.slots]) s t := by
  have effect := (Slots.withSlotOf_accepts ha kindWords (isKind kBudget) (fun _ f h => budgetSlot f h)
    (by rw [isKind, ha.2.1]; rfl)).trans out
  have image := begun_image f s.hw
  have wr := begun_writesRecords hs ha.1
  have room := begun_room hs f
  have idle := begun_idle hs f
  obtain ⟨writes, wipe, -, records, posts, held⟩ := begun_clear hs f
  obtain ⟨t, answer, leaves, done, frame⟩ := rest_finishes (exec_budget slot s) effect idle
    ⟨writes, wipe, rfl, records, posts, held⟩ room wr image [.slots] (by rw [Slots.begun_eq]; rfl)
  exact ⟨t, answer, leaves.schedPart (fun x => x.quotas) fun _ => rfl, done, frame⟩

theorem budget_refused {st : Status} {d : Detail}
    (out : budgetSlot f (Slots.begun f s.hw) = budgetRefused f st d (Slots.begun f s.hw)) :
    Answers (.budget slot) s fun t =>
      t.hw.sched.quotas = s.hw.sched.quotas ∧ Finishes s t (f.record st d (budgetWords s.hw)) := by
  have words := budgetWords_begun f s.hw s.hw.sched.quotas
  have same : withQuotas s.hw.sched.quotas (Slots.begun f s.hw) = Slots.begun f s.hw := by rw [Slots.begun_eq]; rfl
  rw [same] at words
  obtain ⟨t, answer, quotas, done, -⟩ := budget_completes (quotas := s.hw.sched.quotas) ha hs (by rw [same]; exact out)
  exact ⟨t, answer, quotas, words ▸ done⟩

theorem budget_passes {quotas : List Nat} (after : quotas = quotasAfter f s.hw)
    (out : budgetSlot f (Slots.begun f s.hw) = doneWith f
      (budgetWords (withQuotas (quotasAfter f (Slots.begun f s.hw)) (Slots.begun f s.hw)))
      (withQuotas (quotasAfter f (Slots.begun f s.hw)) (Slots.begun f s.hw))) :
    Answers (.budget slot) s fun t => t.hw.sched.quotas = quotas ∧
      Finishes s t (f.record .done .none (budgetWords (withQuotas quotas s.hw))) ∧
      OnlyChanges (reporting ++ resting ++ [Portion.slots]) s t := by
  have same : quotasAfter f (Slots.begun f s.hw) = quotas := by rw [after, Slots.begun_eq]; rfl
  rw [same, budgetWords_begun] at out
  exact budget_completes ha hs out

end Budget

/-- Settles O10: a BUDGET slot at rest is its effect, which is R288's checks in their order. -/
theorem budgetSlotsReplaceQuotasOrAreRefused : Obligations.BudgetSlotsReplaceQuotasOrAreRefused := by
  unfold Obligations.BudgetSlotsReplaceQuotasOrAreRefused
  refine ⟨fun s slot f cfg ha valid hs => ?_, fun s slot f ha hs => ⟨fun invalid => ?_, fun cfg valid => ?_⟩⟩
  · intro set q named within floor quotas
    exact budget_passes ha hs rfl
      (budgetSlot_passes ((congrArg _ (begun_image f s.hw)).trans valid) named within floor)
  · exact budget_refused ha hs (budgetSlot_invalid ((congrArg _ (begun_image f s.hw)).trans invalid))
  · have valid' : (Slots.begun f s.hw).image.quotas = some cfg := (congrArg _ (begun_image f s.hw)).trans valid
    exact ⟨fun unnamed => budget_refused ha hs (budgetSlot_unnamed valid' unnamed), fun named =>
      ⟨fun above => budget_refused ha hs (budgetSlot_above valid' named above), fun within set below =>
        budget_refused ha hs (budgetSlot_below valid' named within set below)⟩⟩

end Sys2Proof.Proofs

/-! PROOFS. GRAPH slots, and the end of a graph's check (R282, R283, R302, R327, R389). -/

namespace Sys2Proof.Proofs

open Sys2Proof Sys2Proof.Machine Sys2Proof.Laws

/-! ## The graph whose check is next (R283) -/

theorem minBy_eq_none {α : Type} {key : α → List Int} {xs : List α} (none : minBy key xs = none) : xs = [] := by
  cases xs with
  | nil => rfl
  | cons x xs =>
    simp only [minBy] at none
    split at none
    · cases none
    · split at none
      · cases none
      · cases none

theorem mem_of_minBy {α : Type} {key : α → List Int} {xs : List α} {x : α} (least : minBy key xs = some x) : x ∈ xs := by
  induction xs generalizing x with
  | nil => cases least
  | cons y ys ih =>
    simp only [minBy] at least
    split at least
    · exact Option.some.inj least ▸ List.mem_cons_self ..
    next z hz =>
      split at least
      · exact Option.some.inj least ▸ List.mem_cons_self ..
      · exact Option.some.inj least ▸ List.mem_cons_of_mem y (ih hz)

/-- Where a graph waits, some graph is under check. -/
theorem pickCheck_checks {h : Hw} {g : Graph} (hg : g ∈ h.sched.graphs) (waits : g.resident = false) :
    ∃ x ∈ h.sched.graphs, (pickCheck h).sched.checking = some x.key := by
  have waiting : g ∈ h.sched.graphs.filter fun x => !x.resident :=
    List.mem_filter.2 ⟨hg, by rw [waits]; rfl⟩
  unfold pickCheck
  dsimp only
  split
  next none =>
    rw [minBy_eq_none none] at waiting
    exact nomatch waiting
  next x least =>
    have listed : x ∈ h.sched.graphs := (List.mem_filter.1 (mem_of_minBy least)).1
    split
    next k checking =>
      split
      next keeps =>
        obtain ⟨y, hy, same⟩ := List.any_eq_true.1 (Bool.and_eq_true_iff.1 keeps).1
        exact ⟨y, (List.mem_filter.1 hy).1, by rw [checking, beq_iff_eq.1 same]⟩
      · exact ⟨x, listed, rfl⟩
    · exact ⟨x, listed, rfl⟩

/-- Behind an effect at rest that leaves a graph to check, some graph is under check. -/
theorem schedule_checks {h : Hw} {g : Graph} (i : Sched.Idle h) (up : h.up = true) (hg : g ∈ h.sched.graphs) (m : Mems) :
    ∃ x ∈ (schedule m h).sched.graphs, (schedule m h).sched.checking = some x.key := by
  have graphs := calm_graphs (Sched.calm_schedule i m)
  rw [graphs]
  obtain ⟨k, hk, same⟩ : ∃ k, schedule m h = pickCheck k ∧ Sched.calm k = Sched.calm (pickCheck k) :=
    ⟨_, (schedule_idle i m).trans (if_pos up), (Sched.calm_pickCheck _).symm⟩
  have graphs' : k.sched.graphs = h.sched.graphs := (calm_graphs same).trans (hk ▸ graphs)
  rw [hk, ← graphs']
  exact pickCheck_checks (graphs' ▸ hg) (i.1 g hg).1

/-! ## A GRAPH slot (R283, R389) -/

theorem exec_graph (slot : Slot) (s : State) : exec (.graph slot) s =
    runSched (withSlotOf kindWords (isKind kGraph) slot graphSlot) s := rfl

/-- The graph that a GRAPH slot brings. -/
def arrivedGraph (f : Fetched) (cls : Nat) (h : Hw) : Graph :=
  { key := f.pos % 1024, pos := f.pos, owner := f.master, tag := f.tag, hdrAddr := addrAt f.words 4, start := h.power.time
    startEl := h.power.elapsed, rankCls := cls, arrival := h.sched.arrivals }

/-- The graph waits; reading its class may have counted a refused transfer. -/
def graphWaiting (f : Fetched) (cls : Nat) (health : Health) (h : Hw) : Hw :=
  { h with
    health := health
    sched := { h.sched with
      arrivals := h.sched.arrivals + 1, graphs := h.sched.graphs ++ [arrivedGraph f cls h] } }

theorem graphSlot_waits {h : Hw} (cold : h.power.tripped = false) (m : Mems) (f : Fetched) :
    ∃ cls health, graphSlot m f h = graphWaiting f cls health h := by
  obtain ⟨cls, health, read⟩ := rankRead_eq m f.master (addrAt f.words 4) h
  refine ⟨cls, health, ?_⟩
  simp only [graphSlot, cold, Bool.false_eq_true, if_false, read]
  rfl

theorem graphSlot_tripped {h : Hw} (hot : h.power.tripped = true) (m : Mems) (f : Fetched) : graphSlot m f h =
    complete (f.record .refusedState .thermalTrip (refusedGraphWords h.power.time none false 0 h)) h := by
  simp only [graphSlot, hot, if_true]

section Slot

variable {s : State} {slot : Slot} {f : Fetched} (ha : Accepts s slot f kGraph) (hs : AtRest s)

include ha

theorem graph_effect : withSlotOf kindWords (isKind kGraph) slot graphSlot s.mem { s.hw with sent := [] } =
    graphSlot s.mem f (Slots.begun f s.hw) :=
  Slots.withSlotOf_accepts ha _ _ _ (by rw [isKind, ha.2.1]; rfl)

include hs

omit ha in
theorem graphWaiting_idle (cls : Nat) (health : Health) :
    Sched.Idle (graphWaiting f cls health (Slots.begun f s.hw)) := by
  obtain ⟨graphs, notices, ended, streams⟩ := begun_idle hs f
  refine ⟨fun g hg => ?_, notices, ended, streams⟩
  rcases List.mem_append.1 hg with old | new
  · exact graphs g old
  · obtain rfl := List.mem_singleton.1 new
    exact ⟨rfl, rfl⟩

/-- Outside a thermal trip the graph waits for its check. -/
theorem graph_waits (cold : s.hw.power.tripped = false) : Answers (.graph slot) s fun t =>
    (∃ g, t.hw.sched.graphs = s.hw.sched.graphs ++ [g] ∧ Waits g ∧ g.key = f.pos % 1024 ∧ g.pos = f.pos ∧
      g.owner = f.master ∧ g.tag = wordAt f.words 1 ∧ g.hdrAddr = addrAt f.words 4 ∧ g.start = s.hw.power.time ∧
      g.arrival = s.hw.sched.arrivals) ∧
    (∃ g ∈ t.hw.sched.graphs, t.hw.sched.checking = some g.key) ∧ t.mem = s.mem ∧
    OnlyChanges (reporting ++ resting ++ [Portion.slots, Portion.health]) s t := by
  have cold' : (Slots.begun f s.hw).power.tripped = false := by rw [Slots.begun_eq]; exact cold
  obtain ⟨cls, health, waits⟩ := graphSlot_waits cold' s.mem f
  have idle := graphWaiting_idle (f := f) hs cls health
  obtain ⟨writes, wipe, -, records, posts, held⟩ := begun_clear hs f
  obtain ⟨t, answer, leaves, frame⟩ := rest_leaves (exec_graph slot s) ((graph_effect ha).trans waits) idle
    ⟨writes, wipe, rfl, rfl, posts, held⟩ (begun_room hs f) [.slots, .health] (by rw [Slots.begun_eq]; rfl)
  have before : (graphWaiting f cls health (Slots.begun f s.hw)).sched.graphs =
      s.hw.sched.graphs ++ [arrivedGraph f cls s.hw] := by rw [Slots.begun_eq]; rfl
  refine ⟨t, answer, ⟨arrivedGraph f cls s.hw, leaves.graphs.trans before, ⟨rfl, rfl, rfl⟩, rfl, rfl,
    rfl, rfl, rfl, rfl, rfl⟩, ?_, leaves.mem records, frame⟩
  rw [leaves.ran]
  exact schedule_checks idle (up_begun ha.1) (before ▸ List.mem_append_right _ (List.mem_singleton_self _)) s.mem

/-- In a thermal trip the slot is refused. -/
theorem graph_tripped (hot : s.hw.power.tripped = true) : Answers (.graph slot) s fun t =>
    t.hw.sched.graphs = s.hw.sched.graphs ∧
    Finishes s t (f.record .refusedState .thermalTrip (refusedGraphWords s.hw.power.time none false 0 s.hw)) := by
  have hot' : (Slots.begun f s.hw).power.tripped = true := by rw [Slots.begun_eq]; exact hot
  have words : refusedGraphWords (Slots.begun f s.hw).power.time none false 0 (Slots.begun f s.hw) =
      refusedGraphWords s.hw.power.time none false 0 s.hw := by rw [Slots.begun_eq]; rfl
  have out := (graph_effect ha).trans (graphSlot_tripped hot' s.mem f)
  rw [words] at out
  obtain ⟨writes, wipe, -, records, posts, held⟩ := begun_clear hs f
  obtain ⟨t, answer, leaves, done, -⟩ := rest_finishes (exec_graph slot s) out (begun_idle hs f)
    ⟨writes, wipe, rfl, records, posts, held⟩ (begun_room hs f) (begun_writesRecords hs ha.1) (begun_image f s.hw) [.slots]
    (by rw [Slots.begun_eq]; rfl)
  exact ⟨t, answer, leaves.graphs.trans (graphs_begun f s.hw), done⟩

end Slot

/-! ## The check of a graph ends (R282) -/

theorem exec_graphCheck (fixed : Nat) (s : State) :
    exec (.graphCheck fixed) s = runSched (fun m h => graphCheckEffect m fixed h) s := rfl

/-- No graph is under check. -/
def unchecked (h : Hw) : Hw := { h with sched := { h.sched with checking := none } }

/-- A graph has left. -/
def graphGone (key : Nat) (h : Hw) : Hw :=
  { h with sched := { h.sched with graphs := h.sched.graphs.filter fun x => x.key != key } }

/-- A refused graph's slot completes with the words of R302. -/
def endRefused (e : GraphFault) (g : Graph) (h : Hw) : Hw :=
  completeOwned g.pos e.status e.detail
    (refusedGraphWords g.start e.index e.cached (lateUs h { g with hdr := e.hdr }) h) h

/-- What the checks of R282 say of a graph of a slot. -/
abbrev checkOf (m : Mems) (g : Graph) (h : Hw) : Except GraphFault GraphPass :=
  checkGraph m (unchecked h) g.hdrAddr g.owner false none

section Check

variable {m : Mems} {h : Hw} {k : Nat} {g : Graph} (fixed : Nat) (checking : h.sched.checking = some k)
  (found : graphOf h k = some g)

include checking found

theorem graphCheck_waits (waits : checkWaits m h g.owner g.hdrAddr = true) : graphCheckEffect m fixed h = h := by
  simp only [graphCheckEffect, checking, Option.bind_some, found, waits, if_true]

variable (slotted : g.key < 1024) (ready : checkWaits m h g.owner g.hdrAddr = false)

include slotted ready

theorem graphCheck_passes {p : GraphPass} (checked : checkOf m g (corrected .dram fixed h) = .ok p) :
    graphCheckEffect m fixed h = makeResident (usableCores (corrected .dram fixed h)) p g
      (unchecked (corrected .dram fixed h)) := by
  have own : decide (1024 ≤ g.key) = false := decide_eq_false (Nat.not_le.2 slotted)
  simp only [checkOf, unchecked] at checked
  simp only [graphCheckEffect, checking, Option.bind_some, found, ready, own, Bool.false_eq_true, if_false, checked]
  rfl

theorem graphCheck_refuses {e : GraphFault} (checked : checkOf m g (corrected .dram fixed h) = .error e) :
    graphCheckEffect m fixed h =
      endRefused e g (noteGraphFault e (graphGone g.key (unchecked (corrected .dram fixed h)))) := by
  have own : decide (1024 ≤ g.key) = false := decide_eq_false (Nat.not_le.2 slotted)
  simp only [checkOf, unchecked] at checked
  simp only [graphCheckEffect, checking, Option.bind_some, found, ready, own, Bool.false_eq_true, if_false, checked]
  rfl

end Check

/-! ### A check that passes (R283) -/

theorem pass_of_bind {ε α β : Type} {x : Except ε α} {f : α → Except ε β} {b : β} (ok : (x >>= f) = .ok b) :
    ∃ a, x = .ok a ∧ f a = .ok b := by
  cases x with
  | error e => cases ok
  | ok a => exact ⟨a, rfl, ok⟩

/-- A check without a check record is a full one, or the cache served it. -/
theorem checkGraph_notes {m : Mems} {h : Hw} {a owner : Nat} {cascade : Bool} {p : GraphPass}
    (checked : checkGraph m h a owner cascade none = .ok p) : (p.cached || p.full) = true := by
  unfold checkGraph at checked
  split at checked
  rotate_left
  · cases checked
  obtain ⟨q, -, checked⟩ := pass_of_bind checked
  obtain ⟨_, -, checked⟩ := pass_of_bind checked
  obtain ⟨hb, -, checked⟩ := pass_of_bind checked
  obtain ⟨tb, -, checked⟩ := pass_of_bind checked
  obtain ⟨rb, -, checked⟩ := pass_of_bind checked
  obtain ⟨_, -, checked⟩ := pass_of_bind checked
  cases checked
  dsimp only
  generalize List.any _ _ = cached
  cases cached with
  | true => rfl
  | false => rfl

/-! ### A check that refuses (R302, R316, R328) -/

/-- A frame goes out or is held: the ring alone changes. -/
theorem originate_eq (side : Side) (f : Frame) (h : Hw) : ∃ ring sent,
    originate side f h = { h with ring := ring, sent := sent } := by
  simp only [originate, sendFrame]
  split
  · exact ⟨_, _, rfl⟩
  · split
    · cases side with
      | east => exact ⟨_, _, rfl⟩
      | west => exact ⟨_, _, rfl⟩
    · cases side with
      | east => exact ⟨_, _, rfl⟩
      | west => exact ⟨_, _, rfl⟩

theorem requestCopy_eq (h : Hw) : ∃ ring sent, requestCopy h = { h with ring := ring, sent := sent } := by
  unfold requestCopy
  split
  · split
    · exact ⟨_, _, rfl⟩
    · obtain ⟨ring, sent, e⟩ := originate_eq .east _ _
      exact ⟨ring, sent, e⟩
  · exact ⟨_, _, rfl⟩

theorem meetError_eq (a : Nat) (h : Hw) : ∃ health ring sent raised,
    meetError a h = { h with health := health, ring := ring, sent := sent, raised := raised } ∧
      raised.length ≤ h.raised.length + 1 := by
  have few : (uncorrected (memoryAt a) a h).raised.length ≤ h.raised.length + 1 :=
    Nat.le_of_eq (List.length_append ..)
  simp only [meetError]
  split
  · obtain ⟨ring, sent, e⟩ := requestCopy_eq (uncorrected (memoryAt a) a h)
    exact ⟨_, ring, sent, _, e, few⟩
  · exact ⟨_, _, _, _, rfl, few⟩

/-- What a failed read of a graph's tables reports changes Health, and the ring where it asks for a copy. -/
theorem noteGraphFault_eq (e : GraphFault) (h : Hw) : ∃ health ring sent raised,
    noteGraphFault e h = { h with health := health, ring := ring, sent := sent, raised := raised } ∧
      raised.length ≤ h.raised.length + 1 := by
  obtain ⟨status, detail, index, hdr, cached, ecc, refused⟩ := e
  cases ecc with
  | none =>
    cases refused with
    | none => exact ⟨_, _, _, _, rfl, Nat.le_succ _⟩
    | some r => exact ⟨_, _, _, _, rfl, Nat.le_succ _⟩
  | some a =>
    obtain ⟨health, ring, sent, raised, met, few⟩ := meetError_eq a h
    simp only [noteGraphFault, met]
    cases refused with
    | none => exact ⟨_, _, _, _, rfl, few⟩
    | some r => exact ⟨_, _, _, _, rfl, few⟩

/-- What a refused check leaves of the hardware: its graph is gone, and what it reports is in Health and in the ring. -/
def checkRefused (key : Nat) (health : Health) (ring : RingIf) (sent : List (Side × Frame)) (raised : List Raised) (h : Hw) :
    Hw :=
  { graphGone key (unchecked h) with health := health, ring := ring, sent := sent, raised := raised }

/-- The words of a refused graph speak of the clocks alone. -/
theorem endRefused_owned {e : GraphFault} {g : Graph} {h k : Hw} {o : Owned} (same : h.power = k.power)
    (owned : h.sq.owned.find? (fun x => x.pos == g.pos) = some o) : endRefused e g h = complete
      { pos := g.pos, kind := o.kind, status := e.status, tag := o.tag, detail := e.detail
        result := refusedGraphWords g.start e.index e.cached (lateUs k { g with hdr := e.hdr }) k } h := by
  rw [endRefused, completeOwned_owned owned]
  simp only [refusedGraphWords, lateUs, same]

theorem refusal_eq (e : GraphFault) (fixed key : Nat) (h : Hw) : ∃ health ring sent raised,
    noteGraphFault e (graphGone key (unchecked (corrected .dram fixed h))) =
      checkRefused key health ring sent raised h ∧ raised.length ≤ h.raised.length + 2 := by
  obtain ⟨_, _, _, _, _, fixes, one⟩ := corrected_eq .dram fixed h
  obtain ⟨health, ring, sent, raised, noted, few⟩ :=
    noteGraphFault_eq e (graphGone key (unchecked (corrected .dram fixed h)))
  have before : (graphGone key (unchecked (corrected .dram fixed h))).raised = (corrected .dram fixed h).raised := rfl
  rw [before, fixes] at few
  refine ⟨health, ring, sent, raised, ?_, few.trans (Nat.succ_le_succ one)⟩
  rw [noted, fixes]
  rfl

section Ends

variable {s : State} {k : Nat} {g : Graph} {fixed : Nat} (checking : s.hw.sched.checking = some k)
  (found : graphOf s.hw k = some g)

include checking found

/-- Behind a closed window the check waits. -/
theorem graphCheck_answers_waits (waits : checkWaits s.mem s.hw g.owner g.hdrAddr = true) (hs : AtRest s) :
    Answers (.graphCheck fixed) s fun t =>
      t.hw.sched.graphs = s.hw.sched.graphs ∧ t.mem = s.mem ∧ OnlyChanges (reporting ++ resting) s t := by
  have out := graphCheck_waits (m := s.mem) (h := { s.hw with sent := [] }) fixed checking found waits
  obtain ⟨writes, wipe, raised, records, posts, held⟩ := atRest_clear hs
  have room : s.hw.sq.queue.length + s.hw.raised.length ≤ 64 := by
    have before : s.hw.raised = [] := raised
    rw [before]
    exact atRest_room hs
  obtain ⟨t, answer, leaves, frame⟩ := rest_leaves (exec_graphCheck fixed s) out (idle_of_atRest hs)
    ⟨writes, wipe, rfl, rfl, posts, held⟩ room [] rfl
  exact ⟨t, answer, leaves.graphs, leaves.mem records, frame⟩

variable (slotted : g.key < 1024) (ready : checkWaits s.mem s.hw g.owner g.hdrAddr = false)

include slotted ready

/-- A graph that passes is admitted, and the cache takes note. -/
theorem graphCheck_answers_passes {p : GraphPass}
    (checked : checkOf s.mem g (corrected .dram fixed { s.hw with sent := [] }) = .ok p) (noExc : NoExcursion s) :
    Answers (.graphCheck fixed) s fun t =>
      t.hw.sched.admissions = s.hw.sched.admissions + 1 ∧
      t.hw.sched.cache = ((g.hdrAddr, p.crc) :: s.hw.sched.cache.filter fun e => e.1 != g.hdrAddr).take 16 ∧
      OnlyChanges (reporting ++ scheduling) s t := by
  have out := graphCheck_passes (m := s.mem) (h := { s.hw with sent := [] }) fixed checking found slotted ready checked
  have notes := checkGraph_notes checked
  obtain ⟨_, _, _, _, _, fixes, -⟩ := corrected_eq .dram fixed { s.hw with sent := [] }
  obtain ⟨x, hx⟩ : ∃ x, x = makeResident (usableCores (corrected .dram fixed { s.hw with sent := [] })) p g
      (unchecked (corrected .dram fixed { s.hw with sent := [] })) := ⟨_, rfl⟩
  rw [← hx] at out
  rw [makeResident, notes, if_pos rfl, fixes] at hx
  obtain ⟨j, kept, answer⟩ := Slots.runSched_keep (fun m h => graphCheckEffect m fixed h) s x out
    (by rw [hx]; exact noExc.1) (by rw [hx]; exact noExc.2)
  have sched : (Sched.keep j).sched = (Sched.keep x).sched := congrArg Hw.sched kept
  have after : (commit s (Machine.finish j)).hw.sched = j.sched := Run.finish_sched j
  refine ⟨_, (exec_graphCheck fixed s).trans answer, ?_, ?_, Slots.sched_only [] s x j kept (by rw [hx]; rfl)⟩
  · rw [after]
    exact (congrArg Sched.admissions sched).trans (by rw [hx]; rfl)
  · rw [after]
    exact (congrArg Sched.cache sched).trans (by rw [hx]; rfl)

/-- A graph that is refused completes with the check's code, leaves, and leaves the cache alone. -/
theorem graphCheck_answers_refused {e : GraphFault} {o : Owned}
    (checked : checkOf s.mem g (corrected .dram fixed { s.hw with sent := [] }) = .error e) (hs : AtRest s)
    (wr : s.hw.writesRecords = true) (owned : s.hw.sq.owned.find? (fun x => x.pos == g.pos) = some o) :
    Answers (.graphCheck fixed) s fun t =>
      t.hw.sched.graphs = s.hw.sched.graphs.filter (fun x => x.key != g.key) ∧
      t.hw.sched.admissions = s.hw.sched.admissions ∧ t.hw.sched.cache = s.hw.sched.cache ∧
      Finishes s t { pos := g.pos, kind := o.kind, status := e.status, tag := o.tag, detail := e.detail
                     result := refusedGraphWords g.start e.index e.cached (lateUs s.hw { g with hdr := e.hdr }) s.hw } ∧
      OnlyChanges (reporting ++ resting ++ [Portion.health, Portion.ring]) s t := by
  have out := graphCheck_refuses (m := s.mem) (h := { s.hw with sent := [] }) fixed checking found slotted ready checked
  obtain ⟨health, ring, sent, raised, noted, few⟩ := refusal_eq e fixed g.key { s.hw with sent := [] }
  rw [noted, endRefused_owned (h := checkRefused g.key health ring sent raised { s.hw with sent := [] }) (k := s.hw) rfl
    owned] at out
  obtain ⟨writes, wipe, noRaised, records, posts, held⟩ := atRest_clear hs
  obtain ⟨graphs, notices, ended, streams⟩ := idle_of_atRest hs
  have room : s.hw.sq.queue.length + raised.length ≤ 64 := by
    have waiting : s.hw.sq.queue.length ≤ 32 := hs.2
    rw [noRaised, List.length_nil] at few
    omega
  have idle : Sched.Idle (checkRefused g.key health ring sent raised { s.hw with sent := [] }) :=
    ⟨fun y hy => graphs y (List.mem_filter.1 hy).1, notices, ended, streams⟩
  have frame : blank (reporting ++ resting ++ [Portion.health, Portion.ring])
      (checkRefused g.key health ring sent raised { s.hw with sent := [] }) =
        blank (reporting ++ resting ++ [Portion.health, Portion.ring]) s.hw := rfl
  obtain ⟨t, answer, leaves, done, only⟩ := rest_finishes (exec_graphCheck fixed s) out idle
    ⟨writes, wipe, rfl, records, posts, held⟩ room wr rfl [.health, .ring] frame
  exact ⟨t, answer, leaves.graphs, leaves.schedPart (fun x => x.admissions) fun _ => rfl,
    leaves.schedPart (fun x => x.cache) fun _ => rfl, done, only⟩

end Ends

/-- Settles O11: a GRAPH slot waits or is refused, and the check of a graph waits, admits it or refuses it. -/
theorem graphSlotsWaitAndAreChecked : Obligations.GraphSlotsWaitAndAreChecked := by
  unfold Obligations.GraphSlotsWaitAndAreChecked
  refine ⟨fun s slot f ha hs => ⟨graph_waits ha hs, graph_tripped ha hs⟩, ?_⟩
  intro s k g fixed checking found slotted noExc h checked waits
  exact ⟨fun p ready passes => graphCheck_answers_passes checking found slotted ready passes noExc,
    fun e o ready fails hs wr owned => graphCheck_answers_refused checking found slotted ready fails hs wr owned,
    fun closed hs => graphCheck_answers_waits checking found closed hs⟩

end Sys2Proof.Proofs

/-! PROOFS. Account slots and their temperatures, the ends of the thermal holds, and a trip's drain (R290, R292, R293, R387,
R389). -/

namespace Sys2Proof.Proofs

open Sys2Proof Sys2Proof.Machine Sys2Proof.Laws

/-! ## An account slot begins (R290, R292) -/

theorem exec_accountSlot (temps : List Int) (s : State) :
    exec (.accountSlot temps) s = runSched (fun _ h => accountEffect temps h) s := rfl

/-- The hardware once an account slot has begun with new readings. -/
def slotOpened (temps : List Int) (t : Int) (time el : Nat) (h : Hw) : Hw :=
  { atClocks time el h with sched := { h.sched with
      account := ({} :: h.sched.account).take 32
      temps := temps
      below125 := coolSince (atClocks time el h) 125 t h.sched.below125
      below110 := coolSince (atClocks time el h) 110 t h.sched.below110 } }

/-- Device time at which the next account slot begins. -/
def nextSlotTime (h : Hw) : Nat := (h.power.time / 768 + 1) * 768

theorem accountEffect_opens {temps : List Int} {t : Int} {n : Nat} {h : Hw} (up : h.up = true)
    (on : h.board.aonOn = true) (hottest : tMax temps = some (t, n)) (fits : h.power.time + 768 < 2 ^ 64) :
    ∃ el, accountEffect temps h = thermalGuard t n (crossings t n (slotOpened temps t (nextSlotTime h) el h)) := by
  have ahead : h.power.time ≤ nextSlotTime h := by unfold nextSlotTime; omega
  have near : nextSlotTime h < 2 ^ 64 := by unfold nextSlotTime; omega
  obtain ⟨time, el, passed, due⟩ := passToTime_clocks (nextSlotTime h) h
  rw [due on ahead near] at passed
  refine ⟨el, ?_⟩
  have passed' : passToTime ((h.power.time / 768 + 1) * 768) h = atClocks (nextSlotTime h) el h := passed
  simp only [accountEffect, up, if_true, passed', hottest]
  rfl

/-! ## The crossings of a reading (R293) -/

/-- What crossings change: on which side of T_THR and T_STOP the reading is, and the events. -/
def crossed (thr stop : Bool) (rs : List Raised) (h : Hw) : Hw :=
  { h with sched := { h.sched with aboveThr := thr, aboveStop := stop }, raised := h.raised ++ rs }

/-- The EVENT_THERMAL of a crossing. -/
def thermalRaised (crossing n : Nat) (t : Int) : Raised :=
  { event := some { status := .eventThermal, detail := .none, result := [w32 (crossing + 4 * n), w32 (patternOf 16 t)] } }

/-- A crossing that is met sets the sides and raises its event. -/
def meetCrossing (met : Bool) (crossing n : Nat) (t : Int) (thr stop : Bool) (h : Hw) : Hw :=
  if met then thermalEvent crossing n t { h with sched := { h.sched with aboveThr := thr, aboveStop := stop } } else h

theorem meetCrossing_eq (met : Bool) (crossing n : Nat) (t : Int) (thr stop : Bool) (h : Hw) :
    meetCrossing met crossing n t thr stop h = crossed (if met then thr else h.sched.aboveThr)
      (if met then stop else h.sched.aboveStop) (if met then [thermalRaised crossing n t] else []) h := by
  cases met with
  | true => rfl
  | false =>
    have nothing : h.raised ++ [] = h.raised := List.append_nil _
    simp only [meetCrossing, crossed, Bool.false_eq_true, if_false, nothing]

/-- The crossings of a temperature that falls. -/
def crossDown (q : QuotasSec) (t : Int) (n : Nat) (h : Hw) : Hw :=
  let k := meetCrossing (h.sched.aboveStop && decide (t ≤ 16 * (q.tStop : Int) - 32)) 3 n t h.sched.aboveThr false h
  meetCrossing (k.sched.aboveThr && decide (t ≤ 16 * (q.tThr : Int) - 32)) 1 n t false k.sched.aboveStop k

/-- The crossings of a temperature that rises. -/
def crossUp (q : QuotasSec) (t : Int) (n : Nat) (h : Hw) : Hw :=
  let k := meetCrossing (!h.sched.aboveThr && decide (16 * (q.tThr : Int) < t)) 0 n t true h.sched.aboveStop h
  meetCrossing (!k.sched.aboveStop && decide (16 * (q.tStop : Int) ≤ t)) 2 n t k.sched.aboveThr true k

theorem crossings_eq {h : Hw} {q : QuotasSec} (image : h.image.quotas = some q) (t : Int) (n : Nat) :
    crossings t n h = crossUp q t n (crossDown q t n h) := by
  simp only [crossings, image]
  rfl

theorem crossed_crossed (a b c d : Bool) (rs qs : List Raised) (h : Hw) :
    crossed a b rs (crossed c d qs h) = crossed a b (qs ++ rs) h := by
  simp only [crossed, List.append_assoc]

/-- At most one event for a crossing. -/
theorem length_met (met : Bool) (r : Raised) : (if met then [r] else []).length ≤ 1 := by
  cases met with
  | true => exact Nat.le_refl _
  | false => exact Nat.zero_le _

/-- A falling temperature below T_THR stays below. -/
theorem crossDown_eq (q : QuotasSec) (t : Int) (n : Nat) (h : Hw) : ∃ thr stop rs, crossDown q t n h = crossed thr stop rs h ∧
    rs.length ≤ 2 ∧ (h.sched.aboveThr = false → thr = false) := by
  unfold crossDown
  dsimp only
  rw [meetCrossing_eq, meetCrossing_eq, crossed_crossed]
  refine ⟨_, _, _, rfl, ?_, fun below => ?_⟩
  · rw [List.length_append]
    exact Nat.add_le_add (length_met ..) (length_met ..)
  · simp only [crossed, below, ite_self]

/-- A rising temperature crosses T_THR where it is above it. -/
theorem crossUp_eq (q : QuotasSec) (t : Int) (n : Nat) (h : Hw) : ∃ thr stop rs, crossUp q t n h = crossed thr stop rs h ∧
    rs.length ≤ 2 ∧ (h.sched.aboveThr = false → (16 * (q.tThr : Int) < t → thr = true ∧ thermalRaised 0 n t ∈ rs) ∧
      (t ≤ 16 * (q.tThr : Int) → thr = false)) := by
  unfold crossUp
  dsimp only
  rw [meetCrossing_eq, meetCrossing_eq, crossed_crossed]
  refine ⟨_, _, _, rfl, ?_, fun below => ⟨fun above => ?_, fun not => ?_⟩⟩
  · rw [List.length_append]
    exact Nat.add_le_add (length_met ..) (length_met ..)
  · simp only [crossed, below, above, decide_true, Bool.not_false, Bool.and_self, if_true, ite_self, true_and]
    exact List.mem_append_left _ (List.mem_singleton_self _)
  · simp only [crossed, below, Int.not_lt.2 not, decide_false, Bool.and_false, Bool.false_eq_true, if_false, ite_self]

/-- What the crossings of a reading leave. -/
theorem crossings_crossed (t : Int) (n : Nat) (h : Hw) : ∃ thr stop rs, crossings t n h = crossed thr stop rs h ∧
    rs.length ≤ 4 ∧ ∀ q, h.image.quotas = some q → h.sched.aboveThr = false →
      (16 * (q.tThr : Int) < t → thr = true ∧ thermalRaised 0 n t ∈ rs) ∧ (t ≤ 16 * (q.tThr : Int) → thr = false) := by
  cases image : h.image.quotas with
  | none =>
    refine ⟨h.sched.aboveThr, h.sched.aboveStop, [], ?_, Nat.zero_le _, nofun⟩
    simp only [crossings, image, crossed, List.append_nil]
  | some q =>
    obtain ⟨thr, stop, rs, down, few, stays⟩ := crossDown_eq q t n h
    obtain ⟨thr', stop', rs', up, few', turns⟩ := crossUp_eq q t n (crossed thr stop rs h)
    refine ⟨thr', stop', rs ++ rs', ?_, ?_, fun q' same below => ?_⟩
    · rw [crossings_eq image, down, up, crossed_crossed]
    · rw [List.length_append]
      omega
    · cases same
      obtain ⟨above, not⟩ := turns (stays below)
      exact ⟨fun hot => ⟨(above hot).1, List.mem_append_right _ (above hot).2⟩, not⟩

/-! ## The clock hold (R389) -/

/-- Slots in a row whose reading was at 130 °C or more. -/
def hotCount (t : Int) (h : Hw) : Nat := if 130 * 16 ≤ t then h.sched.hotSlots + 1 else 0

/-- The reading is judged for the clock hold. -/
def clockJudged (t : Int) (n : Nat) (h : Hw) : Hw :=
  let k := bump (fun c => { c with tmaxPeak := max c.tmaxPeak t }) h
  let k := { k with sched := { k.sched with hotSlots := hotCount t h } }
  if 2 ≤ hotCount t h && !k.power.hotClock then
    raiseHealth .thermalClock n 8 (patternOf 32 t) 0
      (bump (fun c => { c with thermalClocks := satAdd 32 c.thermalClocks 1 })
        { k with power := { k.power with hotClock := true } })
  else k

/-- What the judgement changes. -/
def clockLeft (t : Int) (hot : Bool) (clocks : Nat) (rs : List Raised) (h : Hw) : Hw :=
  { h with
    sched := { h.sched with hotSlots := hotCount t h }
    power := { h.power with hotClock := hot }
    health := { h.health with cnt := { h.health.cnt with
      tmaxPeak := max h.health.cnt.tmaxPeak t, thermalClocks := clocks } }
    raised := h.raised ++ rs }

/-- Among what is raised is the THERMAL_CLOCK. -/
def RaisesClock (rs : List Raised) : Prop :=
  ∃ r ∈ rs, ∃ e, r.event = some e ∧ e.status = .eventHealth ∧ e.detail = .thermalClock

theorem clockJudged_eq (t : Int) (n : Nat) (h : Hw) : ∃ hot clocks rs, clockJudged t n h = clockLeft t hot clocks rs h ∧
    rs.length ≤ 1 ∧ (t < 130 * 16 → hot = h.power.hotClock) ∧
    (130 * 16 ≤ t → 1 ≤ h.sched.hotSlots → h.power.hotClock = false → hot = true ∧ RaisesClock rs ∧
      clocks = min (h.health.cnt.thermalClocks + 1) (2 ^ 32 - 1)) := by
  unfold clockJudged
  dsimp only
  split
  next holds =>
    simp only [bump_power, Bool.and_eq_true, decide_eq_true_eq, Bool.not_eq_true'] at holds
    refine ⟨_, _, _, rfl, Nat.le_refl _, fun cool => ?_, fun _ _ _ => ⟨rfl, ?_, rfl⟩⟩
    · have none : hotCount t h = 0 := if_neg (Int.not_le.2 cool)
      omega
    · exact ⟨_, List.mem_singleton_self _, _, rfl, rfl, rfl⟩
  next free =>
    refine ⟨h.power.hotClock, h.health.cnt.thermalClocks, [], ?_, Nat.zero_le _, fun _ => rfl, fun hot again cold => ?_⟩
    · simp only [clockLeft, List.append_nil]
      rfl
    · have twice : hotCount t h = h.sched.hotSlots + 1 := if_pos hot
      exact absurd (by simp only [bump_power, cold, twice, Bool.not_false, Bool.and_true, decide_eq_true_eq]; omega) free

/-! ## The trip (R387, R389) -/

theorem thermalGuard_eq (t : Int) (n : Nat) (h : Hw) : thermalGuard t n h =
    if decide (140 * 16 ≤ t) && !(clockJudged t n h).power.tripped then tripEffect (clockJudged t n h)
    else clockJudged t n h := by
  unfold thermalGuard clockJudged hotCount
  by_cases hot : 130 * 16 ≤ t
  · simp only [hot, decide_true, if_true]
    rfl
  · simp only [hot, decide_false, Bool.false_eq_true, if_false]

/-- Every graph waits for its check. -/
def AllWait (h : Hw) : Prop := ∀ g ∈ h.sched.graphs, Waits g

/-- A change of a graph leaves every graph waiting where it leaves a waiting one so. -/
theorem modGraph_waits {h : Hw} (waits : AllWait h) (key : Nat) {f : Graph → Graph} (keeps : ∀ g, Waits g → Waits (f g)) :
    ∃ gs, modGraph key f h = { h with sched := { h.sched with graphs := gs } } ∧ ∀ g ∈ gs, Waits g := by
  refine ⟨_, rfl, fun x hx => ?_⟩
  obtain ⟨g, hg, rfl⟩ := List.mem_map.1 hx
  split
  · exact keeps g (waits g hg)
  · exact waits g hg

/-- A graph that waits has no task to change. -/
theorem modTask_waits {h : Hw} (waits : AllWait h) (key t : Nat) (f : Task → Task) :
    ∃ gs, modTask key t f h = { h with sched := { h.sched with graphs := gs } } ∧ ∀ g ∈ gs, Waits g := by
  refine modGraph_waits waits key fun g hg => ?_
  obtain ⟨resident, hiRail, tasks⟩ := hg
  exact ⟨resident, hiRail, by rw [tasks]; cases t <;> rfl⟩

/-- Where every graph waits, a task that fails has nothing at work. -/
theorem failTask_waits {h : Hw} (waits : AllWait h) (key t : Nat) (st : Status) (d : Detail) :
    ∃ gs, failTask key t st d h = { h with sched := { h.sched with graphs := gs } } ∧ ∀ g ∈ gs, Waits g := by
  unfold failTask
  cases found : graphOf h key with
  | none => exact ⟨_, rfl, waits⟩
  | some g =>
    obtain ⟨-, -, tasks⟩ : Waits g := waits g (List.mem_of_find?_eq_some found)
    obtain ⟨gs, failed, waits'⟩ := modTask_waits waits key t fun x => { x with st := .failed }
    simp only [tasks, List.getD_nil, reduceCtorEq, or_self, false_and, if_false, List.length_nil, List.range_zero,
      List.foldl_nil, failed]
    exact modGraph_waits (h := { h with sched := { h.sched with graphs := gs } }) waits' key fun g hg => hg

/-- The pieces that a trip abandons are of no graph that waits. -/
theorem abandon_waits (rs : List PieceRef) {h : Hw} (waits : AllWait h) :
    ∃ gs, rs.foldl (fun h r => failTask r.graph r.task .failDomainOff .thermalTrip (modPiece r (fun _ => .done none 0) h)) h =
      { h with sched := { h.sched with graphs := gs } } ∧ ∀ g ∈ gs, Waits g := by
  induction rs generalizing h with
  | nil => exact ⟨_, rfl, waits⟩
  | cons r rs ih =>
    obtain ⟨gs, done, waits'⟩ := modTask_waits waits r.graph r.task
      fun x => { x with pieces := modifyAt r.piece (fun _ => .done none 0) x.pieces }
    obtain ⟨gs', failed, waits''⟩ := failTask_waits (h := { h with sched := { h.sched with graphs := gs } }) waits' r.graph
      r.task .failDomainOff .thermalTrip
    rw [List.foldl_cons, modPiece, done, failed]
    exact ih (h := { h with sched := { h.sched with graphs := gs' } }) waits''

/-- A core whose piece is abandoned. -/
def stopCore (x : Core) : Core := { x with run := none, ws := 0, replays := 0 }

/-- The array has tripped: its cores stop and its drain begins. -/
def arrayTripped (gs : List Graph) (h : Hw) : Hw :=
  { h with
    sched := { h.sched with graphs := gs, cores := h.sched.cores.map stopCore, powering := none, powerNext := [] }
    power := { h.power with tripped := true, arrayDrain := true }
    health := { h.health with
      causes := setBit h.health.causes causeTrip true
      cnt := { h.health.cnt with thermalTrips := satAdd 32 h.health.cnt.thermalTrips 1 } } }

theorem tripEffect_eq {h : Hw} (waits : AllWait h) :
    ∃ gs, tripEffect h = arrayTripped gs h ∧ ∀ g ∈ gs, Waits g := by
  obtain ⟨gs, abandoned, waits'⟩ := abandon_waits (runningPieces h) waits
  refine ⟨gs, ?_, waits'⟩
  unfold tripEffect
  rw [abandoned]
  rfl

/-- All but what a trip changes, other fields made constant. -/
def untripped (h : Hw) : Hw :=
  { h with
    sched := { h.sched with graphs := [], cores := [], powering := none, powerNext := [] }
    power := { h.power with tripped := false, arrayDrain := false }
    health := { h.health with causes := 0, cnt := { h.health.cnt with thermalTrips := 0 } } }

/-- What the judgement of a reading for the trip leaves. -/
structure TripJudged (t : Int) (h g : Hw) : Prop where
  same : untripped g = untripped h
  waits : AllWait g
  trips : 140 * 16 ≤ t → h.power.tripped = false → g.power.tripped = true ∧ g.power.arrayDrain = true ∧
    bitOf g.health.causes causeTrip = true ∧
    g.health.cnt.thermalTrips = min (h.health.cnt.thermalTrips + 1) (2 ^ 32 - 1)
  stays : t < 140 * 16 → g.power.tripped = h.power.tripped

theorem thermalGuard_judges (t : Int) (n : Nat) {h : Hw} (waits : AllWait h) :
    TripJudged t (clockJudged t n h) (thermalGuard t n h) := by
  have waits' : AllWait (clockJudged t n h) := by
    obtain ⟨hot, clocks, rs, judged, -⟩ := clockJudged_eq t n h
    rw [judged]
    exact waits
  rw [thermalGuard_eq]
  split
  next trips =>
    simp only [Bool.and_eq_true, decide_eq_true_eq] at trips
    obtain ⟨gs, tripped, waiting⟩ := tripEffect_eq waits'
    rw [tripped]
    exact ⟨rfl, waiting, fun _ _ => ⟨rfl, rfl, Sched.bitOf_setBit .., rfl⟩, fun cool => absurd trips.1 (Int.not_le.2 cool)⟩
  next stays =>
    refine ⟨rfl, waits', fun hot cold => ?_, fun _ => rfl⟩
    simp only [hot, cold, decide_true, Bool.not_false, Bool.and_self, not_true_eq_false] at stays

/-! ## What an effect on readings, holds and cores leaves at rest -/

theorem waits_of_atRest {s : State} (hs : AtRest s) : AllWait s.hw := hs.1.2.2.1

theorem raised_of_atRest {s : State} (hs : AtRest s) : s.hw.raised.length ≤ 32 := by
  rw [(atRest_clear hs).raised]
  exact Nat.zero_le _

/-- All but power, health, what is raised and the scheduler's state, of which the notices and what has ended. -/
def settled (h : Hw) : Hw :=
  { h with sched := { notices := h.sched.notices, ended := h.sched.ended }, power := {}, health := {}, raised := [] }

/-- An effect on graphs that wait, cores, power and health leaves at rest what it has set. -/
theorem settled_leaves {c : Instr} {s : State} {f : Mems → Hw → Hw} {g : Hw} (he : exec c s = runSched f s) (hs : AtRest s)
    (out : f s.mem { s.hw with sent := [] } = g) (waits : AllWait g) (few : g.raised.length ≤ 32)
    (rest : settled g = settled { s.hw with sent := [] }) (ps : List Portion)
    (frame : blank (reporting ++ resting ++ ps) g = blank (reporting ++ resting ++ ps) s.hw) :
    Answers c s fun t => RestLeaves s g t ∧ t.mem = s.mem ∧ OnlyChanges (reporting ++ resting ++ ps) s t := by
  have same {α : Type} (part : Hw → α) (apart : ∀ x, part (settled x) = part x) : part g = part { s.hw with sent := [] } := by
    rw [← apart g, rest, apart]
  obtain ⟨-, notices, ended, streams⟩ := idle_of_atRest hs
  obtain ⟨writes, wipe, -, records, posts, held⟩ := atRest_clear hs
  have sq : g.sq = s.hw.sq := same (fun h => h.sq) fun _ => rfl
  have noRecords : g.records = [] := (same (fun h => h.records) fun _ => rfl).trans records
  have idle : Sched.Idle g := by
    refine ⟨fun x hx => ⟨(waits x hx).1, (waits x hx).2.1⟩, ?_, ?_, ?_⟩
    · exact (same (fun h => h.sched.notices) fun _ => rfl).trans notices
    · exact (same (fun h => h.sched.ended) fun _ => rfl).trans ended
    · rw [same (fun h => h.streams) fun _ => rfl]
      exact streams
  have clear : Clear { g with raised := [], records := [] } := by
    refine ⟨?_, ?_, rfl, rfl, ?_, ?_⟩
    · exact (same (fun h => h.writes) fun _ => rfl).trans writes
    · exact (same (fun h => h.wipe) fun _ => rfl).trans wipe
    · exact (congrArg (fun q => q.posts) sq).trans posts
    · exact (congrArg (fun q => q.heldRecords) sq).trans held
  have room : g.sq.queue.length + g.raised.length ≤ 64 := by
    have queue : s.hw.sq.queue.length ≤ 32 := hs.2
    rw [sq]
    omega
  obtain ⟨t, answer, leaves, only⟩ := rest_leaves he out idle clear room ps frame
  exact ⟨t, answer, leaves, leaves.mem noRecords, only⟩

/-! ## The account slot at rest -/

/-- The hardware once the crossings and the clock hold of an account slot have been judged. -/
def slotJudged (temps : List Int) (t : Int) (time el : Nat) (thr stop hot : Bool) (clocks : Nat) (rs qs : List Raised)
    (h : Hw) : Hw :=
  clockLeft t hot clocks qs (crossed thr stop rs (slotOpened temps t time el h))

/-- What an account slot judges of a reading. -/
structure SlotJudges (t : Int) (n : Nat) (thr hot : Bool) (clocks : Nat) (rs qs : List Raised) (h : Hw) : Prop where
  few : rs.length ≤ 4
  one : qs.length ≤ 1
  crosses : ∀ q, h.image.quotas = some q → h.sched.aboveThr = false →
    (16 * (q.tThr : Int) < t → thr = true ∧ thermalRaised 0 n t ∈ rs) ∧ (t ≤ 16 * (q.tThr : Int) → thr = false)
  cool : t < 130 * 16 → hot = h.power.hotClock
  holds : 130 * 16 ≤ t → 1 ≤ h.sched.hotSlots → h.power.hotClock = false → hot = true ∧ RaisesClock qs ∧
    clocks = min (h.health.cnt.thermalClocks + 1) (2 ^ 32 - 1)

theorem accountEffect_judges {temps : List Int} {t : Int} {n : Nat} {h : Hw} (up : h.up = true)
    (on : h.board.aonOn = true) (hottest : tMax temps = some (t, n)) (fits : h.power.time + 768 < 2 ^ 64)
    (waits : AllWait h) : ∃ time el thr stop hot clocks rs qs, time = nextSlotTime h ∧ SlotJudges t n thr hot clocks rs qs h ∧
      TripJudged t (slotJudged temps t time el thr stop hot clocks rs qs h) (accountEffect temps h) := by
  obtain ⟨el, opens⟩ := accountEffect_opens up on hottest fits
  obtain ⟨thr, stop, rs, crosses, few, sides⟩ := crossings_crossed t n (slotOpened temps t (nextSlotTime h) el h)
  obtain ⟨hot, clocks, qs, judged, one, cool, holds⟩ :=
    clockJudged_eq t n (crossed thr stop rs (slotOpened temps t (nextSlotTime h) el h))
  refine ⟨_, el, thr, stop, hot, clocks, rs, qs, rfl, ⟨few, one, sides, cool, holds⟩, ?_⟩
  rw [opens, crosses, slotJudged, ← judged]
  exact thermalGuard_judges t n waits

/-- What lies outside a trip's reach is the same behind it. -/
theorem TripJudged.keeps {t : Int} {h g : Hw} {α : Type} (judged : TripJudged t h g) (part : Hw → α)
    (apart : ∀ x, part (untripped x) = part x) : part g = part h := by
  rw [← apart g, judged.same, apart]

/-- All but what the judgement of an account slot changes, other fields made constant. -/
def unjudged (h : Hw) : Hw :=
  { h with
    sched := { h.sched with
      account := [], temps := [], below125 := none, below110 := none, aboveThr := false, aboveStop := false, hotSlots := 0 }
    power := { h.power with time := 0, elapsed := 0, hotClock := false }
    health := { h.health with cnt := { h.health.cnt with tmaxPeak := 0, thermalClocks := 0 } }
    raised := [] }

section Judged

variable {temps : List Int} {t : Int} {time el : Nat} {thr stop hot : Bool} {clocks : Nat} {rs qs : List Raised} {h g : Hw}

theorem unjudged_slotJudged : unjudged (slotJudged temps t time el thr stop hot clocks rs qs h) = unjudged h := by
  simp only [unjudged, slotJudged, clockLeft, crossed, slotOpened, atClocks]

theorem slotJudged_raised :
    (slotJudged temps t time el thr stop hot clocks rs qs h).raised = h.raised ++ (rs ++ qs) := by
  simp only [slotJudged, clockLeft, crossed, slotOpened, atClocks, List.append_assoc]

/-- What lies outside the reach of an account slot is the same behind it. -/
theorem TripJudged.keepsSlot {α : Type} (judged : TripJudged t (slotJudged temps t time el thr stop hot clocks rs qs h) g)
    (part : Hw → α) (trip : ∀ x, part (untripped x) = part x) (slot : ∀ x, part (unjudged x) = part x) : part g = part h := by
  rw [judged.keeps part trip, ← slot, unjudged_slotJudged, slot]

end Judged

section Slot

variable {s : State} {temps : List Int} {tm : Int} {n : Nat} (up : s.hw.up = true) (on : s.hw.board.aonOn = true)
  (hs : AtRest s) (hottest : tMax temps = some (tm, n)) (fits : s.hw.power.time + 768 < 2 ^ 64)

include up on hs hottest fits

/-- An account slot at rest leaves what it has judged. -/
theorem accountSlot_leaves : Answers (.accountSlot temps) s fun t => ∃ time el thr stop hot clocks rs qs g,
    time = nextSlotTime s.hw ∧ SlotJudges tm n thr hot clocks rs qs s.hw ∧
      TripJudged tm (slotJudged temps tm time el thr stop hot clocks rs qs { s.hw with sent := [] }) g ∧ RestLeaves s g t ∧
      g.raised = rs ++ qs ∧ t.mem = s.mem ∧ OnlyChanges (reporting ++ resting ++ [Portion.health]) s t := by
  obtain ⟨time, el, thr, stop, hot, clocks, rs, qs, due, ⟨few, one, crosses, cool, holds⟩, judged⟩ :=
    accountEffect_judges (h := { s.hw with sent := [] }) up on hottest fits (waits_of_atRest hs)
  generalize out : accountEffect temps { s.hw with sent := [] } = g at judged
  have raised : g.raised = rs ++ qs := by
    have before : s.hw.raised = [] := (atRest_clear hs).raised
    rw [judged.keeps (fun h => h.raised) fun _ => rfl, slotJudged_raised, before, List.nil_append]
  have few' : g.raised.length ≤ 32 := by
    rw [raised, List.length_append]
    omega
  have frame : blank (reporting ++ resting ++ [Portion.health]) g = blank (reporting ++ resting ++ [Portion.health]) s.hw :=
    judged.keepsSlot (blank (reporting ++ resting ++ [Portion.health])) (fun _ => rfl) fun _ => rfl
  obtain ⟨t, answer, leaves, mem, only⟩ := settled_leaves (exec_accountSlot temps s) hs out judged.waits few'
    (judged.keepsSlot settled (fun _ => rfl) fun _ => rfl) [.health] frame
  exact ⟨t, answer, time, el, thr, stop, hot, clocks, rs, qs, g, due, ⟨few, one, crosses, cool, holds⟩, judged, leaves, raised,
    mem, only⟩

theorem accountSlot_judges : Answers (.accountSlot temps) s fun t =>
    t.hw.sched.temps = temps ∧ t.hw.sched.account = ({} :: s.hw.sched.account).take 32 ∧
    t.hw.power.time = (s.hw.power.time / 768 + 1) * 768 ∧ t.hw.health.cnt.tmaxPeak = max s.hw.health.cnt.tmaxPeak tm ∧
    t.mem = s.mem ∧ OnlyChanges (reporting ++ resting ++ [Portion.health]) s t ∧
    (tm < 130 * 16 → t.hw.sched.hotSlots = 0 ∧ t.hw.power.hotClock = s.hw.power.hotClock) ∧
    (130 * 16 ≤ tm → t.hw.sched.hotSlots = s.hw.sched.hotSlots + 1) ∧
    (130 * 16 ≤ tm → 1 ≤ s.hw.sched.hotSlots → s.hw.power.hotClock = false →
      t.hw.power.hotClock = true ∧ Reports t .eventHealth .thermalClock ∧
      t.hw.health.cnt.thermalClocks = min (s.hw.health.cnt.thermalClocks + 1) (2 ^ 32 - 1)) ∧
    (140 * 16 ≤ tm → s.hw.power.tripped = false → t.hw.power.tripped = true ∧ t.hw.power.arrayDrain = true ∧
      bitOf t.hw.health.causes causeTrip = true ∧
      t.hw.health.cnt.thermalTrips = min (s.hw.health.cnt.thermalTrips + 1) (2 ^ 32 - 1)) ∧
    (tm < 140 * 16 → t.hw.power.tripped = s.hw.power.tripped) ∧
    ∀ q, s.hw.image.quotas = some q →
      (s.hw.sched.aboveThr = false → 16 * (q.tThr : Int) < tm →
        t.hw.sched.aboveThr = true ∧ ∃ x ∈ t.hw.sq.queue, x.status = .eventThermal ∧
          x.result = [w32 (4 * n), w32 (patternOf 16 tm)]) ∧
      (s.hw.sched.aboveThr = false → tm ≤ 16 * (q.tThr : Int) → t.hw.sched.aboveThr = false) := by
  obtain ⟨t, answer, time, el, thr, stop, hot, clocks, rs, qs, g, due, judges, trip, leaves, raised, mem, only⟩ :=
    accountSlot_leaves up on hs hottest fits
  have slots : t.hw.sched.hotSlots = hotCount tm s.hw :=
    (leaves.schedPart (fun x => x.hotSlots) fun _ => rfl).trans (trip.keeps (fun h => h.sched.hotSlots) fun _ => rfl)
  have clock : t.hw.power.hotClock = hot :=
    (leaves.powerPart (fun x => x.hotClock) fun _ => rfl).trans (trip.keeps (fun h => h.power.hotClock) fun _ => rfl)
  have above : t.hw.sched.aboveThr = thr :=
    (leaves.schedPart (fun x => x.aboveThr) fun _ => rfl).trans (trip.keeps (fun h => h.sched.aboveThr) fun _ => rfl)
  have tripped : t.hw.power.tripped = g.power.tripped := leaves.powerPart (fun x => x.tripped) fun _ => rfl
  refine ⟨t, answer, ?_, ?_, ?_, ?_, mem, only, fun cool => ⟨slots.trans (if_neg (Int.not_le.2 cool)),
    clock.trans (judges.cool cool)⟩, fun high => slots.trans (if_pos high), fun high again cold => ?_, fun trips cold => ?_,
    fun cool => tripped.trans (trip.stays cool), fun q image => ⟨fun below hotter => ?_, fun below cooler => ?_⟩⟩
  · exact (leaves.schedPart (fun x => x.temps) fun _ => rfl).trans (trip.keeps (fun h => h.sched.temps) fun _ => rfl)
  · exact (leaves.schedPart (fun x => x.account) fun _ => rfl).trans (trip.keeps (fun h => h.sched.account) fun _ => rfl)
  · exact (leaves.powerPart (fun x => x.time) fun _ => rfl).trans ((trip.keeps (fun h => h.power.time) fun _ => rfl).trans due)
  · exact (leaves.counterPart (fun c => c.tmaxPeak) fun _ => rfl).trans
      (trip.keeps (fun h => h.health.cnt.tmaxPeak) fun _ => rfl)
  · obtain ⟨holds, ⟨r, hr, event⟩, clocks⟩ := judges.holds high again cold
    have count : t.hw.health.cnt.thermalClocks = _ := (leaves.counterPart (fun c => c.thermalClocks) fun _ => rfl).trans
      (trip.keeps (fun h => h.health.cnt.thermalClocks) fun _ => rfl)
    exact ⟨clock.trans holds, leaves.reports ⟨r, raised ▸ List.mem_append_right _ hr, event⟩, count.trans clocks⟩
  · obtain ⟨now, drains, cause, count⟩ := trip.trips trips cold
    exact ⟨tripped.trans now, (leaves.powerPart (fun x => x.arrayDrain) fun _ => rfl).trans drains,
      (congrArg (bitOf · causeTrip) leaves.causes).trans cause,
      (leaves.counterPart (fun c => c.thermalTrips) fun _ => rfl).trans count⟩
  · obtain ⟨turns, listed⟩ := (judges.crosses q image below).1 hotter
    obtain ⟨x, hx, status, -, whole⟩ := leaves.queues _ (raised ▸ List.mem_append_left _ listed) _ rfl
    refine ⟨above.trans turns, x, hx, status, ?_⟩
    rw [whole rfl, Nat.zero_add]
  · exact above.trans ((judges.crosses q image below).2 cooler)

end Slot


/-! ## The ends of the thermal holds and of a trip's drain (R387, R389) -/

/-- Time that passes up to an instant brings elapsed time there if it is not past it (R382). -/
theorem passUntil_max {h : Hw} (on : h.board.aonOn = true) (due : Nat) :
    passUntil due h = atClocks ((h.power.time + (due - h.power.elapsed)) % 2 ^ 64) (max h.power.elapsed due) h := by
  have there : h.power.elapsed + (due - h.power.elapsed) = max h.power.elapsed due := by omega
  simp only [passUntil, Machine.pass, on, if_true, there, atClocks]

theorem exec_thermalClockEnd (s : State) : exec .thermalClockEnd s = runSched (fun _ h => clockEndEffect h) s := rfl

theorem exec_thermalTripEnd (s : State) : exec .thermalTripEnd s = runSched (fun _ h => tripEndEffect h) s := rfl

theorem clockEndEffect_ends {h : Hw} {since : Nat} (on : h.board.aonOn = true) (cool : h.sched.below125 = some since)
    (hot : h.power.hotClock = true) : clockEndEffect h = { h with power := { h.power with
      time := (h.power.time + (since + msTicks 1 - h.power.elapsed)) % 2 ^ 64
      elapsed := max h.power.elapsed (since + msTicks 1), hotClock := false } } := by
  simp only [clockEndEffect, cool, hot, if_true, passUntil_max on, atClocks]

theorem clockEndEffect_stays {h : Hw} (stays : h.sched.below125 = none ∨ h.power.hotClock = false) : clockEndEffect h = h := by
  unfold clockEndEffect
  obtain warm | cold := stays
  · rw [warm]
  · cases h.sched.below125 with
    | none => rfl
    | some since => exact if_neg (Bool.eq_false_iff.1 cold)

theorem tripEndEffect_ends {h : Hw} {since : Nat} (on : h.board.aonOn = true) (cool : h.sched.below110 = some since)
    (tripped : h.power.tripped = true) : tripEndEffect h = { h with
      power := { h.power with
        time := (h.power.time + (since + msTicks 10 - h.power.elapsed)) % 2 ^ 64
        elapsed := max h.power.elapsed (since + msTicks 10), tripped := false }
      health := { h.health with causes := setBit h.health.causes causeTrip false } } := by
  simp only [tripEndEffect, cool, tripped, if_true, passUntil_max on, atClocks, clearCause]

theorem tripEndEffect_stays {h : Hw} (stays : h.sched.below110 = none ∨ h.power.tripped = false) : tripEndEffect h = h := by
  unfold tripEndEffect
  obtain warm | cold := stays
  · rw [warm]
  · cases h.sched.below110 with
    | none => rfl
    | some since => exact if_neg (Bool.eq_false_iff.1 cold)

/-- A core that has lost its island. -/
def coreOff (c : Core) : Core :=
  { c with powered := false, clockOff := false, run := none, tiles := [], ws := 0, copying := false }

/-- The hardware once the array's drain has taken every island. -/
def arrayOff (h : Hw) : Hw :=
  { h with
    sched := { h.sched with cores := h.sched.cores.map coreOff, powering := none, powerNext := [] }
    power := { h.power with arrayDrain := false } }

/-- A stream without state or copy in the array is not touched by its loss. -/
theorem arrayDownStream_outside {i : Nat} {h : Hw} (outside : (streamOf h i).inCs = false ∧ (streamOf h i).st ≠ .swapInBusy) :
    arrayDownStream i h = h := by
  obtain ⟨home, free⟩ := outside
  refine if_pos (.inr ?_)
  rw [home, beq_eq_false_iff_ne.2 free]
  rfl

theorem drainEffect_array {h : Hw} (entry : h.power.entry = none) (sense : h.power.senseDrain = none)
    (drains : h.power.arrayDrain = true) (outside : ∀ x ∈ h.streams, x.inCs = false ∧ x.st ≠ .swapInBusy) :
    drainEffect h = arrayOff h := by
  have streams : (List.range h.streams.length).foldl (fun h i => arrayDownStream i h) h = h :=
    Sched.foldl_same _ _ h fun i => arrayDownStream_outside (forall_streamOf outside ⟨rfl, by decide⟩ i)
  have down : drainEffect h = arrayDown h := by
    simp only [drainEffect, entry, sense, drainEffect.others, drains, if_true]
  rw [down, arrayDown]
  simp only [streams]
  rfl

/-- A core has no island, no tiles and no work. -/
def IsOff (c : Core) : Prop := c.powered = false ∧ c.tiles = [] ∧ c.run = none

theorem gateRetired_off {h : Hw} (off : ∀ c ∈ h.sched.cores, IsOff c) : ∀ c ∈ (gateRetired h).sched.cores, IsOff c := by
  intro c hc
  obtain ⟨i, hi, rfl⟩ := List.mem_mapIdx.1 hc
  obtain ⟨power, tiles, run⟩ := off _ (List.getElem_mem hi)
  dsimp only
  split
  · split
    · exact ⟨rfl, tiles, run⟩
    · exact ⟨power, tiles, run⟩
  · split
    · exact ⟨rfl, tiles, run⟩
    · exact ⟨power, tiles, run⟩

/-- In a trip no probe starts. -/
theorem startProbes_tripped {h : Hw} (tripped : h.power.tripped = true) (o : Bool) : startProbes o h = h := by
  refine if_neg ?_
  simp only [probesRun, tripped, Bool.not_true, Bool.and_false, Bool.false_and, Bool.false_eq_true, not_false_eq_true]

/-- An idle run of the scheduler in a trip powers no core. -/
theorem schedule_off {h : Hw} (i : Sched.Idle h) (m : Mems) (tripped : h.power.tripped = true)
    (off : ∀ c ∈ h.sched.cores, IsOff c) : ∀ c ∈ (schedule m h).sched.cores, IsOff c := by
  rw [schedule_idle i, startProbes_tripped tripped, startProbes_tripped tripped]
  split
  · rw [(pickCheck_islands _).2]
    exact gateRetired_off (by rw [railTurn_sched]; exact off)
  · exact off

section Ends

variable {s : State} (hs : AtRest s)

include hs

theorem thermalClock_ends (on : s.hw.board.aonOn = true) {since : Nat} (cool : s.hw.sched.below125 = some since)
    (hot : s.hw.power.hotClock = true) : Answers .thermalClockEnd s fun t =>
      t.hw.power.hotClock = false ∧ t.hw.power.elapsed = max s.hw.power.elapsed (since + msTicks 1) ∧
      t.mem = s.mem ∧ OnlyChanges (reporting ++ resting) s t := by
  obtain ⟨t, answer, leaves, mem, only⟩ := settled_leaves (exec_thermalClockEnd s) hs
    (clockEndEffect_ends (h := { s.hw with sent := [] }) on cool hot)
    (waits_of_atRest hs) (raised_of_atRest hs) rfl [] rfl
  exact ⟨t, answer, leaves.powerPart (fun x => x.hotClock) fun _ => rfl, leaves.powerPart (fun x => x.elapsed) fun _ => rfl,
    mem, only⟩

theorem thermalClock_stays (stays : s.hw.sched.below125 = none ∨ s.hw.power.hotClock = false) :
    Answers .thermalClockEnd s fun t =>
      t.hw.power.hotClock = s.hw.power.hotClock ∧ t.hw.power.elapsed = s.hw.power.elapsed := by
  obtain ⟨t, answer, leaves, -⟩ := settled_leaves (exec_thermalClockEnd s) hs
    (clockEndEffect_stays (h := { s.hw with sent := [] }) stays) (waits_of_atRest hs) (raised_of_atRest hs) rfl [] rfl
  exact ⟨t, answer, leaves.powerPart (fun x => x.hotClock) fun _ => rfl, leaves.powerPart (fun x => x.elapsed) fun _ => rfl⟩

theorem thermalTrip_ends (on : s.hw.board.aonOn = true) {since : Nat} (cool : s.hw.sched.below110 = some since)
    (tripped : s.hw.power.tripped = true) : Answers .thermalTripEnd s fun t =>
      t.hw.power.tripped = false ∧ t.hw.power.elapsed = max s.hw.power.elapsed (since + msTicks 10) ∧
      t.hw.health.causes = setBit s.hw.health.causes causeTrip false ∧ t.mem = s.mem ∧
      OnlyChanges (reporting ++ resting ++ [Portion.health]) s t := by
  obtain ⟨t, answer, leaves, mem, only⟩ := settled_leaves (exec_thermalTripEnd s) hs
    (tripEndEffect_ends (h := { s.hw with sent := [] }) on cool tripped)
    (waits_of_atRest hs) (raised_of_atRest hs) rfl [.health] rfl
  exact ⟨t, answer, leaves.powerPart (fun x => x.tripped) fun _ => rfl, leaves.powerPart (fun x => x.elapsed) fun _ => rfl,
    leaves.causes, mem, only⟩

theorem thermalTrip_stays (stays : s.hw.sched.below110 = none ∨ s.hw.power.tripped = false) :
    Answers .thermalTripEnd s fun t =>
      t.hw.power.tripped = s.hw.power.tripped ∧ t.hw.health.causes = s.hw.health.causes := by
  obtain ⟨t, answer, leaves, -⟩ := settled_leaves (exec_thermalTripEnd s) hs
    (tripEndEffect_stays (h := { s.hw with sent := [] }) stays) (waits_of_atRest hs) (raised_of_atRest hs) rfl [] rfl
  exact ⟨t, answer, leaves.powerPart (fun x => x.tripped) fun _ => rfl, leaves.causes⟩

theorem tripDrain_ends (sense : s.hw.power.senseDrain = none) (drains : s.hw.power.arrayDrain = true)
    (tripped : s.hw.power.tripped = true) (outside : ∀ x ∈ s.hw.streams, x.inCs = false ∧ x.st ≠ .swapInBusy) :
    Answers .domainDrainEnd s fun t =>
      t.hw.power.arrayDrain = false ∧ (∀ c ∈ t.hw.sched.cores, c.powered = false ∧ c.tiles = [] ∧ c.run = none) ∧
      t.mem = s.mem ∧ OnlyChanges (reporting ++ resting) s t := by
  obtain ⟨t, answer, leaves, mem, only⟩ := settled_leaves (exec_domainDrainEnd s) hs
    (drainEffect_array (h := { s.hw with sent := [] }) (atRest_noEntry hs) sense drains outside)
    (waits_of_atRest hs) (raised_of_atRest hs) rfl [] rfl
  refine ⟨t, answer, leaves.powerPart (fun x => x.arrayDrain) fun _ => rfl, ?_, mem, only⟩
  have idle : Sched.Idle (arrayOff { s.hw with sent := [] }) := idle_of_atRest hs
  rw [leaves.ran]
  refine schedule_off idle s.mem tripped fun c hc => ?_
  obtain ⟨x, -, rfl⟩ := List.mem_map.1 hc
  exact ⟨rfl, rfl, rfl⟩

end Ends

/-- Settles O25: a slot's crossings, clock hold and trip are judged in turn, and at rest the scheduler adds nothing to what
they, the ends of the holds and the drain leave. -/
theorem accountSlotsJudgeTemperatures : Obligations.AccountSlotsJudgeTemperatures := by
  unfold Obligations.AccountSlotsJudgeTemperatures
  refine ⟨fun s temps tm n up on hs hottest fits => accountSlot_judges up on hs hottest fits, fun s hs on => ?_⟩
  exact ⟨fun since cool hot => thermalClock_ends hs on cool hot, fun stays => thermalClock_stays hs stays,
    fun since cool tripped => thermalTrip_ends hs on cool tripped, fun stays => thermalTrip_stays hs stays,
    fun sense drains tripped outside => tripDrain_ends hs sense drains tripped outside⟩

end Sys2Proof.Proofs
